-- ==== Sys2Proof/Word.lean ====
section
/-! DEFINITION. The word types of the port protocol: a byte, and the index ranges of 00 Table 0-3. -/

namespace Sys2Proof

/-- One byte of a frame (10 Table 10-1). -/
abbrev Byte := BitVec 8

/-- Axes 0 to 15 (00 Table 0-3). -/
abbrev AxisId := Fin 16
/-- Ephemeris channels 0 to 11. -/
abbrev ChannelId := Fin 12
/-- Axis groups G0 to G7. -/
abbrev GroupId := Fin 8
/-- Epoch marks 0 to 3. -/
abbrev MarkId := Fin 4
/-- Event links 0 to 23. -/
abbrev LinkId := Fin 24
/-- Cue programs 0 to 15. -/
abbrev ProgramId := Fin 16
/-- Trigger inputs TRIG0 to TRIG3. -/
abbrev TrigId := Fin 4
/-- Cue outputs CUEOUT0 to CUEOUT3. -/
abbrev OutputId := Fin 4

end Sys2Proof
end

