-- ==== Sys2Proof/Syntax.lean ====
section
/-! DEFINITION. The commands of the part: one constructor of `Instr` per row of spec/opcode_table.json. A request carries
the port it comes from, the tag of its frame and its fields AS THE FRAME ENCODES THEM (10 R193, R201): epochs are signed
counts of 1/1024 sky-s, rates signed counts of 1/256, enumerated values the byte that encodes them, so that a malformed
value can be sent and refused (log 13). An event carries what its line or block supplies. -/

namespace Sys2Proof

/-- The three ports, and the runner behind each (00 Table 0-3). -/
inductive Port where
  | A | B | C
deriving DecidableEq, Repr

/-- Table 10-5: a segment as it arrives. -/
structure RawSegment where
  start : Int
  span : Nat
  a0 : Nat
  a1 : Int
  flag : Nat
  a2 : Int
deriving DecidableEq, Repr

/-- Table 10-11: an axis record as it arrives, fields in record order. -/
structure RawRecord where
  kind : Nat
  stepsPerTurn : Nat
  softPresence : Nat
  softMin : Int
  softMax : Int
  velocity : Nat
  acceleration : Nat
  haltDecel : Nat
  stopDecel : Nat
  lagLimit : Nat
  settleTolerance : Nat
  homeMethod : Nat
  homeDirection : Nat
  homeSpeed : Nat
  homeEdge : Nat
  homeFilter : Nat
  homeOffset : BitVec 32
  searchDistance : Nat
  clearPolicy : Nat
  keepPosition : Nat
  pulseWidth : Nat
  reversalPause : Nat
  dirPolarity : Nat
  group : Nat
  wrapPolicy : Nat
  binding : Nat
  zeroOffset : BitVec 32
  sense : Nat
deriving DecidableEq, Repr

/-- Tables 10-6 and 10-7: a cue as it arrives, its header fields and its parameter bytes. -/
structure RawCue where
  length : Nat
  kind : Nat
  trigger : Nat
  flags : Byte
  value : BitVec 56
  targetKind : Nat
  target : Nat
  params : List Byte
deriving DecidableEq, Repr

/-- A link's source as Set Link carries it: its place in Table 8-2, its index and, for TRIG, its edge (log 14). -/
structure RawSource where
  form : Nat
  index : Nat
  edge : Nat
deriving DecidableEq, Repr

/-- A link's destination as Set Link carries it: its place in Table 8-3, its index, and its program or width (log 14). -/
structure RawDest where
  form : Nat
  index : Nat
  param : Nat
deriving DecidableEq, Repr

/-- The strap pins as read at a start (11 Table 11-1); each pair is its 1 pin and its 0 pin as a number. -/
structure Straps where
  stdA : Fin 4
  stdB : Fin 4
  stdC : Fin 4
  baud : Fin 4
  tbsel : Bool
deriving DecidableEq, Repr

/-- The levels of the filtered inputs at their first samples (R211); `true` is high. Bit a of a word is axis a. -/
structure FirstSamples where
  halt : Bool
  drivePowerOk : Bool
  trig : BitVec 4
  home : BitVec 16
  limP : BitVec 16
  limN : BitVec 16
  flt : BitVec 16
deriving DecidableEq, Repr

/-- The filtered inputs of the part (00 section 3.3). -/
inductive InputLine where
  | trig (t : TrigId)
  | home (a : AxisId)
  | limP (a : AxisId)
  | limN (a : AxisId)
  | flt (a : AxisId)
  | halt
  | drivePowerOk
  | reset
deriving DecidableEq, Repr

/-- The two hard limits of an axis. -/
inductive LimitSide where
  | plus | minus
deriving DecidableEq, Repr

/-- What a limit met or a search at its end would have given an axis that a fault of the same moment, taken first, has
stopped (R176): a hard-limit stop, or a homing failure after one limit reversal or none. -/
inductive LateCause where
  | hardLimit
  | homeNotFound (reversed : Bool)
deriving DecidableEq, Repr

/-- The resources of the claim table (R112): SKY and G0 to G7. -/
inductive Resource where
  | sky
  | group (g : GroupId)
deriving DecidableEq, Repr

/-- The commands: the rows of spec/opcode_table.json, in its order. -/
inductive Instr where
  | identify (p : Port) (tag : Byte)
  | readStartRecord (p : Port) (tag : Byte)
  | readSnapshot (p : Port) (tag : Byte)
  | readPortStatus (p : Port) (tag : Byte) (port : Nat)
  | haltAll (p : Port) (tag : Byte)
  | readClock (p : Port) (tag : Byte)
  | setRate (p : Port) (tag : Byte) (goal : Int) (ramp : Nat)
  | run (p : Port) (tag : Byte)
  | halt (p : Port) (tag : Byte)
  | setEpoch (p : Port) (tag : Byte) (epoch : Int) (mode : Nat)
  | setSettleTime (p : Port) (tag : Byte) (seconds : Nat)
  | setGovernor (p : Port) (tag : Byte) (enable : Nat)
  | setTimebase (p : Port) (tag : Byte) (mode : Nat)
  | setSyncPeriod (p : Port) (tag : Byte) (ms : Nat)
  | setMark (p : Port) (tag : Byte) (mark enable period : Nat) (phase : Int) (direction : Nat)
  | readMark (p : Port) (tag : Byte) (mark : Nat)
  | appendSegments (p : Port) (tag : Byte) (channel : Nat) (segments : List RawSegment)
  | insertSegment (p : Port) (tag : Byte) (channel : Nat) (segment : RawSegment)
  | deleteSpan (p : Port) (tag : Byte) (channel : Nat) (x0 x1 : Int)
  | clearChannel (p : Port) (tag : Byte) (channel : Nat)
  | setChannelKind (p : Port) (tag : Byte) (channel kind : Nat)
  | setChannelEnable (p : Port) (tag : Byte) (channel enable : Nat)
  | readChannel (p : Port) (tag : Byte) (channel : Nat)
  | readSegment (p : Port) (tag : Byte) (channel index : Nat)
  | readStore (p : Port) (tag : Byte)
  | queryAngle (p : Port) (tag : Byte) (channel form : Nat) (epoch : Int)
  | readAxisRecord (p : Port) (tag : Byte) (axis : Nat)
  | configureAxis (p : Port) (tag : Byte) (axis : Nat) (record : RawRecord)
  | bind (p : Port) (tag : Byte) (axis channel : Nat)
  | unbind (p : Port) (tag : Byte) (axis : Nat)
  | lockSafety (p : Port) (tag : Byte) (axis : Nat)
  | readAxisState (p : Port) (tag : Byte) (axis : Nat)
  | enable (p : Port) (tag : Byte) (axis : Nat)
  | disable (p : Port) (tag : Byte) (axis : Nat)
  | declareReference (p : Port) (tag : Byte) (axis : Nat) (hi lo : BitVec 32)
  | slew (p : Port) (tag : Byte) (axis form : Nat) (value : BitVec 56)
  | track (p : Port) (tag : Byte) (axis : Nat)
  | stop (p : Port) (tag : Byte) (axis : Nat)
  | home (p : Port) (tag : Byte) (axis : Nat)
  | clearFault (p : Port) (tag : Byte) (axis : Nat)
  | readGroup (p : Port) (tag : Byte) (group : Nat)
  | coordinatedSlew (p : Port) (tag : Byte) (group : Nat) (entries : List (Nat × BitVec 32))
  | stageGroup (p : Port) (tag : Byte) (group : Nat) (epoch : Int)
  | trackGroup (p : Port) (tag : Byte) (group : Nat)
  | stopGroup (p : Port) (tag : Byte) (group : Nat)
  | readGroupMotion (p : Port) (tag : Byte) (group : Nat)
  | readClaims (p : Port) (tag : Byte)
  | claim (p : Port) (tag : Byte) (resource wait preempt lease : Nat)
  | renew (p : Port) (tag : Byte) (resource : Nat)
  | release (p : Port) (tag : Byte) (resource : Nat)
  | withdraw (p : Port) (tag : Byte) (resource : Nat)
  | openProgram (p : Port) (tag : Byte) (program : Nat) (requirement : BitVec 16)
  | appendCues (p : Port) (tag : Byte) (program : Nat) (cues : List RawCue)
  | closeProgram (p : Port) (tag : Byte) (program : Nat)
  | eraseProgram (p : Port) (tag : Byte) (program : Nat)
  | readProgram (p : Port) (tag : Byte) (program index : Nat)
  | runProgram (p : Port) (tag : Byte) (program : Nat)
  | stopRunner (p : Port) (tag : Byte)
  | resume (p : Port) (tag : Byte)
  | leaveLoop (p : Port) (tag : Byte)
  | readRunner (p : Port) (tag : Byte) (runner : Nat)
  | setLink (p : Port) (tag : Byte) (link enable : Nat) (source : RawSource) (dest : RawDest)
  | setLinkEnable (p : Port) (tag : Byte) (link enable : Nat)
  | readLink (p : Port) (tag : Byte) (link : Nat)
  | setTriggerFilter (p : Port) (tag : Byte) (input length : Nat)
  | readLines (p : Port) (tag : Byte)
  | readCapture (p : Port) (tag : Byte)
  | readDrivePower (p : Port) (tag : Byte)
  | setReturnPolicy (p : Port) (tag : Byte) (policy : Nat)
  | fetchNotices (p : Port) (tag : Byte)
  | setNoticeMask (p : Port) (tag : Byte) (mask : BitVec 32)
  | setNoticeRouting (p : Port) (tag : Byte) (kind form ports : Nat)
  | readNoticeRouting (p : Port) (tag : Byte)
  | setReportRate (p : Port) (tag : Byte) (k : Nat)
  | frameReceived (p : Port) (tag code : Byte) (payload : List Byte) (crc : BitVec 16)
  | framingError (p : Port)
  | frameGapTimeout (p : Port)
  | replyStart (p : Port)
  | frameTransmissionEnd (p : Port)
  | epochUpdate
  | settleTimerExpiry
  | quietTimerExpiry
  | syncPulse (crystal : Nat)
  | syncTimeout
  | evaluationStart
  | evaluationComplete
  | stepPulse (a : AxisId)
  | stepPulseEnd (a : AxisId)
  | reversalPauseEnd (a : AxisId)
  | axisArrived (a : AxisId)
  | stoppingRest (a : AxisId)
  | homeInputChange (a : AxisId) (level : Bool)
  | clearPhaseRest (a : AxisId)
  | axisHomed (a : AxisId)
  | homingSearchExhausted (a : AxisId) (late : Option Bool)
  | limitInputChange (a : AxisId) (side : LimitSide) (level : Bool) (late : Option LateCause)
  | fltInputChange (a : AxisId) (level : Bool)
  | autoClearExpiry (a : AxisId)
  | haltLineAsserted
  | haltLineDeasserted
  | drivePowerOkActive
  | drivePowerOkInactive
  | drivePowerReturn
  | leaseExpiry (r : Resource)
  | delayExpiry (r : Port)
  | loopPauseEnd (r : Port)
  | trigInputChange (t : TrigId) (level : Bool)
  | pulseTimerExpiry (o : OutputId)
  | powerOnReset
  | lineReset
  | start (straps : Straps) (lines : FirstSamples)
  | inputSample (line : InputLine) (level : Bool)
  | byteReceived (p : Port) (byte : Byte)
  | velocityReachesZero (a : AxisId)
deriving DecidableEq, Repr

/-- The requests of Table 10-4 without their port and tag: what a frame's code and payload spell (R195). -/
inductive Request where
  | identify | readStartRecord | readSnapshot | readPortStatus (port : Nat) | haltAll
  | readClock | setRate (goal : Int) (ramp : Nat) | run | halt | setEpoch (epoch : Int) (mode : Nat)
  | setSettleTime (seconds : Nat) | setGovernor (enable : Nat) | setTimebase (mode : Nat) | setSyncPeriod (ms : Nat)
  | setMark (mark enable period : Nat) (phase : Int) (direction : Nat) | readMark (mark : Nat)
  | appendSegments (channel : Nat) (segments : List RawSegment) | insertSegment (channel : Nat) (segment : RawSegment)
  | deleteSpan (channel : Nat) (x0 x1 : Int) | clearChannel (channel : Nat) | setChannelKind (channel kind : Nat)
  | setChannelEnable (channel enable : Nat) | readChannel (channel : Nat) | readSegment (channel index : Nat)
  | readStore | queryAngle (channel form : Nat) (epoch : Int)
  | readAxisRecord (axis : Nat) | configureAxis (axis : Nat) (record : RawRecord) | bind (axis channel : Nat)
  | unbind (axis : Nat) | lockSafety (axis : Nat) | readAxisState (axis : Nat) | enable (axis : Nat) | disable (axis : Nat)
  | declareReference (axis : Nat) (hi lo : BitVec 32) | slew (axis form : Nat) (value : BitVec 56) | track (axis : Nat)
  | stop (axis : Nat) | home (axis : Nat) | clearFault (axis : Nat)
  | readGroup (group : Nat) | coordinatedSlew (group : Nat) (entries : List (Nat × BitVec 32))
  | stageGroup (group : Nat) (epoch : Int) | trackGroup (group : Nat) | stopGroup (group : Nat)
  | readGroupMotion (group : Nat)
  | readClaims | claim (resource wait preempt lease : Nat) | renew (resource : Nat) | release (resource : Nat)
  | withdraw (resource : Nat)
  | openProgram (program : Nat) (requirement : BitVec 16) | appendCues (program : Nat) (cues : List RawCue)
  | closeProgram (program : Nat) | eraseProgram (program : Nat) | readProgram (program index : Nat)
  | runProgram (program : Nat) | stopRunner | resume | leaveLoop | readRunner (runner : Nat)
  | setLink (link enable : Nat) (source : RawSource) (dest : RawDest) | setLinkEnable (link enable : Nat)
  | readLink (link : Nat) | setTriggerFilter (input length : Nat) | readLines | readCapture
  | readDrivePower | setReturnPolicy (policy : Nat)
  | fetchNotices | setNoticeMask (mask : BitVec 32) | setNoticeRouting (kind form ports : Nat) | readNoticeRouting
  | setReportRate (k : Nat)
deriving DecidableEq, Repr

end Sys2Proof
end

