-- ==== Sys2Proof/Decode.lean ====
section
/-! DEFINITION. The commands a word spells by the table's bits: no row of spec/opcode_table.json gives bits, so none. What
a frame's code and payload spell stands in Machine/Operands.lean. -/

namespace Sys2Proof

/-- No row gives bits. -/
def decodeTableWord (_nbits _w : Nat) : Option Instr := none

end Sys2Proof
end

