-- ==== Sys2Proof/Config.lean ====
section
/-! DEFINITION. What one part fixes (its capacities, spec/ R198 and the tables) and the FREE VALUES: constants with no
body, for what the manual leaves open. Nothing in Lean can tell their value. -/

namespace Sys2Proof.Config

/-- Segment places in the store (R27). -/
def segmentPlaces : Nat := 1024
/-- Most segments one channel holds (R27, R30). -/
def channelMax : Nat := 255
/-- Cue places in the store (R130). -/
def cuePlaces : Nat := 256
/-- Most cues one program holds (R132). -/
def programMax : Nat := 128
/-- Capture records the queue holds (R171). -/
def captureMax : Nat := 4
/-- Largest payload of a frame (R192). -/
def payloadMax : Nat := 240
/-- Least epoch, in 1/1024 sky-s (00 Table 0-1). -/
def epochMin : Int := -(2 ^ 50)
/-- Greatest epoch, in 1/1024 sky-s. -/
def epochMax : Int := 2 ^ 50 - 1
/-- Greatest magnitude of a rate, in 1/256 sky-s per second (00 Table 0-1): 67,108,864. -/
def rateMax : Int := 17179869184
/-- DESIGN CHOICE (log 5): how many signals one command takes before the rest wait for the next command, so that a step is a
total function. What signals can change takes fewer states than this, so that a chain of signals past the bound has come back to
values it had, and no rule ends it. -/
@[irreducible] def signalBound : Nat := 2 ^ 262144

/-- FREE (log 6): the rank by which things with no defined order are served, drawn afresh with a counter of State.
R3, R40 and R161 define no order among the axes, runners and links that one event reaches. -/
opaque rank : Nat → Nat → Nat

/-- FREE (log 11): the step count a LIMITED axis shows where a pulse or the assignment at the home edge would carry it out of
-2^31 to 2^31 - 1; it lies in that range (R47), no rule says where. -/
opaque limitedOverflow : Int → BitVec 32

end Sys2Proof.Config
end

