-- ==== Sys2Proof/Machine/State.lean ====
section
/-! DEFINITION. The state of the part as plain data: every item the spec's tables give its blocks, the outcomes of a
step, and the state right after reset. Units: epochs in 1/1024 sky-s, rates in 1/256 sky-s per second, angles in 2^-32
turn, timers in ms of timebase time. -/

namespace Sys2Proof.Machine

/-- No command stops the part with a fault: axis faults, runner faults and refusals of requests are states and replies
of the part (09, R149, R196). The type has no constructor. -/
inductive Fault where
deriving DecidableEq, Repr

/-- Why a command has no meaning here. -/
inductive Refusal where
  /-- Raised by `exec` for a command that has no meaning yet. Safe: the machine stops. -/
  | notModelled (mnemonic : String)
deriving DecidableEq, Repr

/-- One item for each of the ports A, B and C. -/
structure PerPort (α : Type) where
  a : α
  b : α
  c : α
deriving DecidableEq, Repr

def PerPort.get {α : Type} (x : PerPort α) : Port → α
  | .A => x.a
  | .B => x.b
  | .C => x.c

def PerPort.set {α : Type} (x : PerPort α) : Port → α → PerPort α
  | .A, v => { x with a := v }
  | .B, v => { x with b := v }
  | .C, v => { x with c := v }

/-- A direction of motion, or a sign. -/
inductive Dir where
  | plus | minus
deriving DecidableEq, Repr

/-- Status codes (Table 10-3). -/
inductive Status where
  | ok | granted | queued | busy | badCode | badValue | notHolder | held | locked | state | range | full | halted
  | inUse | notReferenced
deriving DecidableEq, Repr

/-! ## Sky clock (01 Table 1-1) -/

inductive ClockState where
  | halted | running | settling
deriving DecidableEq, Repr

inductive HaltReason where
  | command | range | haltLine | drivePower | start
deriving DecidableEq, Repr

/-- R5, R6; durations in ms. -/
structure Ramp where
  start : Int
  goal : Int
  duration : Nat
  remaining : Nat
deriving DecidableEq, Repr

inductive MarkDirection where
  | forward | backward | both
deriving DecidableEq, Repr

/-- Table 1-7. -/
structure Mark where
  enabled : Bool
  period : Int
  phase : Int
  direction : MarkDirection
  crossings : Nat
  last : Option Int
deriving DecidableEq, Repr

/-- Where settling returns to (R11): RUNNING or HALTED. -/
inductive ResumeTo where
  | running | halted
deriving DecidableEq, Repr

/-- Table 1-1 without the timebase. `ceiling` and the timers are `none` when absent or stopped. -/
structure Clock where
  epoch : Int
  residue : Int
  commanded : Int
  scheduled : Int
  ramp : Option Ramp
  state : ClockState
  reason : HaltReason
  resumeTo : ResumeTo
  settleTime : Nat
  settleTimer : Option Nat
  roll : List AxisId
  governor : Bool
  ceiling : Option Nat
  quiet : Option Nat
  wasRunning : Bool
  /-- the model's own name of the settling under way (log 21) -/
  settleSerial : Nat
  marks : Vector Mark 4
deriving DecidableEq, Repr

inductive TimebaseState where
  | internal | locked | holdover
deriving DecidableEq, Repr

/-- R20 to R23. Crystal times and intervals in ns (log 19). The trim is `trimNum / trimDen`. -/
structure Timebase where
  sync : Bool
  state : TimebaseState
  nominal : Nat
  trimNum : Nat
  trimDen : Nat
  good : Nat
  bad : Nat
  window : List Nat
  reference : Option Nat
deriving DecidableEq, Repr

/-! ## Channels and the evaluator (02) -/

inductive ChannelKind where
  | cyclic | bounded
deriving DecidableEq, Repr

/-- Table 2-2: a stored segment; a1 in 2^-32, a2 in 2^-48. -/
structure Segment where
  start : Int
  span : Nat
  a0 : Nat
  a1 : Int
  a2 : Option Int
  stamp : Nat
deriving DecidableEq, Repr

/-- Table 2-1. `cursor` is the stamp of the segment last given to an evaluation (02, note under section 2.1); nothing
reads it. -/
structure Channel where
  kind : ChannelKind
  enabled : Bool
  segments : List Segment
  cursor : Option Nat
deriving DecidableEq, Repr

inductive UncoveredReason where
  | disabled | empty | gap | outside
deriving DecidableEq, Repr

/-- R39: the items of a COVERED result. -/
structure Covered where
  index : Nat
  stamp : Nat
  raw : Int
  reduced : Int
  rate : Int
  kind : ChannelKind
  epoch : Int
deriving DecidableEq, Repr

inductive Purpose where
  | track | stage
deriving DecidableEq, Repr

/-- Who asks (R40): an axis with its purpose, or a port. -/
inductive Requester where
  | axis (a : AxisId) (purpose : Purpose)
  | port (p : Port)
deriving DecidableEq, Repr

/-- An entry of the pending list (R40); epoch `none` is the mark "current epoch". -/
structure EvalRequest where
  who : Requester
  channel : ChannelId
  epoch : Option Int
deriving DecidableEq, Repr

/-- What an evaluation finds at its start (R37, R42): the reason it is uncovered, or the index and a copy of the segment
with the kind taken then. -/
inductive Lookup where
  | uncovered (r : UncoveredReason)
  | covered (index : Nat) (segment : Segment) (kind : ChannelKind)
deriving DecidableEq, Repr

/-- The evaluation in flight (R42). -/
structure InFlight where
  who : Requester
  channel : ChannelId
  epoch : Int
  found : Lookup
deriving DecidableEq, Repr

/-! ## Axes (03, 04, 05) -/

inductive AxisKind where
  | continuous | limited
deriving DecidableEq, Repr

inductive WrapPolicy where
  | shortest | positive | negative
deriving DecidableEq, Repr

/-- Table 3-1. `haltDecel = none` is IMMEDIATE; `homeRising` and `sensor`, `auto`, `inverted` are the two-valued fields. -/
structure AxisRecord where
  kind : AxisKind
  stepsPerTurn : Nat
  soft : Option (Int × Int)
  velocity : Nat
  acceleration : Nat
  haltDecel : Option Nat
  stopDecel : Nat
  lagLimit : Nat
  settleTolerance : Nat
  sensor : Bool
  homeDirection : Dir
  homeSpeed : Nat
  homeRising : Bool
  homeFilter : Nat
  homeOffset : Int
  searchDistance : Nat
  auto : Bool
  keepPosition : Bool
  pulseWidth : Nat
  reversalPause : Nat
  inverted : Bool
  group : GroupId
  wrap : Option WrapPolicy
  binding : Option ChannelId
  zeroOffset : Int
  sense : Dir
deriving DecidableEq, Repr

inductive LockOrigin where
  | byRequest | keptAtLineReset
deriving DecidableEq, Repr

inductive AxisState where
  | unconfigured | disabled | unreferenced | homing | standing | slewing | tracking | stopping | faulted
deriving DecidableEq, Repr

/-- Table 4-2: for CONTINUOUS a turn count and a position within the turn; for LIMITED the step position in `within`
and turn 0. -/
structure Position where
  turn : Int
  within : Int
deriving DecidableEq, Repr

/-- R74: the staged-at record. -/
structure StagedAt where
  epoch : Int
  angle : Int
  result : Covered
deriving DecidableEq, Repr

/-- A fixed slew target (R71) with the profile planned for it (R72, R87): the square of its velocity limit and twice its
acceleration, both in 2^-32 (steps/s)² (log 8), what its arrival records (R74), and the model's name of the slew. -/
structure Target where
  position : Int
  limitSq : Nat
  accel2 : Nat
  staged : Option StagedAt
  serial : Nat
deriving DecidableEq, Repr

inductive RestState where
  | standing | unreferenced
deriving DecidableEq, Repr

/-- The stopping record (Table 4-2); deceleration `none` is IMMEDIATE. -/
structure Stopping where
  decel : Option Nat
  rest : RestState
deriving DecidableEq, Repr

/-- The tracking record (Table 4-2). -/
structure Tracking where
  acquire : Bool
  angle : Int
  last : Option Covered
  lastEpoch : Option Int
  target : Int
  lagging : Bool
  clamped : Bool
  uncovered : Bool
  settled : Bool
deriving DecidableEq, Repr

inductive StageOwner where
  | single
  | group (g : GroupId)
deriving DecidableEq, Repr

structure StagePending where
  epoch : Int
  owner : StageOwner
  serial : Nat
deriving DecidableEq, Repr

inductive StageOutcome where
  | none | arrived | uncovered | outOfRange | ended
deriving DecidableEq, Repr

inductive FaultCause where
  | hardLimit | driveFault | homeNotFound
deriving DecidableEq, Repr

/-- Table 9-2. -/
structure FaultRecord where
  first : Option FaultCause
  further : List FaultCause
  reversals : Option Nat
  autoClear : Option Nat
deriving DecidableEq, Repr

inductive HomingPhase where
  | clear | seek
deriving DecidableEq, Repr

inductive HomingStarter where
  | request | returnPolicy
deriving DecidableEq, Repr

/-- Table 5-1. `braking` is CLEAR's braking after HOME went inactive (R100); `edge` is the assigned position. -/
structure Homing where
  phase : HomingPhase
  braking : Bool
  direction : Dir
  speed : Nat
  activeHigh : Bool
  filter : Nat
  offset : Int
  distance : Nat
  travel : Nat
  reversals : Nat
  edge : Option Position
  starter : HomingStarter
deriving DecidableEq, Repr

/-- A filtered input: accepted level and the length of the run that differs from it (R97, R166, R174). -/
structure Filter where
  accepted : Bool
  run : Nat
deriving DecidableEq, Repr

/-- The HOME filter (R97): with the position captured at the run's first sample and the steps emitted since in each
direction (R102). -/
structure HomeFilter where
  accepted : Bool
  run : Nat
  captured : Position
  plusSteps : Nat
  minusSteps : Nat
deriving DecidableEq, Repr

/-- One axis: record, lock, motion state (Table 4-2), homing record, fault record and its input filters. -/
structure Axis where
  record : AxisRecord
  locked : Bool
  lockOrigin : Option LockOrigin
  state : AxisState
  known : Bool
  position : Position
  /-- speed squared, in 2^-32 (steps/s)² (log 8); the velocity has this magnitude and the sign of `direction` -/
  speedSq : Nat
  direction : Option Dir
  /-- the width in µs of the pulse in progress (R66) -/
  pulse : Option Nat
  dirHigh : Bool
  /-- the reversal pause in progress, its length in µs (R67) -/
  pause : Option Nat
  target : Option Target
  stopping : Option Stopping
  tracking : Option Tracking
  stage : Option StagePending
  lastStage : StageOutcome
  stagedAt : Option StagedAt
  discard : Bool
  limitMemory : Option LimitSide
  resumeMark : Bool
  fault : FaultRecord
  homing : Option Homing
  home : HomeFilter
  limP : Filter
  limN : Filter
  flt : Filter
deriving DecidableEq, Repr

/-! ## Group motion (04 Table 4-5) -/

inductive PassReason where
  | unbound | notReferenced | notStanding | limit
deriving DecidableEq, Repr

inductive MemberOutcome where
  | evaluating | ready | moving | arrived | uncovered | outOfRange | ended
  | passedOver (r : PassReason)
deriving DecidableEq, Repr

structure Member where
  axis : AxisId
  target : Option Int
  outcome : MemberOutcome
  /-- what its arrival records (R74, R90) -/
  staged : Option StagedAt
deriving DecidableEq, Repr

inductive MotionState where
  | evaluating | moving | arrived | failed
deriving DecidableEq, Repr

inductive EndCause where
  | memberEnded | outOfRange | superseded
deriving DecidableEq, Repr

/-- Table 4-5; the stage epoch is present for kind STAGE; the duration in ns (log 9). -/
structure GroupMotion where
  stageEpoch : Option Int
  state : MotionState
  cause : Option EndCause
  duration : Option Nat
  members : List Member
  serial : Nat
deriving DecidableEq, Repr

/-! ## Claims (06 Table 6-2) -/

structure Lease where
  length : Nat
  remaining : Nat
deriving DecidableEq, Repr

structure Holder where
  port : Port
  standing : Nat
  lease : Option Lease
deriving DecidableEq, Repr

structure Waiter where
  port : Port
  standing : Nat
deriving DecidableEq, Repr

structure ClaimEntry where
  holder : Option Holder
  waiting : List Waiter
deriving DecidableEq, Repr

/-! ## Programs and runners (07) -/

/-- The action of a well-formed cue (Tables 7-5, 10-7); its target index stands in `Cue.target`. -/
inductive CueAction where
  | setRate (goal : Int) (ramp : Nat)
  | jump (epoch : Int) (mode : Nat)
  | runClock
  | haltClock
  | bind (channel : Nat)
  | trackGroup
  | stopGroup
  | slewAxis (form : Nat) (value : BitVec 56)
  | slewGroup (entries : List (Nat × BitVec 32))
  | stageGroup (epoch : Int)
  | output (action width : Nat)
  | note
  | loopOpen (count : Nat)
  | loopClose
  | endProgram
deriving DecidableEq, Repr

inductive TriggerKind where
  | afterPrevious | chained | atEpoch | delay | onLink | onSettled
deriving DecidableEq, Repr

/-- Table 7-4: flags and trigger value held as appended (R200). -/
structure Cue where
  action : CueAction
  target : Nat
  trigger : TriggerKind
  flags : Byte
  value : BitVec 56
deriving DecidableEq, Repr

inductive ProgramState where
  | empty | opened | closed
deriving DecidableEq, Repr

/-- Table 7-1. Bit 0 of the requirement set is SKY, bit g+1 is Gg (Table 10-2). -/
structure Program where
  state : ProgramState
  opener : Option Port
  requirement : BitVec 16
  cues : List Cue
  inUse : Option Port
deriving DecidableEq, Repr

inductive SuspendCause where
  | claim | halt
deriving DecidableEq, Repr

inductive RunnerCause where
  | refused (st : Status)
  | motionFailed
deriving DecidableEq, Repr

inductive RunnerState where
  | idle
  | waitingTrigger
  | waitingCompletion
  | suspended (cause : SuspendCause)
  | faulted (cause : RunnerCause) (index : Nat)
deriving DecidableEq, Repr

/-- What a completion entry waits for (R150), by the model's serials (log 21). -/
inductive Awaited where
  | slew (serial : Nat)
  | stage (serial : Nat)
  | motion (serial : Nat)
  | settling (serial : Nat)
deriving DecidableEq, Repr

structure Completion where
  cue : Nat
  awaited : Awaited
  complete : Bool
deriving DecidableEq, Repr

/-- A loop stack entry; remaining `none` is UNBOUNDED. -/
structure LoopEntry where
  first : Nat
  remaining : Option Nat
  leave : Bool
deriving DecidableEq, Repr

/-- Table 7-7; the loop stack has its innermost entry at the head. -/
structure Runner where
  state : RunnerState
  program : Option ProgramId
  cue : Nat
  loopPause : Option Nat
  delay : Option Nat
  completions : List Completion
  loops : List LoopEntry
  latch : Bool
  overruns : Nat
deriving DecidableEq, Repr

/-! ## Links, lines and captures (08) -/

inductive Edge where
  | rising | falling | both
deriving DecidableEq, Repr

/-- Table 8-2. As an event, a TRIG source carries the edge taken. -/
inductive Source where
  | mark (m : MarkId)
  | trig (t : TrigId) (e : Edge)
  | axisArrived (a : AxisId)
  | axisHomed (a : AxisId)
  | axisFault (a : AxisId)
  | groupArrived (g : GroupId)
  | runnerNote (r : Port)
  | clockSettled
  | timebaseLost
  | clockRange
deriving DecidableEq, Repr

/-- Table 8-3. -/
inductive Dest where
  | runnerLink (r : Port)
  | runnerStart (r : Port) (program : ProgramId)
  | outputPulse (o : OutputId) (width : Nat)
  | outputSet (o : OutputId)
  | outputClear (o : OutputId)
  | capture
  | clockHalt
deriving DecidableEq, Repr

inductive StartOutcome where
  | none
  | started
  | refused (st : Status)
deriving DecidableEq, Repr

/-- Table 8-1. -/
structure Link where
  enabled : Bool
  source : Option Source
  dest : Option Dest
  arrivals : Nat
  lastStart : StartOutcome
deriving DecidableEq, Repr

/-- The coherent part of a capture (Table 8-6, R166): the positions as their two encoded words, absent as `none`. -/
structure SkySnap where
  epoch : Int
  ra : Int
  state : ClockState
  positions : List (Option (Int × Int))
deriving DecidableEq, Repr

structure TrigInput where
  length : Nat
  accepted : Bool
  run : Nat
  snap : Option SkySnap
deriving DecidableEq, Repr

/-- Table 8-5; the pulse timer runs in PULSING. -/
inductive OutputState where
  | inactive
  | set
  | pulsing (remaining : Nat)
deriving DecidableEq, Repr

structure Capture where
  number : Nat
  link : LinkId
  source : Source
  snap : SkySnap
deriving DecidableEq, Repr

/-- Table 8-7. -/
structure CaptureQueue where
  records : List Capture
  next : Nat
  overruns : Nat
deriving DecidableEq, Repr

/-! ## Fault and drive-power block (09) -/

inductive DriveState where
  | present
  | absent
  | returning (remaining : Nat)
deriving DecidableEq, Repr

inductive ReturnPolicy where
  | hold | rehome | rehomeAndResume
deriving DecidableEq, Repr

inductive ReturnOutcome where
  | none | held | rehomed | pending | resumed | abandoned
deriving DecidableEq, Repr

/-- Table 9-7; a member with its outcome HOMED as `true`. -/
structure ReturnRecord where
  members : List (AxisId × Bool)
  resume : List AxisId
  wasRunning : Bool
deriving DecidableEq, Repr

structure DrivePower where
  ok : Filter
  halt : Filter
  state : DriveState
  policy : ReturnPolicy
  sequence : Option ReturnRecord
  outcome : ReturnOutcome
  keptResume : List AxisId
  keptRunning : Bool
deriving DecidableEq, Repr

/-! ## Ports and notices (10) -/

structure Frame where
  tag : Byte
  code : Byte
  payload : List Byte
deriving DecidableEq, Repr

/-- R192: the frame receiver, with the bytes taken so far in the order received. -/
inductive Receiver where
  | hunt
  | header (taken : List Byte)
  | body (tag code : Byte) (left : Nat) (payload : List Byte)
  | check (tag code : Byte) (payload : List Byte) (high : Option Byte)
deriving DecidableEq, Repr

/-- R194; OUTSTANDING holds the tag and code to answer with. -/
inductive RequestState where
  | ready
  | outstanding (tag code : Byte)
deriving DecidableEq, Repr

structure NoticeEntry where
  count : Nat
  subject : Option Nat
  timeout : Bool
deriving DecidableEq, Repr

structure PortState where
  standing : Nat
  receiver : Receiver
  request : RequestState
  reply : Option Frame
  short : Option Frame
  /-- the bytes of the frame in transmission -/
  tx : Option (List Byte)
  reportRate : Nat
  updates : Nat
  snapNumber : Nat
  discarded : Nat
  busyCount : Nat
  shortDiscards : Nat
  skipped : Nat
  mask : BitVec 32
  notices : Vector (Option NoticeEntry) 25
deriving DecidableEq, Repr

/-- R205. A port set as Table 10-2 encodes it. -/
inductive Routing where
  | holder
  | all
  | ports (set : BitVec 3)
deriving DecidableEq, Repr

/-- Table 10-9, in its order. -/
inductive NoticeKind where
  | start | clockRange | clockSettled | governorEngaged | governorReleased | timebaseLost | timebaseLocked | mark
  | channelGap | axisLagging | axisClamped | axisFault | axisHomed | claimLost | claimLapsed | claimGranted
  | runnerFault | programEnded | cueNote | linkOverrun | linkRefused | captureOverrun | drivePowerLost
  | drivePowerReturned | resumeAbandoned
deriving DecidableEq, Repr

/-! ## Start-up (11) and the whole part -/

inductive Phase where
  | running | heldPower | heldLine
deriving DecidableEq, Repr

/-- Table 11-2. -/
structure StartRecord where
  powerOn : Bool
  drivePresent : Bool
  halted : Bool
  standings : PerPort Nat
  bitRate : Nat
  rateNamed : Bool
  sync : Bool
  lockedKept : List AxisId
deriving DecidableEq, Repr

/-- What was raised inside a step and is taken after the effect that raised it (R147, R161; log 5). -/
inductive Signal where
  /-- an event, with the snapshot it carries: the run snapshot of a TRIG event (R166), the one of the update of CLOCK_RANGE
  (R162) -/
  | event (e : Source) (snap : Option SkySnap)
  /-- an arrival at RUNNER_LINK (R163) -/
  | arrival (r : Port) (link : LinkId)
  /-- an arrival at RUNNER_START (R164) -/
  | start (r : Port) (link : LinkId) (program : ProgramId)
  /-- an epoch announcement to the runners that waited on AT_EPOCH when it was made (R3, R143) -/
  | epoch (e : Int) (waiting : List Port)
  /-- an awaited action completed, or failed (R150, R151) -/
  | done (w : Awaited)
  | failed (w : Awaited)
deriving DecidableEq, Repr

/-- The state of the part. -/
structure State where
  phase : Phase
  /-- the RESET input as its samples give it (R211), `true` when asserted -/
  resetLine : Filter
  straps : Straps
  startRecord : StartRecord
  clock : Clock
  timebase : Timebase
  channels : Vector Channel 12
  stampCounter : Nat
  evals : List EvalRequest
  inFlight : Option InFlight
  axes : Vector Axis 16
  motions : Vector (Option GroupMotion) 8
  claims : Vector ClaimEntry 9
  programs : Vector Program 16
  runners : PerPort Runner
  links : Vector Link 24
  trigs : Vector TrigInput 4
  outputs : Vector OutputState 4
  captures : CaptureQueue
  power : DrivePower
  ports : PerPort PortState
  routing : Vector Routing 25
  signals : List Signal
  serial : Nat
  freeCount : Nat
  pending : List Instr
deriving DecidableEq, Repr

/-! ## Values after reset -/

def Mark.reset : Mark :=
  { enabled := false, period := 86400 * 1024, phase := 0, direction := .both, crossings := 0, last := none }

/-- Table 1-9. -/
def Clock.reset : Clock :=
  { epoch := 0, residue := 0, commanded := 0, scheduled := 0, ramp := none, state := .halted, reason := .start,
    resumeTo := .halted, settleTime := 10, settleTimer := none, roll := [], governor := false, ceiling := none,
    quiet := none, wasRunning := false, settleSerial := 0, marks := Vector.replicate 4 Mark.reset }

/-- Table 1-9 for the TBSEL strap. -/
def Timebase.reset (tbsel : Bool) : Timebase :=
  { sync := tbsel, state := if tbsel then .holdover else .internal, nominal := 40, trimNum := 1, trimDen := 1,
    good := 0, bad := 0, window := [], reference := none }

/-- Table 2-8. -/
def Channel.reset : Channel := { kind := .cyclic, enabled := true, segments := [], cursor := none }

/-- The default record of Table 3-1. -/
def AxisRecord.default : AxisRecord :=
  { kind := .continuous, stepsPerTurn := 51200, soft := none, velocity := 10000, acceleration := 50000,
    haltDecel := some 200000, stopDecel := 50000, lagLimit := 1000, settleTolerance := 4, sensor := false,
    homeDirection := .minus, homeSpeed := 1000, homeRising := true, homeFilter := 4, homeOffset := 0,
    searchDistance := 102400, auto := false, keepPosition := false, pulseWidth := 5, reversalPause := 50,
    inverted := false, group := 0, wrap := some .shortest, binding := none, zeroOffset := 0, sense := .plus }

def FaultRecord.reset : FaultRecord := { first := none, further := [], reversals := none, autoClear := none }

/-- R61, Table 4-8, with the first samples of HOME, LIM+, LIM− and FLT. -/
def Axis.reset (home limP limN flt : Bool) : Axis :=
  { record := AxisRecord.default, locked := false, lockOrigin := none, state := .unconfigured, known := false,
    position := ⟨0, 0⟩, speedSq := 0, direction := none, pulse := none, dirHigh := true, pause := none, target := none,
    stopping := none, tracking := none, stage := none, lastStage := .none, stagedAt := none, discard := false,
    limitMemory := none, resumeMark := false, fault := FaultRecord.reset, homing := none,
    home := ⟨home, 0, ⟨0, 0⟩, 0, 0⟩, limP := ⟨limP, 0⟩, limN := ⟨limN, 0⟩, flt := ⟨flt, 0⟩ }

/-- Table 6-5. -/
def ClaimEntry.reset : ClaimEntry := { holder := none, waiting := [] }

/-- R157. -/
def Program.reset : Program := { state := .empty, opener := none, requirement := 0, cues := [], inUse := none }

/-- R157. -/
def Runner.reset : Runner :=
  { state := .idle, program := none, cue := 0, loopPause := none, delay := none, completions := [], loops := [],
    latch := false, overruns := 0 }

/-- Table 8-8. -/
def Link.reset : Link := { enabled := false, source := none, dest := none, arrivals := 0, lastStart := .none }

def TrigInput.reset (level : Bool) : TrigInput := { length := 4, accepted := level, run := 0, snap := none }

/-- Table 9-8, with the first samples of DRIVE_POWER_OK and HALT. -/
def DrivePower.reset (ok halt : Bool) : DrivePower :=
  { ok := ⟨ok, 0⟩, halt := ⟨halt, 0⟩, state := if ok then .present else .absent, policy := .hold, sequence := none,
    outcome := .none, keptResume := [], keptRunning := false }

/-- R209, with the START entry of R213. -/
def PortState.reset (standing : Nat) : PortState :=
  { standing := standing, receiver := .hunt, request := .ready, reply := none, short := none, tx := none,
    reportRate := 0, updates := 0, snapNumber := 0, discarded := 0, busyCount := 0, shortDiscards := 0, skipped := 0,
    mask := 0, notices := (Vector.replicate 25 none).set 0 (some ⟨1, none, false⟩) }

/-- DESIGN CHOICE (log 7): the straps of `State.reset`, all low. -/
def Straps.low : Straps := { stdA := 0, stdB := 0, stdC := 0, baud := 0, tbsel := false }

/-- The part right after a power-on start with every strap low, DRIVE_POWER_OK high and every other input low at its
first sample (log 7); each block as its chapter's last section gives it. -/
def State.reset : State :=
  { phase := .running
    resetLine := ⟨false, 0⟩
    straps := Straps.low
    startRecord := { powerOn := true, drivePresent := true, halted := false, standings := ⟨0, 0, 0⟩,
                     bitRate := 115200, rateNamed := true, sync := false, lockedKept := [] }
    clock := Clock.reset
    timebase := Timebase.reset false
    channels := Vector.replicate 12 Channel.reset
    stampCounter := 0
    evals := []
    inFlight := none
    axes := Vector.replicate 16 (Axis.reset false false false false)
    motions := Vector.replicate 8 none
    claims := Vector.replicate 9 ClaimEntry.reset
    programs := Vector.replicate 16 Program.reset
    runners := ⟨Runner.reset, Runner.reset, Runner.reset⟩
    links := Vector.replicate 24 Link.reset
    trigs := Vector.replicate 4 (TrigInput.reset false)
    outputs := Vector.replicate 4 .inactive
    captures := { records := [], next := 0, overruns := 0 }
    power := DrivePower.reset true false
    ports := ⟨PortState.reset 0, PortState.reset 0, PortState.reset 0⟩
    routing := Vector.replicate 25 .all
    signals := []
    serial := 0
    freeCount := 0
    pending := [] }

end Sys2Proof.Machine
end

