-- ==== Sys2Proof/Machine/Bytes.lean ====
section
/-! DEFINITION. Field encodings of 10 R193 and Table 10-2: multi-byte fields most significant byte first, signed fields
in two's complement; and the CRC of R193. -/

namespace Sys2Proof.Machine

/-- One byte. -/
def u8 (n : Nat) : List Byte := [BitVec.ofNat 8 n]

/-- `k` bytes of `n`, most significant first. -/
def beNat : Nat → Nat → List Byte
  | 0, _ => []
  | k + 1, n => BitVec.ofNat 8 (n / 256 ^ k) :: beNat k n

/-- `k` bytes of a signed number in two's complement. -/
def beInt (k : Nat) (i : Int) : List Byte := beNat k (i.emod (256 ^ k : Nat)).toNat

/-- The number the bytes spell, most significant first. -/
def natOf (bs : List Byte) : Nat := bs.foldl (fun n b => n * 256 + b.toNat) 0

/-- The signed number the bytes spell. -/
def intOf (bs : List Byte) : Int :=
  let n := natOf bs
  if 2 * n < 256 ^ bs.length then (n : Int) else (n : Int) - (256 ^ bs.length : Nat)

/-- A signed reading of the low `w` bits of `n`. -/
def signedOf (w n : Nat) : Int :=
  let m := n % 2 ^ w
  if 2 * m < 2 ^ w then (m : Int) else (m : Int) - (2 ^ w : Nat)

def encEpoch (e : Int) : List Byte := beInt 7 e
def encRate (r : Int) : List Byte := beInt 5 r
/-- A ceiling of 0 means absent (Table 10-2). -/
def encCeiling (c : Option Nat) : List Byte := beInt 5 (c.getD 0 : Nat)
def encFlag (b : Bool) : List Byte := u8 (if b then 1 else 0)
/-- A field with an absent value of its own: 255 (Table 10-2). -/
def encIndexOpt (i : Option Nat) : List Byte := u8 (i.getD 255)
/-- A presence byte followed by the field, whose `k` bytes are 0 when absent (R201). -/
def encOpt {α : Type} (k : Nat) (enc : α → List Byte) : Option α → List Byte
  | some x => u8 1 ++ enc x
  | none => u8 0 ++ List.replicate k 0
/-- A count byte followed by the entries (R201). -/
def encList {α : Type} (enc : α → List Byte) (l : List α) : List Byte :=
  u8 l.length ++ l.flatMap enc
/-- Angle: whole-turn part, 7 bytes signed; fraction, 4 bytes (Table 10-2). -/
def encAngle (a : Int) : List Byte := beInt 7 (a.fdiv (2 ^ 32)) ++ beNat 4 (a.emod (2 ^ 32)).toNat
def encPort : Port → Nat
  | .A => 0
  | .B => 1
  | .C => 2

/-- One bit of the CRC of R193: generator x^16 + x^12 + x^5 + 1. -/
def crcBit (c : BitVec 16) (b : Bool) : BitVec 16 :=
  if c.msb != b then (c <<< 1) ^^^ 0x1021#16 else c <<< 1

def crcByte (c : BitVec 16) (b : Byte) : BitVec 16 :=
  [7, 6, 5, 4, 3, 2, 1, 0].foldl (fun c i => crcBit c (b.getLsbD i)) c

/-- The CRC over length, tag, code and payload, the register starting at all ones (R193). -/
def crcOf (bs : List Byte) : BitVec 16 := bs.foldl crcByte 0xFFFF#16

/-- The bytes of Table 10-1 the CRC covers. -/
def frameBody (f : Frame) : List Byte := u8 f.payload.length ++ [f.tag, f.code] ++ f.payload

/-- A frame as it goes on the line (Table 10-1): sync 197, body, CRC high byte first. -/
def Frame.bytes (f : Frame) : List Byte :=
  u8 197 ++ frameBody f ++ beNat 2 (crcOf (frameBody f)).toNat

/-! Codes of enumerated values: the position in the table that lists them (R193). -/

def Status.code : Status → Nat
  | .ok => 0 | .granted => 1 | .queued => 2 | .busy => 3 | .badCode => 4 | .badValue => 5 | .notHolder => 6
  | .held => 7 | .locked => 8 | .state => 9 | .range => 10 | .full => 11 | .halted => 12 | .inUse => 13
  | .notReferenced => 14

def ClockState.code : ClockState → Nat
  | .halted => 0 | .running => 1 | .settling => 2
def HaltReason.code : HaltReason → Nat
  | .command => 0 | .range => 1 | .haltLine => 2 | .drivePower => 3 | .start => 4
def TimebaseState.code : TimebaseState → Nat
  | .internal => 0 | .locked => 1 | .holdover => 2
def MarkDirection.code : MarkDirection → Nat
  | .forward => 0 | .backward => 1 | .both => 2
def ChannelKind.code : ChannelKind → Nat
  | .cyclic => 0 | .bounded => 1
/-- R39 lists the reasons in words and no table does: they are counted in the order of its words, which R193 leaves open (log 14). -/
def UncoveredReason.code : UncoveredReason → Nat
  | .disabled => 0 | .empty => 1 | .gap => 2 | .outside => 3
def AxisState.code : AxisState → Nat
  | .unconfigured => 0 | .disabled => 1 | .unreferenced => 2 | .homing => 3 | .standing => 4 | .slewing => 5
  | .tracking => 6 | .stopping => 7 | .faulted => 8
def StageOutcome.code : StageOutcome → Nat
  | .none => 0 | .arrived => 1 | .uncovered => 2 | .outOfRange => 3 | .ended => 4
def FaultCause.code : FaultCause → Nat
  | .hardLimit => 1 | .driveFault => 2 | .homeNotFound => 3
def MemberOutcome.code : MemberOutcome → Nat
  | .evaluating => 0 | .ready => 1 | .moving => 2 | .arrived => 3 | .uncovered => 4 | .outOfRange => 5 | .ended => 6
  | .passedOver _ => 7
/-- Table 4-5 lists the first three; LIMIT, which only the words of R91 add, is counted behind them (log 14). -/
def PassReason.code : PassReason → Nat
  | .unbound => 0 | .notReferenced => 1 | .notStanding => 2 | .limit => 3
def MotionState.code : MotionState → Nat
  | .evaluating => 0 | .moving => 1 | .arrived => 2 | .failed => 3
def EndCause.code : EndCause → Nat
  | .memberEnded => 0 | .outOfRange => 1 | .superseded => 2
def ProgramState.code : ProgramState → Nat
  | .empty => 0 | .opened => 1 | .closed => 2
def TriggerKind.code : TriggerKind → Nat
  | .afterPrevious => 0 | .chained => 1 | .atEpoch => 2 | .delay => 3 | .onLink => 4 | .onSettled => 5
def Edge.code : Edge → Nat
  | .rising => 0 | .falling => 1 | .both => 2
def ReturnPolicy.code : ReturnPolicy → Nat
  | .hold => 0 | .rehome => 1 | .rehomeAndResume => 2
def ReturnOutcome.code : ReturnOutcome → Nat
  | .none => 0 | .held => 1 | .rehomed => 2 | .pending => 3 | .resumed => 4 | .abandoned => 5
def DriveState.code : DriveState → Nat
  | .present => 0 | .absent => 1 | .returning _ => 2
def OutputState.code : OutputState → Nat
  | .inactive => 0 | .set => 1 | .pulsing _ => 2
def Dir.code : Dir → Nat
  | .plus => 0 | .minus => 1
/-- Resource: 0 for SKY, 1 to 8 for G0 to G7 (Table 10-2). -/
def resourceCode : Resource → Nat
  | .sky => 0
  | .group g => g.val + 1
/-- A runner's fault cause: the status code, MOTION_FAILED as 15 (note under Table 10-2). -/
def RunnerCause.code : RunnerCause → Nat
  | .refused st => st.code
  | .motionFailed => 15

end Sys2Proof.Machine
end

