-- ==== Sys2Proof/Machine/Operands.lean ====
section
/-! DEFINITION. The operands of the requests: the index ranges of 00 Table 0-3, the fields of a payload (10 Tables 10-2,
10-5 to 10-7, 10-11), the request codes (Table 10-4), and the decoding of a code with its payload (R195, R200, R201). -/

namespace Sys2Proof.Machine

/-! ## Indices -/

def axisOf (n : Nat) : Option AxisId := if h : n < 16 then some ⟨n, h⟩ else none
def groupIdOf (n : Nat) : Option GroupId := if h : n < 8 then some ⟨n, h⟩ else none
def channelOf (n : Nat) : Option ChannelId := if h : n < 12 then some ⟨n, h⟩ else none
def markOf (n : Nat) : Option MarkId := if h : n < 4 then some ⟨n, h⟩ else none
def linkOf (n : Nat) : Option LinkId := if h : n < 24 then some ⟨n, h⟩ else none
def trigOf (n : Nat) : Option TrigId := if h : n < 4 then some ⟨n, h⟩ else none
def outputOf (n : Nat) : Option OutputId := if h : n < 4 then some ⟨n, h⟩ else none
def programOf (n : Nat) : Option ProgramId := if h : n < 16 then some ⟨n, h⟩ else none
def portOf : Nat → Option Port
  | 0 => some .A
  | 1 => some .B
  | 2 => some .C
  | _ => none

/-- A resource by its code (Table 10-2): 0 is SKY, 1 to 8 are G0 to G7. -/
def resourceOf (n : Nat) : Option Resource :=
  if n = 0 then some .sky else (groupIdOf (n - 1)).map .group

/-! ## Fields -/

/-- Entries of axis and target, 5 bytes each. -/
def entriesOf : Nat → List Byte → List (Nat × BitVec 32)
  | 0, _ => []
  | n + 1, bs => ((bs.headD 0).toNat, BitVec.ofNat 32 (natOf ((bs.drop 1).take 4))) :: entriesOf n (bs.drop 5)

/-- The bytes of one field. -/
def field (bs : List Byte) (at_ n : Nat) : List Byte := (bs.drop at_).take n

/-! ## Codes (Table 10-4) -/

def requestCode : Request → Nat
  | .identify => 1 | .readStartRecord => 2 | .readSnapshot => 3 | .readPortStatus _ => 4 | .haltAll => 5
  | .readClock => 16 | .setRate _ _ => 17 | .run => 18 | .halt => 19 | .setEpoch _ _ => 20 | .setSettleTime _ => 21
  | .setGovernor _ => 22 | .setTimebase _ => 23 | .setSyncPeriod _ => 24 | .setMark _ _ _ _ _ => 25 | .readMark _ => 26
  | .appendSegments _ _ => 32 | .insertSegment _ _ => 33 | .deleteSpan _ _ _ => 34 | .clearChannel _ => 35
  | .setChannelKind _ _ => 36 | .setChannelEnable _ _ => 37 | .readChannel _ => 38 | .readSegment _ _ => 39
  | .readStore => 40 | .queryAngle _ _ _ => 41
  | .readAxisRecord _ => 48 | .configureAxis _ _ => 49 | .bind _ _ => 50 | .unbind _ => 51 | .lockSafety _ => 52
  | .readAxisState _ => 53 | .enable _ => 54 | .disable _ => 55 | .declareReference _ _ _ => 56 | .slew _ _ _ => 57
  | .track _ => 58 | .stop _ => 59 | .home _ => 60 | .clearFault _ => 61
  | .readGroup _ => 64 | .coordinatedSlew _ _ => 65 | .stageGroup _ _ => 66 | .trackGroup _ => 67 | .stopGroup _ => 68
  | .readGroupMotion _ => 69
  | .readClaims => 80 | .claim _ _ _ _ => 81 | .renew _ => 82 | .release _ => 83 | .withdraw _ => 84
  | .openProgram _ _ => 96 | .appendCues _ _ => 97 | .closeProgram _ => 98 | .eraseProgram _ => 99 | .readProgram _ _ => 100
  | .runProgram _ => 112 | .stopRunner => 113 | .resume => 114 | .leaveLoop => 115 | .readRunner _ => 116
  | .setLink _ _ _ _ => 128 | .setLinkEnable _ _ => 129 | .readLink _ => 130 | .setTriggerFilter _ _ => 131
  | .readLines => 132 | .readCapture => 133
  | .readDrivePower => 144 | .setReturnPolicy _ => 145
  | .fetchNotices => 160 | .setNoticeMask _ => 161 | .setNoticeRouting _ _ _ => 162 | .readNoticeRouting => 163
  | .setReportRate _ => 164

/-- The code byte of a request. -/
def requestByte (q : Request) : Byte := BitVec.ofNat 8 (requestCode q)

/-! ## Decoding a payload (R195, R200, R201) -/

/-- What a code and payload spell. -/
inductive Decoded where
  | badCode
  | badLength
  | request (q : Request)
deriving DecidableEq, Repr

def ofLength (n : Nat) (b : List Byte) (q : Request) : Decoded := if b.length = n then .request q else .badLength

def nat1 (b : List Byte) (at_ : Nat) : Nat := natOf (field b at_ 1)

/-- Table 10-5. -/
def rawSegment (b : List Byte) : RawSegment :=
  { start := intOf (field b 0 7), span := natOf (field b 7 6), a0 := natOf (field b 13 4), a1 := intOf (field b 17 6),
    flag := natOf (field b 23 1), a2 := intOf (field b 24 8) }

def rawSegments : Nat → List Byte → List RawSegment
  | 0, _ => []
  | n + 1, b => rawSegment b :: rawSegments n (b.drop 32)

/-- Table 10-11. -/
def rawRecord (b : List Byte) : RawRecord :=
  { kind := nat1 b 0, stepsPerTurn := natOf (field b 1 4), softPresence := nat1 b 5, softMin := intOf (field b 6 4),
    softMax := intOf (field b 10 4), velocity := natOf (field b 14 4), acceleration := natOf (field b 18 4),
    haltDecel := natOf (field b 22 4), stopDecel := natOf (field b 26 4), lagLimit := natOf (field b 30 4),
    settleTolerance := natOf (field b 34 2), homeMethod := nat1 b 36, homeDirection := nat1 b 37,
    homeSpeed := natOf (field b 38 4), homeEdge := nat1 b 42, homeFilter := nat1 b 43,
    homeOffset := BitVec.ofNat 32 (natOf (field b 44 4)), searchDistance := natOf (field b 48 4),
    clearPolicy := nat1 b 52, keepPosition := nat1 b 53, pulseWidth := nat1 b 54, reversalPause := natOf (field b 55 2),
    dirPolarity := nat1 b 57, group := nat1 b 58, wrapPolicy := nat1 b 59, binding := nat1 b 60,
    zeroOffset := BitVec.ofNat 32 (natOf (field b 61 4)), sense := nat1 b 65 }

/-- Table 10-6. -/
def rawCue (b : List Byte) : RawCue :=
  { length := b.length, kind := nat1 b 1, trigger := nat1 b 2, flags := (b.drop 3).headD 0,
    value := BitVec.ofNat 56 (natOf (field b 4 7)), targetKind := nat1 b 11, target := nat1 b 12, params := b.drop 13 }

/-- Cues back to back; `none` where their lengths do not add up to the bytes (R200). -/
def rawCues : Nat → List Byte → Option (List RawCue)
  | 0, [] => some []
  | 0, _ :: _ => none
  | _ + 1, [] => none
  | n + 1, x :: xs =>
    let l := x.toNat
    if l = 0 ∨ (x :: xs).length < l then none
    else (rawCues n ((x :: xs).drop l)).map fun cs => rawCue ((x :: xs).take l) :: cs

/-- A source of Set Link, 3 bytes. In every form but TRIG the last 2 are the index, both read: an index of one byte with a byte before it
that is not 0 is out of range and refused (log 14). -/
def rawSource (b : List Byte) : RawSource :=
  if nat1 b 0 = 1 then { form := 1, index := nat1 b 1, edge := nat1 b 2 }
  else { form := nat1 b 0, index := natOf (field b 1 2), edge := 0 }

/-- A destination of Set Link, 6 bytes. The bytes before a shorter value are part of the index, so that one of them that is not 0 puts
the index out of range, and Set Link refuses it (log 14). -/
def rawDest (b : List Byte) : RawDest :=
  if nat1 b 0 = 1 then { form := 1, index := natOf (field b 1 4), param := nat1 b 5 }
  else if nat1 b 0 = 2 then { form := 2, index := nat1 b 1, param := natOf (field b 2 4) }
  else { form := nat1 b 0, index := natOf (field b 1 5), param := 0 }

/-- A code and its payload (R195; lengths by R201, log 14). -/
def decodeRequest (code : Nat) (b : List Byte) : Decoded :=
  match code with
  | 1 => ofLength 0 b .identify
  | 2 => ofLength 0 b .readStartRecord
  | 3 => ofLength 0 b .readSnapshot
  | 4 => ofLength 1 b (.readPortStatus (nat1 b 0))
  | 5 => ofLength 0 b .haltAll
  | 16 => ofLength 0 b .readClock
  | 17 => ofLength 9 b (.setRate (intOf (field b 0 5)) (natOf (field b 5 4)))
  | 18 => ofLength 0 b .run
  | 19 => ofLength 0 b .halt
  | 20 => ofLength 8 b (.setEpoch (intOf (field b 0 7)) (nat1 b 7))
  | 21 => ofLength 2 b (.setSettleTime (natOf (field b 0 2)))
  | 22 => ofLength 1 b (.setGovernor (nat1 b 0))
  | 23 => ofLength 1 b (.setTimebase (nat1 b 0))
  | 24 => ofLength 4 b (.setSyncPeriod (natOf (field b 0 4)))
  | 25 => ofLength 17 b (.setMark (nat1 b 0) (nat1 b 1) (natOf (field b 2 7)) (intOf (field b 9 7)) (nat1 b 16))
  | 26 => ofLength 1 b (.readMark (nat1 b 0))
  | 32 => ofLength (2 + 32 * nat1 b 1) b (.appendSegments (nat1 b 0) (rawSegments (nat1 b 1) (b.drop 2)))
  | 33 => ofLength 33 b (.insertSegment (nat1 b 0) (rawSegment (b.drop 1)))
  | 34 => ofLength 15 b (.deleteSpan (nat1 b 0) (intOf (field b 1 7)) (intOf (field b 8 7)))
  | 35 => ofLength 1 b (.clearChannel (nat1 b 0))
  | 36 => ofLength 2 b (.setChannelKind (nat1 b 0) (nat1 b 1))
  | 37 => ofLength 2 b (.setChannelEnable (nat1 b 0) (nat1 b 1))
  | 38 => ofLength 1 b (.readChannel (nat1 b 0))
  | 39 => ofLength 2 b (.readSegment (nat1 b 0) (nat1 b 1))
  | 40 => ofLength 0 b .readStore
  | 41 => ofLength 9 b (.queryAngle (nat1 b 0) (nat1 b 1) (intOf (field b 2 7)))
  | 48 => ofLength 1 b (.readAxisRecord (nat1 b 0))
  | 49 => ofLength 67 b (.configureAxis (nat1 b 0) (rawRecord (b.drop 1)))
  | 50 => ofLength 2 b (.bind (nat1 b 0) (nat1 b 1))
  | 51 => ofLength 1 b (.unbind (nat1 b 0))
  | 52 => ofLength 1 b (.lockSafety (nat1 b 0))
  | 53 => ofLength 1 b (.readAxisState (nat1 b 0))
  | 54 => ofLength 1 b (.enable (nat1 b 0))
  | 55 => ofLength 1 b (.disable (nat1 b 0))
  | 56 => ofLength 9 b (.declareReference (nat1 b 0) (BitVec.ofNat 32 (natOf (field b 1 4)))
      (BitVec.ofNat 32 (natOf (field b 5 4))))
  | 57 => ofLength 9 b (.slew (nat1 b 0) (nat1 b 1) (BitVec.ofNat 56 (natOf (field b 2 7))))
  | 58 => ofLength 1 b (.track (nat1 b 0))
  | 59 => ofLength 1 b (.stop (nat1 b 0))
  | 60 => ofLength 1 b (.home (nat1 b 0))
  | 61 => ofLength 1 b (.clearFault (nat1 b 0))
  | 64 => ofLength 1 b (.readGroup (nat1 b 0))
  | 65 => ofLength (2 + 5 * nat1 b 1) b (.coordinatedSlew (nat1 b 0) (entriesOf (nat1 b 1) (b.drop 2)))
  | 66 => ofLength 8 b (.stageGroup (nat1 b 0) (intOf (field b 1 7)))
  | 67 => ofLength 1 b (.trackGroup (nat1 b 0))
  | 68 => ofLength 1 b (.stopGroup (nat1 b 0))
  | 69 => ofLength 1 b (.readGroupMotion (nat1 b 0))
  | 80 => ofLength 0 b .readClaims
  | 81 => ofLength 5 b (.claim (nat1 b 0) (nat1 b 1) (nat1 b 2) (natOf (field b 3 2)))
  | 82 => ofLength 1 b (.renew (nat1 b 0))
  | 83 => ofLength 1 b (.release (nat1 b 0))
  | 84 => ofLength 1 b (.withdraw (nat1 b 0))
  | 96 => ofLength 3 b (.openProgram (nat1 b 0) (BitVec.ofNat 16 (natOf (field b 1 2))))
  | 97 =>
    if b.length < 2 then .badLength
    else match rawCues (nat1 b 1) (b.drop 2) with
      | some cues => .request (.appendCues (nat1 b 0) cues)
      | none => .badLength
  | 98 => ofLength 1 b (.closeProgram (nat1 b 0))
  | 99 => ofLength 1 b (.eraseProgram (nat1 b 0))
  | 100 => ofLength 2 b (.readProgram (nat1 b 0) (nat1 b 1))
  | 112 => ofLength 1 b (.runProgram (nat1 b 0))
  | 113 => ofLength 0 b .stopRunner
  | 114 => ofLength 0 b .resume
  | 115 => ofLength 0 b .leaveLoop
  | 116 => ofLength 1 b (.readRunner (nat1 b 0))
  | 128 => ofLength 11 b (.setLink (nat1 b 0) (nat1 b 1) (rawSource (b.drop 2)) (rawDest (b.drop 5)))
  | 129 => ofLength 2 b (.setLinkEnable (nat1 b 0) (nat1 b 1))
  | 130 => ofLength 1 b (.readLink (nat1 b 0))
  | 131 => ofLength 2 b (.setTriggerFilter (nat1 b 0) (nat1 b 1))
  | 132 => ofLength 0 b .readLines
  | 133 => ofLength 0 b .readCapture
  | 144 => ofLength 0 b .readDrivePower
  | 145 => ofLength 1 b (.setReturnPolicy (nat1 b 0))
  | 160 => ofLength 0 b .fetchNotices
  | 161 => ofLength 4 b (.setNoticeMask (BitVec.ofNat 32 (natOf (field b 0 4))))
  | 162 => ofLength 3 b (.setNoticeRouting (nat1 b 0) (nat1 b 1) (nat1 b 2))
  | 163 => ofLength 0 b .readNoticeRouting
  | 164 => ofLength 2 b (.setReportRate (natOf (field b 0 2)))
  | _ => .badCode

/-! ## The payload of a request (R199 to R201) -/

/-- Table 10-5. -/
def bytesOfSegment (r : RawSegment) : List Byte :=
  beInt 7 r.start ++ beNat 6 r.span ++ beNat 4 r.a0 ++ beInt 6 r.a1 ++ u8 r.flag ++ beInt 8 r.a2

/-- Table 10-11. -/
def bytesOfRecord (r : RawRecord) : List Byte :=
  u8 r.kind ++ beNat 4 r.stepsPerTurn ++ u8 r.softPresence ++ beInt 4 r.softMin ++ beInt 4 r.softMax ++
    beNat 4 r.velocity ++ beNat 4 r.acceleration ++ beNat 4 r.haltDecel ++ beNat 4 r.stopDecel ++ beNat 4 r.lagLimit ++
    beNat 2 r.settleTolerance ++ u8 r.homeMethod ++ u8 r.homeDirection ++ beNat 4 r.homeSpeed ++ u8 r.homeEdge ++
    u8 r.homeFilter ++ beNat 4 r.homeOffset.toNat ++ beNat 4 r.searchDistance ++ u8 r.clearPolicy ++ u8 r.keepPosition ++
    u8 r.pulseWidth ++ beNat 2 r.reversalPause ++ u8 r.dirPolarity ++ u8 r.group ++ u8 r.wrapPolicy ++ u8 r.binding ++
    beNat 4 r.zeroOffset.toNat ++ u8 r.sense

/-- Tables 10-6 and 10-7. -/
def bytesOfCue (c : RawCue) : List Byte :=
  u8 c.length ++ u8 c.kind ++ u8 c.trigger ++ [c.flags] ++ beNat 7 c.value.toNat ++ u8 c.targetKind ++ u8 c.target ++
    c.params

/-- A source as Set Link carries it. -/
def bytesOfSource (r : RawSource) : List Byte :=
  u8 r.form ++ (if r.form = 1 then u8 r.index ++ u8 r.edge else beNat 2 r.index)

/-- A destination as Set Link carries it. -/
def bytesOfDest (r : RawDest) : List Byte :=
  u8 r.form ++
    (if r.form = 1 then beNat 4 r.index ++ u8 r.param
     else if r.form = 2 then u8 r.index ++ beNat 4 r.param
     else beNat 5 r.index)

/-- The payload of a request: its fields in order (R201). -/
def encodeRequest : Request → List Byte
  | .identify => []
  | .readStartRecord => []
  | .readSnapshot => []
  | .readPortStatus port => u8 port
  | .haltAll => []
  | .readClock => []
  | .setRate goal ramp => beInt 5 goal ++ beNat 4 ramp
  | .run => []
  | .halt => []
  | .setEpoch epoch mode => beInt 7 epoch ++ u8 mode
  | .setSettleTime seconds => beNat 2 seconds
  | .setGovernor onOff => u8 onOff
  | .setTimebase mode => u8 mode
  | .setSyncPeriod ms => beNat 4 ms
  | .setMark mark onOff period phase direction => u8 mark ++ u8 onOff ++ beNat 7 period ++ beInt 7 phase ++ u8 direction
  | .readMark mark => u8 mark
  | .appendSegments channel segments => u8 channel ++ u8 segments.length ++ segments.flatMap bytesOfSegment
  | .insertSegment channel segment => u8 channel ++ bytesOfSegment segment
  | .deleteSpan channel x0 x1 => u8 channel ++ beInt 7 x0 ++ beInt 7 x1
  | .clearChannel channel => u8 channel
  | .setChannelKind channel kind => u8 channel ++ u8 kind
  | .setChannelEnable channel onOff => u8 channel ++ u8 onOff
  | .readChannel channel => u8 channel
  | .readSegment channel index => u8 channel ++ u8 index
  | .readStore => []
  | .queryAngle channel form epoch => u8 channel ++ u8 form ++ beInt 7 epoch
  | .readAxisRecord axis => u8 axis
  | .configureAxis axis record => u8 axis ++ bytesOfRecord record
  | .bind axis channel => u8 axis ++ u8 channel
  | .unbind axis => u8 axis
  | .lockSafety axis => u8 axis
  | .readAxisState axis => u8 axis
  | .enable axis => u8 axis
  | .disable axis => u8 axis
  | .declareReference axis hi lo => u8 axis ++ beNat 4 hi.toNat ++ beNat 4 lo.toNat
  | .slew axis form value => u8 axis ++ u8 form ++ beNat 7 value.toNat
  | .track axis => u8 axis
  | .stop axis => u8 axis
  | .home axis => u8 axis
  | .clearFault axis => u8 axis
  | .readGroup group => u8 group
  | .coordinatedSlew group entries => u8 group ++ u8 entries.length ++ entries.flatMap fun e => u8 e.1 ++ beNat 4 e.2.toNat
  | .stageGroup group epoch => u8 group ++ beInt 7 epoch
  | .trackGroup group => u8 group
  | .stopGroup group => u8 group
  | .readGroupMotion group => u8 group
  | .readClaims => []
  | .claim resource wait preempt lease => u8 resource ++ u8 wait ++ u8 preempt ++ beNat 2 lease
  | .renew resource => u8 resource
  | .release resource => u8 resource
  | .withdraw resource => u8 resource
  | .openProgram program requirement => u8 program ++ beNat 2 requirement.toNat
  | .appendCues program cues => u8 program ++ u8 cues.length ++ cues.flatMap bytesOfCue
  | .closeProgram program => u8 program
  | .eraseProgram program => u8 program
  | .readProgram program index => u8 program ++ u8 index
  | .runProgram program => u8 program
  | .stopRunner => []
  | .resume => []
  | .leaveLoop => []
  | .readRunner runner => u8 runner
  | .setLink link onOff source dest => u8 link ++ u8 onOff ++ bytesOfSource source ++ bytesOfDest dest
  | .setLinkEnable link onOff => u8 link ++ u8 onOff
  | .readLink link => u8 link
  | .setTriggerFilter input length => u8 input ++ u8 length
  | .readLines => []
  | .readCapture => []
  | .readDrivePower => []
  | .setReturnPolicy policy => u8 policy
  | .fetchNotices => []
  | .setNoticeMask mask => beNat 4 mask.toNat
  | .setNoticeRouting kind form ports => u8 kind ++ u8 form ++ u8 ports
  | .readNoticeRouting => []
  | .setReportRate k => beNat 2 k

end Sys2Proof.Machine
end

