-- ==== Sys2Proof/Machine/Flags.lean ====
section
/-! DEFINITION. The flags and lines of the part that follow from other items and are held nowhere else: the applied rate
(R1), ENA (R65), ATTN (R207), FAULT_OUT (R188), the presence of drive power (R182), the lag (R79), free places (R27, R130). -/

namespace Sys2Proof.Machine

/-- The applied rate Ra (R1). -/
def Clock.ra (c : Clock) : Int :=
  match c.state with
  | .running =>
    match c.ceiling with
    | none => c.scheduled
    | some k => if c.scheduled.natAbs ≤ k then c.scheduled else c.scheduled.sign * k
  | .halted => 0
  | .settling => 0

/-- Drive power is present in PRESENT alone (R182). -/
def State.drivePresent (s : State) : Bool := s.power.state == .present

/-- The HALT line is asserted while its accepted level is active (R179). -/
def State.haltAsserted (s : State) : Bool := s.power.halt.accepted

/-- The condition of the refusals with HALTED: HALT asserted or drive power absent (R7, R68). -/
def State.held (s : State) : Bool := s.haltAsserted || !s.drivePresent

/-- The states of R65 and R175 in which a drive is live. -/
def AxisState.live : AxisState → Bool
  | .unreferenced | .homing | .standing | .slewing | .tracking | .stopping => true
  | .unconfigured | .disabled | .faulted => false

/-- The states in which the step generator may emit pulses (R66, Table 4-1). -/
def AxisState.moving : AxisState → Bool
  | .homing | .slewing | .tracking | .stopping => true
  | .unconfigured | .disabled | .unreferenced | .standing | .faulted => false

/-- ENA of an axis (R65; inactive while the part is held in reset, R211). -/
def State.ena (s : State) (a : AxisId) : Bool :=
  s.phase == .running && s.drivePresent && s.axes[a].state.live

/-- STEP of an axis: active during a pulse (R66). -/
def State.stepLine (s : State) (a : AxisId) : Bool := s.axes[a].pulse.isSome

def allAxes : List AxisId := [0, 1, 2, 3, 4, 5, 6, 7, 8, 9, 10, 11, 12, 13, 14, 15]
def allPorts : List Port := [.A, .B, .C]
def allGroups : List GroupId := [0, 1, 2, 3, 4, 5, 6, 7]
def allPrograms : List ProgramId := [0, 1, 2, 3, 4, 5, 6, 7, 8, 9, 10, 11, 12, 13, 14, 15]
def allChannels : List ChannelId := [0, 1, 2, 3, 4, 5, 6, 7, 8, 9, 10, 11]
def allMarks : List MarkId := [0, 1, 2, 3]
def allResources : List Resource :=
  [.sky, .group 0, .group 1, .group 2, .group 3, .group 4, .group 5, .group 6, .group 7]
def allLinks : List LinkId :=
  [0, 1, 2, 3, 4, 5, 6, 7, 8, 9, 10, 11, 12, 13, 14, 15, 16, 17, 18, 19, 20, 21, 22, 23]

/-- FAULT_OUT (R188); in reset it follows the levels last accepted (log 20). -/
def State.faultOut (s : State) : Bool :=
  s.haltAsserted || !s.drivePresent || allAxes.any fun a => s.axes[a].state == .faulted

/-- Kind numbers of Table 10-9. -/
def NoticeKind.idx : NoticeKind → Fin 25
  | .start => 0 | .clockRange => 1 | .clockSettled => 2 | .governorEngaged => 3 | .governorReleased => 4
  | .timebaseLost => 5 | .timebaseLocked => 6 | .mark => 7 | .channelGap => 8 | .axisLagging => 9 | .axisClamped => 10
  | .axisFault => 11 | .axisHomed => 12 | .claimLost => 13 | .claimLapsed => 14 | .claimGranted => 15
  | .runnerFault => 16 | .programEnded => 17 | .cueNote => 18 | .linkOverrun => 19 | .linkRefused => 20
  | .captureOverrun => 21 | .drivePowerLost => 22 | .drivePowerReturned => 23 | .resumeAbandoned => 24

/-- All kinds in kind order (Table 10-9). -/
def allKinds : List NoticeKind :=
  [.start, .clockRange, .clockSettled, .governorEngaged, .governorReleased, .timebaseLost, .timebaseLocked, .mark,
   .channelGap, .axisLagging, .axisClamped, .axisFault, .axisHomed, .claimLost, .claimLapsed, .claimGranted,
   .runnerFault, .programEnded, .cueNote, .linkOverrun, .linkRefused, .captureOverrun, .drivePowerLost,
   .drivePowerReturned, .resumeAbandoned]

/-- The routed kinds of Table 10-9; the others are addressed. -/
def NoticeKind.routed : NoticeKind → Bool
  | .clockRange | .clockSettled | .governorEngaged | .governorReleased | .timebaseLost | .timebaseLocked | .mark
  | .channelGap | .axisLagging | .axisClamped | .axisFault | .axisHomed | .captureOverrun | .drivePowerLost
  | .drivePowerReturned | .resumeAbandoned => true
  | .start | .claimLost | .claimLapsed | .claimGranted | .runnerFault | .programEnded | .cueNote | .linkOverrun
  | .linkRefused => false

/-- A pending entry of a kind outside the mask (R207). -/
def PortState.unmasked (q : PortState) (k : NoticeKind) : Bool :=
  q.notices[k.idx].isSome && !q.mask.getLsbD k.idx.val

/-- ATTN of a port (R207; inactive while the part is held in reset, R211). -/
def State.attn (s : State) (p : Port) : Bool :=
  s.phase == .running && allKinds.any fun k => (s.ports.get p).unmasked k

/-- Free segment places (R27). -/
def State.freeSegments (s : State) : Nat :=
  Config.segmentPlaces - (allChannels.map fun c => s.channels[c].segments.length).sum

/-- Free cue places (R130). -/
def State.freeCues (s : State) : Nat :=
  Config.cuePlaces - (allPrograms.map fun i => s.programs[i].cues.length).sum

def Dir.sign : Dir → Int
  | .plus => 1
  | .minus => -1

def Dir.flip : Dir → Dir
  | .plus => .minus
  | .minus => .plus

/-- The direction of a non-zero difference. -/
def dirOf (d : Int) : Option Dir :=
  if d = 0 then none else if 0 < d then some .plus else some .minus

/-- The position of an axis as one number (R64): the extended position of a CONTINUOUS axis, the step position of a
LIMITED one. -/
def Axis.extended (x : Axis) : Int :=
  match x.record.kind with
  | .continuous => x.position.turn * x.record.stepsPerTurn + x.position.within
  | .limited => x.position.within

/-- The difference of two positions of an axis: for a CONTINUOUS axis the one of least magnitude modulo 2^32 turns (R64). -/
def Axis.difference (x : Axis) (target from_ : Int) : Int :=
  match x.record.kind with
  | .limited => target - from_
  | .continuous =>
    let m : Int := 2 ^ 32 * x.record.stepsPerTurn
    let d := (target - from_).emod m
    if 2 * d ≤ m then d else d - m

/-- The lag of a tracking axis (R79): absent while the acquire flag is set (R78). -/
def Axis.lag (x : Axis) : Option Nat :=
  match x.tracking with
  | some t => if t.acquire then none else some (x.difference t.target x.extended).natAbs
  | none => none

/-- The accepted level of a hard-limit input. -/
def Axis.limitLevel (x : Axis) : LimitSide → Bool
  | .plus => x.limP.accepted
  | .minus => x.limN.accepted

def Dir.side : Dir → LimitSide
  | .plus => .plus
  | .minus => .minus

/-- The active level of HOME: that of the homing record in HOMING, else that of the record's home edge (R97). -/
def Axis.homeActiveHigh (x : Axis) : Bool :=
  match x.homing with
  | some h => h.activeHigh
  | none => x.record.homeRising

/-- The accepted level of HOME is active (R97). -/
def Axis.homeActive (x : Axis) : Bool := x.home.accepted == x.homeActiveHigh

/-- The remembered hard limit with its input active (R94). -/
def Axis.activeMemory (x : Axis) : Option LimitSide :=
  match x.limitMemory with
  | some side => if x.limitLevel side then some side else none
  | none => none

/-- A target on an active remembered limit's side of the position (R94). -/
def Axis.towardMemory (x : Axis) (target : Int) : Bool :=
  match x.activeMemory with
  | some .plus => decide (0 < x.difference target x.extended)
  | some .minus => decide (x.difference target x.extended < 0)
  | none => false

/-! ## Positions -/

/-- A position as its two words (Table 10-2). -/
def Position.words (k : AxisKind) (q : Position) : Int × Int :=
  match k with
  | .continuous => (q.turn, q.within)
  | .limited => (q.within, 0)

def Axis.words (x : Axis) : Int × Int := x.position.words x.record.kind

/-- The position of an axis in a capture: absent while UNCONFIGURED or not known (R170, R110). -/
def Axis.snapped (x : Axis) : Option (Int × Int) :=
  if x.state = .unconfigured ∨ x.known = false then none else some x.words

end Sys2Proof.Machine
end

