-- ==== Sys2Proof/Machine/Ops.lean ====
section
/-! DEFINITION. The named operations every chapter's rules share: reading and writing one axis, port, runner or claim;
notices (10 section 10.6); signals raised inside a step; the claim check and the leases (06); the free orders; and the
outcome of a command. -/

namespace Sys2Proof.Machine

/-- What a request answers: status, detail (255 where the rule names none, R196) and the data bytes. -/
structure Reply where
  status : Status
  detail : Nat
  data : List Byte
deriving DecidableEq, Repr

/-- A refusal with no detail: nothing changes. -/
def refuse (st : Status) (s : State) : State × Reply := (s, ⟨st, 255, []⟩)
/-- A refusal that names an item in the detail byte (R196). -/
def refuseAt (st : Status) (detail : Nat) (s : State) : State × Reply := (s, ⟨st, detail, []⟩)
def answerOk (s : State) : State × Reply := (s, ⟨.ok, 255, []⟩)
def answerData (data : List Byte) (s : State) : State × Reply := (s, ⟨.ok, 255, data⟩)

/-! ## One axis, port, runner -/

def State.axis (s : State) (a : AxisId) : Axis := s.axes[a]
def State.setAxis (s : State) (a : AxisId) (x : Axis) : State := { s with axes := s.axes.set a x }
def State.modAxis (s : State) (a : AxisId) (f : Axis → Axis) : State := s.setAxis a (f (s.axis a))

def State.port (s : State) (p : Port) : PortState := s.ports.get p
def State.setPort (s : State) (p : Port) (q : PortState) : State := { s with ports := s.ports.set p q }
def State.modPort (s : State) (p : Port) (f : PortState → PortState) : State := s.setPort p (f (s.port p))

def State.runner (s : State) (r : Port) : Runner := s.runners.get r
def State.setRunner (s : State) (r : Port) (x : Runner) : State := { s with runners := s.runners.set r x }
def State.modRunner (s : State) (r : Port) (f : Runner → Runner) : State := s.setRunner r (f (s.runner r))

def State.setMotion (s : State) (g : GroupId) (m : Option GroupMotion) : State := { s with motions := s.motions.set g m }

def State.program (s : State) (i : ProgramId) : Program := s.programs[i]
def State.setProgram (s : State) (i : ProgramId) (x : Program) : State := { s with programs := s.programs.set i x }
def State.setLink (s : State) (l : LinkId) (x : Link) : State := { s with links := s.links.set l x }
def State.setChannel (s : State) (c : ChannelId) (x : Channel) : State := { s with channels := s.channels.set c x }
def State.withClock (s : State) (c : Clock) : State := { s with clock := c }
def State.withPower (s : State) (d : DrivePower) : State := { s with power := d }

/-- A count that saturates at 255 (00 section 3.4). -/
def sat255 (n : Nat) : Nat := if n < 255 then n + 1 else 255

/-- Signals wait in the order they are raised (R147, log 5). -/
def State.raise (s : State) (x : Signal) : State := { s with signals := s.signals ++ [x] }
/-- An event of Table 8-2 that carries no snapshot. -/
def State.event (s : State) (e : Source) : State := s.raise (.event e none)

/-- The model's next serial (log 21). -/
def State.fresh (s : State) : State × Nat := ({ s with serial := s.serial + 1 }, s.serial)

/-! ## Free orders (log 6) -/

def insertByRank {α : Type} (key : α → Nat) (x : α) : List α → List α
  | [] => [x]
  | y :: ys => if key x ≤ key y then x :: y :: ys else y :: insertByRank key x ys

/-- The items in an order the spec leaves undefined, drawn afresh; one item or none needs no draw. -/
def State.freeOrder {α : Type} (s : State) (key : α → Nat) (l : List α) : State × List α :=
  match l with
  | [] => (s, [])
  | [x] => (s, [x])
  | l => ({ s with freeCount := s.freeCount + 1 }, l.foldr (insertByRank fun x => Config.rank s.freeCount (key x)) [])

/-! ## Claims (R112, R119) -/

/-- The place of a resource in the table: SKY, then G0 to G7. -/
def resourceIdx : Resource → Fin 9
  | .sky => 0
  | .group g => ⟨g.val + 1, by omega⟩

def State.claim (s : State) (r : Resource) : ClaimEntry := s.claims[resourceIdx r]
def State.setClaim (s : State) (r : Resource) (c : ClaimEntry) : State := { s with claims := s.claims.set (resourceIdx r) c }

/-- The holder of a resource as the claim table stands (R113). -/
def State.holderOf (s : State) (r : Resource) : Option Port := (s.claim r).holder.map (·.port)
/-- The claim check (R112). -/
def State.holds (s : State) (p : Port) (r : Resource) : Bool := s.holderOf r == some p

/-- A present lease restarts at its full length (R119). -/
def Holder.restart (h : Holder) : Holder :=
  { h with lease := h.lease.map fun l => { l with remaining := l.length * 1000 } }
def State.restartLease (s : State) (r : Resource) : State :=
  s.setClaim r { s.claim r with holder := (s.claim r).holder.map Holder.restart }

/-- The refusal NOT_HOLDER names the resource not held (R112, R196). -/
def notHolder (r : Resource) (s : State) : State × Reply := refuseAt .notHolder (resourceCode r) s

/-- The group of an axis as its record names it when the request is taken (R112). -/
def State.groupOf (s : State) (a : AxisId) : Resource := .group (s.axis a).record.group

/-- The resources of a requirement set, SKY before G0 (Table 10-2). -/
def requirementList (b : BitVec 16) : List Resource := allResources.filter fun r => b.getLsbD (resourceIdx r).val

/-! ## Notices (R204 to R206) -/

/-- A notice delivered to a port forms or updates its entry (R204). -/
def PortState.deliver (q : PortState) (k : NoticeKind) (subject : Option Nat) (timeout : Bool) : PortState :=
  let e : NoticeEntry :=
    match q.notices[k.idx] with
    | some e => { count := sat255 e.count, subject := subject, timeout := e.timeout || timeout }
    | none => { count := 1, subject := subject, timeout := timeout }
  { q with notices := q.notices.set k.idx (some e) }

/-- An addressed notice goes to the port its row names (R206). -/
def State.noticeTo (s : State) (p : Port) (k : NoticeKind) (subject : Option Nat) : State :=
  s.modPort p fun q => q.deliver k subject false

/-- The ports a routed notice is delivered to as routing and claims stand (R206). -/
def State.routedPorts (s : State) (k : NoticeKind) (concern : Resource) : List Port :=
  match s.routing[k.idx] with
  | .all => allPorts
  | .ports set => allPorts.filter fun p => set.getLsbD (encPort p)
  | .holder =>
    match s.holderOf concern with
    | some p => [p]
    | none => allPorts

/-- A routed notice (R206). -/
def State.notify (s : State) (k : NoticeKind) (concern : Resource) (subject : Option Nat) (timeout : Bool := false) : State :=
  (s.routedPorts k concern).foldl (fun s p => s.modPort p fun q => q.deliver k subject timeout) s

/-- A routed notice of an axis kind: its group, its number (Table 10-9). -/
def State.notifyAxis (s : State) (k : NoticeKind) (a : AxisId) : State :=
  s.notify k (s.groupOf a) (some a.val)

/-- The sky at this moment (Table 8-6). -/
def State.skySnap (s : State) : SkySnap :=
  { epoch := s.clock.epoch, ra := s.clock.ra, state := s.clock.state, positions := allAxes.map fun a => (s.axis a).snapped }

/-! ## Waiting runners (R142 to R145) -/

/-- The cue list of the runner's program. -/
def State.cuesOf (s : State) (r : Port) : List Cue :=
  match (s.runner r).program with
  | some i => (s.program i).cues
  | none => []

/-- The cue on whose trigger the runner waits; none during the loop pause (R154). -/
def State.waitingOn (s : State) (r : Port) : Option Cue :=
  let x := s.runner r
  if x.state = .waitingTrigger ∧ x.loopPause = none then (s.cuesOf r)[x.cue]? else none

def State.waitsFor (s : State) (r : Port) (k : TriggerKind) : Bool :=
  match s.waitingOn r with
  | some c => c.trigger == k
  | none => false

/-- The runners an epoch announcement goes to (R3): those that wait on AT_EPOCH as it is made. -/
def State.epochWaiters (s : State) : List Port := allPorts.filter fun r => s.waitsFor r .atEpoch

/-- An epoch announcement to the runners, taken in its turn (R3, R143). -/
def State.raiseEpoch (s : State) (e : Int) : State := s.raise (.epoch e s.epochWaiters)

/-! ## Square roots (log 9) -/

/-- The greatest root below `r + 2^(n+1)` whose square is at most `v`, found bit by bit. -/
def rootFrom : Nat → Nat → Nat → Nat
  | 0, v, r => if (r + 1) * (r + 1) ≤ v then r + 1 else r
  | n + 1, v, r => rootFrom n v (if (r + 2 ^ (n + 1)) * (r + 2 ^ (n + 1)) ≤ v then r + 2 ^ (n + 1) else r)

/-- The whole part of the square root of `v`. -/
def isqrt (v : Nat) : Nat := rootFrom (v.log2 / 2) v 0

/-! ## Outcomes -/

/-- The part's events act only while it runs: held in reset it takes and sends nothing (R211). -/
def State.running (s : State) : Bool := s.phase == .running

end Sys2Proof.Machine
end

