-- ==== Sys2Proof/Machine/Clock.lean ====
section
/-! DEFINITION. The sky clock (01): rates, ramps, halts, jumps, settling, the governor and the epoch update; with the
evaluator's request list (R40, R41) that the announcements feed. -/

namespace Sys2Proof.Machine

/-! ## Requests of axes to the evaluator (R40, R41, R75) -/

def EvalRequest.isAxis (e : EvalRequest) (a : AxisId) : Bool :=
  match e.who with
  | .axis b _ => b == a
  | .port _ => false

/-- A request joins the list, or replaces its axis's entry in place (R40, R41). -/
def joinEvals (e : EvalRequest) (a : AxisId) : List EvalRequest → List EvalRequest
  | [] => [e]
  | x :: xs => if x.isAxis a then e :: xs else x :: joinEvals e a xs

def State.axisInFlight (s : State) (a : AxisId) : Bool :=
  match s.inFlight with
  | some f => match f.who with
    | .axis b _ => b == a
    | .port _ => false
  | none => false

/-- An evaluation request of the axis waits or is in flight (R49). -/
def State.evalOutstanding (s : State) (a : AxisId) : Bool :=
  s.axisInFlight a || s.evals.any (·.isAxis a)

/-- An axis asks for its channel's angle; a request that begins a new use sets the discard flag while an evaluation of
the axis is in flight (R75). -/
def State.requestAngle (s : State) (a : AxisId) (epoch : Int) (purpose : Purpose) (newUse : Bool) : State :=
  match (s.axis a).record.binding with
  | none => s
  | some c =>
    let s := if newUse && s.axisInFlight a then s.modAxis a fun x => { x with discard := true } else s
    { s with evals := joinEvals { who := .axis a purpose, channel := c, epoch := some epoch } a s.evals }

/-! ## Settling (R12, R13, R15) -/

/-- The clock enters resume-to (R13). -/
def Clock.resumed (c : Clock) : Clock :=
  { c with settleTimer := none, roll := [], state := match c.resumeTo with | .running => .running | .halted => .halted }

/-- Settling completes when the roll is empty (R13). -/
def State.settleTest (s : State) : State :=
  if s.clock.state = .settling ∧ s.clock.roll = [] then
    (((s.withClock s.clock.resumed).notify .clockSettled .sky none).event .clockSettled).raise
      (.done (.settling s.clock.settleSerial))
  else s

/-- An axis leaves the roll; every departure tests settling (R12). -/
def State.rollLeave (s : State) (a : AxisId) : State :=
  if s.clock.state = .settling ∧ a ∈ s.clock.roll then
    (s.withClock { s.clock with roll := s.clock.roll.filter (· ≠ a) }).settleTest
  else s

/-- An axis that enters TRACKING joins the roll (R12), a set whose order nothing reads. -/
def State.rollJoin (s : State) (a : AxisId) : State :=
  if s.clock.state = .settling ∧ a ∉ s.clock.roll then
    s.withClock { s.clock with roll := s.clock.roll ++ [a] }
  else s

/-- A SETTLED report resting on the current epoch takes the axis off the roll (R12). -/
def State.settledReport (s : State) (a : AxisId) (epoch : Int) : State :=
  if epoch = s.clock.epoch then s.rollLeave a else s

/-! ## Halt (R8, R9, R15) -/

/-- A drive-power halt taken while the sky moved, or was to move on, sets the flag (R9). -/
def Clock.wasRunningAfter (c : Clock) (reason : HaltReason) : Bool :=
  if reason = .drivePower ∧ (c.state = .running ∨ (c.state = .settling ∧ c.resumeTo = .running)) then true
  else c.wasRunning

/-- A halt of any reason (R8); from SETTLING it abandons the settling (R15). An awaiting runner fails only by a halt with
reason COMMAND (R151). -/
def State.haltClock (s : State) (reason : HaltReason) : State :=
  let c := s.clock
  let s' := s.withClock { c with state := .halted, reason := reason, settleTimer := none, roll := [],
                                 wasRunning := c.wasRunningAfter reason }
  if c.state = .settling ∧ reason = .command then s'.raise (.failed (.settling c.settleSerial)) else s'

/-! ## Rates (R5, R6) -/

/-- A duration rounded up to a whole multiple of 2 ms (R5). -/
def roundUp2 (ms : Nat) : Nat := (ms + 1) / 2 * 2

def Clock.setRate (c : Clock) (goal : Int) (ms : Nat) : Clock :=
  if ms = 0 then { c with commanded := goal, scheduled := goal, ramp := none }
  else { c with commanded := goal, ramp := some ⟨c.scheduled, goal, roundUp2 ms, roundUp2 ms⟩ }

/-- The value of a ramp, cut to a whole 1/256 toward its start value (R6). -/
def Ramp.value (r : Ramp) : Int :=
  r.start + ((r.goal - r.start) * ((r.duration : Int) - r.remaining)).tdiv r.duration

/-- The third stage of an update (R6). -/
def Clock.progress (c : Clock) : Clock :=
  match c.ramp with
  | none => c
  | some r =>
    let r := { r with remaining := r.remaining - 2 }
    if r.remaining = 0 then { c with scheduled := r.goal, ramp := none }
    else { c with scheduled := r.value, ramp := some r }

/-- Set Rate (R5), for a port (R112). -/
def setRate (p : Port) (goal : Int) (ms : Nat) (s : State) : State × Reply :=
  if !s.holds p .sky then notHolder .sky s
  else if goal < -Config.rateMax ∨ Config.rateMax < goal ∨ 600000 < ms then refuse .badValue s
  else answerOk ((s.withClock (s.clock.setRate goal ms)).restartLease .sky)

/-- The effect of an accepted Run (R7). -/
def State.runClock (s : State) : State :=
  match s.clock.state with
  | .halted => s.withClock { s.clock with state := .running, wasRunning := false }
  | .running => s
  | .settling => s.withClock { s.clock with resumeTo := .running, wasRunning := false }

/-- Run (R7). The was-running flag is cleared by an accepted Run (R9), in RUNNING it is clear already. -/
def run (p : Port) (s : State) : State × Reply :=
  if !s.holds p .sky then notHolder .sky s
  else if s.held then refuse .halted s
  else answerOk (s.runClock.restartLease .sky)

/-- Halt (R8): reason COMMAND; the request clears the was-running flag (R9). -/
def halt (p : Port) (s : State) : State × Reply :=
  if !s.holds p .sky then notHolder .sky s
  else
    let s := s.haltClock .command
    answerOk ((s.withClock { s.clock with wasRunning := false }).restartLease .sky)

/-! ## Jumps (R10, R11) -/

/-- The axes in TRACKING, in axis order. -/
def State.trackingAxes (s : State) : List AxisId := allAxes.filter fun a => (s.axis a).state == .tracking

/-- A tracking axis hears EPOCH REPLACED: it acquires afresh (R77, R78). -/
def State.hearReplaced (s : State) (epoch : Int) (a : AxisId) : State :=
  (s.modAxis a fun x =>
    { x with tracking := x.tracking.map fun t => { t with acquire := true, settled := false } }).requestAngle a epoch .track true

/-- EPOCH REPLACED (R3): to tracking axes, in no defined order among them, then to runners (log 33). -/
def State.announceReplaced (s : State) (epoch : Int) : State :=
  let (s, order) := s.freeOrder Fin.val s.trackingAxes
  (order.foldl (fun s a => s.hearReplaced epoch a) s).raiseEpoch epoch

/-- A BLIND jump (R10); in SETTLING it also rebuilds the roll. -/
def State.blindJump (s : State) (epoch : Int) : State :=
  let c := { s.clock with epoch := epoch, residue := 0 }
  let c := if c.state = .settling then { c with roll := s.trackingAxes } else c
  ((s.withClock c).announceReplaced epoch).settleTest

/-- A SETTLE jump (R11). -/
def State.settleJump (s : State) (epoch : Int) : State :=
  let c := s.clock
  let (s, k) := if c.state = .settling then (s, c.settleSerial) else s.fresh
  let resumeTo := match c.state with
    | .running => .running
    | .halted => .halted
    | .settling => c.resumeTo
  let c := { c with epoch := epoch, residue := 0, resumeTo := resumeTo, state := .settling,
                    settleTimer := some (c.settleTime * 1000), roll := s.trackingAxes, settleSerial := k }
  ((s.withClock c).announceReplaced epoch).settleTest

/-- Set Epoch (R10, R11): claim, mode, range, then HALTED for a SETTLE jump. -/
def setEpoch (p : Port) (epoch : Int) (mode : Nat) (s : State) : State × Reply :=
  if !s.holds p .sky then notHolder .sky s
  else if 1 < mode then refuse .badValue s
  else if epoch < Config.epochMin ∨ Config.epochMax < epoch then refuse .range s
  else if mode = 0 then
    if s.held then refuse .halted s else answerOk ((s.settleJump epoch).restartLease .sky)
  else answerOk ((s.blindJump epoch).restartLease .sky)

/-- Set Settle Time (R16). -/
def setSettleTime (p : Port) (seconds : Nat) (s : State) : State × Reply :=
  if !s.holds p .sky then notHolder .sky s
  else if seconds < 1 ∨ 60 < seconds then refuse .badValue s
  else answerOk ((s.withClock { s.clock with settleTime := seconds }).restartLease .sky)

/-- The clock tells an axis left in the roll to take LAGGING (R14): no lag excess is sent. -/
def State.tellLagging (s : State) (a : AxisId) : State :=
  match (s.axis a).tracking with
  | some t =>
    if t.lagging then s
    else (s.modAxis a fun x => { x with tracking := some { t with lagging := true } }).notifyAxis .axisLagging a
  | none => s

/-- Expiry of the settle timer (R14): the axes left take LAGGING, in no defined order (log 6). -/
def State.settleExpiry (s : State) : State :=
  if s.clock.state = .settling ∧ s.clock.settleTimer.isSome then
    let lowest := allAxes.find? (· ∈ s.clock.roll)
    let (s, order) := s.freeOrder Fin.val s.clock.roll
    let s := order.foldl State.tellLagging s
    (((s.withClock s.clock.resumed).notify .clockSettled .sky (lowest.map Fin.val) true).event .clockSettled).raise
      (.done (.settling s.clock.settleSerial))
  else s

/-! ## The governor (R17 to R19) -/

/-- Half a ceiling, with the floor of 1/256 (R17). -/
def halved (n : Nat) : Nat := if n / 2 = 0 then 1 else n / 2

/-- A lag excess (R17). -/
def State.lagExcess (s : State) (a : AxisId) : State :=
  if s.clock.governor then
    match s.clock.ceiling with
    | none =>
      (s.withClock { s.clock with ceiling := some (halved s.clock.scheduled.natAbs), quiet := some 500 }).notify
        .governorEngaged .sky (some a.val)
    | some k => s.withClock { s.clock with ceiling := some (halved k), quiet := some 500 }
  else s

/-- Expiry of the quiet timer (R18). -/
def State.quietExpiry (s : State) : State :=
  match s.clock.quiet, s.clock.ceiling with
  | some _, some k =>
    if s.clock.scheduled.natAbs ≤ 2 * k then
      (s.withClock { s.clock with ceiling := none, quiet := none }).notify .governorReleased .sky none
    else s.withClock { s.clock with ceiling := some (2 * k), quiet := some 500 }
  | _, _ => s

/-- Set Governor (R19); a flag byte other than 0 and 1 is refused (log 13). -/
def setGovernor (p : Port) (enable : Nat) (s : State) : State × Reply :=
  if !s.holds p .sky then notHolder .sky s
  else if enable = 1 then answerOk ((s.withClock { s.clock with governor := true }).restartLease .sky)
  else if enable = 0 then
    let had := s.clock.ceiling.isSome
    let s := s.withClock { s.clock with governor := false, quiet := none, ceiling := none }
    answerOk ((if had then s.notify .governorReleased .sky none else s).restartLease .sky)
  else refuse .badValue s

/-! ## Epoch marks (R24, R25) -/

/-- What a mark does with EPOCH ADVANCED (R25); `none` when it does not fire. -/
def Mark.cross (m : Mark) (e0 e1 : Int) : Option Mark :=
  let n0 := (e0 - m.phase).fdiv m.period
  let n1 := (e1 - m.phase).fdiv m.period
  let count (n : Nat) : Nat := min 255 (m.crossings + n)
  if !m.enabled then none
  else if n0 < n1 ∧ m.direction ≠ .backward then
    some { m with crossings := count (n1 - n0).toNat, last := some (m.phase + n1 * m.period) }
  else if n1 < n0 ∧ m.direction ≠ .forward then
    some { m with crossings := count (n0 - n1).toNat, last := some (m.phase + (n1 + 1) * m.period) }
  else none

/-- One mark hears EPOCH ADVANCED. -/
def State.hearMark (s : State) (e0 e1 : Int) (m : MarkId) : State :=
  match s.clock.marks[m].cross e0 e1 with
  | some r =>
    ((s.withClock { s.clock with marks := s.clock.marks.set m r }).notify .mark .sky (some m.val)).event (.mark m)
  | none => s

def markDirectionOf : Nat → Option MarkDirection
  | 0 => some .forward
  | 1 => some .backward
  | 2 => some .both
  | _ => none

/-- Set Mark (R24): the fields in order, the phase's range last of its field. Resolutions hold by the encoding (log 13). -/
def setMark (p : Port) (mark enable period : Nat) (phase : Int) (direction : Nat) (s : State) : State × Reply :=
  if !s.holds p .sky then notHolder .sky s
  else match markOf mark with
    | none => refuse .badValue s
    | some m =>
      if 1 < enable then refuse .badValue s
      else if period < 1 ∨ 2 ^ 50 < period then refuse .badValue s
      else if phase < Config.epochMin ∨ Config.epochMax < phase then refuse .range s
      else match markDirectionOf direction with
        | none => refuse .badValue s
        | some d =>
          let r : Mark := { enabled := enable == 1, period := period, phase := phase, direction := d, crossings := 0, last := none }
          answerOk ((s.withClock { s.clock with marks := s.clock.marks.set m r }).restartLease .sky)

/-- Table 1-7; the enabled flag is 1 for yes (log 14). -/
def encMark (m : Mark) : List Byte :=
  encFlag m.enabled ++ beNat 7 m.period.toNat ++ encEpoch m.phase ++ u8 m.direction.code ++ u8 m.crossings ++
    encOpt 7 encEpoch m.last

/-- Read Mark (R24). -/
def readMark (mark : Nat) (s : State) : State × Reply :=
  match markOf mark with
  | none => refuse .badValue s
  | some m =>
    answerData (encMark s.clock.marks[m])
      (s.withClock { s.clock with marks := s.clock.marks.set m { s.clock.marks[m] with crossings := 0 } })

/-! ## The epoch update (R2 to R4) -/

/-- EPOCH ADVANCED (R3) at the marks that cross and the tracking axes, each in no defined order, then at the runners by a signal:
that marks come before axes and these before runners is the model's order (log 33). -/
def State.announceAdvanced (s : State) (e0 e1 : Int) : State :=
  let (s, marks) := s.freeOrder Fin.val (allMarks.filter fun m => (s.clock.marks[m].cross e0 e1).isSome)
  let s := marks.foldl (fun s m => s.hearMark e0 e1 m) s
  let (s, order) := s.freeOrder Fin.val s.trackingAxes
  (order.foldl (fun s a => s.requestAngle a e1 .track false) s).raiseEpoch e1

/-- The epoch stands at a limit and the scheduled rate points past it (R4). -/
def Clock.atLimit (c : Clock) : Bool :=
  decide (c.epoch = Config.epochMax ∧ 0 < c.scheduled ∨ c.epoch = Config.epochMin ∧ c.scheduled < 0)

/-- What the first two stages of an update leave (R2, R4): the clock with its new epoch and residue, and whether the advance
passes a limit. -/
def Clock.advance (c : Clock) : Clock × Bool :=
  let sum := c.ra + c.residue
  let q := sum.fdiv 125
  let e := c.epoch + q
  if c.atLimit then ({ c with residue := 0 }, true)
  else if Config.epochMax < e then ({ c with epoch := Config.epochMax, residue := 0 }, true)
  else if e < Config.epochMin then ({ c with epoch := Config.epochMin, residue := 0 }, true)
  else ({ c with epoch := e, residue := sum.emod 125 }, false)

/-- The update of a RUNNING clock (R2, R4, R6): the announcement, then at a limit the halt, which holds the ramp where it
stands, and CLOCK_RANGE, which carries the sky the update left (R162). -/
def State.advanceClock (s : State) : State :=
  let e0 := s.clock.epoch
  let (c, limit) := s.clock.advance
  let s := s.withClock (if limit then c else c.progress)
  let s := if c.epoch = e0 then s else s.announceAdvanced e0 c.epoch
  if limit then
    let s := (s.haltClock .range).notify .clockRange .sky none
    s.raise (.event .clockRange (some s.skySnap))
  else s

/-! ## Read Clock (R3) -/

/-- Every item of Table 1-1 but the residue, the window, the reference and the marks, in the table's order; the roll in axis
order, and governor enabled, of values yes and no, as a flag, 1 for yes (log 14). -/
def encClock (s : State) : List Byte :=
  let c := s.clock
  let t := s.timebase
  encEpoch c.epoch ++ encRate c.commanded ++ encRate c.scheduled ++
    encOpt 9 (fun r : Ramp => encRate r.goal ++ beNat 4 r.remaining) c.ramp ++
    encRate c.ra ++ u8 c.state.code ++ u8 c.reason.code ++
    u8 (match c.resumeTo with | .running => 0 | .halted => 1) ++
    beNat 2 c.settleTime ++ encOpt 4 (beNat 4) c.settleTimer ++
    encList (fun a : AxisId => u8 a.val) (allAxes.filter (· ∈ c.roll)) ++ encFlag c.governor ++ encCeiling c.ceiling ++
    encOpt 4 (beNat 4) c.quiet ++ u8 (if t.sync then 1 else 0) ++ u8 t.state.code ++ beNat 4 t.nominal ++
    beNat 4 ((2 * t.trimNum * 2 ^ 30 + t.trimDen) / (2 * t.trimDen)) ++ u8 t.good ++ u8 t.bad ++ encFlag c.wasRunning

/-- Read Clock (R3). -/
def readClock (s : State) : State × Reply := answerData (encClock s) s

end Sys2Proof.Machine
end

