-- ==== Sys2Proof/Machine/Timebase.lean ====
section
/-! DEFINITION. The timebase and SYNC (01 section 1.7, R20 to R23). Crystal times and intervals are counted in ns (log 19). -/

namespace Sys2Proof.Machine

def State.withTimebase (s : State) (t : Timebase) : State := { s with timebase := t }

/-- INTERNAL (R20). -/
def Timebase.toInternal (t : Timebase) : Timebase :=
  { t with sync := false, state := .internal, trimNum := 1, trimDen := 1, good := 0, bad := 0, window := [], reference := none }

/-- SYNC taken in INTERNAL (R20). -/
def Timebase.toSync (t : Timebase) : Timebase :=
  match t.state with
  | .internal =>
    { t with sync := true, state := .holdover, trimNum := 1, trimDen := 1, good := 0, bad := 0, window := [], reference := none }
  | .locked => t
  | .holdover => t

/-- Set Timebase (R20). -/
def setTimebase (p : Port) (mode : Nat) (s : State) : State × Reply :=
  if !s.holds p .sky then notHolder .sky s
  else if mode = 0 then answerOk ((s.withTimebase s.timebase.toInternal).restartLease .sky)
  else if mode = 1 then answerOk ((s.withTimebase s.timebase.toSync).restartLease .sky)
  else refuse .badValue s

/-- Set Sync Period (R20): the period, then the state (log 28). -/
def setSyncPeriod (p : Port) (ms : Nat) (s : State) : State × Reply :=
  if !s.holds p .sky then notHolder .sky s
  else if ms < 10 ∨ 100 < ms then refuse .badValue s
  else match s.timebase.state with
    | .internal => answerOk ((s.withTimebase { s.timebase with nominal := ms }).restartLease .sky)
    | .locked => refuse .state s
    | .holdover => refuse .state s

def Timebase.nominalNs (t : Timebase) : Nat := t.nominal * 1000000

/-- An interval within 5% of the nominal period (R21). -/
def Timebase.goodInterval (t : Timebase) (i : Nat) : Bool :=
  decide (20 * (i - t.nominalNs) ≤ t.nominalNs ∧ 20 * (t.nominalNs - i) ≤ t.nominalNs)

/-- The window after a good interval: at most 8, the oldest leaving (R21). -/
def pushWindow (w : List Nat) (i : Nat) : List Nat :=
  if w.length < 8 then w ++ [i] else w.tail ++ [i]

/-- The trim from the mean of the window (R22). -/
def Timebase.trimmed (t : Timebase) : Timebase :=
  { t with trimNum := t.nominalNs * t.window.length, trimDen := t.window.sum }

/-- Leaving LOCKED for HOLDOVER (R23): the trim is kept, counts 0, window empty. -/
def Timebase.lost (t : Timebase) (reference : Option Nat) : Timebase :=
  { t with state := .holdover, good := 0, bad := 0, window := [], reference := reference }

def State.timebaseLost (s : State) (reference : Option Nat) : State :=
  ((s.withTimebase (s.timebase.lost reference)).notify .timebaseLost .sky none).event .timebaseLost

/-- A rising edge on SYNC at a crystal time (R21, R22, R23). -/
def State.syncPulse (s : State) (now : Nat) : State :=
  let t := s.timebase
  match t.state, t.reference with
  | .internal, _ => s
  | _, none => s.withTimebase { t with reference := some now }
  | .holdover, some r =>
    if t.goodInterval (now - r) then
      let t := { t with reference := some now, good := min 8 (t.good + 1), window := pushWindow t.window (now - r) }
      if t.good = 8 then
        (s.withTimebase { t.trimmed with state := .locked, bad := 0 }).notify .timebaseLocked .sky none
      else s.withTimebase t
    else s.withTimebase { t with reference := some now, good := 0, window := [] }
  | .locked, some r =>
    if t.goodInterval (now - r) then
      s.withTimebase
        ({ t with reference := some now, good := min 8 (t.good + 1), bad := 0, window := pushWindow t.window (now - r) }).trimmed
    else if t.bad + 1 = 3 then s.timebaseLost (some now)
    else s.withTimebase { t with reference := some now, bad := t.bad + 1 }

/-- No pulse within twice the nominal period of the reference (R21, R23). -/
def State.syncTimeout (s : State) : State :=
  let t := s.timebase
  match t.state, t.reference with
  | .holdover, some _ => s.withTimebase { t with good := 0, window := [], reference := none }
  | .locked, some _ => s.timebaseLost none
  | _, _ => s

end Sys2Proof.Machine
end

