-- ==== Sys2Proof/Machine/Channels.lean ====
section
/-! DEFINITION. The channel store, its edits and reads, the angle computation and the evaluator's start (02). -/

namespace Sys2Proof.Machine

/-- 1/1024 sky-s in a sky-day (R38). -/
def dayUnits : Int := 88473600

def State.channel (s : State) (c : ChannelId) : Channel := s.channels[c]

def Segment.stop (g : Segment) : Int := g.start + g.span

/-- R28: a segment offered by an edit, the flag and the span before start, end and bounds (log 28); `none` when it passes. -/
def segmentFault (r : RawSegment) : Option Status :=
  let a2 : Int := if r.flag = 1 then (r.a2.natAbs : Int) else 0
  let a1 : Int := r.a1.natAbs
  let d : Int := r.span
  if 1 < r.flag ∨ r.span = 0 ∨ 2 ^ 42 < r.span then some .badValue
  else if r.start < Config.epochMin ∨ Config.epochMax < r.start ∨ 2 ^ 50 < r.start + d then some .range
  else if 2 ^ 31 * 2 ^ 48 * dayUnits ≤ a1 * 2 ^ 16 * dayUnits + 2 * a2 * d then some .range
  else if 2 ^ 47 * 2 ^ 48 * (dayUnits * dayUnits) ≤ a1 * d * 2 ^ 16 * dayUnits + a2 * d * d then some .range
  else none

def storedSegment (r : RawSegment) (stamp : Nat) : Segment :=
  { start := r.start, span := r.span, a0 := r.a0, a1 := r.a1, a2 := if r.flag = 1 then some r.a2 else none, stamp := stamp }

/-! ## Stamps (R27) -/

def State.stampUsed (s : State) (k : Nat) : Bool :=
  allChannels.any fun c => (s.channel c).segments.any fun g => g.stamp == k

/-- The counter passes over stamps still in the store; 1,024 places bound the search. -/
def State.freeStamp (s : State) : Nat → Nat → Nat
  | 0, k => k
  | n + 1, k => if s.stampUsed k then s.freeStamp n ((k + 1) % 2 ^ 32) else k

/-- One segment stamped and put into a channel's list by `place`. -/
def State.storeSegment (s : State) (c : ChannelId) (r : RawSegment) (place : Segment → List Segment → List Segment) : State :=
  let k := s.freeStamp 1024 s.stampCounter
  let ch := s.channel c
  { s.setChannel c { ch with segments := place (storedSegment r k) ch.segments } with stampCounter := (k + 1) % 2 ^ 32 }

/-! ## Edits (R29 to R35) -/

/-- The first offered segment that fails R28, with its place. -/
def firstFault : Nat → List RawSegment → Option (Status × Nat)
  | _, [] => none
  | i, r :: rs =>
    match segmentFault r with
    | some st => some (st, i)
    | none => firstFault (i + 1) rs

/-- The first segment that starts before the end of the one before it (R30). -/
def firstMisplaced : Nat → Option Int → List RawSegment → Option Nat
  | _, _, [] => none
  | i, last, r :: rs =>
    match last with
    | some e => if r.start < e then some i else firstMisplaced (i + 1) (some (r.start + r.span)) rs
    | none => firstMisplaced (i + 1) (some (r.start + r.span)) rs

def Channel.lastEnd (c : Channel) : Option Int := c.segments.getLast?.map Segment.stop

/-- Append Segments (R30). -/
def appendSegments (p : Port) (channel : Nat) (rs : List RawSegment) (s : State) : State × Reply :=
  if !s.holds p .sky then notHolder .sky s
  else match channelOf channel with
    | none => refuse .badValue s
    | some c =>
      if rs.length = 0 ∨ 6 < rs.length then refuse .badValue s
      else match firstFault 0 rs with
        | some (st, i) => refuseAt st i s
        | none =>
          match firstMisplaced 0 (s.channel c).lastEnd rs with
          | some i => refuseAt .range i s
          | none =>
            if Config.channelMax < (s.channel c).segments.length + rs.length ∨ s.freeSegments < rs.length then
              refuse .full s
            else
              let first := s.freeStamp 1024 s.stampCounter
              let s := rs.foldl (fun s r => s.storeSegment c r fun g l => l ++ [g]) s
              answerData (beNat 4 first ++ u8 (s.channel c).segments.length) (s.restartLease .sky)

/-- A segment at the place its start decides (R31). -/
def insertOrdered (g : Segment) : List Segment → List Segment
  | [] => [g]
  | x :: xs => if x.start < g.start then x :: insertOrdered g xs else g :: x :: xs

def overlaps (r : RawSegment) (g : Segment) : Bool :=
  decide (r.start < g.stop ∧ g.start < r.start + r.span)

/-- Insert Segment (R31); its one segment has place 0 (R199). -/
def insertSegment (p : Port) (channel : Nat) (r : RawSegment) (s : State) : State × Reply :=
  if !s.holds p .sky then notHolder .sky s
  else match channelOf channel with
    | none => refuse .badValue s
    | some c =>
      match segmentFault r with
      | some .badValue => refuseAt .badValue 0 s
      | some st => refuse st s
      | none =>
        let l := (s.channel c).segments
        if l.any (overlaps r) then refuse .range s
        else if Config.channelMax ≤ l.length ∨ s.freeSegments = 0 then refuse .full s
        else
          let k := s.freeStamp 1024 s.stampCounter
          let index := (l.filter fun g => g.start < r.start).length
          answerData (u8 index ++ beNat 4 k) ((s.storeSegment c r insertOrdered).restartLease .sky)

/-- The segments of a channel that stay after a removal, and the reply with the number removed. -/
def State.keepSegments (s : State) (c : ChannelId) (keep : Segment → Bool) : State × Reply :=
  let ch := s.channel c
  let left := ch.segments.filter keep
  answerData (u8 (ch.segments.length - left.length)) ((s.setChannel c { ch with segments := left }).restartLease .sky)

/-- Delete Span (R32). -/
def deleteSpan (p : Port) (channel : Nat) (x0 x1 : Int) (s : State) : State × Reply :=
  if !s.holds p .sky then notHolder .sky s
  else match channelOf channel with
    | none => refuse .badValue s
    | some c =>
      if x1 ≤ x0 then refuse .badValue s
      else if x0 < Config.epochMin ∨ Config.epochMax < x0 ∨ x1 < Config.epochMin + 1 ∨ 2 ^ 50 < x1 then refuse .range s
      else s.keepSegments c fun g => !decide (g.start < x1 ∧ x0 < g.stop)

/-- Clear Channel (R33). -/
def clearChannel (p : Port) (channel : Nat) (s : State) : State × Reply :=
  if !s.holds p .sky then notHolder .sky s
  else match channelOf channel with
    | none => refuse .badValue s
    | some c => s.keepSegments c fun _ => false

def State.boundAxes (s : State) (c : ChannelId) : List AxisId :=
  allAxes.filter fun a => (s.axis a).record.binding == some c

def channelKindOf : Nat → Option ChannelKind
  | 0 => some .cyclic
  | 1 => some .bounded
  | _ => none

/-- Set Channel Kind (R34). -/
def setChannelKind (p : Port) (channel kind : Nat) (s : State) : State × Reply :=
  if !s.holds p .sky then notHolder .sky s
  else match channelOf channel, channelKindOf kind with
    | some c, some k =>
      if (s.channel c).kind = k then answerOk (s.restartLease .sky)
      else if s.boundAxes c ≠ [] then refuse .state s
      else answerOk ((s.setChannel c { s.channel c with kind := k }).restartLease .sky)
    | _, _ => refuse .badValue s

/-- Set Channel Enable (R35). -/
def setChannelEnable (p : Port) (channel enable : Nat) (s : State) : State × Reply :=
  if !s.holds p .sky then notHolder .sky s
  else match channelOf channel with
    | none => refuse .badValue s
    | some c =>
      if 1 < enable then refuse .badValue s
      else answerOk ((s.setChannel c { s.channel c with enabled := enable == 1 }).restartLease .sky)

/-! ## Reads (R36) -/

/-- Read Channel (R36); the enabled flag is 1 for yes (log 14). -/
def readChannel (channel : Nat) (s : State) : State × Reply :=
  match channelOf channel with
  | none => refuse .badValue s
  | some c =>
    let ch := s.channel c
    answerData (u8 ch.kind.code ++ encFlag ch.enabled ++ u8 ch.segments.length ++
      encOpt 7 encEpoch (ch.segments.head?.map (·.start)) ++ encOpt 7 encEpoch ch.lastEnd ++
      encList (fun a : AxisId => u8 a.val) (s.boundAxes c)) s

/-- Table 10-5 and the stamp (R199). -/
def encSegment (g : Segment) : List Byte :=
  encEpoch g.start ++ beNat 6 g.span ++ beNat 4 g.a0 ++ beInt 6 g.a1 ++ encFlag g.a2.isSome ++
    beInt 8 (g.a2.getD 0) ++ beNat 4 g.stamp

/-- Read Segment (R36). -/
def readSegment (channel index : Nat) (s : State) : State × Reply :=
  match channelOf channel with
  | none => refuse .badValue s
  | some c =>
    match (s.channel c).segments[index]? with
    | none => refuse .range s
    | some g => answerData (encSegment g) s

/-- Read Store (R36). -/
def readStore (s : State) : State × Reply :=
  answerData (beNat 2 s.freeSegments ++ allChannels.flatMap (fun c => u8 (s.channel c).segments.length) ++
    beNat 4 s.stampCounter) s

/-! ## The angle (R37, R38) -/

/-- Rounding to the nearest whole number, a half to the greater (R38). -/
def roundDiv (n d : Int) : Int := (2 * n + d).fdiv (2 * d)

/-- The segment that covers an epoch, with its index. -/
def findSegment (e : Int) : Nat → List Segment → Option (Nat × Segment)
  | _, [] => none
  | i, g :: gs => if g.start ≤ e ∧ e < g.stop then some (i, g) else findSegment e (i + 1) gs

/-- R37. -/
def Channel.lookup (c : Channel) (e : Int) : Lookup :=
  if !c.enabled then .uncovered .disabled
  else match c.segments.head?, c.lastEnd with
    | some first, some last =>
      match findSegment e 0 c.segments with
      | some (i, g) => .covered i g c.kind
      | none => if e < first.start ∨ last ≤ e then .uncovered .outside else .uncovered .gap
    | _, _ => .uncovered .empty

/-- The raw angle in 2^-32 turn, rounded once (R38). -/
def Segment.angle (g : Segment) (e : Int) : Int :=
  let n := e - g.start
  roundDiv ((g.a0 : Int) * 2 ^ 16 * (dayUnits * dayUnits) + g.a1 * n * 2 ^ 16 * dayUnits + g.a2.getD 0 * n * n)
    (2 ^ 16 * (dayUnits * dayUnits))

/-- The angular rate in 2^-32 turn per sky-day, rounded once (R38). -/
def Segment.rateAt (g : Segment) (e : Int) : Int :=
  roundDiv (g.a1 * 2 ^ 16 * dayUnits + 2 * g.a2.getD 0 * (e - g.start)) (2 ^ 16 * dayUnits)

/-- An angle brought into (-1/2, +1/2] by whole turns (R38, R79). -/
def shortest (a : Int) : Int :=
  let r := a.emod (2 ^ 32)
  if 2 ^ 31 < r then r - 2 ^ 32 else r

/-- The reduced angle (R38). -/
def reduce (k : ChannelKind) (raw : Int) : Int :=
  match k with
  | .cyclic => raw.emod (2 ^ 32)
  | .bounded => shortest raw

/-- The COVERED result computed from the copy (R38, R39). -/
def coveredOf (i : Nat) (g : Segment) (k : ChannelKind) (e : Int) : Covered :=
  { index := i, stamp := g.stamp, raw := g.angle e, reduced := reduce k (g.angle e), rate := g.rateAt e, kind := k, epoch := e }

/-- R39: what a requester receives. -/
def InFlight.result (f : InFlight) : Except UncoveredReason Covered :=
  match f.found with
  | .uncovered r => .error r
  | .covered i g k => .ok (coveredOf i g k f.epoch)

/-- The result as a Query Angle reply gives it (R39, R44): the items only one of the two kinds has stand with a presence byte
each, their bytes 0 when absent (R201; log 14). COVERED is 0 and UNCOVERED 1, in the order of R39's words, which no table lists (log 14). -/
def encResult (f : InFlight) : List Byte :=
  let reason : Option UncoveredReason := match f.result with | .error r => some r | .ok _ => none
  let given : Option Covered := match f.result with | .error _ => none | .ok c => some c
  u8 f.channel.val ++ encEpoch f.epoch ++ u8 (if given.isSome then 0 else 1) ++
    encOpt 1 (fun r : UncoveredReason => u8 r.code) reason ++
    encOpt 1 (fun c : Covered => u8 c.index) given ++ encOpt 4 (fun c : Covered => beNat 4 c.stamp) given ++
    encOpt 11 (fun c : Covered => encAngle c.raw) given ++ encOpt 11 (fun c : Covered => encAngle c.reduced) given ++
    encOpt 8 (fun c : Covered => beInt 8 c.rate) given ++ encOpt 1 (fun c : Covered => u8 c.kind.code) given

/-! ## The evaluator (R42) and Query Angle (R44) -/

/-- The channel's cursor follows the segment it gives an evaluation. -/
def Channel.noteGiven (c : Channel) (l : Lookup) : Channel :=
  match l with
  | .covered _ g _ => { c with cursor := some g.stamp }
  | .uncovered _ => c

/-- The free evaluator takes the oldest request and copies the covering segment (R42). -/
def State.startEvaluation (s : State) : State :=
  match s.inFlight, s.evals with
  | none, e :: rest =>
    let epoch := e.epoch.getD s.clock.epoch
    let found := (s.channel e.channel).lookup epoch
    { s.setChannel e.channel ((s.channel e.channel).noteGiven found) with
        evals := rest
        inFlight := some { who := e.who, channel := e.channel, epoch := epoch, found := found } }
  | _, _ => s

/-- Query Angle (R44): a refusal at once, or no reply until its evaluation completes. The value bytes of the form "current
epoch" are not read (log 14). -/
def queryAngle (p : Port) (channel form : Nat) (epoch : Int) (s : State) : State × Option Reply :=
  match channelOf channel with
  | none => (s, some ⟨.badValue, 255, []⟩)
  | some c =>
    if 1 < form then (s, some ⟨.badValue, 255, []⟩)
    else if form = 0 ∧ (epoch < Config.epochMin ∨ Config.epochMax < epoch) then (s, some ⟨.range, 255, []⟩)
    else ({ s with evals := s.evals ++ [{ who := .port p, channel := c, epoch := if form = 0 then some epoch else none }] }, none)

end Sys2Proof.Machine
end

