-- ==== Sys2Proof/Machine/AxisRecords.lean ====
section
/-! DEFINITION. Axis records, binding, groups and safety locks (03). -/

namespace Sys2Proof.Machine

/-! ## Validation (R50) -/

/-- A position field of a record as its kind reads it (Table 10-2): signed for LIMITED, unsigned for CONTINUOUS. -/
def positionField (kind : Nat) (b : BitVec 32) : Int := if kind = 1 then b.toInt else b.toNat

/-- The own-range checks of Table 3-1 in record order, each with its field number. -/
def rangeChecks (r : RawRecord) : List (Nat × Bool) :=
  [(1, decide (r.kind ≤ 1)),
   (2, decide (200 ≤ r.stepsPerTurn ∧ r.stepsPerTurn ≤ 16777216)),
   (3, decide (r.softPresence ≤ 1)),
   (4, decide (1 ≤ r.velocity ∧ r.velocity ≤ 250000)),
   (5, decide (10 ≤ r.acceleration ∧ r.acceleration ≤ 5000000)),
   (6, decide (r.haltDecel ≤ 5000000)),
   (7, decide (10 ≤ r.stopDecel ∧ r.stopDecel ≤ 5000000)),
   (8, decide (1 ≤ r.lagLimit ∧ r.lagLimit ≤ 1000000)),
   (9, decide (r.settleTolerance ≤ 65535)),
   (10, decide (r.homeMethod ≤ 1)),
   (11, decide (r.homeDirection ≤ 1)),
   (12, decide (1 ≤ r.homeSpeed)),
   (13, decide (r.homeEdge ≤ 1)),
   (14, r.homeFilter == 0 || r.homeFilter == 4 || r.homeFilter == 8 || r.homeFilter == 16),
   (16, decide (1 ≤ r.searchDistance ∧ r.searchDistance ≤ 2 ^ 31)),
   (17, decide (r.clearPolicy ≤ 1)),
   (18, decide (r.keepPosition ≤ 1)),
   (19, decide (2 ≤ r.pulseWidth ∧ r.pulseWidth ≤ 20)),
   (20, decide (10 ≤ r.reversalPause ∧ r.reversalPause ≤ 1000)),
   (21, decide (r.dirPolarity ≤ 1)),
   (22, decide (r.group ≤ 7)),
   (23, decide (r.wrapPolicy ≤ 2) || r.wrapPolicy == 255),
   (24, decide (r.binding ≤ 11) || r.binding == 255),
   (26, decide (r.sense ≤ 1))]

/-- The agreements of R50 in their order, each with the field a failure names. -/
def agreementChecks (r : RawRecord) : List (Nat × Bool) :=
  let offset := positionField r.kind r.homeOffset
  let zero := positionField r.kind r.zeroOffset
  let limited := r.kind == 1
  [(3, (r.softPresence == 1) == limited && (!limited || decide (r.softMin < r.softMax))),
   (6, r.haltDecel == 0 || decide (r.acceleration ≤ r.haltDecel)),
   (12, decide (r.homeSpeed ≤ r.velocity)),
   (15, if limited then decide (r.softMin ≤ offset ∧ offset ≤ r.softMax) else decide (offset < r.stepsPerTurn)),
   (19, decide (r.velocity * 2 * r.pulseWidth ≤ 1000000)),
   (23, (r.wrapPolicy == 255) == limited),
   (25, limited || decide (zero < r.stepsPerTurn))]

/-- The field number of the first failing check (R50). -/
def firstBadField (r : RawRecord) : Option Nat :=
  ((rangeChecks r ++ agreementChecks r).find? fun x => !x.2).map (·.1)

/-- The record a validated encoding names. The soft-limit bytes of a record without soft limits are not read (log 14). -/
def recordOf (r : RawRecord) : AxisRecord :=
  { kind := if r.kind = 1 then .limited else .continuous
    stepsPerTurn := r.stepsPerTurn
    soft := if r.softPresence = 1 then some (r.softMin, r.softMax) else none
    velocity := r.velocity
    acceleration := r.acceleration
    haltDecel := if r.haltDecel = 0 then none else some r.haltDecel
    stopDecel := r.stopDecel
    lagLimit := r.lagLimit
    settleTolerance := r.settleTolerance
    sensor := r.homeMethod == 1
    homeDirection := if r.homeDirection = 0 then .plus else .minus
    homeSpeed := r.homeSpeed
    homeRising := r.homeEdge == 0
    homeFilter := r.homeFilter
    homeOffset := positionField r.kind r.homeOffset
    searchDistance := r.searchDistance
    auto := r.clearPolicy == 0
    keepPosition := r.keepPosition == 1
    pulseWidth := r.pulseWidth
    reversalPause := r.reversalPause
    inverted := r.dirPolarity == 1
    group := (groupIdOf r.group).getD 0
    wrap := match r.wrapPolicy with
      | 0 => some .shortest
      | 1 => some .positive
      | 2 => some .negative
      | _ => none
    binding := channelOf r.binding
    zeroOffset := positionField r.kind r.zeroOffset
    sense := if r.sense = 0 then .plus else .minus }

/-- The first safety field in which two records differ (R51). -/
def firstSafetyChange (old new : AxisRecord) : Option Nat :=
  ([(1, old.kind == new.kind), (2, old.stepsPerTurn == new.stepsPerTurn), (3, old.soft == new.soft),
    (4, old.velocity == new.velocity), (5, old.acceleration == new.acceleration),
    (6, old.haltDecel == new.haltDecel)].find? fun x => !x.2).map (·.1)

/-! ## Positions -/

/-- A LIMITED step count: past 32 bits it is free (R47, log 11). -/
def limitedCount (p : Int) : Int :=
  if -(2 ^ 31) ≤ p ∧ p < 2 ^ 31 then p else (Config.limitedOverflow p).toInt

/-- A turn count wraps at 2^31 (R64). -/
def wrapTurn (t : Int) : Int := (t + 2 ^ 31).emod (2 ^ 32) - 2 ^ 31

def encWords (w : Int × Int) : List Byte := beInt 4 w.1 ++ beInt 4 w.2

/-! ## Loss of position (R110) -/

/-- Position known is cleared with the items that depend on it; where it is clear already, only the count restarts, and in
HOMING not even that. -/
def Axis.losePosition (x : Axis) : Axis :=
  if x.known then { x with known := false, position := ⟨0, 0⟩, limitMemory := none, stagedAt := none }
  else if x.state = .homing then x
  else { x with position := ⟨0, 0⟩ }

/-! ## Configure Axis (R49 to R52) -/

def AxisState.configurable : AxisState → Bool
  | .unconfigured | .disabled | .unreferenced | .standing => true
  | .homing | .slewing | .tracking | .stopping | .faulted => false

/-- What an accepted Configure Axis leaves of the axis (R52). -/
def Axis.configured (x : Axis) (r : AxisRecord) : Axis :=
  let old := x.record
  let reshaped := old.kind ≠ r.kind ∨ old.stepsPerTurn ≠ r.stepsPerTurn
  let rebound := old.binding ≠ r.binding
  let retargeted := reshaped ∨ old.zeroOffset ≠ r.zeroOffset ∨ old.sense ≠ r.sense
  let x := { x with record := r, state := if x.state = .unconfigured then .disabled else x.state }
  let x := if reshaped then
      { x.losePosition with limitMemory := none, state := if x.state = .standing then .unreferenced else x.state }
    else x
  let x := if rebound then { x with stagedAt := none, resumeMark := false } else x
  if retargeted then { x with stagedAt := none } else x

/-- A LIMITED axis of known position outside its soft limits (R52). -/
def Axis.outsideLimits (x : Axis) : Bool :=
  match x.record.soft with
  | some (lo, hi) => x.known && (decide (x.position.within < lo) || decide (hi < x.position.within))
  | none => false

/-- The group a raw record names, where it names one. -/
def rawGroup (r : RawRecord) : Option Resource := (groupIdOf r.group).map .group

/-- Configure Axis (R49). -/
def configureAxis (p : Port) (axis : Nat) (raw : RawRecord) (s : State) : State × Reply :=
  match axisOf axis with
  | none => refuse .badValue s
  | some a =>
    let x := s.axis a
    let g := s.groupOf a
    let g' := (rawGroup raw).getD g
    if !s.holds p g then notHolder g s
    else if !s.holds p g' then notHolder g' s
    else if !x.state.configurable || x.stage.isSome || s.evalOutstanding a then refuse .state s
    else match firstBadField raw with
      | some f => refuseAt .badValue f s
      | none =>
        let r := recordOf raw
        match (if x.locked then firstSafetyChange x.record r else none) with
        | some f => refuseAt .locked f s
        | none =>
          let y := x.configured r
          answerData (encFlag (x.known && !y.known) ++ encFlag y.outsideLimits)
            (((s.setAxis a y).restartLease g).restartLease g')

/-! ## Bind, Unbind, Lock Safety (R53, R54, R59) -/

/-- The refusal with STATE of Bind and Unbind (R53, R54). -/
def State.bindBlocked (s : State) (a : AxisId) : Bool :=
  (s.axis a).state == .tracking || (s.axis a).stage.isSome || s.evalOutstanding a

/-- A change of binding clears the staged-at epoch, present or to come of the slew in progress, and the resume mark (R56); the
same binding changes nothing. -/
def Axis.rebound (x : Axis) (b : Option ChannelId) : Axis :=
  if x.record.binding = b then x
  else { x with record := { x.record with binding := b }, stagedAt := none, resumeMark := false,
                target := x.target.map fun t => { t with staged := none } }

/-- Bind (R53). -/
def bind (p : Port) (axis channel : Nat) (s : State) : State × Reply :=
  match axisOf axis, channelOf channel with
  | some a, some c =>
    if !s.holds p (s.groupOf a) then notHolder (s.groupOf a) s
    else if s.bindBlocked a then refuse .state s
    else answerOk ((s.modAxis a fun x => x.rebound (some c)).restartLease (s.groupOf a))
  | _, _ => refuse .badValue s

/-- Unbind (R54). -/
def unbind (p : Port) (axis : Nat) (s : State) : State × Reply :=
  match axisOf axis with
  | none => refuse .badValue s
  | some a =>
    if !s.holds p (s.groupOf a) then notHolder (s.groupOf a) s
    else if s.bindBlocked a then refuse .state s
    else answerOk ((s.modAxis a fun x => x.rebound none).restartLease (s.groupOf a))

/-- Lock Safety (R59). -/
def lockSafety (p : Port) (axis : Nat) (s : State) : State × Reply :=
  match axisOf axis with
  | none => refuse .badValue s
  | some a =>
    if !s.holds p (s.groupOf a) then notHolder (s.groupOf a) s
    else if (s.axis a).state = .unconfigured then refuse .state s
    else
      let lock (x : Axis) : Axis := if x.locked then x else { x with locked := true, lockOrigin := some .byRequest }
      answerOk ((s.modAxis a lock).restartLease (s.groupOf a))

/-! ## Reads (R46, R57) -/

/-- Table 10-11. -/
def encRecord (r : AxisRecord) : List Byte :=
  u8 (match r.kind with | .continuous => 0 | .limited => 1) ++ beNat 4 r.stepsPerTurn ++
    encOpt 8 (fun (x : Int × Int) => beInt 4 x.1 ++ beInt 4 x.2) r.soft ++
    beNat 4 r.velocity ++ beNat 4 r.acceleration ++ beNat 4 (r.haltDecel.getD 0) ++ beNat 4 r.stopDecel ++
    beNat 4 r.lagLimit ++ beNat 2 r.settleTolerance ++ encFlag r.sensor ++ u8 r.homeDirection.code ++
    beNat 4 r.homeSpeed ++ u8 (if r.homeRising then 0 else 1) ++ u8 r.homeFilter ++ beInt 4 r.homeOffset ++
    beNat 4 r.searchDistance ++ u8 (if r.auto then 0 else 1) ++ encFlag r.keepPosition ++ u8 r.pulseWidth ++
    beNat 2 r.reversalPause ++ encFlag r.inverted ++ u8 r.group.val ++
    u8 (match r.wrap with | some .shortest => 0 | some .positive => 1 | some .negative => 2 | none => 255) ++
    encIndexOpt (r.binding.map Fin.val) ++ beInt 4 r.zeroOffset ++ u8 r.sense.code

/-- Read Axis Record (R46), with the position behind the items of that rule (R110). The lock origin is coded in the order of the rules'
words, which no table lists (log 14). -/
def readAxisRecord (axis : Nat) (s : State) : State × Reply :=
  match axisOf axis with
  | none => refuse .badValue s
  | some a =>
    let x := s.axis a
    answerData (encRecord x.record ++ u8 x.state.code ++ encFlag x.locked ++ encFlag x.known ++
      encOpt 1 (fun o : LockOrigin => u8 (match o with | .byRequest => 0 | .keptAtLineReset => 1)) x.lockOrigin ++
      encWords x.words) s

/-- The members of a group, in axis order (R57). -/
def State.membersOf (s : State) (g : GroupId) : List AxisId :=
  allAxes.filter fun a => (s.axis a).record.group == g

def encPortOpt (p : Option Port) : List Byte := encOpt 1 (fun q : Port => u8 (encPort q)) p

/-- Read Group (R57). -/
def readGroup (group : Nat) (s : State) : State × Reply :=
  match groupIdOf group with
  | none => refuse .badValue s
  | some g =>
    answerData (encList (fun a : AxisId => u8 a.val ++ u8 (s.axis a).state.code ++
        encIndexOpt ((s.axis a).record.binding.map Fin.val)) (s.membersOf g) ++
      encPortOpt (s.holderOf (.group g))) s

end Sys2Proof.Machine
end

