-- ==== Sys2Proof/Machine/Motion.lean ====
section
/-! DEFINITION. What ends an axis's work (04 sections 4.4 to 4.7, R86, R151, R187), the velocity laws (R72, R80, R87), the
start of a motion and the limits met (R67, R93, R105, R106), faults (R175, R176, R107), and the step generator (R66).
Velocities are held as direction and squared speed in 2^-32 (steps/s)² (log 8): at a constant acceleration a the square
changes by 2a over one step. -/

namespace Sys2Proof.Machine

/-- The scale of squared speeds (log 8). -/
def sqScale : Nat := 2 ^ 32

/-! ## Group motion records: a member's part ends (R86) -/

/-- The member still has a part in the record. -/
def MemberOutcome.active (o : MemberOutcome) (m : MotionState) : Bool :=
  match o with
  | .evaluating | .ready | .moving => true
  | .uncovered => m == .evaluating
  | .arrived | .outOfRange | .ended | .passedOver _ => false

def MotionState.open_ (m : MotionState) : Bool := m == .evaluating || m == .moving

/-- A stage pending ends. An awaiting runner learns of it unless a halt or drive-power loss ended it (R151). -/
def State.endStage (s : State) (a : AxisId) (outcome : StageOutcome) (quiet : Bool) : State :=
  match (s.axis a).stage with
  | none => s
  | some st =>
    let s := s.modAxis a fun x => { x with stage := none, lastStage := outcome }
    match st.owner, outcome with
    | .group _, _ => s
    | .single, .arrived => s.raise (.done (.stage st.serial))
    | .single, .uncovered => s.raise (.done (.stage st.serial))
    | .single, _ => if quiet then s else s.raise (.failed (.stage st.serial))

/-- A group motion record enters FAILED (R86): out of EVALUATING, the members' stage pendings end and held targets go. They end
with ENDED, also that of the member whose result was OUT_OF_RANGE, of which R90 names the member outcome alone (log 24). -/
def State.failMotion (s : State) (g : GroupId) (m : GroupMotion) (cause : EndCause) (quiet : Bool) : State :=
  let clean (x : Member) : Member := if m.state = .evaluating then { x with target := none, staged := none } else x
  let s := s.setMotion g (some { m with state := .failed, cause := some cause, members := m.members.map clean })
  let s := if m.state = .evaluating then
      m.members.foldl (fun s x =>
        match (s.axis x.axis).stage with
        | some st => if st.owner = .group g then s.endStage x.axis .ended quiet else s
        | none => s) s
    else s
  if quiet then s else s.raise (.failed (.motion m.serial))

/-- The parts of several members end at one moment (R86, R92, R180, R183): each takes ENDED, and a record that has one fails. -/
def State.endMembers (s : State) (hit : AxisId → Bool) (quiet : Bool) : State :=
  allGroups.foldl (fun s g =>
    match s.motions[g] with
    | some m =>
      if m.state.open_ && m.members.any (fun x => x.outcome.active m.state && hit x.axis) then
        let end_ (x : Member) : Member :=
          if x.outcome.active m.state && hit x.axis then { x with outcome := .ended } else x
        s.failMotion g { m with members := m.members.map end_ } .memberEnded quiet
      else s
    | none => s) s

/-- The open record in which an axis has a part. -/
def State.motionOf (s : State) (a : AxisId) : Option (GroupId × GroupMotion) :=
  allGroups.findSome? fun g =>
    match s.motions[g] with
    | some m =>
      if m.state.open_ && m.members.any (fun x => x.axis == a && x.outcome.active m.state) then some (g, m) else none
    | none => none

def Member.settle (x : Member) (a : AxisId) (o : MemberOutcome) : Member :=
  if x.axis = a then { x with outcome := o } else x

/-- A member's part ends other than by arrival; its record fails (R86). -/
def State.endMember (s : State) (a : AxisId) (o : MemberOutcome) (cause : EndCause) (quiet : Bool) : State :=
  match s.motionOf a with
  | none => s
  | some (g, m) => s.failMotion g { m with members := m.members.map (·.settle a o) } cause quiet

/-! ## The return sequence (R187) -/

/-- Every resume mark is cleared (R185 to R187). -/
def State.clearMarks (s : State) : State :=
  allAxes.foldl (fun s a => s.modAxis a fun x => { x with resumeMark := false }) s

/-- A return sequence in progress is abandoned (R187). -/
def State.abandonReturn (s : State) (subject : Option AxisId) : State :=
  match s.power.sequence with
  | none => s
  | some _ =>
    let s := s.clearMarks
    let s := s.withClock { s.clock with wasRunning := false }
    (s.withPower { s.power with sequence := none, outcome := .abandoned }).notify .resumeAbandoned .sky (subject.map Fin.val)

/-- A member's homing ended other than by completion (R187). -/
def State.homingLost (s : State) (a : AxisId) : State :=
  match s.power.sequence with
  | some q => if (a, false) ∈ q.members then s.abandonReturn (some a) else s
  | none => s

/-! ## Leaving work -/

/-- A slew ended before arrival fails its await, unless a halt or drive-power loss ended it (R151). -/
def State.endSlew (s : State) (a : AxisId) (quiet : Bool) : State :=
  match (s.axis a).target with
  | some t =>
    let s := s.modAxis a fun x => { x with target := none }
    if quiet then s else s.raise (.failed (.slew t.serial))
  | none => s

/-- The axis drops every use it is put to: group part, stage, slew, stopping, tracking and homing records. A stage pending ends with
ENDED, also at a hard-limit stop, where R93 says only that it is discarded (log 24). -/
def State.leaveWork (s : State) (a : AxisId) (quiet : Bool) : State :=
  let s := s.endMember a .ended .memberEnded quiet
  let s := s.endStage a .ended quiet
  let s := s.endSlew a quiet
  (s.modAxis a fun x => { x with stopping := none, tracking := none, homing := none }).rollLeave a

/-- Pulses cease at once: velocity 0, no direction, no pause; a pulse in progress runs its width (R66, R93). -/
def Axis.still (x : Axis) : Axis := { x with speedSq := 0, direction := none, pause := none }

/-- A STOPPING axis comes to rest (R76). -/
def Axis.atRest (x : Axis) (r : RestState) : Axis :=
  { x.still with target := none, stopping := none, tracking := none, state := match r with | .standing => .standing | .unreferenced => .unreferenced }

/-- An axis enters STOPPING (R76, R180); at rest, or with IMMEDIATE, it takes its rest state at once. -/
def State.enterStopping (s : State) (a : AxisId) (decel : Option Nat) (quiet : Bool) : State :=
  let x := s.axis a
  let rest := if x.state = .homing then RestState.unreferenced else .standing
  let s := s.leaveWork a quiet
  s.modAxis a fun x =>
    if decel = none ∨ x.speedSq = 0 then x.atRest rest
    else { x with state := .stopping, target := none, stopping := some ⟨decel, rest⟩, tracking := none }

/-! ## Faults (R107, R175, R176) -/

def State.faultNotice (s : State) (a : AxisId) : State := (s.event (.axisFault a)).notifyAxis .axisFault a

/-- FAULTED with a first cause: target and records are discarded (R93, R175). -/
def Axis.faulted (x : Axis) (cause : FaultCause) (reversals : Option Nat) : Axis :=
  { x.still with state := .faulted, target := none, stopping := none, tracking := none, fault := { first := some cause, further := [], reversals := reversals, autoClear := none } }

/-- The axis enters FAULTED with a first cause. -/
def State.enterFaulted (s : State) (a : AxisId) (cause : FaultCause) (reversals : Option Nat) : State :=
  (s.modAxis a (·.faulted cause reversals)).faultNotice a

/-- A drive fault's loss of position (R175). -/
def Axis.faultPosition (x : Axis) : Axis := if x.record.keepPosition then x else x.losePosition

/-- A drive fault (R175). -/
def State.driveFault (s : State) (a : AxisId) : State :=
  let wasHoming := (s.axis a).state == .homing
  let s := s.leaveWork a false
  let s := (s.modAxis a fun x => x.faultPosition.faulted .driveFault none).faultNotice a
  if wasHoming then s.homingLost a else s

/-- A cause is recorded, first or further. -/
def FaultRecord.has (f : FaultRecord) (c : FaultCause) : Bool := f.first == some c || f.further.contains c

/-- A cause arising on a FAULTED axis (R176). -/
def State.furtherCause (s : State) (a : AxisId) (cause : FaultCause) : State :=
  let add (f : FaultRecord) : FaultRecord :=
    if f.first = some cause ∨ cause ∈ f.further then { f with autoClear := none }
    else { f with further := f.further ++ [cause], autoClear := none }
  (s.modAxis a fun x =>
    let x := { x with fault := add x.fault }
    if cause = .driveFault then x.faultPosition else x).faultNotice a

/-- A homing failure taken second (R176), with the reversals of its homing where HOME_NOT_FOUND was not yet recorded. -/
def State.lateHoming (s : State) (a : AxisId) (reversed : Bool) : State :=
  if (s.axis a).state = .faulted then
    (s.modAxis a fun x =>
      if x.fault.has .homeNotFound then x
      else { x with fault := { x.fault with reversals := some (if reversed then 1 else 0) } }).furtherCause a .homeNotFound
  else s

/-- A limit met at the moment of a fault that was taken first (R176): the memory is set where the position is known. -/
def State.lateLimit (s : State) (a : AxisId) (side : LimitSide) : Option LateCause → State
  | some .hardLimit =>
    if (s.axis a).state = .faulted then
      (s.modAxis a fun x => if x.known then { x with limitMemory := some side } else x).furtherCause a .hardLimit
    else s
  | some (.homeNotFound reversed) => s.lateHoming a reversed
  | none => s

/-- FLT accepted active meets a live axis with drive power present (R175). -/
def State.checkDrive (s : State) (a : AxisId) : State :=
  if (s.axis a).flt.accepted ∧ s.drivePresent ∧ (s.axis a).state.live then s.driveFault a else s

/-- A homing failure (R107). -/
def State.failHoming (s : State) (a : AxisId) : State :=
  let reversals := (s.axis a).homing.map (·.reversals)
  ((s.leaveWork a false).enterFaulted a .homeNotFound reversals).homingLost a

/-! ## Limits (R93, R105, R106, R108) -/

/-- A hard-limit stop (R93): the memory is set where the position is known (R108). -/
def State.hardLimitStop (s : State) (a : AxisId) (side : LimitSide) : State :=
  let s := s.leaveWork a false
  let s := s.modAxis a fun x => if x.known then { x with limitMemory := some side } else x
  s.enterFaulted a .hardLimit none

/-- The search turns around (R105). -/
def Homing.turned (h : Homing) : Homing := { h with reversals := 1, direction := h.direction.flip, travel := 0 }

/-- A limit met in HOMING (R105, R106). -/
def State.homingLimit (s : State) (a : AxisId) (h : Homing) (side : LimitSide) : State :=
  match h.phase, h.edge with
  | .clear, _ => s.failHoming a
  | .seek, some _ =>
    let s := s.leaveWork a false
    let s := s.modAxis a fun x => { x with known := true, limitMemory := some side }
    (s.enterFaulted a .hardLimit none).homingLost a
  | .seek, none =>
    if h.reversals = 0 then s.modAxis a fun x => { x.still with homing := some h.turned } else s.failHoming a

/-- A limit met by an axis moving toward it. -/
def State.limitMet (s : State) (a : AxisId) (side : LimitSide) : State :=
  match (s.axis a).state, (s.axis a).homing with
  | .homing, some h => s.homingLimit a h side
  | .slewing, _ => s.hardLimitStop a side
  | .tracking, _ => s.hardLimitStop a side
  | .stopping, _ => s.hardLimitStop a side
  | _, _ => s

/-! ## Velocities -/

/-- The velocity goal of a tracking axis in 2^-16 steps/s (R80): feed-forward plus correction, held to the limit. The
resolution is the model's (log 9). -/
def Axis.goal (x : Axis) (ra : Int) : Int :=
  match x.tracking with
  | none => 0
  | some t =>
    if t.acquire then 0
    else
      let r := x.record
      let e := x.difference t.target x.extended
      let rate : Int := match t.last with | some c => c.rate | none => 0
      let forward : Int :=
        if t.uncovered || t.clamped then 0 else (rate * ra * r.stepsPerTurn * r.sense.sign).tdiv (86400 * 2 ^ 24)
      let correction : Int := e.sign * (min (25 * e.natAbs * 2 ^ 16) (isqrt (2 * r.acceleration * e.natAbs * 2 ^ 32)) : Nat)
      let top : Int := (r.velocity * 2 ^ 16 : Nat)
      max (-top) (min top (forward + correction))

/-- The direction in which the axis would begin a motion from rest. -/
def Axis.desired (x : Axis) (ra : Int) : Option Dir :=
  match x.state with
  | .slewing =>
    match x.target with
    | some t => dirOf (x.difference t.position x.extended)
    | none => none
  | .tracking => dirOf (x.goal ra)
  | .homing =>
    match x.homing with
    | some h =>
      if h.braking || h.edge.isSome then none
      else match h.phase with
        | .clear => some h.direction.flip
        | .seek => some h.direction
    | none => none
  | _ => none

/-- The squared speed moves toward a goal by at most `acc2` over one step. -/
def approach (v2 goal2 acc2 : Nat) : Nat :=
  if v2 < goal2 then min (v2 + acc2) goal2 else max (v2 - acc2) goal2

/-- R72: after a step, with `left` steps still to go in the direction of motion (negative past the target). -/
def slewSpeed (v2 limitSq acc2 : Nat) (left : Int) : Nat :=
  if left < 0 then v2 - acc2
  else if acc2 * left.toNat < v2 - acc2 then v2 - acc2
  else min (approach v2 limitSq acc2) (acc2 * left.toNat)

/-- R80: after a step of a tracking axis moving in direction d. -/
def trackSpeed (v2 acc2 : Nat) (goal : Int) : Nat :=
  if goal ≤ 0 then v2 - acc2 else approach v2 (goal.toNat * goal.toNat) acc2

/-- The squared speed after a step in direction `d`, the position already moved. -/
def Axis.speedAfter (x : Axis) (ra : Int) (d : Dir) : Nat :=
  let acc2 := 2 * x.record.acceleration * sqScale
  match x.state with
  | .slewing =>
    match x.target with
    | some t => slewSpeed x.speedSq t.limitSq t.accel2 (d.sign * x.difference t.position x.extended)
    | none => 0
  | .tracking => trackSpeed x.speedSq acc2 (d.sign * x.goal ra)
  | .stopping =>
    match x.stopping with
    | some st => x.speedSq - 2 * st.decel.getD 0 * sqScale
    | none => 0
  | .homing =>
    match x.homing with
    | some h =>
      if h.braking || h.edge.isSome then x.speedSq - 2 * x.record.stopDecel * sqScale
      else approach x.speedSq (h.speed * h.speed * sqScale) acc2
    | none => 0
  | _ => 0

/-- The velocity in whole steps/s, as Read Axis State gives it (log 9). -/
def Axis.velocity (x : Axis) : Int :=
  match x.direction with
  | some d => d.sign * (isqrt x.speedSq / 2 ^ 16 : Nat)
  | none => 0

/-! ## The start of a motion (R67, R93) -/

/-- A motion begins: DIR takes its level, with the reversal pause where it changes (R67). -/
def Axis.begin (x : Axis) (d : Dir) : Axis :=
  let level := (d == .plus) != x.record.inverted
  if level = x.dirHigh then { x with direction := some d, pause := none }
  else { x with direction := some d, dirHigh := level, pause := some x.record.reversalPause }

/-- An axis at rest begins the motion it wants, and meets a limit already active; a homing turned around begins again. -/
def State.startMotion (a : AxisId) : Nat → State → State
  | 0, s => s
  | n + 1, s =>
    let x := s.axis a
    if x.state.moving ∧ x.speedSq = 0 ∧ s.drivePresent then
      match x.desired s.clock.ra with
      | none => if x.direction = none then s else s.modAxis a Axis.still
      | some d =>
        if x.direction = some d then s
        else
          let s := s.modAxis a (·.begin d)
          if x.limitLevel d.side then State.startMotion a n (s.limitMet a d.side) else s
    else s

/-- Every axis at rest that wants to move begins (log 10). -/
def State.startMotions (s : State) : State := allAxes.foldl (fun s a => s.startMotion a 3) s

/-! ## The step generator (R66) -/

/-- One step of the position (R66, R64): the turn count wraps at 2^31; a LIMITED count past 32 bits is free (log 11). -/
def Axis.stepped (x : Axis) (d : Dir) : Position :=
  match x.record.kind with
  | .limited => { x.position with within := limitedCount (x.position.within + d.sign) }
  | .continuous =>
    let w := x.position.within + d.sign
    let t := x.position.turn
    if w < 0 then ⟨if t = -(2 ^ 31) then 2 ^ 31 - 1 else t - 1, x.record.stepsPerTurn - 1⟩
    else if w < x.record.stepsPerTurn then ⟨t, w⟩
    else ⟨if t = 2 ^ 31 - 1 then -(2 ^ 31) else t + 1, 0⟩

/-- The steps since the capture of a run in progress (R102). -/
def HomeFilter.count (f : HomeFilter) (d : Dir) : HomeFilter :=
  if f.run = 0 then f
  else match d with
    | .plus => { f with plusSteps := f.plusSteps + 1 }
    | .minus => { f with minusSteps := f.minusSteps + 1 }

/-- The travel count counts in CLEAR before its braking and in SEEK before the edge (R100, R101). -/
def Homing.counting (h : Homing) : Bool := !h.braking && h.edge.isNone

/-- The travel count stands at the search distance with no edge taken (R104). -/
def Homing.exhausted (h : Homing) : Bool := h.counting && decide (h.distance ≤ h.travel)

def Homing.counted (h : Homing) : Homing := if h.counting then { h with travel := h.travel + 1 } else h

/-- A pulse may start: the axis is in motion, out of its pause and in a space, with speed or the wish to gain it, and its search
is not exhausted (R66, R67, R104). -/
def Axis.mayStep (x : Axis) (ra : Int) (d : Dir) : Bool :=
  x.state.moving && x.pulse.isNone && x.pause.isNone && (decide (0 < x.speedSq) || x.desired ra == some d) &&
    match x.homing with
    | some h => !h.exhausted
    | none => true

/-- The axis with one pulse started in direction `d`. -/
def Axis.pulsed (x : Axis) (ra : Int) (d : Dir) : Axis :=
  let y := { x with position := x.stepped d, pulse := some x.record.pulseWidth, home := x.home.count d,
                    homing := x.homing.map Homing.counted }
  { y with speedSq := y.speedAfter ra d }

/-! ## Tests of a tracking axis (R82, R85) -/

/-- LAGGING is tested (R82). -/
def State.testLagging (s : State) (a : AxisId) (t : Tracking) (lag : Nat) : State :=
  let limit := (s.axis a).record.lagLimit
  if !t.lagging && decide (limit < lag) then
    ((s.modAxis a fun x => { x with tracking := some { t with lagging := true } }).lagExcess a).notifyAxis .axisLagging a
  else if t.lagging && decide (lag ≤ limit / 2) then
    s.modAxis a fun x => { x with tracking := some { t with lagging := false } }
  else s

/-- SETTLED is tested and reported (R85). -/
def State.testSettled (s : State) (a : AxisId) (t : Tracking) (lag : Nat) (afterResult : Bool) : State :=
  let now := !t.uncovered && decide (lag ≤ (s.axis a).record.settleTolerance)
  let s := s.modAxis a fun x => { x with tracking := x.tracking.map fun t => { t with settled := now } }
  match t.lastEpoch with
  | some e => if now && (afterResult || !t.settled) then s.settledReport a e else s
  | none => s

/-- The tests after a result taken or a step emitted; none while the acquire flag is set (R78). -/
def State.testTracking (s : State) (a : AxisId) (afterResult : Bool) : State :=
  match (s.axis a).tracking, (s.axis a).lag with
  | some t, some lag => (s.testLagging a t lag).testSettled a t lag afterResult
  | _, _ => s

/-- A search whose travel count stands at its distance fails (R104); the pulse in progress completes its width. -/
def State.testSearch (s : State) (a : AxisId) : State :=
  match (s.axis a).state, (s.axis a).homing with
  | .homing, some h => if h.exhausted then s.failHoming a else s
  | _, _ => s

/-- The step generator starts a pulse (R66). The step that brings the travel count to the search distance fails the homing in the
same step (R104). -/
def State.stepPulse (s : State) (a : AxisId) : State :=
  match (s.axis a).direction with
  | none => s
  | some d =>
    if s.drivePresent && (s.axis a).mayStep s.clock.ra d then
      ((s.modAxis a fun x => x.pulsed s.clock.ra d).testTracking a false).testSearch a
    else s

/-- A mid-motion passage of the velocity through 0 (R67): the generator idles; the new motion begins from rest. An axis whose
velocity is 0 already, as in a reversal pause, passes through nothing. -/
def State.velocityZero (s : State) (a : AxisId) : State :=
  if ((s.axis a).state = .slewing ∨ (s.axis a).state = .tracking) ∧ (s.axis a).speedSq ≠ 0 then s.modAxis a Axis.still
  else s

/-! ## Group arrival and arrival (R73, R88) -/

/-- The record of a member's arrival; the last one puts the record in ARRIVED with GROUP_ARRIVED (R88). -/
def State.memberArrived (s : State) (a : AxisId) : State :=
  match s.motionOf a with
  | none => s
  | some (g, m) =>
    let members := m.members.map (·.settle a .arrived)
    if m.state = .moving ∧ !members.any (fun x => x.outcome == .moving) then
      ((s.setMotion g (some { m with members := members, state := .arrived })).event (.groupArrived g)).raise
        (.done (.motion m.serial))
    else s.setMotion g (some { m with members := members })

/-- The stage pending is the one whose result set this target (R74): it was taken before the target, a later one after it. -/
def StagePending.ledTo (st : StagePending) (t : Target) : Bool := decide (st.serial < t.serial)

/-- A slew arrives (R73): a staged one records its staged-at and ends its own stage pending; one that waits for a result yet to
come stands (R74). -/
def State.arrive (s : State) (a : AxisId) (t : Target) : State :=
  let s := s.modAxis a fun x => { x.still with state := .standing, target := none }
  let s := match t.staged with
    | some sa =>
      let s := if (s.axis a).stage.any (StagePending.ledTo · t) then s.endStage a .arrived false else s
      s.modAxis a fun x => { x with stagedAt := some sa, lastStage := .arrived }
    | none => s
  ((s.event (.axisArrived a)).raise (.done (.slew t.serial))).memberArrived a

/-- AXIS_ARRIVED: the position equals the target at velocity 0 (R73). -/
def State.axisArrived (s : State) (a : AxisId) : State :=
  match (s.axis a).state, (s.axis a).target with
  | .slewing, some t =>
    if (s.axis a).difference t.position (s.axis a).extended = 0 ∧ (s.axis a).speedSq = 0 then s.arrive a t else s
  | _, _ => s

/-- STOPPING_REST: the velocity reaches 0 (R76). -/
def State.stoppingRest (s : State) (a : AxisId) : State :=
  match (s.axis a).state, (s.axis a).stopping with
  | .stopping, some st => s.modAxis a (·.atRest st.rest)
  | _, _ => s

end Sys2Proof.Machine
end

