-- ==== Sys2Proof/Machine/MotionRequests.lean ====
section
/-! DEFINITION. The motion requests on one axis (04 sections 4.2 to 4.5) and Read Axis State. Checks stand in the order of
R68: number, claim, HALTED, state, position known, binding, fields, target. -/

namespace Sys2Proof.Machine

/-- The first three checks of R68 on an axis request. -/
def onAxis (p : Port) (axis : Nat) (s : State) (k : AxisId → State × Reply) : State × Reply :=
  match axisOf axis with
  | none => refuse .badValue s
  | some a =>
    if !s.holds p (s.groupOf a) then notHolder (s.groupOf a) s
    else if s.held then refuse .halted s
    else k a

/-- An accepted axis request: OK, and the group claim's lease restarts (R68). -/
def axisOk (a : AxisId) (s : State) : State × Reply := answerOk (s.restartLease (s.groupOf a))

/-- A part of the axis in a stage or group motion ends at a request that changes its state, position or target (R68, R86). -/
def State.endPart (s : State) (a : AxisId) : State :=
  (s.endMember a .ended .memberEnded false).endStage a .ended false

/-- Enable (R69): the change of state clears the staged-at epoch (R68). A drive fault follows where FLT is active already
(R175). -/
def enable (p : Port) (axis : Nat) (s : State) : State × Reply :=
  onAxis p axis s fun a =>
    match (s.axis a).state with
    | .disabled =>
      axisOk a ((s.modAxis a fun x => { x with state := if x.known then .standing else .unreferenced, stagedAt := none }).checkDrive a)
    | .unreferenced => axisOk a s
    | .standing => axisOk a s
    | _ => refuse .state s

/-- Disable (R69): the staged-at epoch is kept. -/
def disable (p : Port) (axis : Nat) (s : State) : State × Reply :=
  onAxis p axis s fun a =>
    match (s.axis a).state with
    | .unreferenced => axisOk a (s.modAxis a fun x => { x with state := .disabled })
    | .standing => axisOk a ((s.endPart a).modAxis a fun x => { x with state := .disabled })
    | .disabled => axisOk a s
    | _ => refuse .state s

/-- The position Declare Reference carries (R70), or the status that refuses it. The second word of a LIMITED position is not
read (log 14). -/
def Axis.declared (x : Axis) (hi lo : BitVec 32) : Except Status Position :=
  match x.record.kind with
  | .continuous => if x.record.stepsPerTurn ≤ lo.toNat then .error .badValue else .ok ⟨hi.toInt, lo.toNat⟩
  | .limited =>
    match x.record.soft with
    | some (l, h) => if hi.toInt < l ∨ h < hi.toInt then .error .range else .ok ⟨0, hi.toInt⟩
    | none => .ok ⟨0, hi.toInt⟩

/-- Declare Reference (R70). -/
def declareReference (p : Port) (axis : Nat) (hi lo : BitVec 32) (s : State) : State × Reply :=
  onAxis p axis s fun a =>
    if (s.axis a).state = .unreferenced ∨ (s.axis a).state = .standing then
      match (s.axis a).declared hi lo with
      | .error st => refuse st s
      | .ok pos =>
        axisOk a ((s.endPart a).modAxis a fun x =>
          { x with position := pos, known := true, state := .standing, stagedAt := none })
    else refuse .state s

/-! ## Slews (R71 to R74) -/

/-- The extended target of a position within the turn under a wrap policy (R71). -/
def wrapTarget (policy : WrapPolicy) (stepsPerTurn : Nat) (position : Position) (within : Int) : Int :=
  let n : Int := stepsPerTurn
  let ext := position.turn * n + position.within
  let d := (within - position.within).emod n
  match policy with
  | .positive => ext + d
  | .negative => if d = 0 then ext else ext + d - n
  | .shortest => if 2 * d ≤ n then ext + d else ext + d - n

/-- A position in its extended form for this axis (R71); SHORTEST stands in where a record names no policy. -/
def Axis.extendedTarget (x : Axis) (t : Int) : Int :=
  match x.record.kind with
  | .limited => t
  | .continuous => wrapTarget (x.record.wrap.getD .shortest) x.record.stepsPerTurn x.position t

def Axis.outsideSoft (x : Axis) (t : Int) : Bool :=
  match x.record.soft with
  | some (l, h) => decide (t < l) || decide (h < t)
  | none => false

/-- The target an absolute Slew names (R71), or the status that refuses it (R68 checks 7 and 8). -/
def Axis.absoluteTarget (x : Axis) (raw : BitVec 32) : Except Status Int :=
  match x.record.kind with
  | .limited =>
    if x.outsideSoft raw.toInt || x.towardMemory raw.toInt then .error .range else .ok raw.toInt
  | .continuous =>
    if x.record.stepsPerTurn ≤ raw.toNat then .error .badValue
    else
      let t := x.extendedTarget raw.toNat
      if x.towardMemory t then .error .range else .ok t

/-- The profile planned from the record (R72). -/
def AxisRecord.limitSq (r : AxisRecord) : Nat := r.velocity * r.velocity * sqScale
def AxisRecord.accel2 (r : AxisRecord) : Nat := 2 * r.acceleration * sqScale

/-- The laws every slew keeps: its axis has its position known (R64), and its target lies within the soft limits of a LIMITED
axis (R71). Every request and result that comes to a slew has been refused otherwise. -/
def Axis.mayTake (x : Axis) (target : Int) : Bool := x.known && !(x.record.kind == .limited && x.outsideSoft target)

/-- The axis takes a fixed target and enters SLEWING; a move of length 0 from rest arrives at once (R71, R73). -/
def State.slewTo (s : State) (a : AxisId) (target : Int) (staged : Option StagedAt) (limitSq accel2 : Nat) : State :=
  if !(s.axis a).mayTake target then s else
  let s := s.endSlew a false
  let (s, k) := s.fresh
  let t : Target := { position := target, limitSq := limitSq, accel2 := accel2, staged := staged, serial := k }
  let s := s.modAxis a fun x =>
    { x with state := .slewing, target := some t, stopping := none, tracking := none, stagedAt := none }
  let s := s.rollLeave a
  if (s.axis a).difference target (s.axis a).extended = 0 ∧ (s.axis a).speedSq = 0 then s.arrive a t else s

/-- A single slew on the record's own profile. -/
def State.slewSingle (s : State) (a : AxisId) (target : Int) (staged : Option StagedAt) : State :=
  s.slewTo a target staged (s.axis a).record.limitSq (s.axis a).record.accel2

def AxisState.slewable : AxisState → Bool
  | .standing | .slewing | .tracking | .stopping => true
  | .unconfigured | .disabled | .unreferenced | .homing | .faulted => false

/-- A stage pending gives way to a new stage of its axis: it ends with ENDED, and with it the part of a group's stage
(log 24). -/
def State.replaceStage (s : State) (a : AxisId) : State :=
  match (s.axis a).stage with
  | none => s
  | some st =>
    match st.owner with
    | .single => s.endStage a .ended false
    | .group _ => s.endPart a

/-- A staged slew is accepted (R74): stage pending with owner SINGLE and an evaluation asked for; a tracking axis goes on
to its last tracking target as a fixed one. -/
def State.stageSingle (s : State) (a : AxisId) (epoch : Int) : State :=
  let s := s.replaceStage a
  let s := match (s.axis a).tracking with
    | some t => s.slewSingle a t.target none
    | none => s
  let (s, k) := s.fresh
  (s.modAxis a fun x => { x with stage := some ⟨epoch, .single, k⟩ }).requestAngle a epoch .stage true

/-- Slew (R71, R74): form 0 an absolute target in the last 4 bytes, the bytes before them not read (log 14), form 1 an
epoch. -/
def slew (p : Port) (axis form : Nat) (value : BitVec 56) (s : State) : State × Reply :=
  onAxis p axis s fun a =>
    let x := s.axis a
    if !x.state.slewable then refuse .state s
    else if !x.known then refuse .notReferenced s
    else if form = 1 then
      if x.record.binding = none then refuse .state s
      else if value.toInt < Config.epochMin ∨ Config.epochMax < value.toInt then refuse .range s
      else axisOk a (s.stageSingle a value.toInt)
    else if form = 0 then
      match x.absoluteTarget (value.setWidth 32) with
      | .error st => refuse st s
      | .ok t => axisOk a ((s.endPart a).slewSingle a t none)
    else refuse .badValue s

/-! ## Track and Stop (R76, R77) -/

/-- A tracking target held within the soft limits (R71, R83), and whether it was held. -/
def Axis.held (x : Axis) (t : Int) : Int × Bool :=
  match x.record.soft with
  | some (l, h) => if t < l then (l, true) else if h < t then (h, true) else (t, false)
  | none => (t, false)

/-- The tracking record an axis enters TRACKING with (R77): its target is the position, for an axis that stands outside its soft
limits the limit it stands beyond (R71, R83; log 32). -/
def Axis.newTracking (x : Axis) (epoch : Int) : Tracking :=
  match x.stagedAt with
  | some sa =>
    if sa.epoch = epoch then
      { acquire := false, angle := sa.angle, last := some sa.result, lastEpoch := some sa.result.epoch,
        target := (x.held x.extended).1, lagging := false, clamped := false, uncovered := false, settled := true }
    else
      { acquire := true, angle := 0, last := none, lastEpoch := none, target := (x.held x.extended).1, lagging := false,
        clamped := false, uncovered := false, settled := false }
  | none =>
    { acquire := true, angle := 0, last := none, lastEpoch := none, target := (x.held x.extended).1, lagging := false,
      clamped := false, uncovered := false, settled := false }

/-- The axis enters TRACKING (R77, R12), its position known (R64). -/
def State.trackAxis (s : State) (a : AxisId) : State :=
  if !(s.axis a).known then s else
  let s := s.endPart a
  let s := s.endSlew a false
  let t := (s.axis a).newTracking s.clock.epoch
  let s := (s.modAxis a fun x =>
    { x with state := .tracking, tracking := some t, stopping := none, stagedAt := none }).rollJoin a
  let s := if t.settled then s.settledReport a s.clock.epoch else s
  s.requestAngle a s.clock.epoch .track true

def AxisState.trackable : AxisState → Bool
  | .standing | .slewing | .stopping => true
  | .unconfigured | .disabled | .unreferenced | .homing | .tracking | .faulted => false

/-- Track (R77): the status that refuses it past the first three checks, where one does. -/
def Axis.trackRefusal (x : Axis) : Option Status :=
  if !(x.state.trackable || x.state == .tracking) then some .state
  else if !x.known then some .notReferenced
  else if x.record.binding = none then some .state
  else if x.state ≠ .tracking ∧ x.activeMemory.isSome then some .range
  else none

/-- Track (R77). -/
def track (p : Port) (axis : Nat) (s : State) : State × Reply :=
  onAxis p axis s fun a =>
    match (s.axis a).trackRefusal with
    | some st => refuse st s
    | none => if (s.axis a).state = .tracking then axisOk a s else axisOk a (s.trackAxis a)

/-- The states a Stop brings to rest (R76, R92). -/
def AxisState.stops : AxisState → Bool
  | .slewing | .tracking | .homing => true
  | .unconfigured | .disabled | .unreferenced | .standing | .stopping | .faulted => false

/-- A Stop of a moving axis (R76); a homing it ends is lost to a return sequence (R187). -/
def State.stopAxis (s : State) (a : AxisId) : State :=
  if !(s.axis a).state.stops then s
  else
    let wasHoming := (s.axis a).state == .homing
    let s := s.enterStopping a (some (s.axis a).record.stopDecel) false
    if wasHoming then s.homingLost a else s

/-- Stop (R76). -/
def stop (p : Port) (axis : Nat) (s : State) : State × Reply :=
  onAxis p axis s fun a =>
    match (s.axis a).state with
    | .slewing => axisOk a (s.stopAxis a)
    | .tracking => axisOk a (s.stopAxis a)
    | .homing => axisOk a (s.stopAxis a)
    | .disabled => axisOk a s
    | .unreferenced => axisOk a s
    | .standing => axisOk a s
    | .stopping => axisOk a s
    | .unconfigured => refuse .state s
    | .faulted => refuse .state s

/-! ## Read Axis State (R64, R96, R176) -/

def encDirOpt (d : Option Dir) : List Byte :=
  u8 (match d with | none => 0 | some .plus => 1 | some .minus => 2)

def encSideOpt (d : Option LimitSide) : List Byte :=
  u8 (match d with | none => 0 | some .plus => 1 | some .minus => 2)

/-- A target in steps; the extended position of a CONTINUOUS axis takes 7 bytes (log 14). A target past the range of the turn count
stands unwrapped, and the low 7 bytes of a longer one are sent: R64 wraps the turn count and names no target (DESIGN CHOICE,
log 36). -/
def Axis.targetSteps (x : Axis) : Option Int :=
  match x.tracking, x.target with
  | some t, _ => some t.target
  | none, some t => some t.position
  | none, none => none

def encStopping (r : Stopping) : List Byte :=
  beNat 4 (r.decel.getD 0) ++ u8 (match r.rest with | .standing => 0 | .unreferenced => 1)

/-- The tracking record but its angle and last covered result (R64). The last result epoch of an axis that has taken no result since
Track is absent, sent with a presence byte: R64 and Table 4-2 give only the lag an absent value (DESIGN CHOICE, log 35). -/
def Axis.encTracking (x : Axis) (t : Tracking) : List Byte :=
  encFlag t.acquire ++ encOpt 7 encEpoch t.lastEpoch ++ encOpt 7 (beNat 7) x.lag ++ encFlag t.lagging ++
    encFlag t.clamped ++ encFlag t.uncovered ++ encFlag t.settled

/-- The owner of a stage pending: a byte 0 for SINGLE and 1 for a group, then the group, 0 for SINGLE (log 14). -/
def encStageOwner : StageOwner → List Byte
  | .single => u8 0 ++ u8 0
  | .group g => u8 1 ++ u8 g.val

/-- The fault record: the further causes a count byte and their codes in the order recorded (log 14). -/
def encFault (f : FaultRecord) : List Byte :=
  u8 (match f.first with | some c => c.code | none => 0) ++ encList (fun c : FaultCause => u8 c.code) f.further ++
    encOpt 1 u8 f.reversals ++ encOpt 4 (beNat 4) f.autoClear

/-- The items R96 gives of a homing record. -/
def Axis.encHoming (x : Axis) (h : Homing) : List Byte :=
  u8 (match h.phase with | .clear => 0 | .seek => 1) ++ u8 h.direction.code ++ beNat 4 h.travel ++ u8 h.reversals ++
    encOpt 8 (fun q : Position => encWords (q.words x.record.kind)) h.edge ++
    u8 (match h.starter with | .request => 0 | .returnPolicy => 1)

/-- The staged-at item whole: epoch, staged tracking angle, staged result (Table 4-2). -/
def encStagedAt (sa : StagedAt) : List Byte :=
  encEpoch sa.epoch ++ encAngle sa.angle ++ beNat 4 sa.result.stamp ++ encAngle sa.result.raw ++
    encAngle sa.result.reduced ++ encEpoch sa.result.epoch

/-- The items of Read Axis State. The accepted level of HOME is 1 for high and 0 for low, those of FLT and of the
limit input remembered are 1 for active, the last 0 where none is remembered (log 14). -/
def Axis.encState (x : Axis) : List Byte :=
  u8 x.state.code ++ encFlag x.known ++ encWords x.words ++ beInt 3 x.velocity ++ encDirOpt x.direction ++
    encOpt 7 (beInt 7) x.targetSteps ++ encOpt 5 encStopping x.stopping ++ encOpt 21 x.encTracking x.tracking ++
    encOpt 9 (fun st : StagePending => encEpoch st.epoch ++ encStageOwner st.owner) x.stage ++
    u8 x.lastStage.code ++ encOpt 51 encStagedAt x.stagedAt ++
    encSideOpt x.limitMemory ++ encFlag (match x.limitMemory with | some d => x.limitLevel d | none => false) ++
    encFlag x.resumeMark ++ encFault x.fault ++ encOpt 17 x.encHoming x.homing ++ encFlag x.home.accepted ++
    encFlag x.flt.accepted

/-- Read Axis State (R64, R96): every item of Table 4-2 but the discard flag, the last covered result and the tracking
angle; the homing record, the level of HOME and the level of FLT (R175). -/
def readAxisState (axis : Nat) (s : State) : State × Reply :=
  match axisOf axis with
  | none => refuse .badValue s
  | some a => answerData (s.axis a).encState s

end Sys2Proof.Machine
end

