-- ==== Sys2Proof/Machine/Groups.lean ====
section
/-! DEFINITION. Evaluation results at an axis (04 R74, R75, R78, R79, R83, R84, R90), the group requests (R87 to R92) and
the completion of an evaluation (02 R42). -/

namespace Sys2Proof.Machine

/-! ## Angles and steps (R74, R78, R79) -/

/-- The zero offset plus an angle times steps per turn times sense, rounded, a half to the greater (R79). -/
def Axis.stepsOf (x : Axis) (angle : Int) : Int :=
  x.record.zeroOffset + roundDiv (angle * x.record.stepsPerTurn * x.record.sense.sign) (2 ^ 32)

/-- The equivalent of `base` nearest to `at_`, the greater where two are equally near. -/
def nearestEquivalent (n base at_ : Int) : Int :=
  let d := (base - at_).emod n
  if 2 * d ≤ n then at_ + d else at_ + d - n

/-- The angle whose steps are `target`, of the same fraction as `reduced` (R74, R78). -/
def Axis.angleFor (x : Axis) (reduced target : Int) : Int :=
  match x.record.kind with
  | .limited => reduced
  | .continuous => reduced + (target - x.stepsOf reduced) / x.record.stepsPerTurn * x.record.sense.sign * 2 ^ 32

/-- The tracking angle an acquiring result gives (R78). -/
def Axis.acquired (x : Axis) (reduced : Int) : Int :=
  match x.record.kind with
  | .limited => reduced
  | .continuous => x.angleFor reduced (nearestEquivalent x.record.stepsPerTurn (x.stepsOf reduced) x.extended)

/-- The tracking target of an angle, held within the soft limits (R79, R83), and whether it was held. -/
def Axis.trackTarget (x : Axis) (angle : Int) : Int × Bool := x.held (x.stepsOf angle)

/-- The change of the tracking angle across two results (R79). -/
def angleDelta (last c : Covered) : Int :=
  if last.stamp = c.stamp then c.raw - last.raw else shortest (c.reduced - last.reduced)

/-! ## TRACK results (R78, R79, R83, R84) -/

/-- The tracking record after a COVERED result. -/
def Axis.trackCovered (x : Axis) (t : Tracking) (c : Covered) : Tracking :=
  let angle := if t.acquire then x.acquired c.reduced
    else match t.last with
      | some l => t.angle + angleDelta l c
      | none => x.acquired c.reduced
  let (target, held) := x.trackTarget angle
  { t with acquire := false, angle := angle, last := some c, lastEpoch := some c.epoch, target := target, clamped := held,
           uncovered := false }

def State.takeTrack (s : State) (a : AxisId) (t : Tracking) (f : InFlight) : State :=
  match f.result with
  | .ok c =>
    let t' := (s.axis a).trackCovered t c
    let s := s.modAxis a fun x => { x with tracking := some t' }
    let s := if t'.clamped && !t.clamped then s.notifyAxis .axisClamped a else s
    s.testTracking a true
  | .error _ =>
    let s := s.modAxis a fun x =>
      { x with tracking := some { t with uncovered := true, settled := false, lastEpoch := some f.epoch } }
    let s := if t.uncovered then s else s.notify .channelGap .sky (some f.channel.val)
    s.testTracking a true

/-! ## STAGE results (R74, R90) -/

/-- The staged position as a target (R74): through the wrap policy for a CONTINUOUS axis. -/
def Axis.stagedTarget (x : Axis) (c : Covered) : Int :=
  match x.record.kind with
  | .limited => x.stepsOf c.reduced
  | .continuous => x.extendedTarget ((x.stepsOf c.reduced).emod x.record.stepsPerTurn)

/-- A staged target the axis cannot take: outside the soft limits or toward an active remembered limit (R74, R94). -/
def Axis.stageBlocked (x : Axis) (target : Int) : Bool := x.outsideSoft target || x.towardMemory target

def Axis.stagedRecord (x : Axis) (epoch target : Int) (c : Covered) : StagedAt :=
  { epoch := epoch, angle := x.angleFor c.reduced target, result := c }

/-- A result of a staged slew (R74). -/
def State.takeStageSingle (s : State) (a : AxisId) (st : StagePending) (f : InFlight) : State :=
  match f.result with
  | .error _ => (s.endStage a .uncovered false).notify .channelGap .sky (some f.channel.val)
  | .ok c =>
    let target := (s.axis a).stagedTarget c
    if (s.axis a).stageBlocked target then (s.endStage a .outOfRange false).notifyAxis .axisClamped a
    else
      let sa := (s.axis a).stagedRecord st.epoch target c
      (s.endMember a .ended .memberEnded false).slewSingle a target (some sa)

/-- Minimum duration of a move from rest, in ns (R87; log 9). -/
def moveTime (d v a : Nat) : Nat :=
  if d = 0 then 0
  else if v * v ≤ d * a then (d * a + v * v) * 1000000000 / (v * a)
  else 2 * isqrt (d * 1000000000000000000 / a)

def State.memberTime (s : State) (a : AxisId) (target : Int) : Nat :=
  let x := s.axis a
  moveTime (x.difference target x.extended).natAbs x.record.velocity x.record.acceleration

/-- Members move together on profiles stretched to the common duration (R87); each takes its target at this moment. -/
def State.startTogether (s : State) (moves : List (AxisId × Int × Option StagedAt)) (common : Nat) : State :=
  moves.foldl (fun s (a, target, sa) =>
    let t := s.memberTime a target
    let r := (s.axis a).record
    if t = common ∨ common = 0 then s.slewTo a target sa r.limitSq r.accel2
    else s.slewTo a target sa (r.limitSq * (t * t) / (common * common)) (r.accel2 * (t * t) / (common * common))) s

/-- The greatest of the minimum durations (R87). -/
def State.commonTime (s : State) (moves : List (AxisId × Int × Option StagedAt)) : Nat :=
  (moves.map fun (a, target, _) => s.memberTime a target).foldl max 0

/-- What the start of a stage leaves of a member's stage pending (R90): it ends, an UNCOVERED member's with that outcome, a READY
one's with the outcome its arrival gives (log 24). -/
def Axis.stageStarted (x : Axis) (o : MemberOutcome) : Axis :=
  { x with stage := none, lastStage := if o = .uncovered then .uncovered else x.lastStage }

/-- A record with nothing to move enters ARRIVED at once (R88). -/
def State.arriveEmpty (s : State) (g : GroupId) (m : GroupMotion) : State :=
  ((s.setMotion g (some { m with state := .arrived })).event (.groupArrived g)).raise (.done (.motion m.serial))

/-- The moves a record holds for its start (R90). -/
def GroupMotion.moves (m : GroupMotion) : List (AxisId × Int × Option StagedAt) :=
  m.members.filterMap fun x =>
    if x.outcome = .ready then x.target.map fun t => (x.axis, t, x.staged) else none

/-- The motion of a stage starts (R90). Where nothing is to move the record takes a common duration of 0, present: Table 4-5 has it set
when motion starts and does not say whether such a record has one (log 9). -/
def State.startStage (s : State) (g : GroupId) (m : GroupMotion) : State :=
  let moves := m.moves
  let common := s.commonTime moves
  let s := m.members.foldl (fun s x =>
    match (s.axis x.axis).stage with
    | some st =>
      if st.owner = .group g then s.modAxis x.axis (·.stageStarted x.outcome) else s
    | none => s) s
  let m := { m with state := .moving, duration := some common,
                    members := m.members.map fun x => if x.outcome = .ready then { x with outcome := .moving } else x }
  if moves.isEmpty then s.arriveEmpty g m else (s.setMotion g (some m)).startTogether moves common

/-- A stage starts when no member remains EVALUATING (R90). -/
def State.stageTest (s : State) (g : GroupId) : State :=
  match s.motions[g] with
  | some m =>
    if m.state = .evaluating ∧ !m.members.any (fun x => x.outcome == .evaluating) then s.startStage g m else s
  | none => s

/-- A result taken by a staged member (R90). -/
def State.takeStageGroup (s : State) (a : AxisId) (g : GroupId) (st : StagePending) (f : InFlight) : State :=
  match s.motions[g] with
  | none => s
  | some m =>
    match f.result with
    | .error _ =>
      ((s.setMotion g (some { m with members := m.members.map (·.settle a .uncovered) })).notify .channelGap .sky
        (some f.channel.val)).stageTest g
    | .ok c =>
      let target := (s.axis a).stagedTarget c
      if (s.axis a).stageBlocked target then
        (s.endMember a .outOfRange .outOfRange false).notifyAxis .axisClamped a
      else
        let sa := (s.axis a).stagedRecord st.epoch target c
        let set (x : Member) : Member :=
          if x.axis = a then { x with outcome := .ready, target := some target, staged := some sa } else x
        (s.setMotion g (some { m with members := m.members.map set })).stageTest g

/-! ## Completion of an evaluation (R42, R75) -/

/-- A result delivered to an axis is taken or ignored (R75). -/
def State.deliverAxis (s : State) (a : AxisId) (purpose : Purpose) (f : InFlight) : State :=
  let x := s.axis a
  if x.discard then s.modAxis a fun x => { x with discard := false }
  else
    match purpose, x.tracking, x.stage with
    | .track, some t, _ => if x.state = .tracking then s.takeTrack a t f else s
    | .stage, _, some st =>
      match st.owner with
      | .single => s.takeStageSingle a st f
      | .group g => s.takeStageGroup a g st f
    | _, _, _ => s

/-- The frame that answers an outstanding request: status, detail, data (R196). -/
def Reply.frame (r : Reply) (tag code : Byte) : Frame :=
  { tag := tag, code := code, payload := u8 r.status.code ++ u8 r.detail ++ r.data }

/-- The Query Angle reply enters the port's reply slot (R44, R197). -/
def State.deliverPort (s : State) (p : Port) (f : InFlight) : State :=
  match (s.port p).request with
  | .outstanding tag code =>
    s.modPort p fun q => { q with reply := some (Reply.frame ⟨.ok, 255, encResult f⟩ tag code) }
  | .ready => s

/-- The evaluation in flight completes and hands over its result (R42). -/
def State.completeEvaluation (s : State) : State :=
  match s.inFlight with
  | none => s
  | some f =>
    let s := { s with inFlight := none }
    match f.who with
    | .axis a purpose => s.deliverAxis a purpose f
    | .port p => s.deliverPort p f

/-! ## Group requests (R86 to R92) -/

/-- The first three checks of R68 on a group request. -/
def onGroup (p : Port) (group : Nat) (s : State) (k : GroupId → State × Reply) : State × Reply :=
  match groupIdOf group with
  | none => refuse .badValue s
  | some g =>
    if !s.holds p (.group g) then notHolder (.group g) s
    else if s.held then refuse .halted s
    else k g

/-- A record in progress is superseded (R86). -/
def State.supersede (s : State) (g : GroupId) : State :=
  match s.motions[g] with
  | some m => if m.state.open_ then s.failMotion g m .superseded false else s
  | none => s

/-- The place of the first entry that fails a check. -/
def firstPlace {α : Type} (bad : α → Bool) : Nat → List α → Option Nat
  | _, [] => none
  | i, x :: xs => if bad x then some i else firstPlace bad (i + 1) xs

/-- The status that refuses an absolute target, where one does (R71, R87). -/
def Axis.targetFault (x : Axis) (raw : BitVec 32) : Option Status :=
  match x.absoluteTarget raw with
  | .error st => some st
  | .ok _ => none

/-- The first entry that names no axis of the group, one named before it, or a malformed target (R87). -/
def State.badEntry (s : State) (g : GroupId) : Nat → List Nat → List (Nat × BitVec 32) → Option Nat
  | _, _, [] => none
  | i, seen, (n, raw) :: rest =>
    match axisOf n with
    | none => some i
    | some a =>
      if (s.axis a).record.group ≠ g ∨ n ∈ seen ∨ (s.axis a).targetFault raw = some .badValue then some i
      else s.badEntry g (i + 1) (n :: seen) rest

/-- The named axes with their raw targets. -/
def namedAxes (l : List (Nat × BitVec 32)) : List (AxisId × BitVec 32) :=
  l.filterMap fun (n, raw) => (axisOf n).map fun a => (a, raw)

/-- The moves of accepted entries, in axis order. -/
def State.entryMoves (s : State) (l : List (AxisId × BitVec 32)) : List (AxisId × Int × Option StagedAt) :=
  allAxes.filterMap fun a =>
    match l.find? (fun x => x.1 == a) with
    | some (_, raw) =>
      match (s.axis a).absoluteTarget raw with
      | .ok t => some (a, t, none)
      | .error _ => none
    | none => none

/-- The place of the first entry whose axis fails a test, counted from 0, which R87 leaves open (log 28). An entry that names no axis
passes it. -/
def State.entryPlace (s : State) (f : Axis → BitVec 32 → Bool) (l : List (Nat × BitVec 32)) : Option Nat :=
  firstPlace (fun e => match axisOf e.1 with | some a => f (s.axis a) e.2 | none => false) 0 l

/-- The checks of a Coordinated Slew after claim and halt, in the order of R68: states, positions known, the list's own
fields, targets (R87). Where an entry fails, with its place. A list that is empty or of more than 16 entries is refused with BAD_VALUE
before its entries are looked at for fit, and names none (detail 255): R87 gives a list 1 to 16 entries and no refusal of its own for a
longer one, which always holds an entry that does not fit (log 28). -/
def State.entriesFault (s : State) (g : GroupId) (l : List (Nat × BitVec 32)) : Option (Status × Option Nat) :=
  match s.entryPlace (fun x _ => x.state != .standing) l with
  | some i => some (.state, some i)
  | none =>
    match s.entryPlace (fun x _ => !x.known) l with
    | some i => some (.notReferenced, some i)
    | none =>
      if l = [] ∨ 16 < l.length then some (.badValue, none)
      else match s.badEntry g 0 [] l with
        | some i => some (.badValue, some i)
        | none => (s.entryPlace (fun x raw => x.targetFault raw == some .range) l).map fun i => (.range, some i)

/-- Coordinated Slew (R87): what parts its axes have elsewhere end at one moment (R86). The reply names the first failing entry by its place in the list, counted from 0 (log 28). -/
def coordinatedSlew (p : Port) (group : Nat) (entries : List (Nat × BitVec 32)) (s : State) : State × Reply :=
  onGroup p group s fun g =>
    match s.entriesFault g entries with
    | some (c, some i) => refuseAt c i s
    | some (c, none) => refuse c s
    | none =>
      let moves := s.entryMoves (namedAxes entries)
      let common := s.commonTime moves
      let s := (s.supersede g).endMembers (fun a => moves.any fun x => x.1 == a) false
      let s := moves.foldl (fun s x => s.endPart x.1) s
      let (s, k) := s.fresh
      let m : GroupMotion :=
        { stageEpoch := none, state := .moving, cause := none, duration := some common,
          members := moves.map fun (a, t, _) => { axis := a, target := some t, outcome := .moving, staged := none },
          serial := k }
      answerOk (((s.setMotion g (some m)).startTogether moves common).restartLease (.group g))

/-- A member's place in a stage (R89). The rule does not say which reason a member has that meets several: the model takes UNBOUND
before NOT_REFERENCED before NOT_STANDING (log 28). -/
def State.stagePlace (s : State) (a : AxisId) : MemberOutcome :=
  let x := s.axis a
  if x.record.binding = none then .passedOver .unbound
  else if !x.known then .passedOver .notReferenced
  else if x.state ≠ .standing then .passedOver .notStanding
  else .evaluating

/-- A member outcome: its code, then the reason of PASSED_OVER with a presence byte (log 14). -/
def encOutcome (o : MemberOutcome) : List Byte :=
  u8 o.code ++ encOpt 1 (fun r : PassReason => u8 r.code) (match o with | .passedOver r => some r | _ => none)

/-- Stage Group (R89): the members ask for their angles in axis order, which no rule gives (log 33). -/
def stageGroup (p : Port) (group : Nat) (epoch : Int) (s : State) : State × Reply :=
  onGroup p group s fun g =>
    if epoch < Config.epochMin ∨ Config.epochMax < epoch then refuse .range s
    else
      let s := s.supersede g
      let members := (s.membersOf g).map fun a =>
        ({ axis := a, target := none, outcome := s.stagePlace a, staged := none } : Member)
      let staged := (members.filter fun x => x.outcome == .evaluating).map (·.axis)
      let s := staged.foldl State.endPart s
      let (s, k) := s.fresh
      let m : GroupMotion :=
        { stageEpoch := some epoch, state := .evaluating, cause := none, duration := none, members := members, serial := k }
      let s := s.setMotion g (some m)
      let s := staged.foldl (fun s a =>
        (s.modAxis a fun x => { x with stage := some ⟨epoch, .group g, k⟩ }).requestAngle a epoch .stage true) s
      answerData (encList (fun x : Member => u8 x.axis.val ++ encOutcome x.outcome) members)
        ((s.stageTest g).restartLease (.group g))

/-- Why Track Group passes a member over (R91). The rule lists the four reasons and not which is named where several apply: the model
names the first of UNBOUND, NOT_REFERENCED, NOT_STANDING, LIMIT (log 28). -/
def Axis.trackPass (x : Axis) : Option PassReason :=
  if x.record.binding = none then some .unbound
  else if !x.known then some .notReferenced
  else if !x.state.trackable then some .notStanding
  else if x.activeMemory.isSome then some .limit
  else none

/-- Track Group (R91): the parts of the members started end at one moment (R86). -/
def trackGroup (p : Port) (group : Nat) (s : State) : State × Reply :=
  onGroup p group s fun g =>
    let members := s.membersOf g
    let already := members.filter fun a => (s.axis a).state == .tracking
    let others := members.filter fun a => (s.axis a).state != .tracking
    let started := others.filter fun a => (s.axis a).trackPass.isNone
    let passed := others.filterMap fun a => (s.axis a).trackPass.map fun r => (a, r)
    let s := started.foldl State.trackAxis (s.endMembers (started.contains ·) false)
    answerData (encList (fun a : AxisId => u8 a.val) started ++ encList (fun a : AxisId => u8 a.val) already ++
      encList (fun x : AxisId × PassReason => u8 x.1.val ++ u8 x.2.code) passed) (s.restartLease (.group g))

/-- A group's record in EVALUATING fails at a Stop Group (R92, R86): its members still EVALUATING end with outcome ENDED, and those
whose axis is stopped. A READY member stands READY with its held target discarded, R92 naming EVALUATING alone (log 23). -/
def State.endEvaluating (s : State) (g : GroupId) (stopped : AxisId → Bool) : State :=
  match s.motions[g] with
  | some m =>
    if m.state = .evaluating then
      let end_ (x : Member) : Member :=
        if x.outcome == .evaluating || (x.outcome.active m.state && stopped x.axis) then { x with outcome := .ended } else x
      s.failMotion g { m with members := m.members.map end_ } .memberEnded false
    else s
  | none => s

/-- Stop Group (R92): its members stop in axis order, so the lowest-numbered return member stopped is the subject of
RESUME_ABANDONED (R187), which no rule says (log 34). -/
def stopGroup (p : Port) (group : Nat) (s : State) : State × Reply :=
  onGroup p group s fun g =>
    let stopped := (s.membersOf g).filter fun a => (s.axis a).state.stops
    let s := stopped.foldl State.stopAxis ((s.endEvaluating g (stopped.contains ·)).endMembers (stopped.contains ·) false)
    answerData (encList (fun a : AxisId => u8 a.val) stopped) (s.restartLease (.group g))

/-- The items of a group motion record (R86). The duration stands in whole ms in 4 bytes; of one above 2^32 - 1 ms, for which no rule
says what is sent, the low 4 bytes are (log 9); of a target longer than 7 bytes the low 7 are (log 36). -/
def encMotion (m : GroupMotion) : List Byte :=
  u8 (if m.stageEpoch.isSome then 1 else 0) ++ encOpt 7 encEpoch m.stageEpoch ++ u8 m.state.code ++
    encOpt 1 (fun c : EndCause => u8 c.code) m.cause ++
    encOpt 4 (fun ns : Nat => beNat 4 (ns / 1000000)) m.duration ++
    encList (fun x : Member => u8 x.axis.val ++ encOpt 7 (beInt 7) x.target ++ encOutcome x.outcome) m.members

/-- Read Group Motion (R86); an absent record is one whose parts are absent and whose list is empty (log 14). -/
def readGroupMotion (group : Nat) (s : State) : State × Reply :=
  match groupIdOf group with
  | none => refuse .badValue s
  | some g => answerData (encOpt 18 encMotion s.motions[g]) s

end Sys2Proof.Machine
end

