-- ==== Sys2Proof/Machine/Homing.lean ====
section
/-! DEFINITION. Homing (05), the return sequence's resume (09 R186), and the HOME input (05 R97). -/

namespace Sys2Proof.Machine

/-- The homing record formed from the axis record (R99). -/
def Axis.newHoming (x : Axis) (starter : HomingStarter) : Homing :=
  { phase := if x.home.accepted == x.record.homeRising then .clear else .seek
    braking := false, direction := x.record.homeDirection, speed := x.record.homeSpeed
    activeHigh := x.record.homeRising, filter := x.record.homeFilter, offset := x.record.homeOffset
    distance := x.record.searchDistance, travel := 0, reversals := 0, edge := none, starter := starter }

/-- A homing begins on a member: in every record in EVALUATING or MOVING that lists it, whatever its outcome there, it takes
ENDED, and the record fails (R99). -/
def State.endMemberships (s : State) (a : AxisId) : State :=
  allGroups.foldl (fun s g =>
    match s.motions[g] with
    | some m =>
      if m.state.open_ && m.members.any (·.axis == a) then
        s.failMotion g { m with members := m.members.map (·.settle a .ended) } .memberEnded false
      else s
    | none => s) s

/-- A homing begins (R99); its motion starts with the step's other motions (log 10). -/
def State.beginHoming (s : State) (a : AxisId) (starter : HomingStarter) : State :=
  ((s.endMemberships a).endStage a .ended false).modAxis a fun x =>
    { x.losePosition with limitMemory := none, stagedAt := none, target := none, stopping := none, tracking := none,
                          state := .homing, homing := some (x.newHoming starter) }

/-- Home (R98). -/
def home (p : Port) (axis : Nat) (s : State) : State × Reply :=
  onAxis p axis s fun a =>
    if (s.axis a).state ≠ .unreferenced ∧ (s.axis a).state ≠ .standing then refuse .state s
    else if !(s.axis a).record.sensor then refuse .state s
    else axisOk a (s.beginHoming a .request)

/-- The assigned position (R102): the home offset plus the steps emitted in the search direction since the capture. -/
def Axis.assigned (x : Axis) (h : Homing) : Position :=
  let n : Nat := match h.direction with | .plus => x.home.plusSteps | .minus => x.home.minusSteps
  let p : Int := h.offset + h.direction.sign * n
  match x.record.kind with
  | .limited => ⟨0, limitedCount p⟩
  | .continuous => ⟨wrapTurn (p.fdiv x.record.stepsPerTurn), p.emod x.record.stepsPerTurn⟩

/-- What an accepted HOME change does to a homing (R100, R101, R102). -/
def Axis.homeEdge (x : Axis) (h : Homing) : Axis :=
  let active := x.home.accepted == h.activeHigh
  match h.phase with
  | .clear => if active || h.braking then x else { x with homing := some { h with braking := true } }
  | .seek =>
    if active && h.edge.isNone then
      { x with position := x.assigned h, homing := some { h with edge := some (x.assigned h) } }
    else x

/-- An accepted change of HOME (R97): the captured position is that of the run's first sample, or of this one where no
run stands. A run that stands when Configure Axis sets the home filter to 0 keeps its first sample's capture and the steps since,
which R97 leaves open (DESIGN CHOICE, log 37). -/
def Axis.homeAccepted (x : Axis) (level : Bool) : Axis :=
  let f : HomeFilter :=
    if x.home.run = 0 then ⟨level, 0, x.position, 0, 0⟩ else { x.home with accepted := level, run := 0 }
  let x := { x with home := f }
  match x.homing with
  | some h => if x.state = .homing then x.homeEdge h else x
  | none => x

/-- HOME_INPUT_CHANGE: nothing where the level is accepted already. -/
def State.homeChanged (s : State) (a : AxisId) (level : Bool) : State :=
  if (s.axis a).home.accepted = level then s else s.modAxis a (·.homeAccepted level)

/-- CLEAR_PHASE_REST: at rest after the braking of CLEAR the search begins (R100). -/
def State.clearRest (s : State) (a : AxisId) : State :=
  match (s.axis a).state, (s.axis a).homing with
  | .homing, some h =>
    if h.phase = .clear ∧ h.braking then
      s.modAxis a fun x => { x.still with homing := some { h with phase := .seek, braking := false, travel := 0 } }
    else s
  | _, _ => s

/-- HOMING_SEARCH_EXHAUSTED: the pulse whose step brings the travel count to the search distance with no edge taken, and the failure
with it, at one moment (R104; that the command is this pulse: log 27). A count that stands there already fails without a step. -/
def State.searchExhausted (s : State) (a : AxisId) (late : Option Bool) : State :=
  match (s.axis a).state, (s.axis a).homing with
  | .homing, some h => if h.exhausted then s.failHoming a else if h.counted.exhausted then s.stepPulse a else s
  | _, _ => match late with | some reversed => s.lateHoming a reversed | none => s

/-! ## The resume of a return sequence (R186) -/

/-- An axis of the resume set is taken into TRACKING where Track would accept it (R186); one rebound since the return has lost
its mark and is not resumed (R56). -/
def Axis.resumable (x : Axis) : Bool := x.resumeMark && x.state.trackable && x.trackRefusal.isNone

def State.resumeAxis (s : State) (a : AxisId) : State := if (s.axis a).resumable then s.trackAxis a else s

/-- The resume is taken at one moment (R186), and ends the parts of all axes it takes at once (R86). -/
def State.resumeReturn (s : State) (q : ReturnRecord) : State :=
  let s := q.resume.foldl State.resumeAxis (s.endMembers (fun a => q.resume.contains a && (s.axis a).resumable) false)
  let s := if q.wasRunning then s.runClock else s
  let s := s.clearMarks
  let s := s.withClock { s.clock with wasRunning := false }
  s.withPower { s.power with sequence := none, outcome := .resumed }

/-- A member's homing completes (R186). -/
def State.memberHomed (s : State) (a : AxisId) : State :=
  match s.power.sequence with
  | none => s
  | some q =>
    if (a, false) ∈ q.members then
      let q := { q with members := q.members.map fun m => if m.1 = a then (a, true) else m }
      let s := s.withPower { s.power with sequence := some q }
      if q.members.all (·.2) then s.resumeReturn q else s
    else s

/-- AXIS_HOMED: a homing with edge taken reaches rest (R103). -/
def State.axisHomed (s : State) (a : AxisId) : State :=
  match (s.axis a).state, (s.axis a).homing with
  | .homing, some h =>
    if h.edge.isSome then
      let s := s.modAxis a fun x => { x.still with homing := none, known := true, state := .standing }
      ((s.event (.axisHomed a)).notifyAxis .axisHomed a).memberHomed a
    else s
  | _, _ => s

end Sys2Proof.Machine
end

