-- ==== Sys2Proof/Machine/Faults.lean ====
section
/-! DEFINITION. Faults and their clearing, HALT and Halt All, drive power and its return (09), and the inputs of an axis. -/

namespace Sys2Proof.Machine

/-! ## Clearing (R177, R178) -/

/-- The axis leaves FAULTED (R177); an FLT active then faults it afresh (R175). -/
def State.clearAxis (s : State) (a : AxisId) : State :=
  (s.modAxis a fun x =>
    { x with fault := FaultRecord.reset, state := if x.known then .standing else .unreferenced }).checkDrive a

/-- Clear Fault (R177): an asserted HALT line does not refuse it. -/
def clearFault (p : Port) (axis : Nat) (s : State) : State × Reply :=
  match axisOf axis with
  | none => refuse .badValue s
  | some a =>
    let x := s.axis a
    if !s.holds p (s.groupOf a) then notHolder (s.groupOf a) s
    else if !s.drivePresent then refuse .halted s
    else if x.state ≠ .faulted then refuse .state s
    else if x.fault.has .driveFault && x.flt.accepted then refuse .state s
    else axisOk a (s.clearAxis a)

/-- The conditions under which the auto-clear timer runs (R178). -/
def Axis.autoClears (x : Axis) (present : Bool) : Bool :=
  x.record.auto && x.state == .faulted && x.fault.first == some .driveFault && x.fault.further.isEmpty && present &&
    !x.flt.accepted

/-- The timer starts at 100 ms when the last condition comes to hold and stops when one ceases (R178). -/
def State.autoTimer (s : State) (a : AxisId) : State :=
  let x := s.axis a
  if x.autoClears s.drivePresent then
    if x.fault.autoClear = none then s.modAxis a fun x => { x with fault := { x.fault with autoClear := some 100 } } else s
  else if x.fault.autoClear = none then s
  else s.modAxis a fun x => { x with fault := { x.fault with autoClear := none } }

/-- AUTO_CLEAR_EXPIRY (R178). -/
def State.autoClearExpiry (s : State) (a : AxisId) : State :=
  if (s.axis a).state = .faulted ∧ (s.axis a).fault.autoClear.isSome then s.clearAxis a else s

/-! ## The FLT and limit inputs (R93, R94, R175, R176) -/

/-- FLT active meets the axis (R175, R176). -/
def State.driveTrouble (s : State) (a : AxisId) : State :=
  if (s.axis a).flt.accepted ∧ s.drivePresent ∧ (s.axis a).state = .faulted then s.furtherCause a .driveFault
  else s.checkDrive a

/-- An accepted change of FLT. -/
def State.fltChanged (s : State) (a : AxisId) (level : Bool) : State :=
  if (s.axis a).flt.accepted = level then s
  else ((s.modAxis a fun x => { x with flt := ⟨level, 0⟩ }).driveTrouble a).autoTimer a

def Axis.setLimit (x : Axis) (side : LimitSide) (f : Filter) : Axis :=
  match side with
  | .plus => { x with limP := f }
  | .minus => { x with limN := f }

/-- An accepted change of a limit input (R93, R94; `late` where it fell together with a fault taken first, R176). -/
def State.limitChanged (s : State) (a : AxisId) (side : LimitSide) (level : Bool) (late : Option LateCause) : State :=
  if (s.axis a).limitLevel side = level then s
  else
    let s := s.modAxis a (·.setLimit side ⟨level, 0⟩)
    let x := s.axis a
    if level then
      if x.direction.map Dir.side = some side then s.limitMet a side else s.lateLimit a side late
    else if x.limitMemory = some side then s.modAxis a fun x => { x with limitMemory := none }
    else s

/-! ## Runners and halts (R126, R156) -/

def RunnerState.waiting : RunnerState → Bool
  | .waitingTrigger | .waitingCompletion => true
  | .idle | .suspended _ | .faulted _ _ => false

/-- A WAITING runner is suspended (R156). -/
def Runner.suspend (x : Runner) (c : SuspendCause) : Runner :=
  if x.state.waiting then { x with state := .suspended c, delay := none, loopPause := none, completions := [] } else x

def State.suspendAll (s : State) : State := allPorts.foldl (fun s r => s.modRunner r (·.suspend .halt)) s

/-- The harder of two decelerations, IMMEDIATE the hardest (R180). -/
def harder : Option Nat → Option Nat → Option Nat
  | some x, some y => some (max x y)
  | _, _ => none

/-- A halt reaches an axis (Table 9-4, R180). -/
def State.haltAxis (s : State) (a : AxisId) : State :=
  let x := s.axis a
  match x.state with
  | .homing => s.enterStopping a x.record.haltDecel true
  | .slewing => s.enterStopping a x.record.haltDecel true
  | .tracking => s.enterStopping a x.record.haltDecel true
  | .stopping =>
    let s := (s.endMember a .ended .memberEnded true).endStage a .ended true
    match x.stopping with
    | some st =>
      let d := harder st.decel x.record.haltDecel
      s.modAxis a fun x => if d = none then x.atRest st.rest else { x with stopping := some { st with decel := d } }
    | none => s
  | .standing => (s.endMember a .ended .memberEnded true).endStage a .ended true
  | _ => s

/-- A part of the axis in a group motion ends by a halt (R180). -/
def AxisState.halts : AxisState → Bool
  | .homing | .slewing | .tracking | .stopping | .standing => true
  | .unconfigured | .disabled | .unreferenced | .faulted => false

/-- One halt (R180, R181): the clock first, so that a settling is abandoned without CLOCK_SETTLED (log 22), then the parts of
all members together, then every axis. -/
def State.performHalt (s : State) : State :=
  let s := s.haltClock .haltLine
  let s := s.endMembers (fun a => (s.axis a).state.halts) true
  (((allAxes.foldl State.haltAxis s).suspendAll).abandonReturn none)

/-- Halt All (R179): no claim, every state. -/
def haltAll (s : State) : State × Reply := answerOk s.performHalt

/-- HALT accepted active (R179). -/
def State.assertHalt (s : State) : State :=
  if s.power.halt.accepted then s else (s.withPower { s.power with halt := ⟨true, 0⟩ }).performHalt

/-- HALT accepted inactive (R179): it resumes nothing. -/
def State.haltDeasserted (s : State) : State :=
  if s.power.halt.accepted then s.withPower { s.power with halt := ⟨false, 0⟩ } else s

/-! ## Loss of drive power (R183, R184) -/

/-- What a loss leaves of an axis once its work has ended (R183). -/
def Axis.unpowered (x : Axis) : Axis :=
  match x.state with
  | .unconfigured => x
  | .disabled => x
  | .faulted => { x.losePosition with fault := { x.fault with autoClear := none } }
  | .unreferenced => x.losePosition
  | .homing => { x.losePosition.still with state := .unreferenced }
  | .standing => { x.losePosition.still with state := .unreferenced }
  | .slewing => { x.losePosition.still with state := .unreferenced }
  | .tracking => { x.losePosition.still with state := .unreferenced, resumeMark := true }
  | .stopping => { x.losePosition.still with state := .unreferenced }

def State.unpowerAxis (s : State) (a : AxisId) : State := (s.leaveWork a true).modAxis a Axis.unpowered

/-- A loss of drive power (R183, R184); a return sequence ends without RESUME_ABANDONED (R187). -/
def State.powerLoss (s : State) : State :=
  let s := s.withPower { s.power with state := .absent,
                                      outcome := if s.power.sequence.isSome then .none else s.power.outcome, sequence := none }
  let s := allAxes.foldl State.unpowerAxis ((s.haltClock .drivePower).endMembers (fun _ => true) true)
  (s.suspendAll).notify .drivePowerLost .sky none

/-- DRIVE_POWER_OK accepted inactive (R182). -/
def State.drivePowerInactive (s : State) : State :=
  if s.power.ok.accepted then
    let s := s.withPower { s.power with ok := ⟨false, 0⟩ }
    match s.power.state with
    | .present => s.powerLoss
    | .returning _ => s.withPower { s.power with state := .absent }
    | .absent => s
  else s

/-- DRIVE_POWER_OK accepted active (R182). -/
def State.drivePowerActive (s : State) : State :=
  if s.power.ok.accepted then s
  else
    let s := s.withPower { s.power with ok := ⟨true, 0⟩ }
    match s.power.state with
    | .absent => s.withPower { s.power with state := .returning 500 }
    | .present => s
    | .returning _ => s

/-! ## Return of drive power (R185, R186) -/

def State.markedAxes (s : State) : List AxisId := allAxes.filter fun a => (s.axis a).resumeMark

/-- The axes a return homes (R185). -/
def State.eligible (s : State) : List AxisId :=
  if s.haltAsserted then []
  else allAxes.filter fun a => (s.axis a).state == .unreferenced && (s.axis a).record.sensor

def State.rehome (s : State) (l : List AxisId) : State := l.foldl (fun s a => s.beginHoming a .returnPolicy) s

/-- The marks and the flag are cleared (R185). -/
def State.dropResume (s : State) (o : ReturnOutcome) : State :=
  let s := s.clearMarks
  let s := s.withClock { s.clock with wasRunning := false }
  s.withPower { s.power with outcome := o }

/-- REHOME_AND_RESUME at the return (R186, R187). -/
def State.formSequence (s : State) : State :=
  let members := s.eligible
  let q : ReturnRecord := { members := members.map fun a => (a, false), resume := s.markedAxes, wasRunning := s.clock.wasRunning }
  let s := s.withPower { s.power with sequence := some q, outcome := .pending }
  if s.haltAsserted then s.abandonReturn none
  else if members.isEmpty then s.resumeReturn q
  else s.rehome members

/-- Step 1 of a return on one axis (R185). -/
def State.returnAxis (s : State) (a : AxisId) : State := (s.driveTrouble a).autoTimer a

/-- The return, at the expiry of the stable timer (R185). Step 1 takes the axes in axis order, which no rule gives (log 34). -/
def State.powerReturn (s : State) : State :=
  match s.power.state with
  | .returning _ =>
    let s := s.withPower { s.power with state := .present }
    let s := allAxes.foldl State.returnAxis s
    let s := s.notify .drivePowerReturned .sky none
    let s := s.withPower { s.power with keptResume := s.markedAxes, keptRunning := s.clock.wasRunning }
    match s.power.policy with
    | .hold => s.dropResume .held
    | .rehome => let s := s.dropResume .rehomed; s.rehome s.eligible
    | .rehomeAndResume => s.formSequence
  | .present => s
  | .absent => s

/-- Set Return Policy (R185). -/
def setReturnPolicy (p : Port) (policy : Nat) (s : State) : State × Reply :=
  let set (x : ReturnPolicy) : State × Reply := answerOk ((s.withPower { s.power with policy := x }).restartLease .sky)
  if !s.holds p .sky then notHolder .sky s
  else match policy with
    | 0 => set .hold
    | 1 => set .rehome
    | 2 => set .rehomeAndResume
    | _ => refuse .badValue s

/-- Read Drive Power (R189); an absent return record has empty lists and a clear flag, and the accepted levels of DRIVE_POWER_OK and HALT
are 1 for active, which no table lists (log 14). -/
def readDrivePower (s : State) : State × Reply :=
  let d := s.power
  answerData (encFlag d.ok.accepted ++ encFlag d.halt.accepted ++ u8 d.state.code ++
    encOpt 4 (beNat 4) (match d.state with | .returning t => some t | _ => none) ++ u8 d.policy.code ++
    encOpt 3 (fun q : ReturnRecord =>
      encList (fun m : AxisId × Bool => u8 m.1.val ++ encFlag m.2) q.members ++
        encList (fun a : AxisId => u8 a.val) q.resume ++ encFlag q.wasRunning) d.sequence ++
    u8 d.outcome.code ++ encList (fun a : AxisId => u8 a.val) d.keptResume ++ encFlag d.keptRunning ++
    encFlag s.clock.wasRunning ++ allAxes.flatMap (fun a => encFlag (s.axis a).resumeMark)) s

end Sys2Proof.Machine
end

