-- ==== Sys2Proof/Machine/Claims.lean ====
section
/-! DEFINITION. The claim table (06): Claim, Renew, Release, Withdraw, Read Claims, and the lapse of a lease. -/

namespace Sys2Proof.Machine

/-- The subject of a claim notice: the group, absent for SKY (R125). -/
def claimSubject : Resource → Option Nat
  | .sky => none
  | .group g => some g.val

/-! ## The entry -/

/-- The lease a Claim carries; 0 means none (Table 10-2). -/
def newLease (seconds : Nat) : Option Lease :=
  if seconds = 0 then none else some { length := seconds, remaining := seconds * 1000 }

/-- The port becomes holder and leaves the waiting list (R116, R117, R124). -/
def ClaimEntry.grant (c : ClaimEntry) (p : Port) (standing : Nat) (lease : Option Lease) : ClaimEntry :=
  { holder := some { port := p, standing := standing, lease := lease }, waiting := c.waiting.filter fun w => w.port ≠ p }

/-- A port joins behind every port of equal or greater standing (R113). -/
def joinWaiting (w : Waiter) : List Waiter → List Waiter
  | [] => [w]
  | x :: xs => if x.standing < w.standing then w :: x :: xs else x :: joinWaiting w xs

/-- A port that waits already keeps its place (R118). -/
def ClaimEntry.queue (c : ClaimEntry) (p : Port) (standing : Nat) : ClaimEntry :=
  if c.waiting.any fun w => w.port == p then c
  else { c with waiting := joinWaiting { port := p, standing := standing } c.waiting }

/-- The place of a port in the waiting list, 0 for the head. -/
def ClaimEntry.place (c : ClaimEntry) (p : Port) : Nat := (c.waiting.takeWhile fun w => w.port ≠ p).length

/-! ## The runner of a port that loses a resource (R120, R126) -/

/-- The requirement set of the program a runner is in; empty with no program. -/
def State.requirement (s : State) (r : Port) : BitVec 16 :=
  match (s.runner r).program with
  | some i => s.programs[i].requirement
  | none => 0

/-- The port's runner is WAITING with the resource in its program's requirement set (R120, R126). -/
def State.runnerNeeds (s : State) (p : Port) (r : Resource) : Bool :=
  (s.runner p).state.waiting && (s.requirement p).getLsbD (resourceIdx r).val

/-- The runner is told of the loss (R126). -/
def State.tellLoss (s : State) (p : Port) (r : Resource) : State :=
  if s.runnerNeeds p r then s.modRunner p (·.suspend .claim) else s

/-! ## Encodings -/

def encWaiter (w : Waiter) : List Byte := u8 (encPort w.port) ++ u8 w.standing

def encLeaseLength (c : ClaimEntry) : List Byte :=
  beNat 2 (match c.holder.bind (·.lease) with | some l => l.length | none => 0)

/-- The resource and the entry as a Claim left it (R115). -/
def encClaimed (r : Resource) (c : ClaimEntry) : List Byte :=
  u8 (resourceCode r) ++ encPortOpt (c.holder.map (·.port)) ++ encLeaseLength c ++ encList encWaiter c.waiting

/-- One entry of Read Claims (R113). -/
def encEntry (c : ClaimEntry) : List Byte :=
  encOpt 2 (fun h : Holder => u8 (encPort h.port) ++ u8 h.standing) c.holder ++ encLeaseLength c ++
    encOpt 4 (fun l : Lease => beNat 4 l.remaining) (c.holder.bind (·.lease)) ++ encList encWaiter c.waiting

/-- Read Claims (R113). -/
def readClaims (p : Port) (s : State) : State × Reply :=
  answerData (allResources.flatMap (fun r => encEntry (s.claim r)) ++ u8 (s.port p).standing) s

/-! ## Claim (R115 to R118) -/

/-- A GRANTED outcome; the reply names the old holder of a preemption (R117). -/
def State.claimGranted (s : State) (p : Port) (r : Resource) (lease : Nat) (old : Option Port) : State × Reply :=
  let c := (s.claim r).grant p (s.port p).standing (newLease lease)
  (s.setClaim r c, ⟨.granted, 255, encClaimed r c ++ encPortOpt old⟩)

/-- A preemption (R117): the old holder is told, and its runner before it. -/
def State.preempt (s : State) (p : Port) (r : Resource) (lease : Nat) (old : Port) : State × Reply :=
  ((s.tellLoss old r).noticeTo old .claimLost (claimSubject r)).claimGranted p r lease (some old)

/-- QUEUED (R118). -/
def State.claimQueued (s : State) (p : Port) (r : Resource) : State × Reply :=
  let c := (s.claim r).queue p (s.port p).standing
  (s.setClaim r c, ⟨.queued, 255, encClaimed r c ++ u8 (c.place p)⟩)

/-- HELD (R118): the entry is unchanged. -/
def State.claimHeld (s : State) (r : Resource) (h : Holder) : State × Reply :=
  (s, ⟨.held, 255, encClaimed r (s.claim r) ++ u8 (encPort h.port) ++ u8 h.standing⟩)

/-- The outcome of a valid Claim (Table 6-3). -/
def State.claimOutcome (s : State) (p : Port) (r : Resource) (wait preempt : Bool) (lease : Nat) : State × Reply :=
  match (s.claim r).holder with
  | none => s.claimGranted p r lease none
  | some h =>
    if h.port = p then s.claimGranted p r lease none
    else if preempt ∧ h.standing < (s.port p).standing then s.preempt p r lease h.port
    else if wait then s.claimQueued p r
    else s.claimHeld r h

/-- Claim (R115); a lease of 0 is absent, and a flag byte other than 0 and 1 is neither set nor clear. -/
def claim (p : Port) (resource wait preempt lease : Nat) (s : State) : State × Reply :=
  match resourceOf resource with
  | none => refuse .badValue s
  | some r =>
    if 600 < lease ∨ 1 < wait ∨ 1 < preempt then refuse .badValue s
    else s.claimOutcome p r (wait == 1) (preempt == 1) lease

/-! ## Renew, Release, Withdraw (R119, R120, R121, R123) -/

/-- Renew (R119). -/
def renew (p : Port) (resource : Nat) (s : State) : State × Reply :=
  match resourceOf resource with
  | none => refuse .badValue s
  | some r =>
    if !s.holds p r then notHolder r s
    else answerData (encLeaseLength (s.claim r)) (s.restartLease r)

/-- The resource passes on (R121). -/
def State.passOn (s : State) (r : Resource) : State :=
  match (s.claim r).waiting with
  | [] => s.setClaim r { holder := none, waiting := [] }
  | w :: ws =>
    (s.setClaim r { holder := some { port := w.port, standing := w.standing, lease := none }, waiting := ws }).noticeTo
      w.port .claimGranted (claimSubject r)

/-- Release (R120). -/
def release (p : Port) (resource : Nat) (s : State) : State × Reply :=
  match resourceOf resource with
  | none => refuse .badValue s
  | some r =>
    if !s.holds p r then notHolder r s
    else if s.runnerNeeds p r then refuse .inUse s
    else answerOk (s.passOn r)

/-- Withdraw (R123): OK with the flag REMOVED set or clear. -/
def withdraw (p : Port) (resource : Nat) (s : State) : State × Reply :=
  match resourceOf resource with
  | none => refuse .badValue s
  | some r =>
    let c := s.claim r
    answerData (encFlag (c.waiting.any fun w => w.port == p))
      (s.setClaim r { c with waiting := c.waiting.filter fun w => w.port ≠ p })

/-! ## The lapse of a lease (R122) -/

/-- LEASE_EXPIRY: the runner is suspended, the holder leaves with CLAIM_LAPSED, the resource passes on. Where a request that restarts the
lease falls together with the expiry and is taken first, R122 says that the expiry does not happen and R128 that the loss then takes the
resource: the command acts on the restarted lease, and an expiry that does not happen is no command (log 25). -/
def State.leaseExpiry (s : State) (r : Resource) : State :=
  match (s.claim r).holder with
  | some h =>
    if h.lease.isSome then
      ((s.tellLoss h.port r).noticeTo h.port .claimLapsed (claimSubject r)).passOn r
    else s
  | none => s

end Sys2Proof.Machine
end

