-- ==== Sys2Proof/Machine/Links.lean ====
section
/-! DEFINITION. The event link table, the TRIG inputs, the cue outputs and the capture queue (08). -/

namespace Sys2Proof.Machine

def State.link (s : State) (l : LinkId) : Link := s.links[l]

/-! ## Cue outputs (R168, R169) -/

inductive OutputAction where
  | set
  | clear
  | pulse (width : Nat)
deriving DecidableEq, Repr

/-- Table 8-5: the state an action leaves, whatever it found. -/
def outputAfter : OutputAction → OutputState
  | .set => .set
  | .clear => .inactive
  | .pulse w => .pulsing w

def State.setOutput (s : State) (o : OutputId) (x : OutputState) : State := { s with outputs := s.outputs.set o x }

def State.actOutput (s : State) (o : OutputId) (a : OutputAction) : State := s.setOutput o (outputAfter a)

/-- The line is active in SET and PULSING (R168). -/
def OutputState.active : OutputState → Bool
  | .inactive => false
  | .set => true
  | .pulsing _ => true

/-- The line of a cue output; inactive while the part is held in reset (R211). -/
def State.cueOut (s : State) (o : OutputId) : Bool := s.phase == .running && s.outputs[o].active

/-- PULSE_TIMER_EXPIRY (R169). -/
def State.pulseExpiry (s : State) (o : OutputId) : State :=
  match s.outputs[o] with
  | .pulsing _ => s.setOutput o .inactive
  | .inactive => s
  | .set => s

/-! ## Captures (R170, R171) -/

/-- One capture: numbered, then queued, or dropped and counted where four records stand. -/
def State.capture (s : State) (l : LinkId) (e : Source) (snap : SkySnap) : State :=
  let q := s.captures
  let next := (q.next + 1) % 65536
  if q.records.length < Config.captureMax then
    { s with captures := { q with records := q.records ++ [⟨q.next, l, e, snap⟩], next := next } }
  else
    ({ s with captures := { q with next := next, overruns := sat255 q.overruns } } : State).notify .captureOverrun .sky
      (some l.val)

/-! ## Events and arrivals (R161 to R165) -/

def Edge.covers (want taken : Edge) : Bool := want == .both || want == taken

/-- A link's source names an event (R161). -/
def Source.names (src event : Source) : Bool :=
  match src, event with
  | .trig t e, .trig t' e' => t == t' && e.covers e'
  | x, y => x == y

/-- A live link (R158) whose source names the event. -/
def Link.takes (l : Link) (event : Source) : Bool :=
  l.enabled && l.dest.isSome &&
    match l.source with
    | some src => src.names event
    | none => false

/-- What one arrival does (R163 to R165, R168, R170): an arrival for a runner waits its turn behind what was raised
before it (R147). So of the links that one event feeds, which R161 has act in no defined order, those to a runner or a program start always
act after the event's outputs, captures and CLOCK_HALT; that is the model's choice (log 5). -/
def State.arrival (s : State) (l : LinkId) (d : Dest) (event : Source) (snap : Option SkySnap) : State :=
  match d with
  | .runnerLink r => s.raise (.arrival r l)
  | .runnerStart r i => s.raise (.start r l i)
  | .outputPulse o w => s.actOutput o (.pulse w)
  | .outputSet o => s.actOutput o .set
  | .outputClear o => s.actOutput o .clear
  | .capture => s.capture l event (snap.getD s.skySnap)
  | .clockHalt => s.haltClock .command

/-- One link delivers its arrival, and counts it (R158). -/
def State.deliverOver (s : State) (event : Source) (snap : Option SkySnap) (l : LinkId) : State :=
  let x := s.link l
  match x.dest with
  | some d => (s.setLink l { x with arrivals := sat255 x.arrivals }).arrival l d event snap
  | none => s

/-- An event at the link table (R161): every live link that names it delivers, in no defined order (log 6), in which arrivals for runners
and program starts take their turn behind the other destinations' (log 5). -/
def State.deliverEvent (s : State) (event : Source) (snap : Option SkySnap) : State :=
  let (s, order) := s.freeOrder Fin.val (allLinks.filter fun l => (s.link l).takes event)
  order.foldl (fun s l => s.deliverOver event snap l) s

/-! ## Forms of sources and destinations (Tables 8-2, 8-3; log 14) -/

def edgeOf : Nat → Option Edge
  | 0 => some .rising
  | 1 => some .falling
  | 2 => some .both
  | _ => none

/-- A source as Set Link carries it; a CLOCK source carries no index (R159). -/
def sourceOf (r : RawSource) : Option Source :=
  match r.form with
  | 0 => (markOf r.index).map .mark
  | 1 =>
    match trigOf r.index, edgeOf r.edge with
    | some t, some e => some (.trig t e)
    | _, _ => none
  | 2 => (axisOf r.index).map .axisArrived
  | 3 => (axisOf r.index).map .axisHomed
  | 4 => (axisOf r.index).map .axisFault
  | 5 => (groupIdOf r.index).map .groupArrived
  | 6 => (portOf r.index).map .runnerNote
  | 7 => if r.index = 0 ∧ r.edge = 0 then some .clockSettled else none
  | 8 => if r.index = 0 ∧ r.edge = 0 then some .timebaseLost else none
  | 9 => if r.index = 0 ∧ r.edge = 0 then some .clockRange else none
  | _ => none

/-- A destination as Set Link carries it (R159). -/
def destOf (r : RawDest) : Option Dest :=
  match r.form with
  | 0 => (portOf r.index).map .runnerLink
  | 1 =>
    match portOf r.index, programOf r.param with
    | some p, some i => some (.runnerStart p i)
    | _, _ => none
  | 2 => if 1 ≤ r.param ∧ r.param ≤ 1000 then (outputOf r.index).map fun o => .outputPulse o r.param else none
  | 3 => (outputOf r.index).map .outputSet
  | 4 => (outputOf r.index).map .outputClear
  | 5 => if r.index = 0 ∧ r.param = 0 then some .capture else none
  | 6 => if r.index = 0 ∧ r.param = 0 then some .clockHalt else none
  | _ => none

/-- Form byte and two value bytes (log 14). -/
def encSource : Source → List Byte
  | .mark m => u8 0 ++ u8 0 ++ u8 m.val
  | .trig t e => u8 1 ++ u8 t.val ++ u8 e.code
  | .axisArrived a => u8 2 ++ u8 0 ++ u8 a.val
  | .axisHomed a => u8 3 ++ u8 0 ++ u8 a.val
  | .axisFault a => u8 4 ++ u8 0 ++ u8 a.val
  | .groupArrived g => u8 5 ++ u8 0 ++ u8 g.val
  | .runnerNote r => u8 6 ++ u8 0 ++ u8 (encPort r)
  | .clockSettled => u8 7 ++ u8 0 ++ u8 0
  | .timebaseLost => u8 8 ++ u8 0 ++ u8 0
  | .clockRange => u8 9 ++ u8 0 ++ u8 0

/-- Form byte and five value bytes (log 14). -/
def encDest : Dest → List Byte
  | .runnerLink r => u8 0 ++ List.replicate 4 0 ++ u8 (encPort r)
  | .runnerStart r i => u8 1 ++ List.replicate 3 0 ++ u8 (encPort r) ++ u8 i.val
  | .outputPulse o w => u8 2 ++ u8 o.val ++ beNat 4 w
  | .outputSet o => u8 3 ++ List.replicate 4 0 ++ u8 o.val
  | .outputClear o => u8 4 ++ List.replicate 4 0 ++ u8 o.val
  | .capture => u8 5 ++ List.replicate 5 0
  | .clockHalt => u8 6 ++ List.replicate 5 0

/-! ## Requests (Table 8-4) -/

/-- Set Link (R159): the failing item is named by its place in the rule's list. -/
def setLink (p : Port) (link enable : Nat) (source : RawSource) (dest : RawDest) (s : State) : State × Reply :=
  if !s.holds p .sky then notHolder .sky s
  else match linkOf link with
    | none => refuseAt .badValue 1 s
    | some l =>
      if 1 < enable then refuseAt .badValue 2 s
      else match sourceOf source, destOf dest with
        | none, _ => refuseAt .badValue 3 s
        | some _, none => refuseAt .badValue 4 s
        | some src, some d =>
          answerOk ((s.setLink l { enabled := enable == 1, source := some src, dest := some d, arrivals := 0,
                                   lastStart := .none }).restartLease .sky)

/-- Set Link Enable (R160). -/
def setLinkEnable (p : Port) (link enable : Nat) (s : State) : State × Reply :=
  if !s.holds p .sky then notHolder .sky s
  else match linkOf link with
    | none => refuse .badValue s
    | some l =>
      let x := s.link l
      if 1 < enable then refuse .badValue s
      else if enable = 1 ∧ (x.source = none ∨ x.dest = none) then refuse .state s
      else answerOk ((s.setLink l { x with enabled := enable == 1 }).restartLease .sky)

def StartOutcome.code : StartOutcome → Nat
  | .none => 0
  | .started => 1
  | .refused st => st.code

/-- Table 8-1; the enabled flag is 1 for yes (log 14). -/
def encLink (x : Link) : List Byte :=
  encFlag x.enabled ++ encOpt 3 encSource x.source ++ encOpt 6 encDest x.dest ++ u8 x.arrivals ++ u8 x.lastStart.code

/-- Read Link (R158): the count is set to 0 after the reply. -/
def readLink (link : Nat) (s : State) : State × Reply :=
  match linkOf link with
  | none => refuse .badValue s
  | some l => answerData (encLink (s.link l)) (s.setLink l { s.link l with arrivals := 0 })

def filterLengthOk (n : Nat) : Bool := n == 0 || n == 4 || n == 8 || n == 16

/-- Set Trigger Filter (R167): a run in progress keeps its samples and its snapshot, also where the new length is 0 (log 38). -/
def setTriggerFilter (p : Port) (input length : Nat) (s : State) : State × Reply :=
  if !s.holds p .sky then notHolder .sky s
  else match trigOf input with
    | none => refuse .badValue s
    | some t =>
      if filterLengthOk length then
        answerOk (({ s with trigs := s.trigs.set t { s.trigs[t] with length := length } } : State).restartLease .sky)
      else refuse .badValue s

def allTrigs : List TrigId := [0, 1, 2, 3]
def allOutputs : List OutputId := [0, 1, 2, 3]

def OutputState.timer : OutputState → Option Nat
  | .pulsing t => some t
  | .inactive => none
  | .set => none

/-- Read Lines (R167). No table lists the values of an accepted level: TRIG is 1 for high, HALT and DRIVE_POWER_OK are 1 for active, and
FAULT_OUT is 1 for asserted (log 14). -/
def readLines (s : State) : State × Reply :=
  answerData (allTrigs.flatMap (fun t => encFlag s.trigs[t].accepted ++ u8 s.trigs[t].length) ++
    allOutputs.flatMap (fun o => u8 s.outputs[o].code ++ encOpt 4 (beNat 4) s.outputs[o].timer) ++
    encFlag s.power.halt.accepted ++ encFlag s.power.ok.accepted ++ encFlag s.faultOut) s

/-- Table 8-6. -/
def encCapture (c : Capture) : List Byte :=
  beNat 2 c.number ++ u8 c.link.val ++ encSource c.source ++ encEpoch c.snap.epoch ++ encRate c.snap.ra ++
    u8 c.snap.state.code ++ c.snap.positions.flatMap (encOpt 8 encWords)

/-- Read Capture (R172). -/
def readCapture (s : State) : State × Reply :=
  let q := s.captures
  let left := q.records.tail
  answerData (encOpt 163 encCapture q.records.head? ++ u8 left.length ++ beNat 2 q.next ++ u8 q.overruns)
    { s with captures := { q with records := left, overruns := 0 } }

/-! ## TRIG inputs (R166) -/

/-- The accepted change of a TRIG input raises its event with the run snapshot. -/
def State.acceptTrig (s : State) (t : TrigId) (level : Bool) (snap : SkySnap) : State :=
  ({ s with trigs := s.trigs.set t { s.trigs[t] with accepted := level, run := 0, snap := none } } : State).raise
    (.event (.trig t (if level then .rising else .falling)) (some snap))

/-- TRIG_INPUT_CHANGE: where no run stands, the snapshot is that of this sample (log 18); where one stands, that of its first sample,
also at length 0 (log 38). -/
def State.trigChanged (s : State) (t : TrigId) (level : Bool) : State :=
  if s.trigs[t].accepted = level then s
  else s.acceptTrig t level (s.trigs[t].snap.getD s.skySnap)

/-- One sample of a TRIG input (R166). A run that stands when Set Trigger Filter sets the length to 0 keeps the snapshot of its first
sample, and its next sample is accepted with that one: R167 has the run keep it, where R166 gives a filter of length 0 the snapshot of
the accepting sample (DESIGN CHOICE, log 38). -/
def State.trigSample (s : State) (t : TrigId) (level : Bool) : State :=
  let x := s.trigs[t]
  if level = x.accepted then { s with trigs := s.trigs.set t { x with run := 0, snap := none } }
  else
    let snap := if x.run = 0 then s.skySnap else x.snap.getD s.skySnap
    if x.length ≤ x.run + 1 then s.acceptTrig t level snap
    else { s with trigs := s.trigs.set t { x with run := x.run + 1, snap := some snap } }

end Sys2Proof.Machine
end

