-- ==== Sys2Proof/Machine/Programs.lean ====
section
/-! DEFINITION. Cue programs and the cue store (07 sections 7.1 and 7.2, 10 R200). -/

namespace Sys2Proof.Machine

/-! ## Cues -/

/-- The control cues act on the runner alone (07 section 7.2). -/
def CueAction.control : CueAction → Bool
  | .loopOpen _ | .loopClose | .endProgram => true
  | .setRate _ _ | .jump _ _ | .runClock | .haltClock | .bind _ | .trackGroup | .stopGroup | .slewAxis _ _ | .slewGroup _
  | .stageGroup _ | .output _ _ | .note => false

/-- Flag bit 0 (Table 10-6). -/
def Cue.await (c : Cue) : Bool := c.flags.getLsbD 0
/-- Flag bit 1. -/
def Cue.fresh (c : Cue) : Bool := c.flags.getLsbD 1
/-- Flag bit 2: FALLING. -/
def Cue.falling (c : Cue) : Bool := c.flags.getLsbD 2

/-- The cue follows the one before it in its chain (R147). -/
def Cue.chained (c : Cue) : Bool := c.trigger == .chained && !c.action.control

/-- AT_EPOCH: the epoch. -/
def Cue.atEpoch (c : Cue) : Int := c.value.toInt
/-- DELAY: ms in the last 4 bytes; those before are not read (log 14). -/
def Cue.delayMs (c : Cue) : Nat := c.value.toNat % 2 ^ 32
/-- ON_SETTLED: the group in the last byte; those before are not read (log 14). -/
def Cue.settledGroup (c : Cue) : Nat := c.value.toNat % 256

def triggerOf : Nat → Option TriggerKind
  | 0 => some .afterPrevious
  | 1 => some .chained
  | 2 => some .atEpoch
  | 3 => some .delay
  | 4 => some .onLink
  | 5 => some .onSettled
  | _ => none

/-! ## Form (R135, R200) -/

/-- The cue length of Table 10-7 for a kind, its target kind and the entry count of a group slew. -/
def cueLength (kind targetKind entries : Nat) : Nat :=
  match kind with
  | 0 => 22
  | 1 => 21
  | 4 => 14
  | 7 => if targetKind = 2 then 14 + 5 * entries else 21
  | 8 => 20
  | 9 => 16
  | 11 => 15
  | _ => 13

/-- The target kind a cue kind requires (R200); SLEW takes an axis or a group. -/
def targetKindOk (kind targetKind : Nat) : Bool :=
  match kind with
  | 4 => targetKind == 1
  | 5 => targetKind == 2
  | 6 => targetKind == 2
  | 7 => targetKind == 1 || targetKind == 2
  | 8 => targetKind == 2
  | 9 => targetKind == 3
  | _ => targetKind == 0

/-- The action of a cue whose length is right; an unknown kind, SLEW form or OUTPUT action gives none. -/
def actionOf (kind targetKind : Nat) (bs : List Byte) : Option CueAction :=
  match kind with
  | 0 => some (.setRate (intOf (field bs 0 5)) (natOf (field bs 5 4)))
  | 1 => some (.jump (intOf (field bs 0 7)) (natOf (field bs 7 1)))
  | 2 => some .runClock
  | 3 => some .haltClock
  | 4 => some (.bind (natOf (field bs 0 1)))
  | 5 => some .trackGroup
  | 6 => some .stopGroup
  | 7 =>
    if targetKind = 2 then
      let n := natOf (field bs 0 1)
      if 1 ≤ n ∧ n ≤ 16 then some (.slewGroup (entriesOf n (bs.drop 1))) else none
    else
      let form := natOf (field bs 0 1)
      if form ≤ 1 then some (.slewAxis form (BitVec.ofNat 56 (natOf (field bs 1 7)))) else none
  | 8 => some (.stageGroup (intOf (field bs 0 7)))
  | 9 =>
    let action := natOf (field bs 0 1)
    if action ≤ 2 then some (.output action (natOf (field bs 1 2))) else none
  | 10 => some .note
  | 11 => some (.loopOpen (natOf (field bs 0 2)))
  | 12 => some .loopClose
  | 13 => some .endProgram
  | _ => none

/-- A well-formed cue, or `none` (R135). -/
def cueOf (r : RawCue) : Option Cue :=
  let n := cueLength r.kind r.targetKind (natOf (field r.params 0 1))
  if r.length = n ∧ r.params.length + 13 = n ∧ targetKindOk r.kind r.targetKind then
    match actionOf r.kind r.targetKind r.params, triggerOf r.trigger with
    | some a, some t => some { action := a, target := r.target, trigger := t, flags := r.flags, value := r.value }
    | _, _ => none
  else none

/-- The place of the first malformed cue, or the cues (R132). -/
def cuesOf : Nat → List RawCue → Except Nat (List Cue)
  | _, [] => .ok []
  | i, r :: rs =>
    match cueOf r with
    | none => .error i
    | some c =>
      match cuesOf (i + 1) rs with
      | .error j => .error j
      | .ok cs => .ok (c :: cs)

/-! ## Requests on programs (R131, R132, R134) -/

/-- Open Program (R131). -/
def openProgram (p : Port) (program : Nat) (requirement : BitVec 16) (s : State) : State × Reply :=
  match programOf program with
  | none => refuse .badValue s
  | some i =>
    let x := s.program i
    if 512 ≤ requirement.toNat then refuse .badValue s
    else if x.state = .opened then refuse .state s
    else if x.inUse.isSome then refuse .inUse s
    else
      let s := s.setProgram i { state := .opened, opener := some p, requirement := requirement, cues := [], inUse := none }
      answerData (beNat 2 s.freeCues) s

/-- Append Cues (R132). -/
def appendCues (p : Port) (program : Nat) (raws : List RawCue) (s : State) : State × Reply :=
  match programOf program with
  | none => refuse .badValue s
  | some i =>
    let x := s.program i
    if raws.length = 0 ∨ 8 < raws.length then refuse .badValue s
    else if x.state ≠ .opened ∨ x.opener ≠ some p then refuse .state s
    else match cuesOf 0 raws with
      | .error place => refuseAt .badValue place s
      | .ok cues =>
        if Config.programMax < x.cues.length + cues.length ∨ s.freeCues < cues.length then refuse .full s
        else
          let s := s.setProgram i { x with cues := x.cues ++ cues }
          answerData (u8 (x.cues.length + cues.length) ++ beNat 2 s.freeCues) s

/-- Erase Program (R134). -/
def eraseProgram (p : Port) (program : Nat) (s : State) : State × Reply :=
  match programOf program with
  | none => refuse .badValue s
  | some i =>
    let x := s.program i
    if x.state = .opened ∧ x.opener ≠ some p then refuse .state s
    else if x.inUse.isSome then refuse .inUse s
    else answerOk (s.setProgram i Program.reset)

/-! ## Close (R133, Table 7-3) -/

def epochInRange (e : Int) : Bool := decide (Config.epochMin ≤ e ∧ e ≤ Config.epochMax)

/-- TARGET_RANGE. -/
def Cue.targetOk (c : Cue) : Bool :=
  match c.action with
  | .bind ch => decide (c.target < 16) && (decide (ch < 12) || ch == 255)
  | .slewAxis _ _ => decide (c.target < 16)
  | .trackGroup => decide (c.target < 8)
  | .stopGroup => decide (c.target < 8)
  | .stageGroup _ => decide (c.target < 8)
  | .slewGroup l => decide (c.target < 8) && l.all fun x => decide (x.1 < 16)
  | .output _ _ => decide (c.target < 4)
  | _ => true

def noneTwice : List Nat → Bool
  | [] => true
  | x :: xs => !xs.contains x && noneTwice xs

/-- The parameters lie in the ranges of Table 7-5. -/
def Cue.parametersOk (c : Cue) : Bool :=
  match c.action with
  | .setRate goal ramp => decide (-Config.rateMax ≤ goal ∧ goal ≤ Config.rateMax ∧ ramp ≤ 600000)
  | .jump e mode => epochInRange e && decide (mode ≤ 1)
  | .slewAxis form value => form == 0 || epochInRange value.toInt
  | .slewGroup l => noneTwice (l.map (·.1))
  | .stageGroup e => epochInRange e
  | .output action width => action != 2 || decide (1 ≤ width ∧ width ≤ 1000)
  | _ => true

/-- The trigger value lies in the range of Table 7-6. -/
def Cue.triggerOk (c : Cue) : Bool :=
  match c.trigger with
  | .atEpoch => epochInRange c.atEpoch
  | .delay => decide (1 ≤ c.delayMs ∧ c.delayMs ≤ 3600000)
  | .onSettled => decide (c.settledGroup < 8)
  | _ => true

/-- The resource a cue acts on (Table 7-5), for a target in range. -/
def State.cueResource (s : State) (c : Cue) : Option Resource :=
  match c.action with
  | .setRate _ _ | .jump _ _ | .runClock | .haltClock => some .sky
  | .bind _ | .slewAxis _ _ => (axisOf c.target).map s.groupOf
  | .trackGroup | .stopGroup | .slewGroup _ | .stageGroup _ => (groupIdOf c.target).map .group
  | .output _ _ | .note | .loopOpen _ | .loopClose | .endProgram => none

/-- The kind has a completion (Table 7-5). -/
def CueAction.completes : CueAction → Bool
  | .jump _ mode => mode == 0
  | .slewAxis _ _ => true
  | .slewGroup _ => true
  | .stageGroup _ => true
  | _ => false

/-- A LOOP_CLOSE follows at the depth of a LOOP_OPEN. -/
def closedAfter : Nat → List Cue → Bool
  | _, [] => false
  | d, c :: cs =>
    match c.action with
    | .loopOpen _ => closedAfter (d + 1) cs
    | .loopClose => if d = 0 then true else closedAfter (d - 1) cs
    | _ => closedAfter d cs

/-- The first check a cue fails, by its position in Table 7-3. `before` is the action before it, `depth` the loops open. -/
def State.cueFault (s : State) (requirement : BitVec 16) (before : Option CueAction) (depth : Nat) (c : Cue)
    (after : List Cue) : Option Nat :=
  let outside := match s.cueResource c with
    | some r => !requirement.getLsbD (resourceIdx r).val
    | none => false
  if c.trigger = .chained ∧ (c.action.control ∨ before.all CueAction.control) then some 1
  else if !c.targetOk then some 2
  else if !(c.parametersOk && c.triggerOk) then some 3
  else if outside then some 4
  else if c.await && !c.action.completes then some 5
  else match c.action with
    | .loopOpen _ => if 2 ≤ depth then some 6 else if !closedAfter 0 after then some 7 else none
    | .loopClose => if depth = 0 then some 7 else none
    | _ => none

def depthAfter (depth : Nat) (a : CueAction) : Nat :=
  match a with
  | .loopOpen _ => depth + 1
  | .loopClose => depth - 1
  | _ => depth

/-- The lowest-indexed bad cue and its reason. -/
def State.badCue (s : State) (requirement : BitVec 16) : Nat → Option CueAction → Nat → List Cue → Option (Nat × Nat)
  | _, _, _, [] => none
  | i, before, depth, c :: cs =>
    match s.cueFault requirement before depth c cs with
    | some reason => some (i, reason)
    | none => s.badCue requirement (i + 1) (some c.action) (depthAfter depth c.action) cs

/-- The validation of a cue list (R133): EMPTY, then the cues in order. -/
def State.closeFault (s : State) (x : Program) : Option (Nat × Nat) :=
  if x.cues.isEmpty then some (0, 0) else s.badCue x.requirement 0 none 0 x.cues

/-- Close Program (R133, R134). -/
def closeProgram (p : Port) (program : Nat) (s : State) : State × Reply :=
  match programOf program with
  | none => refuse .badValue s
  | some i =>
    let x := s.program i
    if x.state ≠ .opened ∨ x.opener ≠ some p then refuse .state s
    else match s.closeFault x with
      | some (index, reason) => (s, ⟨.badValue, index, u8 reason⟩)
      | none => answerData (u8 x.cues.length) (s.setProgram i { x with state := .closed, opener := none })

/-! ## Read Program (R130) -/

def CueAction.kindCode : CueAction → Nat
  | .setRate _ _ => 0 | .jump _ _ => 1 | .runClock => 2 | .haltClock => 3 | .bind _ => 4 | .trackGroup => 5
  | .stopGroup => 6 | .slewAxis _ _ => 7 | .slewGroup _ => 7 | .stageGroup _ => 8 | .output _ _ => 9 | .note => 10
  | .loopOpen _ => 11 | .loopClose => 12 | .endProgram => 13

def CueAction.targetKind : CueAction → Nat
  | .bind _ => 1 | .slewAxis _ _ => 1 | .trackGroup => 2 | .stopGroup => 2 | .slewGroup _ => 2 | .stageGroup _ => 2
  | .output _ _ => 3
  | _ => 0

/-- Table 10-7. -/
def CueAction.encParams : CueAction → List Byte
  | .setRate goal ramp => encRate goal ++ beNat 4 ramp
  | .jump e mode => encEpoch e ++ u8 mode
  | .bind ch => u8 ch
  | .slewAxis form value => u8 form ++ beNat 7 value.toNat
  | .slewGroup l => encList (fun x : Nat × BitVec 32 => u8 x.1 ++ beNat 4 x.2.toNat) l
  | .stageGroup e => encEpoch e
  | .output action width => u8 action ++ beNat 2 width
  | .loopOpen n => beNat 2 n
  | .runClock | .haltClock | .trackGroup | .stopGroup | .note | .loopClose | .endProgram => []

/-- Tables 10-6 and 10-7. -/
def encCue (c : Cue) : List Byte :=
  let params := c.action.encParams
  u8 (13 + params.length) ++ u8 c.action.kindCode ++ u8 c.trigger.code ++ [c.flags] ++ beNat 7 c.value.toNat ++
    u8 c.action.targetKind ++ u8 c.target ++ params

/-- Cues from an index onward, each preceded by its index, as many whole ones as `room` bytes and 8 places take (log 15). -/
def cuesFrom : Nat → Nat → Nat → List Cue → List (List Byte)
  | 0, _, _, _ => []
  | _, _, _, [] => []
  | n + 1, room, i, c :: cs =>
    let b := u8 i ++ encCue c
    if b.length ≤ room then b :: cuesFrom n (room - b.length) (i + 1) cs else []

/-- Read Program (R130). -/
def readProgram (program index : Nat) (s : State) : State × Reply :=
  match programOf program with
  | none => refuse .badValue s
  | some i =>
    let x := s.program i
    if x.cues.length ≤ index ∧ ¬(index = 0 ∧ x.cues = []) then refuse .range s
    else
      let head := u8 x.state.code ++ encPortOpt x.opener ++ beNat 2 x.requirement.toNat ++ u8 x.cues.length ++
        encPortOpt x.inUse ++ beNat 2 s.freeCues
      answerData (head ++ encList id (cuesFrom 8 (Config.payloadMax - 3 - head.length) index (x.cues.drop index))) s

end Sys2Proof.Machine
end

