-- ==== Sys2Proof/Machine/Runners.lean ====
section
/-! DEFINITION. The runners (07): triggers, chains, awaits, loops, the runner requests, and the taking of the signals a
command raised (R147, R161; log 5). -/

namespace Sys2Proof.Machine

/-! ## The program a runner is in -/

/-- Entering IDLE or FAULTED frees the program (R137). -/
def State.freeProgram (s : State) (r : Port) : State :=
  match (s.runner r).program with
  | some i => if (s.program i).inUse = some r then s.setProgram i { s.program i with inUse := none } else s
  | none => s

/-- A runner's waits end: timer, pause and completion set (R139, R149, R155). -/
def Runner.cleared (x : Runner) : Runner := { x with delay := none, loopPause := none, completions := [] }

/-- The program ends (R155). -/
def State.endProgram (s : State) (r : Port) : State :=
  ((s.modRunner r fun x => { x.cleared with state := .idle, loops := [] }).freeProgram r).noticeTo r .programEnded
    (some (encPort r))

/-- The runner enters FAULTED (R149, R151). -/
def State.faultRunner (s : State) (r : Port) (cause : RunnerCause) (index : Nat) : State :=
  ((s.modRunner r fun x => { x.cleared with state := .faulted cause index, cue := index }).freeProgram r).noticeTo r
    .runnerFault (some (encPort r))

/-! ## Actions (R147, R148) -/

/-- A cue action: what it leaves, the status in place of a reply, and what completes it (R150). -/
structure Performed where
  state : State
  status : Status
  awaited : Option Awaited

/-- A request performed as a cue action, with nothing to await. -/
def performedBy (x : State × Reply) : Performed := { state := x.1, status := x.2.status, awaited := none }

/-- A slew or stage the action started: the last serial drawn (log 21). -/
def performedNew (f : Nat → Awaited) (x : State × Reply) : Performed :=
  { state := x.1, status := x.2.status, awaited := some (f (x.1.serial - 1)) }

/-- A group motion the action formed. -/
def performedMotion (g : Nat) (x : State × Reply) : Performed :=
  { state := x.1, status := x.2.status
    awaited := (groupIdOf g).bind fun g => (x.1.motions[g]).map fun m => .motion m.serial }

/-- An OUTPUT cue's action (R148, Table 10-7). -/
def outputActionOf (action width : Nat) : OutputAction :=
  match action with
  | 0 => .set
  | 1 => .clear
  | _ => .pulse width

def State.performOutput (s : State) (target : Nat) (a : OutputAction) : State :=
  match outputOf target with
  | some o => s.actOutput o a
  | none => s

/-- A NOTE cue (R148). -/
def State.performNote (s : State) (r : Port) : State := (s.event (.runnerNote r)).noticeTo r .cueNote (some (encPort r))

/-- Each action acts as the request Table 7-5 names, from the runner's port. -/
def State.perform (s : State) (r : Port) (c : Cue) : Performed :=
  match c.action with
  | .setRate goal ramp => performedBy (setRate r goal ramp s)
  | .jump e mode =>
    let x := setEpoch r e mode s
    { state := x.1, status := x.2.status, awaited := some (.settling x.1.clock.settleSerial) }
  | .runClock => performedBy (run r s)
  | .haltClock => performedBy (halt r s)
  | .bind ch => performedBy (if ch = 255 then unbind r c.target s else bind r c.target ch s)
  | .trackGroup => performedBy (trackGroup r c.target s)
  | .stopGroup => performedBy (stopGroup r c.target s)
  | .slewAxis form value => performedNew (if form = 0 then .slew else .stage) (slew r c.target form value s)
  | .slewGroup entries => performedMotion c.target (coordinatedSlew r c.target entries s)
  | .stageGroup e => performedMotion c.target (stageGroup r c.target e s)
  | .output action width => { state := s.performOutput c.target (outputActionOf action width), status := .ok, awaited := none }
  | .note => { state := s.performNote r, status := .ok, awaited := none }
  | .loopOpen _ => { state := s, status := .ok, awaited := none }
  | .loopClose => { state := s, status := .ok, awaited := none }
  | .endProgram => { state := s, status := .ok, awaited := none }

/-! ## Chains (R147) -/

/-- A chain as it was performed: the state, the refused cue if any, and the entries of its awaited cues in list order. -/
structure ChainEnd where
  state : State
  refused : Option (Nat × Status)
  entries : List Completion

/-- The entry an awaited cue leaves. -/
def newEntries (c : Cue) (i : Nat) (w : Option Awaited) : List Completion :=
  match w with
  | some w => if c.await then [{ cue := i, awaited := w, complete := false }] else []
  | none => []

/-- The CHAINED cues that follow, up to the first that is not or is refused. -/
def State.performChained (r : Port) : Nat → List Cue → State → List Completion → ChainEnd
  | _, [], s, acc => { state := s, refused := none, entries := acc }
  | i, c :: cs, s, acc =>
    if c.chained then
      let x := s.perform r c
      if x.status = .ok then State.performChained r (i + 1) cs x.state (acc ++ newEntries c i x.awaited)
      else { state := x.state, refused := some (i, x.status), entries := acc }
    else { state := s, refused := none, entries := acc }

/-- The whole chain from its head. -/
def State.performChain (s : State) (r : Port) (i : Nat) (c : Cue) (rest : List Cue) : ChainEnd :=
  let x := s.perform r c
  if x.status = .ok then State.performChained r (i + 1) rest x.state (newEntries c i x.awaited)
  else { state := x.state, refused := some (i, x.status), entries := [] }

/-- The index after the chain whose head stands at i with `rest` behind it. -/
def afterChain (i : Nat) (rest : List Cue) : Nat := i + 1 + (rest.takeWhile Cue.chained).length

/-- The first failure of an entry that the chain itself brought about (R150). -/
def State.chainFailure (s : State) (entries : List Completion) : Option Nat :=
  s.signals.findSome? fun x =>
    match x with
    | .failed w => (entries.find? fun e => e.awaited == w).map (·.cue)
    | _ => none

/-- The entry whose action completed during the chain is COMPLETE at once (R150). -/
def State.chainEntry (s : State) (e : Completion) : Completion :=
  { e with complete := s.signals.any fun x => x == .done e.awaited }

/-- What follows a chain: the index of the next trigger to enter, or a wait or state (R147, R149, R150). -/
def State.afterPerformed (r : Port) (i next : Nat) (x : ChainEnd) : State × Option Nat :=
  match x.refused with
  | some (j, st) => (x.state.faultRunner r (.refused st) j, none)
  | none =>
    match x.state.chainFailure x.entries with
    | some j => (x.state.faultRunner r .motionFailed j, none)
    | none =>
      let entries := x.entries.map x.state.chainEntry
      if entries.all (·.complete) then (x.state, some next)
      else
        (x.state.modRunner r fun y => { y.cleared with state := .waitingCompletion, cue := i, completions := entries }, none)

/-! ## Loops (R153, R154) -/

/-- LOOP_OPEN pushes an entry; the stack holds no more than two, as Close has seen to (R152, R153). -/
def Runner.openLoop (x : Runner) (i count : Nat) : Runner :=
  let e : LoopEntry := { first := i + 1, remaining := if count = 0 then none else some count, leave := false }
  { x with loops := e :: x.loops.take 1 }

/-- LOOP_CLOSE: the runner pops the loop and goes on after index i, or returns with the loop pause. -/
def Runner.closeLoop (x : Runner) (i : Nat) : Runner × Option Nat :=
  match x.loops with
  | [] => (x, some (i + 1))
  | e :: es =>
    if e.leave ∨ e.remaining = some 1 then ({ x with loops := es }, some (i + 1))
    else
      ({ x with loops := { e with remaining := e.remaining.map (· - 1) } :: es, cue := e.first, loopPause := some 2,
                state := .waitingTrigger }, none)

/-- A cue whose trigger is satisfied is performed (R142). -/
def State.performCue (s : State) (r : Port) (i : Nat) (c : Cue) (rest : List Cue) : State × Option Nat :=
  match c.action with
  | .loopOpen n => (s.modRunner r (·.openLoop i n), some (i + 1))
  | .loopClose => (s.setRunner r ((s.runner r).closeLoop i).1, ((s.runner r).closeLoop i).2)
  | .endProgram => (s.endProgram r, none)
  | _ => State.afterPerformed r i (afterChain i rest) (s.performChain r i c rest)

/-! ## Triggers (R142 to R145) -/

/-- R143. -/
def Cue.epochMet (c : Cue) (e : Int) : Bool := if c.falling then decide (e ≤ c.atEpoch) else decide (c.atEpoch ≤ e)

/-- R144. -/
def State.groupSettled (s : State) (g : GroupId) : Bool :=
  s.clock.state != .settling && (s.membersOf g).all fun a =>
    (s.axis a).state != .tracking ||
      match (s.axis a).tracking with
      | some t => t.settled
      | none => false

def State.settledMet (s : State) (c : Cue) : Bool :=
  match groupIdOf c.settledGroup with
  | some g => s.groupSettled g
  | none => false

/-- The trigger of a cue at entry: the runner as the entry leaves it, and whether the trigger is satisfied. -/
def State.testEntry (s : State) (r : Port) (c : Cue) : State × Bool :=
  match c.trigger with
  | .afterPrevious => (s, true)
  | .chained => (s, true)
  | .atEpoch => (s, c.epochMet s.clock.epoch)
  | .delay => (s.modRunner r fun x => { x with delay := some c.delayMs }, false)
  | .onLink => (s.modRunner r fun x => { x with latch := false }, !c.fresh && (s.runner r).latch)
  | .onSettled => (s, s.settledMet c)

/-- The runner stands at a trigger. -/
def Runner.atTrigger (x : Runner) (i : Nat) : Runner := { x.cleared with state := .waitingTrigger, cue := i }

/-- A runner that enters a trigger has left the one it waited on: an announcement not yet taken is none of its own (R143). -/
def Signal.without (x : Signal) (r : Port) : Signal :=
  match x with
  | .epoch e waiting => .epoch e (waiting.filter (· != r))
  | x => x

def State.forgetEpochs (s : State) (r : Port) : State := { s with signals := s.signals.map (·.without r) }

/-- A runner enters the trigger of a cue (R142); past the last cue stands the implicit END (R134). Indices only rise, so
the count of cues bounds the chain of triggers satisfied at entry. -/
def State.enterCue (r : Port) : Nat → Nat → State → State
  | 0, _, s => s
  | n + 1, i, s =>
    let s := (s.modRunner r (·.atTrigger i)).forgetEpochs r
    match (s.cuesOf r).drop i with
    | [] => s.endProgram r
    | c :: rest =>
      if (s.testEntry r c).2 then
        match (s.testEntry r c).1.performCue r i c rest with
        | (s, some j) => State.enterCue r n j s
        | (s, none) => s
      else (s.testEntry r c).1

/-- More entries than any chain of them can take: 128 cues, the implicit END. -/
def entryBound : Nat := 130

def State.enter (s : State) (r : Port) (i : Nat) : State := State.enterCue r entryBound i s

/-- The trigger a runner waits on is satisfied. -/
def State.satisfy (s : State) (r : Port) : State :=
  let i := (s.runner r).cue
  let s := s.modRunner r fun x => { x with delay := none }
  match (s.cuesOf r).drop i with
  | [] => s.endProgram r
  | c :: rest =>
    match s.performCue r i c rest with
    | (s, some j) => s.enter r j
    | (s, none) => s

/-- DELAY_EXPIRY (R142). -/
def State.delayExpiry (s : State) (r : Port) : State :=
  if s.waitsFor r .delay && (s.runner r).delay.isSome then s.satisfy r else s

/-- LOOP_PAUSE_END (R154). -/
def State.loopPauseEnd (s : State) (r : Port) : State :=
  if (s.runner r).state = .waitingTrigger ∧ (s.runner r).loopPause.isSome then s.enter r (s.runner r).cue else s

/-- A link arrival at a runner (R145, R146, R163). -/
def State.linkArrival (s : State) (r : Port) (l : LinkId) : State :=
  if s.waitsFor r .onLink then (s.modRunner r fun x => { x with latch := false }).satisfy r
  else if (s.runner r).latch then
    (s.modRunner r fun x => { x with overruns := sat255 x.overruns }).noticeTo r .linkOverrun (some l.val)
  else s.modRunner r fun x => { x with latch := true }

/-- An epoch announcement at one runner (R143). -/
def State.epochAt (s : State) (e : Int) (r : Port) : State :=
  match s.waitingOn r with
  | some c => if c.trigger = .atEpoch ∧ c.epochMet e then s.satisfy r else s
  | none => s

/-- An epoch announcement at the runners that waited when it was made and still wait (R143), in no defined order (log 6). -/
def State.epochHeard (s : State) (e : Int) (waiting : List Port) : State :=
  let (s, order) := s.freeOrder encPort (allPorts.filter fun r => waiting.contains r && s.waitsFor r .atEpoch)
  order.foldl (fun s r => s.epochAt e r) s

/-! ## Completions (R150, R151) -/

def Runner.awaits (x : Runner) (w : Awaited) : Bool :=
  x.state == .waitingCompletion && x.completions.any fun e => e.awaited == w && !e.complete

def Completion.completed (e : Completion) (w : Awaited) : Completion :=
  if e.awaited = w then { e with complete := true } else e

/-- An awaited action completed: with the last one the runner goes on. -/
def State.doneAt (s : State) (w : Awaited) (r : Port) : State :=
  let x := s.runner r
  if x.awaits w then
    let entries := x.completions.map (·.completed w)
    if entries.all (·.complete) then s.enter r (afterChain x.cue ((s.cuesOf r).drop (x.cue + 1)))
    else s.setRunner r { x with completions := entries }
  else s

/-- An awaited action failed: the runner faults at its cue. -/
def State.failedAt (s : State) (w : Awaited) (r : Port) : State :=
  let x := s.runner r
  if x.awaits w then
    match x.completions.find? fun e => e.awaited == w && !e.complete with
    | some e => s.faultRunner r .motionFailed e.cue
    | none => s
  else s

def State.eachAwaiting (s : State) (w : Awaited) (f : State → Port → State) : State :=
  let (s, order) := s.freeOrder encPort (allPorts.filter fun r => (s.runner r).awaits w)
  order.foldl f s

/-! ## Runner requests (Table 7-9) -/

/-- The lowest resource of a set that the port does not hold, SKY before G0 (R112, R138). -/
def State.missing (s : State) (p : Port) (set : BitVec 16) : Option Resource :=
  (requirementList set).find? fun r => !s.holds p r

/-- The lease of every resource of a set restarts (R119). -/
def State.restartLeases (s : State) (set : BitVec 16) : State :=
  (requirementList set).foldl (fun s r => s.restartLease r) s

def RunnerState.code : RunnerState → Nat
  | .idle => 0
  | .waitingTrigger => 1
  | .waitingCompletion => 1
  | .suspended _ => 2
  | .faulted _ _ => 3

def RunnerState.startable : RunnerState → Bool
  | .idle | .faulted _ _ => true
  | .waitingTrigger | .waitingCompletion | .suspended _ => false

/-- The reply to a Run or Resume carries the runner's state as it left it. -/
def answerRunner (p : Port) (s : State) : State × Reply := answerData (u8 (s.runner p).state.code) s

/-- An accepted Run up to the entry of cue 0 (R138). -/
def State.startRunner (s : State) (p : Port) (i : ProgramId) : State :=
  let s := (s.setProgram i { s.program i with inUse := some p }).restartLeases (s.program i).requirement
  s.setRunner p { Runner.reset with program := some i }

/-- Run Program (R138). -/
def runProgram (p : Port) (program : Nat) (s : State) : State × Reply :=
  match programOf program with
  | none => refuse .badValue s
  | some i =>
    if !(s.runner p).state.startable then refuse .state s
    else if (s.program i).state ≠ .closed then refuse .state s
    else if (s.program i).inUse.isSome then refuse .inUse s
    else match s.missing p (s.program i).requirement with
      | some r => notHolder r s
      | none =>
        if s.held then refuse .halted s
        else answerRunner p ((s.startRunner p i).enter p 0)

/-- Stop Runner (R139). -/
def stopRunner (p : Port) (s : State) : State × Reply :=
  if (s.runner p).state = .idle then answerOk s
  else answerOk ((s.modRunner p fun x => { x.cleared with state := .idle, loops := [] }).freeProgram p)

/-- Resume (R140). -/
def resume (p : Port) (s : State) : State × Reply :=
  match (s.runner p).state with
  | .suspended _ =>
    match s.missing p (s.requirement p) with
    | some r => notHolder r s
    | none =>
      if s.held then refuse .halted s
      else answerRunner p ((s.restartLeases (s.requirement p)).enter p (s.runner p).cue)
  | _ => refuse .state s

def Runner.markLeave (x : Runner) : Runner :=
  match x.loops with
  | [] => x
  | e :: es => { x with loops := { e with leave := true } :: es }

def RunnerState.inProgram : RunnerState → Bool
  | .waitingTrigger | .waitingCompletion | .suspended _ => true
  | .idle | .faulted _ _ => false

/-- Leave Loop (R141). -/
def leaveLoop (p : Port) (s : State) : State × Reply :=
  let x := s.runner p
  if x.state.inProgram ∧ x.loops ≠ [] then answerOk (s.setRunner p x.markLeave) else refuse .state s

/-! ## Read Runner (R136) -/

/-- How many completion entries a payload holds beside the other items with two loops (log 15). -/
def completionRoom : Nat := 102

/-- Every item of Table 7-7: the loop pause as its remaining time with a presence byte, the in-use runner with one (log 14), and as
many completion entries as the payload holds (log 15). -/
def encRunner (s : State) (x : Runner) : List Byte :=
  u8 x.state.code ++
    encOpt 1 u8 (match x.state with | .waitingTrigger => some 0 | .waitingCompletion => some 1 | _ => none) ++
    encOpt 1 u8 (match x.state with | .suspended .claim => some 0 | .suspended .halt => some 1 | _ => none) ++
    encOpt 2 (fun f : RunnerCause × Nat => u8 f.1.code ++ u8 f.2)
      (match x.state with | .faulted c i => some (c, i) | _ => none) ++
    encIndexOpt (x.program.map Fin.val) ++ u8 x.cue ++ encOpt 4 (beNat 4) x.loopPause ++ encOpt 4 (beNat 4) x.delay ++
    encList (fun e : Completion => u8 e.cue ++ u8 (if e.complete then 1 else 0)) (x.completions.take completionRoom) ++
    encList (fun e : LoopEntry => u8 e.first ++ beNat 2 (e.remaining.getD 0) ++ encFlag e.leave) x.loops.reverse ++
    encFlag x.latch ++ u8 x.overruns ++ encPortOpt (x.program.bind fun i => (s.program i).inUse)

/-- Read Runner (R136). -/
def readRunner (runner : Nat) (s : State) : State × Reply :=
  match portOf runner with
  | none => refuse .badValue s
  | some r => answerData (encRunner s (s.runner r)) s

/-! ## RUNNER_START (R164) -/

/-- An arrival at RUNNER_START. -/
def State.startArrival (s : State) (r : Port) (l : LinkId) (i : ProgramId) : State :=
  let x := runProgram r i.val s
  if x.2.status = .ok then x.1.setLink l { x.1.link l with lastStart := .started }
  else (s.setLink l { s.link l with lastStart := .refused x.2.status }).noticeTo r .linkRefused (some l.val)

/-! ## Signals (R147, R161; log 5) -/

/-- One signal is taken. -/
def State.takeSignal (s : State) (x : Signal) : State :=
  match x with
  | .event e snap => s.deliverEvent e snap
  | .arrival r l => s.linkArrival r l
  | .start r l i => s.startArrival r l i
  | .epoch e waiting => s.epochHeard e waiting
  | .done w => s.eachAwaiting w fun s r => s.doneAt w r
  | .failed w => s.eachAwaiting w fun s r => s.failedAt w r

/-- The runners whose ON_SETTLED trigger is now satisfied (R144). -/
def State.settledRunners (s : State) : List Port :=
  allPorts.filter fun r =>
    match s.waitingOn r with
    | some c => c.trigger == .onSettled && s.settledMet c
    | none => false

/-- What a command raised is taken in order; then runners waiting on ON_SETTLED are tested; then axes at rest begin the
motions the command gave them (log 10). -/
def State.drainFor : Nat → State → State
  | 0, s => s
  | n + 1, s =>
    match s.signals with
    | x :: xs => State.drainFor n (({ s with signals := xs } : State).takeSignal x)
    | [] =>
      match s.freeOrder encPort s.settledRunners with
      | (s, r :: _) => State.drainFor n (s.satisfy r)
      | (s, []) =>
        if s.startMotions.signals.isEmpty then s.startMotions else State.drainFor n s.startMotions

def State.drain (s : State) : State := State.drainFor Config.signalBound s

end Sys2Proof.Machine
end

