-- ==== Sys2Proof/Machine/Ports.lean ====
section
/-! DEFINITION. The port requests and notices (10 R198, R202 to R208, 11 R212), snapshots (Table 10-8), the request
handling of a port (R194 to R197), its receiver (R192) and transmitter (R197), and the 2 ms tick (log 2). -/

namespace Sys2Proof.Machine

/-! ## Identify, Read Start Record, Read Port Status (R198, R212) -/

/-- Identify: HG2416, the capacities, the asking port and its standing. -/
def identify (p : Port) (s : State) : State × Reply :=
  answerData ([72, 71, 50, 52, 49, 54] ++ u8 16 ++ u8 12 ++ beNat 2 Config.segmentPlaces ++ u8 16 ++
    beNat 2 Config.cuePlaces ++ u8 24 ++ u8 Config.captureMax ++ u8 (encPort p) ++ u8 (s.port p).standing) s

/-- Table 11-2. Its items of yes or no are sent as flags, 1 for yes (Table 10-2): by its place in the table's list of values yes would
be 0 (R193), and no rule says which holds (DESIGN CHOICE, log 14). -/
def encStart (r : StartRecord) : List Byte :=
  u8 (if r.powerOn then 0 else 1) ++ encFlag r.drivePresent ++ encFlag r.halted ++
    allPorts.flatMap (fun p => u8 (r.standings.get p)) ++ beNat 3 r.bitRate ++ encFlag r.rateNamed ++ encFlag r.sync ++
    encList (fun a : AxisId => u8 a.val) r.lockedKept

/-- Read Start Record (R212). -/
def readStartRecord (s : State) : State × Reply := answerData (encStart s.startRecord) s

def PortState.pendingCount (q : PortState) : Nat := (allKinds.filter fun k => q.notices[k.idx].isSome).length

def RequestState.code : RequestState → Nat
  | .ready => 0
  | .outstanding _ _ => 1

def encPortStatus (s : State) (p : Port) (q : PortState) : List Byte :=
  u8 q.standing ++ beNat 3 s.startRecord.bitRate ++ u8 q.request.code ++ beNat 2 q.reportRate ++ beNat 2 q.snapNumber ++
    beNat 4 q.mask.toNat ++ u8 q.pendingCount ++ encFlag (s.attn p) ++ u8 q.discarded ++ u8 q.busyCount ++
    u8 q.shortDiscards ++ u8 q.skipped

/-- The four counts are set to 0 at the read (R198). -/
def PortState.zeroed (q : PortState) : PortState :=
  { q with discarded := 0, busyCount := 0, shortDiscards := 0, skipped := 0 }

/-- Read Port Status (R198). -/
def readPortStatus (port : Nat) (s : State) : State × Reply :=
  match portOf port with
  | none => refuse .badValue s
  | some p => answerData (encPortStatus s p (s.port p)) (s.modPort p PortState.zeroed)

/-! ## Snapshots (R203, Table 10-8) -/

def bit (b : Bool) (n : Nat) : Nat := if b then 2 ^ n else 0

/-- The flags of an axis in a snapshot; an absent tracking record has every condition clear. -/
def Axis.snapFlags (x : Axis) : Nat :=
  let track (f : Tracking → Bool) : Bool := match x.tracking with | some t => f t | none => false
  bit x.known 0 + bit x.locked 1 + bit (track (·.lagging)) 2 + bit (track (·.clamped)) 3 + bit (track (·.uncovered)) 4 +
    bit (track (·.settled)) 5 + bit x.resumeMark 6

def Axis.encSnap (x : Axis) : List Byte :=
  u8 x.state.code ++ u8 x.snapFlags ++
    match x.snapped with
    | some w => encWords w
    | none => List.replicate 8 0

def State.snapshotBytes (s : State) (number : Nat) : List Byte :=
  let c := s.clock
  beNat 2 number ++ encEpoch c.epoch ++ encRate c.ra ++ encRate c.scheduled ++ u8 c.state.code ++ u8 c.reason.code ++
    u8 s.timebase.state.code ++ encCeiling c.ceiling ++
    u8 (bit s.haltAsserted 0 + bit s.drivePresent 1 + bit s.faultOut 2) ++ allAxes.flatMap fun a => (s.axis a).encSnap

/-- The port's snapshot counter passes from 65,535 to 0. -/
def PortState.numbered (q : PortState) : PortState := { q with snapNumber := (q.snapNumber + 1) % 65536 }

/-- Read Snapshot (R203). -/
def readSnapshot (p : Port) (s : State) : State × Reply :=
  answerData (s.snapshotBytes (s.port p).snapNumber) (s.modPort p PortState.numbered)

/-! ## Notices (R205 to R208) and the report rate (R202) -/

/-- One entry of Fetch Notices; the timeout flag stands in a CLOCK_SETTLED entry alone. -/
def encNotice (q : PortState) (k : NoticeKind) (e : NoticeEntry) : List Byte :=
  u8 k.idx.val ++ u8 e.count ++ encIndexOpt e.subject ++ (if k = .clockSettled then encFlag e.timeout else []) ++
    encFlag (q.mask.getLsbD k.idx.val)

/-- The entries of a port in kind order. -/
def PortState.listed (q : PortState) : List (List Byte) :=
  allKinds.filterMap fun k => q.notices[k.idx].map fun e => encNotice q k e

/-- Entries outside the mask leave the pending set (R208). -/
def PortState.fetched (q : PortState) : PortState :=
  allKinds.foldl (fun q k => if q.mask.getLsbD k.idx.val then q else { q with notices := q.notices.set k.idx none }) q

/-- Fetch Notices (R208). -/
def fetchNotices (p : Port) (s : State) : State × Reply :=
  answerData (encList id (s.port p).listed) (s.modPort p PortState.fetched)

/-- Set Notice Mask (R207). -/
def setNoticeMask (p : Port) (mask : BitVec 32) (s : State) : State × Reply :=
  if 2 ^ 25 ≤ mask.toNat then refuse .badValue s else answerOk (s.modPort p fun q => { q with mask := mask })

/-- A kind by its number (Table 10-9). -/
def kindOf (n : Nat) : Option NoticeKind := allKinds[n]?

/-- A routing value (Table 10-2): a set is named only by form 2, and holds a port. -/
def routingOf (form ports : Nat) : Option Routing :=
  match form with
  | 0 => if ports = 0 then some .holder else none
  | 1 => if ports = 0 then some .all else none
  | 2 => if 1 ≤ ports ∧ ports ≤ 7 then some (.ports (BitVec.ofNat 3 ports)) else none
  | _ => none

def State.setRouting (s : State) (k : NoticeKind) (x : Routing) : State := { s with routing := s.routing.set k.idx x }

/-- Set Notice Routing (R205). -/
def setNoticeRouting (p : Port) (kind form ports : Nat) (s : State) : State × Reply :=
  if !s.holds p .sky then notHolder .sky s
  else match kindOf kind, routingOf form ports with
    | some k, some x => if k.routed then answerOk ((s.setRouting k x).restartLease .sky) else refuse .badValue s
    | _, _ => refuse .badValue s

def encRouting : Routing → List Byte
  | .holder => u8 0 ++ u8 0
  | .all => u8 1 ++ u8 0
  | .ports set => u8 2 ++ u8 set.toNat

/-- Read Notice Routing (R205). -/
def readNoticeRouting (s : State) : State × Reply :=
  answerData ((allKinds.filter NoticeKind.routed).flatMap fun k => encRouting s.routing[k.idx]) s

/-- Set Report Rate (R202). -/
def setReportRate (p : Port) (k : Nat) (s : State) : State × Reply :=
  if 500 < k then refuse .badValue s else answerOk (s.modPort p fun q => { q with reportRate := k, updates := 0 })

/-! ## What a request does (Table 10-4) -/

/-- A reply at once. -/
def now (x : State × Reply) : State × Option Reply := (x.1, some x.2)

/-- A request taken from a port: its effect and its reply, absent only for a Query Angle that waits for its evaluation. -/
def serve (p : Port) (q : Request) (s : State) : State × Option Reply :=
  match q with
  | .identify => now (identify p s)
  | .readStartRecord => now (readStartRecord s)
  | .readSnapshot => now (readSnapshot p s)
  | .readPortStatus port => now (readPortStatus port s)
  | .haltAll => now (haltAll s)
  | .readClock => now (readClock s)
  | .setRate goal ramp => now (setRate p goal ramp s)
  | .run => now (run p s)
  | .halt => now (halt p s)
  | .setEpoch epoch mode => now (setEpoch p epoch mode s)
  | .setSettleTime seconds => now (setSettleTime p seconds s)
  | .setGovernor enable => now (setGovernor p enable s)
  | .setTimebase mode => now (setTimebase p mode s)
  | .setSyncPeriod ms => now (setSyncPeriod p ms s)
  | .setMark mark enable period phase direction => now (setMark p mark enable period phase direction s)
  | .readMark mark => now (readMark mark s)
  | .appendSegments channel segments => now (appendSegments p channel segments s)
  | .insertSegment channel segment => now (insertSegment p channel segment s)
  | .deleteSpan channel x0 x1 => now (deleteSpan p channel x0 x1 s)
  | .clearChannel channel => now (clearChannel p channel s)
  | .setChannelKind channel kind => now (setChannelKind p channel kind s)
  | .setChannelEnable channel enable => now (setChannelEnable p channel enable s)
  | .readChannel channel => now (readChannel channel s)
  | .readSegment channel index => now (readSegment channel index s)
  | .readStore => now (readStore s)
  | .queryAngle channel form epoch => queryAngle p channel form epoch s
  | .readAxisRecord axis => now (readAxisRecord axis s)
  | .configureAxis axis record => now (configureAxis p axis record s)
  | .bind axis channel => now (bind p axis channel s)
  | .unbind axis => now (unbind p axis s)
  | .lockSafety axis => now (lockSafety p axis s)
  | .readAxisState axis => now (readAxisState axis s)
  | .enable axis => now (enable p axis s)
  | .disable axis => now (disable p axis s)
  | .declareReference axis hi lo => now (declareReference p axis hi lo s)
  | .slew axis form value => now (slew p axis form value s)
  | .track axis => now (track p axis s)
  | .stop axis => now (stop p axis s)
  | .home axis => now (home p axis s)
  | .clearFault axis => now (clearFault p axis s)
  | .readGroup group => now (readGroup group s)
  | .coordinatedSlew group entries => now (coordinatedSlew p group entries s)
  | .stageGroup group epoch => now (stageGroup p group epoch s)
  | .trackGroup group => now (trackGroup p group s)
  | .stopGroup group => now (stopGroup p group s)
  | .readGroupMotion group => now (readGroupMotion group s)
  | .readClaims => now (readClaims p s)
  | .claim resource wait preempt lease => now (claim p resource wait preempt lease s)
  | .renew resource => now (renew p resource s)
  | .release resource => now (release p resource s)
  | .withdraw resource => now (withdraw p resource s)
  | .openProgram program requirement => now (openProgram p program requirement s)
  | .appendCues program cues => now (appendCues p program cues s)
  | .closeProgram program => now (closeProgram p program s)
  | .eraseProgram program => now (eraseProgram p program s)
  | .readProgram program index => now (readProgram program index s)
  | .runProgram program => now (runProgram p program s)
  | .stopRunner => now (stopRunner p s)
  | .resume => now (resume p s)
  | .leaveLoop => now (leaveLoop p s)
  | .readRunner runner => now (readRunner runner s)
  | .setLink link enable source dest => now (setLink p link enable source dest s)
  | .setLinkEnable link enable => now (setLinkEnable p link enable s)
  | .readLink link => now (readLink link s)
  | .setTriggerFilter input length => now (setTriggerFilter p input length s)
  | .readLines => now (readLines s)
  | .readCapture => now (readCapture s)
  | .readDrivePower => now (readDrivePower s)
  | .setReturnPolicy policy => now (setReturnPolicy p policy s)
  | .fetchNotices => now (fetchNotices p s)
  | .setNoticeMask mask => now (setNoticeMask p mask s)
  | .setNoticeRouting kind form ports => now (setNoticeRouting p kind form ports s)
  | .readNoticeRouting => now (readNoticeRouting s)
  | .setReportRate k => now (setReportRate p k s)

/-! ## Request handling (R194, R195, R197) -/

/-- The frame is taken: the port is OUTSTANDING until its reply starts. -/
def State.outstand (s : State) (p : Port) (tag code : Byte) : State :=
  s.modPort p fun q => { q with request := .outstanding tag code }

/-- A reply enters the reply slot. -/
def State.enterReply (s : State) (p : Port) (tag code : Byte) (r : Reply) : State :=
  s.modPort p fun q => { q with reply := some (r.frame tag code) }

/-- A frame for the short slot: held there, or not answered where it is occupied, discarded and counted (log 16). -/
def State.enterShort (s : State) (p : Port) (tag code : Byte) (r : Reply) (busy : Bool) : State :=
  s.modPort p fun q =>
    match q.short with
    | none => { q with short := some (r.frame tag code), busyCount := if busy then sat255 q.busyCount else q.busyCount }
    | some _ => { q with discarded := sat255 q.discarded, shortDiscards := sat255 q.shortDiscards }

/-- A decoded request in READY is taken and answered (R194). -/
def State.take (s : State) (p : Port) (tag : Byte) (q : Request) : State :=
  let x := serve p q (s.outstand p tag (requestByte q))
  match x.2 with
  | some r => x.1.enterReply p tag (requestByte q) r
  | none => x.1

/-- A decoded request in OUTSTANDING: BUSY, but for Halt All, which performs its halt (R194, R197). -/
def State.takeBusy (s : State) (p : Port) (tag : Byte) (q : Request) : State :=
  if q = .haltAll then s.performHalt.enterShort p tag (requestByte q) ⟨.ok, 255, []⟩ false
  else s.enterShort p tag (requestByte q) ⟨.busy, 255, []⟩ true

/-- A decoded request at its port. -/
def State.accept (s : State) (p : Port) (tag : Byte) (q : Request) : State :=
  match (s.port p).request with
  | .ready => s.take p tag q
  | .outstanding _ _ => s.takeBusy p tag q

/-- A frame that does not decode: BAD_CODE, or BAD_VALUE with detail 254; BUSY where a request is outstanding (R195). -/
def State.acceptBad (s : State) (p : Port) (tag code : Byte) (r : Reply) : State :=
  match (s.port p).request with
  | .ready => (s.outstand p tag code).enterReply p tag code r
  | .outstanding _ _ => s.enterShort p tag code ⟨.busy, 255, []⟩ true

/-! ## The receiver (R192) -/

/-- A frame is discarded: no reply, nothing changes, the count grows and the receiver hunts. -/
def State.discardFrame (s : State) (p : Port) : State :=
  s.modPort p fun q => { q with discarded := sat255 q.discarded, receiver := .hunt }

/-- A framing error or a gap discards the frame in progress, where there is one (R191, R192). -/
def State.breakFrame (s : State) (p : Port) : State :=
  if (s.port p).receiver = .hunt then s else s.discardFrame p

/-- A frame passed by the receiver to the request handling. -/
def State.passFrame (s : State) (p : Port) (tag code : Byte) (payload : List Byte) : State :=
  match decodeRequest code.toNat payload with
  | .badCode => s.acceptBad p tag code ⟨.badCode, 255, []⟩
  | .badLength => s.acceptBad p tag code ⟨.badValue, 254, []⟩
  | .request q => s.accept p tag q

/-- A whole frame with its CRC bytes. -/
def State.frameReceived (s : State) (p : Port) (tag code : Byte) (payload : List Byte) (crc : BitVec 16) : State :=
  if Config.payloadMax < payload.length ∨ crcOf (frameBody { tag := tag, code := code, payload := payload }) ≠ crc then
    s.discardFrame p
  else (s.modPort p fun q => { q with receiver := .hunt }).passFrame p tag code payload

/-- The state after the code byte: BODY, or CHECK where no payload follows. -/
def afterHeader (len tag code : Byte) : Receiver :=
  if len.toNat = 0 then .check tag code [] none else .body tag code len.toNat []

def State.setReceiver (s : State) (p : Port) (r : Receiver) : State := s.modPort p fun q => { q with receiver := r }

/-- One byte at the receiver. -/
def State.byteReceived (s : State) (p : Port) (b : Byte) : State :=
  match (s.port p).receiver with
  | .hunt => if b = 197 then s.setReceiver p (.header []) else s
  | .header [] => if Config.payloadMax < b.toNat then s.discardFrame p else s.setReceiver p (.header [b])
  | .header [len] => s.setReceiver p (.header [len, b])
  | .header (len :: tag :: _) => s.setReceiver p (afterHeader len tag b)
  | .body tag code left payload =>
    if left ≤ 1 then s.setReceiver p (.check tag code (payload ++ [b]) none)
    else s.setReceiver p (.body tag code (left - 1) (payload ++ [b]))
  | .check tag code payload none => s.setReceiver p (.check tag code payload (some b))
  | .check tag code payload (some hi) => s.frameReceived p tag code payload (hi ++ b)

/-! ## The transmitter (R194, R197) -/

/-- A frame starts where none is in transmission: the reply slot's first, which makes the port READY. -/
def State.replyStart (s : State) (p : Port) : State :=
  let q := s.port p
  match q.tx, q.reply, q.short with
  | some _, _, _ => s
  | none, some f, _ => s.setPort p { q with tx := some f.bytes, reply := none, request := .ready }
  | none, none, some f => s.setPort p { q with tx := some f.bytes, short := none }
  | none, none, none => s

def State.transmissionEnd (s : State) (p : Port) : State := s.modPort p fun q => { q with tx := none }

/-! ## The 2 ms tick (R2; log 2) -/

/-- Every clock timer that runs falls by 2 ms; at 0 it waits for its expiry (log 1). -/
def Clock.tick (c : Clock) : Clock := { c with settleTimer := c.settleTimer.map (· - 2), quiet := c.quiet.map (· - 2) }

def Holder.tick (h : Holder) : Holder := { h with lease := h.lease.map fun l => { l with remaining := l.remaining - 2 } }

def Runner.tick (x : Runner) : Runner := { x with delay := x.delay.map (· - 2), loopPause := x.loopPause.map (· - 2) }

def OutputState.tick : OutputState → OutputState
  | .pulsing t => .pulsing (t - 2)
  | .inactive => .inactive
  | .set => .set

def DrivePower.tick (d : DrivePower) : DrivePower :=
  match d.state with
  | .returning t => { d with state := .returning (t - 2) }
  | .present => d
  | .absent => d

def Axis.tick (x : Axis) : Axis := { x with fault := { x.fault with autoClear := x.fault.autoClear.map (· - 2) } }

def State.tick (s : State) : State :=
  let s := s.withClock s.clock.tick
  let s := allResources.foldl (fun s r => s.setClaim r { s.claim r with holder := (s.claim r).holder.map Holder.tick }) s
  let s := allPorts.foldl (fun s r => s.modRunner r Runner.tick) s
  let s := allOutputs.foldl (fun s o => s.setOutput o s.outputs[o].tick) s
  let s := allAxes.foldl (fun s a => s.modAxis a Axis.tick) s
  s.withPower s.power.tick

/-- The report stream of a port at an update (R202, R203). -/
def State.reportAt (s : State) (p : Port) : State :=
  let q := s.port p
  if q.reportRate = 0 then s
  else if q.updates + 1 < q.reportRate then s.setPort p { q with updates := q.updates + 1 }
  else
    let q := { q with updates := 0 }
    if q.tx.isSome ∨ q.reply.isSome ∨ q.short.isSome then s.setPort p { q with skipped := sat255 q.skipped }
    else
      let f : Frame := { tag := 0, code := 240, payload := s.snapshotBytes q.snapNumber }
      s.setPort p { q.numbered with tx := some f.bytes }

/-- EPOCH_UPDATE (R2): 2 ms pass, the clock advances in RUNNING, the report streams follow. A snapshot due is formed before the signals of
the update are taken, so it does not show what its events do over links and runners (a MARK to CLOCK_HALT, a cue at AT_EPOCH); R203 has
it formed after the update has changed the epoch and leaves that order open (log 33). -/
def State.epochUpdate (s : State) : State :=
  let s := s.tick
  let s := if s.clock.state = .running then s.advanceClock else s
  allPorts.foldl State.reportAt s

end Sys2Proof.Machine
end

