-- ==== Sys2Proof/Machine/Startup.lean ====
section
/-! DEFINITION. Resets and the start (11, with R26, R45, R61 to R63, R95, R111, R129, R157, R173, R190, R209), and the
samples of the filtered inputs (R97, R166, R174). -/

namespace Sys2Proof.Machine

/-! ## Axes at a reset (R61 to R63) -/

/-- The default nearest to 0 within soft limits (Table 3-5). -/
def nearZero (soft : Option (Int × Int)) : Int :=
  match soft with
  | some (lo, hi) => if 0 < lo then lo else if hi < 0 then hi else 0
  | none => 0

/-- A kept safety part with the other fields at their defaults, adjusted by Table 3-5 (R62, R63). -/
def AxisRecord.keptSafety (r : AxisRecord) : AxisRecord :=
  { AxisRecord.default with
      kind := r.kind, stepsPerTurn := r.stepsPerTurn, soft := r.soft, velocity := r.velocity,
      acceleration := r.acceleration, haltDecel := r.haltDecel
      homeSpeed := min 1000 r.velocity
      homeOffset := match r.kind with | .limited => nearZero r.soft | .continuous => 0
      pulseWidth := max 2 (min 5 (500000 / r.velocity))
      wrap := match r.kind with | .limited => none | .continuous => some .shortest
      zeroOffset := 0 }

/-- The first samples of an axis's inputs: accepted levels, runs empty (R97, R111, R190). -/
def Axis.sampled (x : Axis) (home limP limN flt : Bool) : Axis :=
  { x with home := ⟨home, 0, x.position, 0, 0⟩, limP := ⟨limP, 0⟩, limN := ⟨limN, 0⟩, flt := ⟨flt, 0⟩ }

/-- An axis with its input levels as they stand, everything else as power-on leaves it (R61). -/
def Axis.powerReset (x : Axis) : Axis := Axis.reset x.home.accepted x.limP.accepted x.limN.accepted x.flt.accepted

/-- An axis at a line reset (R62). -/
def Axis.lineReset (x : Axis) : Axis :=
  if x.locked then
    { x.powerReset with
        record := x.record.keptSafety, locked := true, lockOrigin := some .keptAtLineReset, state := .disabled }
  else x.powerReset

/-! ## Blocks held in reset (R211; log 20) -/

/-- A port held in reset: nothing pending, ATTN inactive. -/
def PortState.silent (q : PortState) : PortState := { PortState.reset q.standing with notices := Vector.replicate 25 none }

def TrigInput.restart (x : TrigInput) : TrigInput := TrigInput.reset x.accepted

/-- Every block at its values after reset, the axes by `f`; the input levels, straps and start record stand until the
start, and the samples of RESET, the queue of commands and the model's counters go on (log 20). -/
def State.holdReset (s : State) (phase : Phase) (f : Axis → Axis) : State :=
  let axes := allAxes.foldl (fun (v : Vector Axis 16) (a : AxisId) => v.set a (f v[a])) s.axes
  let trigs := allTrigs.foldl (fun (v : Vector TrigInput 4) (t : TrigId) => v.set t v[t].restart) s.trigs
  { State.reset with
      phase := phase, resetLine := s.resetLine, straps := s.straps, startRecord := s.startRecord
      clock := { Clock.reset with settleSerial := s.clock.settleSerial }
      timebase := Timebase.reset s.straps.tbsel
      axes := axes, trigs := trigs
      power := DrivePower.reset s.power.ok.accepted s.power.halt.accepted
      ports := ⟨s.ports.a.silent, s.ports.b.silent, s.ports.c.silent⟩
      serial := s.serial, freeCount := s.freeCount, pending := s.pending }

/-- POWER_ON_RESET (R211): every lock is lifted (R61), and RESET is sampled anew. -/
def State.powerOnReset (s : State) : State :=
  { s with resetLine := ⟨false, 0⟩ }.holdReset .heldPower Axis.powerReset

/-- LINE_RESET (R211): RESET is taken as asserted; a start that comes from the absence of power stays POWER_ON. -/
def State.lineReset (s : State) : State :=
  s.holdReset (if s.phase = .heldPower then .heldPower else .heldLine) Axis.lineReset

/-! ## The start (R210 to R213) -/

/-- The bit rate of the BAUD straps (Table 11-1). -/
def baudRate (baud : Fin 4) : Nat :=
  match baud with
  | 0 => 115200
  | 1 => 460800
  | 2 => 921600
  | _ => 115200

/-- The axes whose lock the start kept (R212). -/
def State.keptLocks (s : State) : List AxisId := allAxes.filter fun a => (s.axis a).locked

/-- The start record (Table 11-2). -/
def State.formStart (s : State) (straps : Straps) (lines : FirstSamples) : StartRecord :=
  { powerOn := s.phase == .heldPower
    drivePresent := lines.drivePowerOk
    halted := lines.halt
    standings := ⟨straps.stdA.val, straps.stdB.val, straps.stdC.val⟩
    bitRate := baudRate straps.baud
    rateNamed := straps.baud != 3
    sync := straps.tbsel
    lockedKept := if s.phase = .heldPower then [] else s.keptLocks }

/-- START: on leaving reset, power stable and RESET released (R211); nothing where the part runs, or while the samples of RESET
have it asserted (log 4, log 20). -/
def State.start (s : State) (straps : Straps) (lines : FirstSamples) : State :=
  if s.running || s.resetLine.accepted then s
  else
    let axes := allAxes.foldl (fun (v : Vector Axis 16) (a : AxisId) =>
      v.set a (v[a].sampled (lines.home.getLsbD a.val) (lines.limP.getLsbD a.val) (lines.limN.getLsbD a.val)
        (lines.flt.getLsbD a.val))) s.axes
    let trigs := allTrigs.foldl (fun (v : Vector TrigInput 4) (t : TrigId) => v.set t (TrigInput.reset (lines.trig.getLsbD t.val)))
      s.trigs
    { s with
        phase := .running, straps := straps, startRecord := s.formStart straps lines
        timebase := Timebase.reset straps.tbsel
        axes := axes, trigs := trigs
        power := DrivePower.reset lines.drivePowerOk lines.halt
        ports := ⟨PortState.reset straps.stdA.val, PortState.reset straps.stdB.val, PortState.reset straps.stdC.val⟩ }

/-! ## Samples of the filtered inputs (R97, R166, R174; log 18) -/

/-- The fixed length of the LIM, FLT, HALT and DRIVE_POWER_OK filters (R93, R174). -/
def fixedLength : Nat := 4

/-- A sample at the accepted level, or one that leaves the run short of the length. -/
def Filter.sample (f : Filter) (level : Bool) : Filter :=
  if level = f.accepted then { f with run := 0 } else { f with run := f.run + 1 }

/-- The sample completes a run of the length. -/
def Filter.accepts (f : Filter) (length : Nat) (level : Bool) : Bool :=
  level != f.accepted && decide (length ≤ f.run + 1)

/-- The length of the HOME filter (R97): the homing record's in HOMING, else the record's. -/
def Axis.homeLength (x : Axis) : Nat :=
  match x.homing with
  | some h => h.filter
  | none => x.record.homeFilter

/-- The first sample of a HOME run records the position (R97). -/
def Axis.homeRun (x : Axis) : Axis :=
  if x.home.run = 0 then { x with home := ⟨x.home.accepted, 1, x.position, 0, 0⟩ }
  else { x with home := { x.home with run := x.home.run + 1 } }

/-- A sample of HOME. -/
def State.homeSample (s : State) (a : AxisId) (level : Bool) : State :=
  let x := s.axis a
  if level = x.home.accepted then s.modAxis a fun x => { x with home := ⟨x.home.accepted, 0, x.position, 0, 0⟩ }
  else if x.homeLength ≤ x.home.run + 1 then s.homeChanged a level
  else s.modAxis a Axis.homeRun

/-- A sample of a limit input. -/
def State.limitSample (s : State) (a : AxisId) (side : LimitSide) (level : Bool) : State :=
  let f := match side with | .plus => (s.axis a).limP | .minus => (s.axis a).limN
  if f.accepts fixedLength level then s.limitChanged a side level none
  else s.modAxis a (·.setLimit side (f.sample level))

/-- A sample of FLT. -/
def State.fltSample (s : State) (a : AxisId) (level : Bool) : State :=
  if (s.axis a).flt.accepts fixedLength level then s.fltChanged a level
  else s.modAxis a fun x => { x with flt := x.flt.sample level }

/-- A sample of HALT. -/
def State.haltSample (s : State) (level : Bool) : State :=
  if s.power.halt.accepts fixedLength level then (if level then s.assertHalt else s.haltDeasserted)
  else s.withPower { s.power with halt := s.power.halt.sample level }

/-- A sample of DRIVE_POWER_OK. -/
def State.okSample (s : State) (level : Bool) : State :=
  if s.power.ok.accepts fixedLength level then (if level then s.drivePowerActive else s.drivePowerInactive)
  else s.withPower { s.power with ok := s.power.ok.sample level }

/-- A sample of RESET (R211): the fourth equal one takes it as asserted, which begins a line reset, or as released. -/
def State.resetSample (s : State) (level : Bool) : State :=
  if s.resetLine.accepts fixedLength level then
    let s := { s with resetLine := ⟨level, 0⟩ }
    if level then s.lineReset else s
  else { s with resetLine := s.resetLine.sample level }

/-- INPUT_SAMPLE: one 10 µs sample of one filtered input. -/
def State.inputSample (s : State) (line : InputLine) (level : Bool) : State :=
  match line with
  | .reset => s.resetSample level
  | .trig t => s.trigSample t level
  | .home a => s.homeSample a level
  | .limP a => s.limitSample a .plus level
  | .limN a => s.limitSample a .minus level
  | .flt a => s.fltSample a level
  | .halt => s.haltSample level
  | .drivePowerOk => s.okSample level

end Sys2Proof.Machine
end

