-- ==== Sys2Proof/Machine/Commands.lean ====
section
/-! DEFINITION. The meaning of every command: a request from a port (its frame well formed, log 12), or an event of the
part. A command acts while the part runs; the signals it raised are then taken (R147, R161). -/

namespace Sys2Proof.Machine

/-- The width of a pulse runs out: STEP returns inactive (R66). -/
def State.stepPulseEnd (s : State) (a : AxisId) : State := s.modAxis a fun x => { x with pulse := none }

/-- The reversal pause ends (R67). -/
def State.reversalPauseEnd (s : State) (a : AxisId) : State := s.modAxis a fun x => { x with pause := none }

/-- A request of a port: held in reset the part takes no frame (R211). -/
def onRequest (p : Port) (tag : Byte) (q : Request) (s : State) : Host.Outcome State Fault Refusal :=
  if s.running then .next (s.accept p tag q).drain else .next s

/-- An event of the part; held in reset nothing happens (R211, log 20). -/
def onEvent (f : State → State) (s : State) : Host.Outcome State Fault Refusal :=
  if s.running then .next (f s).drain else .next s

/-! ## Port (10) -/

/-- IDENTIFY (R198). -/
def execIdentify (p : Port) (tag : Byte) (s : State) : Host.Outcome State Fault Refusal :=
  onRequest p tag .identify s

/-- READ_START_RECORD (R212). -/
def execReadStartRecord (p : Port) (tag : Byte) (s : State) : Host.Outcome State Fault Refusal :=
  onRequest p tag .readStartRecord s

/-- READ_SNAPSHOT (R203). -/
def execReadSnapshot (p : Port) (tag : Byte) (s : State) : Host.Outcome State Fault Refusal :=
  onRequest p tag .readSnapshot s

/-- READ_PORT_STATUS (R198). -/
def execReadPortStatus (p : Port) (tag : Byte) (port : Nat) (s : State) : Host.Outcome State Fault Refusal :=
  onRequest p tag (.readPortStatus port) s

/-- HALT_ALL (R179). -/
def execHaltAll (p : Port) (tag : Byte) (s : State) : Host.Outcome State Fault Refusal :=
  onRequest p tag .haltAll s

/-! ## Clock and marks (01) -/

/-- READ_CLOCK (R3). -/
def execReadClock (p : Port) (tag : Byte) (s : State) : Host.Outcome State Fault Refusal :=
  onRequest p tag .readClock s

/-- SET_RATE (R5). -/
def execSetRate (p : Port) (tag : Byte) (goal : Int) (ramp : Nat) (s : State) : Host.Outcome State Fault Refusal :=
  onRequest p tag (.setRate goal ramp) s

/-- RUN (R7). -/
def execRun (p : Port) (tag : Byte) (s : State) : Host.Outcome State Fault Refusal :=
  onRequest p tag .run s

/-- HALT (R8). -/
def execHalt (p : Port) (tag : Byte) (s : State) : Host.Outcome State Fault Refusal :=
  onRequest p tag .halt s

/-- SET_EPOCH (R10). -/
def execSetEpoch (p : Port) (tag : Byte) (epoch : Int) (mode : Nat) (s : State) : Host.Outcome State Fault Refusal :=
  onRequest p tag (.setEpoch epoch mode) s

/-- SET_SETTLE_TIME (R16). -/
def execSetSettleTime (p : Port) (tag : Byte) (seconds : Nat) (s : State) : Host.Outcome State Fault Refusal :=
  onRequest p tag (.setSettleTime seconds) s

/-- SET_GOVERNOR (R19). -/
def execSetGovernor (p : Port) (tag : Byte) (enable : Nat) (s : State) : Host.Outcome State Fault Refusal :=
  onRequest p tag (.setGovernor enable) s

/-- SET_TIMEBASE (R20). -/
def execSetTimebase (p : Port) (tag : Byte) (mode : Nat) (s : State) : Host.Outcome State Fault Refusal :=
  onRequest p tag (.setTimebase mode) s

/-- SET_SYNC_PERIOD (R20). -/
def execSetSyncPeriod (p : Port) (tag : Byte) (ms : Nat) (s : State) : Host.Outcome State Fault Refusal :=
  onRequest p tag (.setSyncPeriod ms) s

/-- SET_MARK (R24). -/
def execSetMark (p : Port) (tag : Byte) (mark enable period : Nat) (phase : Int) (direction : Nat) (s : State) : Host.Outcome State Fault Refusal :=
  onRequest p tag (.setMark mark enable period phase direction) s

/-- READ_MARK (R24). -/
def execReadMark (p : Port) (tag : Byte) (mark : Nat) (s : State) : Host.Outcome State Fault Refusal :=
  onRequest p tag (.readMark mark) s

/-! ## Channels (02) -/

/-- APPEND_SEGMENTS (R30). -/
def execAppendSegments (p : Port) (tag : Byte) (channel : Nat) (segments : List RawSegment) (s : State) : Host.Outcome State Fault Refusal :=
  onRequest p tag (.appendSegments channel segments) s

/-- INSERT_SEGMENT (R31). -/
def execInsertSegment (p : Port) (tag : Byte) (channel : Nat) (segment : RawSegment) (s : State) : Host.Outcome State Fault Refusal :=
  onRequest p tag (.insertSegment channel segment) s

/-- DELETE_SPAN (R32). -/
def execDeleteSpan (p : Port) (tag : Byte) (channel : Nat) (x0 x1 : Int) (s : State) : Host.Outcome State Fault Refusal :=
  onRequest p tag (.deleteSpan channel x0 x1) s

/-- CLEAR_CHANNEL (R33). -/
def execClearChannel (p : Port) (tag : Byte) (channel : Nat) (s : State) : Host.Outcome State Fault Refusal :=
  onRequest p tag (.clearChannel channel) s

/-- SET_CHANNEL_KIND (R34). -/
def execSetChannelKind (p : Port) (tag : Byte) (channel kind : Nat) (s : State) : Host.Outcome State Fault Refusal :=
  onRequest p tag (.setChannelKind channel kind) s

/-- SET_CHANNEL_ENABLE (R35). -/
def execSetChannelEnable (p : Port) (tag : Byte) (channel enable : Nat) (s : State) : Host.Outcome State Fault Refusal :=
  onRequest p tag (.setChannelEnable channel enable) s

/-- READ_CHANNEL (R36). -/
def execReadChannel (p : Port) (tag : Byte) (channel : Nat) (s : State) : Host.Outcome State Fault Refusal :=
  onRequest p tag (.readChannel channel) s

/-- READ_SEGMENT (R36). -/
def execReadSegment (p : Port) (tag : Byte) (channel index : Nat) (s : State) : Host.Outcome State Fault Refusal :=
  onRequest p tag (.readSegment channel index) s

/-- READ_STORE (R36). -/
def execReadStore (p : Port) (tag : Byte) (s : State) : Host.Outcome State Fault Refusal :=
  onRequest p tag .readStore s

/-- QUERY_ANGLE (R44). -/
def execQueryAngle (p : Port) (tag : Byte) (channel form : Nat) (epoch : Int) (s : State) : Host.Outcome State Fault Refusal :=
  onRequest p tag (.queryAngle channel form epoch) s

/-! ## Axes (03, 04, 05, 09) -/

/-- READ_AXIS_RECORD (R46). -/
def execReadAxisRecord (p : Port) (tag : Byte) (axis : Nat) (s : State) : Host.Outcome State Fault Refusal :=
  onRequest p tag (.readAxisRecord axis) s

/-- CONFIGURE_AXIS (R49). -/
def execConfigureAxis (p : Port) (tag : Byte) (axis : Nat) (record : RawRecord) (s : State) : Host.Outcome State Fault Refusal :=
  onRequest p tag (.configureAxis axis record) s

/-- BIND (R53). -/
def execBind (p : Port) (tag : Byte) (axis channel : Nat) (s : State) : Host.Outcome State Fault Refusal :=
  onRequest p tag (.bind axis channel) s

/-- UNBIND (R54). -/
def execUnbind (p : Port) (tag : Byte) (axis : Nat) (s : State) : Host.Outcome State Fault Refusal :=
  onRequest p tag (.unbind axis) s

/-- LOCK_SAFETY (R59). -/
def execLockSafety (p : Port) (tag : Byte) (axis : Nat) (s : State) : Host.Outcome State Fault Refusal :=
  onRequest p tag (.lockSafety axis) s

/-- READ_AXIS_STATE (R64). -/
def execReadAxisState (p : Port) (tag : Byte) (axis : Nat) (s : State) : Host.Outcome State Fault Refusal :=
  onRequest p tag (.readAxisState axis) s

/-- ENABLE (R69). -/
def execEnable (p : Port) (tag : Byte) (axis : Nat) (s : State) : Host.Outcome State Fault Refusal :=
  onRequest p tag (.enable axis) s

/-- DISABLE (R69). -/
def execDisable (p : Port) (tag : Byte) (axis : Nat) (s : State) : Host.Outcome State Fault Refusal :=
  onRequest p tag (.disable axis) s

/-- DECLARE_REFERENCE (R70). -/
def execDeclareReference (p : Port) (tag : Byte) (axis : Nat) (hi lo : BitVec 32) (s : State) : Host.Outcome State Fault Refusal :=
  onRequest p tag (.declareReference axis hi lo) s

/-- SLEW (R71). -/
def execSlew (p : Port) (tag : Byte) (axis form : Nat) (value : BitVec 56) (s : State) : Host.Outcome State Fault Refusal :=
  onRequest p tag (.slew axis form value) s

/-- TRACK (R77). -/
def execTrack (p : Port) (tag : Byte) (axis : Nat) (s : State) : Host.Outcome State Fault Refusal :=
  onRequest p tag (.track axis) s

/-- STOP (R76). -/
def execStop (p : Port) (tag : Byte) (axis : Nat) (s : State) : Host.Outcome State Fault Refusal :=
  onRequest p tag (.stop axis) s

/-- HOME (R98). -/
def execHome (p : Port) (tag : Byte) (axis : Nat) (s : State) : Host.Outcome State Fault Refusal :=
  onRequest p tag (.home axis) s

/-- CLEAR_FAULT (R177). -/
def execClearFault (p : Port) (tag : Byte) (axis : Nat) (s : State) : Host.Outcome State Fault Refusal :=
  onRequest p tag (.clearFault axis) s

/-! ## Groups (03, 04) -/

/-- READ_GROUP (R57). -/
def execReadGroup (p : Port) (tag : Byte) (group : Nat) (s : State) : Host.Outcome State Fault Refusal :=
  onRequest p tag (.readGroup group) s

/-- COORDINATED_SLEW (R87). -/
def execCoordinatedSlew (p : Port) (tag : Byte) (group : Nat) (entries : List (Nat × BitVec 32)) (s : State) : Host.Outcome State Fault Refusal :=
  onRequest p tag (.coordinatedSlew group entries) s

/-- STAGE_GROUP (R89). -/
def execStageGroup (p : Port) (tag : Byte) (group : Nat) (epoch : Int) (s : State) : Host.Outcome State Fault Refusal :=
  onRequest p tag (.stageGroup group epoch) s

/-- TRACK_GROUP (R91). -/
def execTrackGroup (p : Port) (tag : Byte) (group : Nat) (s : State) : Host.Outcome State Fault Refusal :=
  onRequest p tag (.trackGroup group) s

/-- STOP_GROUP (R92). -/
def execStopGroup (p : Port) (tag : Byte) (group : Nat) (s : State) : Host.Outcome State Fault Refusal :=
  onRequest p tag (.stopGroup group) s

/-- READ_GROUP_MOTION (R86). -/
def execReadGroupMotion (p : Port) (tag : Byte) (group : Nat) (s : State) : Host.Outcome State Fault Refusal :=
  onRequest p tag (.readGroupMotion group) s

/-! ## Claims (06) -/

/-- READ_CLAIMS (R113). -/
def execReadClaims (p : Port) (tag : Byte) (s : State) : Host.Outcome State Fault Refusal :=
  onRequest p tag .readClaims s

/-- CLAIM (R115). -/
def execClaim (p : Port) (tag : Byte) (resource wait preempt lease : Nat) (s : State) : Host.Outcome State Fault Refusal :=
  onRequest p tag (.claim resource wait preempt lease) s

/-- RENEW (R119). -/
def execRenew (p : Port) (tag : Byte) (resource : Nat) (s : State) : Host.Outcome State Fault Refusal :=
  onRequest p tag (.renew resource) s

/-- RELEASE (R120). -/
def execRelease (p : Port) (tag : Byte) (resource : Nat) (s : State) : Host.Outcome State Fault Refusal :=
  onRequest p tag (.release resource) s

/-- WITHDRAW (R123). -/
def execWithdraw (p : Port) (tag : Byte) (resource : Nat) (s : State) : Host.Outcome State Fault Refusal :=
  onRequest p tag (.withdraw resource) s

/-! ## Programs (07) -/

/-- OPEN_PROGRAM (R131). -/
def execOpenProgram (p : Port) (tag : Byte) (program : Nat) (requirement : BitVec 16) (s : State) : Host.Outcome State Fault Refusal :=
  onRequest p tag (.openProgram program requirement) s

/-- APPEND_CUES (R132). -/
def execAppendCues (p : Port) (tag : Byte) (program : Nat) (cues : List RawCue) (s : State) : Host.Outcome State Fault Refusal :=
  onRequest p tag (.appendCues program cues) s

/-- CLOSE_PROGRAM (R133). -/
def execCloseProgram (p : Port) (tag : Byte) (program : Nat) (s : State) : Host.Outcome State Fault Refusal :=
  onRequest p tag (.closeProgram program) s

/-- ERASE_PROGRAM (R134). -/
def execEraseProgram (p : Port) (tag : Byte) (program : Nat) (s : State) : Host.Outcome State Fault Refusal :=
  onRequest p tag (.eraseProgram program) s

/-- READ_PROGRAM (R130). -/
def execReadProgram (p : Port) (tag : Byte) (program index : Nat) (s : State) : Host.Outcome State Fault Refusal :=
  onRequest p tag (.readProgram program index) s

/-! ## Runners (07) -/

/-- RUN_PROGRAM (R138). -/
def execRunProgram (p : Port) (tag : Byte) (program : Nat) (s : State) : Host.Outcome State Fault Refusal :=
  onRequest p tag (.runProgram program) s

/-- STOP_RUNNER (R139). -/
def execStopRunner (p : Port) (tag : Byte) (s : State) : Host.Outcome State Fault Refusal :=
  onRequest p tag .stopRunner s

/-- RESUME (R140). -/
def execResume (p : Port) (tag : Byte) (s : State) : Host.Outcome State Fault Refusal :=
  onRequest p tag .resume s

/-- LEAVE_LOOP (R141). -/
def execLeaveLoop (p : Port) (tag : Byte) (s : State) : Host.Outcome State Fault Refusal :=
  onRequest p tag .leaveLoop s

/-- READ_RUNNER (R136). -/
def execReadRunner (p : Port) (tag : Byte) (runner : Nat) (s : State) : Host.Outcome State Fault Refusal :=
  onRequest p tag (.readRunner runner) s

/-! ## Links and lines (08) -/

/-- SET_LINK (R159). -/
def execSetLink (p : Port) (tag : Byte) (link enable : Nat) (source : RawSource) (dest : RawDest) (s : State) : Host.Outcome State Fault Refusal :=
  onRequest p tag (.setLink link enable source dest) s

/-- SET_LINK_ENABLE (R160). -/
def execSetLinkEnable (p : Port) (tag : Byte) (link enable : Nat) (s : State) : Host.Outcome State Fault Refusal :=
  onRequest p tag (.setLinkEnable link enable) s

/-- READ_LINK (R158). -/
def execReadLink (p : Port) (tag : Byte) (link : Nat) (s : State) : Host.Outcome State Fault Refusal :=
  onRequest p tag (.readLink link) s

/-- SET_TRIGGER_FILTER (R167). -/
def execSetTriggerFilter (p : Port) (tag : Byte) (input length : Nat) (s : State) : Host.Outcome State Fault Refusal :=
  onRequest p tag (.setTriggerFilter input length) s

/-- READ_LINES (R167). -/
def execReadLines (p : Port) (tag : Byte) (s : State) : Host.Outcome State Fault Refusal :=
  onRequest p tag .readLines s

/-- READ_CAPTURE (R172). -/
def execReadCapture (p : Port) (tag : Byte) (s : State) : Host.Outcome State Fault Refusal :=
  onRequest p tag .readCapture s

/-! ## Drive power (09) -/

/-- READ_DRIVE_POWER (R189). -/
def execReadDrivePower (p : Port) (tag : Byte) (s : State) : Host.Outcome State Fault Refusal :=
  onRequest p tag .readDrivePower s

/-- SET_RETURN_POLICY (R185). -/
def execSetReturnPolicy (p : Port) (tag : Byte) (policy : Nat) (s : State) : Host.Outcome State Fault Refusal :=
  onRequest p tag (.setReturnPolicy policy) s

/-! ## Notices and reports (10) -/

/-- FETCH_NOTICES (R208). -/
def execFetchNotices (p : Port) (tag : Byte) (s : State) : Host.Outcome State Fault Refusal :=
  onRequest p tag .fetchNotices s

/-- SET_NOTICE_MASK (R207). -/
def execSetNoticeMask (p : Port) (tag : Byte) (mask : BitVec 32) (s : State) : Host.Outcome State Fault Refusal :=
  onRequest p tag (.setNoticeMask mask) s

/-- SET_NOTICE_ROUTING (R205). -/
def execSetNoticeRouting (p : Port) (tag : Byte) (kind form ports : Nat) (s : State) : Host.Outcome State Fault Refusal :=
  onRequest p tag (.setNoticeRouting kind form ports) s

/-- READ_NOTICE_ROUTING (R205). -/
def execReadNoticeRouting (p : Port) (tag : Byte) (s : State) : Host.Outcome State Fault Refusal :=
  onRequest p tag .readNoticeRouting s

/-- SET_REPORT_RATE (R202). -/
def execSetReportRate (p : Port) (tag : Byte) (k : Nat) (s : State) : Host.Outcome State Fault Refusal :=
  onRequest p tag (.setReportRate k) s

/-! ## Frames -/

/-- FRAME_RECEIVED (R192). -/
def execFrameReceived (p : Port) (tag code : Byte) (payload : List Byte) (crc : BitVec 16) (s : State) : Host.Outcome State Fault Refusal :=
  onEvent (fun s => s.frameReceived p tag code payload crc) s

/-- FRAMING_ERROR (R191). -/
def execFramingError (p : Port) (s : State) : Host.Outcome State Fault Refusal :=
  onEvent (fun s => s.breakFrame p) s

/-- FRAME_GAP_TIMEOUT (R192). -/
def execFrameGapTimeout (p : Port) (s : State) : Host.Outcome State Fault Refusal :=
  onEvent (fun s => s.breakFrame p) s

/-- REPLY_START (R194). -/
def execReplyStart (p : Port) (s : State) : Host.Outcome State Fault Refusal :=
  onEvent (fun s => s.replyStart p) s

/-- FRAME_TRANSMISSION_END (R197). -/
def execFrameTransmissionEnd (p : Port) (s : State) : Host.Outcome State Fault Refusal :=
  onEvent (fun s => s.transmissionEnd p) s

/-! ## Clock and timebase events (01) -/

/-- EPOCH_UPDATE (R2). -/
def execEpochUpdate (s : State) : Host.Outcome State Fault Refusal :=
  onEvent (fun s => s.epochUpdate) s

/-- SETTLE_TIMER_EXPIRY (R14). -/
def execSettleTimerExpiry (s : State) : Host.Outcome State Fault Refusal :=
  onEvent (fun s => s.settleExpiry) s

/-- QUIET_TIMER_EXPIRY (R18). -/
def execQuietTimerExpiry (s : State) : Host.Outcome State Fault Refusal :=
  onEvent (fun s => s.quietExpiry) s

/-- SYNC_PULSE (R21). -/
def execSyncPulse (crystal : Nat) (s : State) : Host.Outcome State Fault Refusal :=
  onEvent (fun s => s.syncPulse crystal) s

/-- SYNC_TIMEOUT (R23). -/
def execSyncTimeout (s : State) : Host.Outcome State Fault Refusal :=
  onEvent (fun s => s.syncTimeout) s

/-! ## Evaluator (02) -/

/-- EVALUATION_START (R42). -/
def execEvaluationStart (s : State) : Host.Outcome State Fault Refusal :=
  onEvent (fun s => s.startEvaluation) s

/-- EVALUATION_COMPLETE (R42). -/
def execEvaluationComplete (s : State) : Host.Outcome State Fault Refusal :=
  onEvent (fun s => s.completeEvaluation) s

/-! ## Motion (04) -/

/-- STEP_PULSE (R66). -/
def execStepPulse (a : AxisId) (s : State) : Host.Outcome State Fault Refusal :=
  onEvent (fun s => s.stepPulse a) s

/-- STEP_PULSE_END (R66). -/
def execStepPulseEnd (a : AxisId) (s : State) : Host.Outcome State Fault Refusal :=
  onEvent (fun s => s.stepPulseEnd a) s

/-- REVERSAL_PAUSE_END (R67). -/
def execReversalPauseEnd (a : AxisId) (s : State) : Host.Outcome State Fault Refusal :=
  onEvent (fun s => s.reversalPauseEnd a) s

/-- AXIS_ARRIVED (R73). -/
def execAxisArrived (a : AxisId) (s : State) : Host.Outcome State Fault Refusal :=
  onEvent (fun s => s.axisArrived a) s

/-- STOPPING_REST (R76). -/
def execStoppingRest (a : AxisId) (s : State) : Host.Outcome State Fault Refusal :=
  onEvent (fun s => s.stoppingRest a) s

/-! ## Homing (05) -/

/-- HOME_INPUT_CHANGE (R97). -/
def execHomeInputChange (a : AxisId) (level : Bool) (s : State) : Host.Outcome State Fault Refusal :=
  onEvent (fun s => s.homeChanged a level) s

/-- CLEAR_PHASE_REST (R100). -/
def execClearPhaseRest (a : AxisId) (s : State) : Host.Outcome State Fault Refusal :=
  onEvent (fun s => s.clearRest a) s

/-- AXIS_HOMED (R103). -/
def execAxisHomed (a : AxisId) (s : State) : Host.Outcome State Fault Refusal :=
  onEvent (fun s => s.axisHomed a) s

/-- HOMING_SEARCH_EXHAUSTED (R104). -/
def execHomingSearchExhausted (a : AxisId) (late : Option Bool) (s : State) : Host.Outcome State Fault Refusal :=
  onEvent (fun s => s.searchExhausted a late) s

/-! ## Inputs, faults, halts, drive power (04, 09) -/

/-- LIMIT_INPUT_CHANGE (R93). -/
def execLimitInputChange (a : AxisId) (side : LimitSide) (level : Bool) (late : Option LateCause) (s : State) :
    Host.Outcome State Fault Refusal :=
  onEvent (fun s => s.limitChanged a side level late) s

/-- FLT_INPUT_CHANGE (R175). -/
def execFltInputChange (a : AxisId) (level : Bool) (s : State) : Host.Outcome State Fault Refusal :=
  onEvent (fun s => s.fltChanged a level) s

/-- AUTO_CLEAR_EXPIRY (R178). -/
def execAutoClearExpiry (a : AxisId) (s : State) : Host.Outcome State Fault Refusal :=
  onEvent (fun s => s.autoClearExpiry a) s

/-- HALT_LINE_ASSERTED (R179). -/
def execHaltLineAsserted (s : State) : Host.Outcome State Fault Refusal :=
  onEvent (fun s => s.assertHalt) s

/-- HALT_LINE_DEASSERTED (R179). -/
def execHaltLineDeasserted (s : State) : Host.Outcome State Fault Refusal :=
  onEvent (fun s => s.haltDeasserted) s

/-- DRIVE_POWER_OK_ACTIVE (R182). -/
def execDrivePowerOkActive (s : State) : Host.Outcome State Fault Refusal :=
  onEvent (fun s => s.drivePowerActive) s

/-- DRIVE_POWER_OK_INACTIVE (R182). -/
def execDrivePowerOkInactive (s : State) : Host.Outcome State Fault Refusal :=
  onEvent (fun s => s.drivePowerInactive) s

/-- DRIVE_POWER_RETURN (R185). -/
def execDrivePowerReturn (s : State) : Host.Outcome State Fault Refusal :=
  onEvent (fun s => s.powerReturn) s

/-! ## Claims and runners (06, 07) -/

/-- LEASE_EXPIRY (R122). -/
def execLeaseExpiry (r : Resource) (s : State) : Host.Outcome State Fault Refusal :=
  onEvent (fun s => s.leaseExpiry r) s

/-- DELAY_EXPIRY (R142). -/
def execDelayExpiry (r : Port) (s : State) : Host.Outcome State Fault Refusal :=
  onEvent (fun s => s.delayExpiry r) s

/-- LOOP_PAUSE_END (R154). -/
def execLoopPauseEnd (r : Port) (s : State) : Host.Outcome State Fault Refusal :=
  onEvent (fun s => s.loopPauseEnd r) s

/-! ## Lines (08) -/

/-- TRIG_INPUT_CHANGE (R166). -/
def execTrigInputChange (t : TrigId) (level : Bool) (s : State) : Host.Outcome State Fault Refusal :=
  onEvent (fun s => s.trigChanged t level) s

/-- PULSE_TIMER_EXPIRY (R169). -/
def execPulseTimerExpiry (o : OutputId) (s : State) : Host.Outcome State Fault Refusal :=
  onEvent (fun s => s.pulseExpiry o) s

/-! ## Starts and samples (11) -/

/-- POWER_ON_RESET (R211). -/
def execPowerOnReset (s : State) : Host.Outcome State Fault Refusal :=
  .next s.powerOnReset

/-- LINE_RESET (R211). -/
def execLineReset (s : State) : Host.Outcome State Fault Refusal :=
  .next s.lineReset

/-- START (R211). -/
def execStart (straps : Straps) (lines : FirstSamples) (s : State) : Host.Outcome State Fault Refusal :=
  .next (s.start straps lines)

/-- INPUT_SAMPLE (R166); RESET is sampled in reset too (R211). -/
def execInputSample (line : InputLine) (level : Bool) (s : State) : Host.Outcome State Fault Refusal :=
  if line = .reset then .next (s.resetSample level) else onEvent (fun s => s.inputSample line level) s

/-- BYTE_RECEIVED (R192). -/
def execByteReceived (p : Port) (byte : Byte) (s : State) : Host.Outcome State Fault Refusal :=
  onEvent (fun s => s.byteReceived p byte) s

/-- VELOCITY_REACHES_ZERO (R67). -/
def execVelocityReachesZero (a : AxisId) (s : State) : Host.Outcome State Fault Refusal :=
  onEvent (fun s => s.velocityZero a) s

end Sys2Proof.Machine
end

