-- ==== Sys2Proof/Machine/Dispatch.lean ====
section
/-! DEFINITION. One arm per command. -/

namespace Sys2Proof.Machine

/-- The effect of a command on everything but the queue. -/
def exec (i : Instr) (s : State) : Host.Outcome State Fault Refusal :=
  match i with
  | .identify p tag => Sys2Proof.Machine.execIdentify p tag s
  | .readStartRecord p tag => Sys2Proof.Machine.execReadStartRecord p tag s
  | .readSnapshot p tag => Sys2Proof.Machine.execReadSnapshot p tag s
  | .readPortStatus p tag port => Sys2Proof.Machine.execReadPortStatus p tag port s
  | .haltAll p tag => Sys2Proof.Machine.execHaltAll p tag s
  | .readClock p tag => Sys2Proof.Machine.execReadClock p tag s
  | .setRate p tag goal ramp => Sys2Proof.Machine.execSetRate p tag goal ramp s
  | .run p tag => Sys2Proof.Machine.execRun p tag s
  | .halt p tag => Sys2Proof.Machine.execHalt p tag s
  | .setEpoch p tag epoch mode => Sys2Proof.Machine.execSetEpoch p tag epoch mode s
  | .setSettleTime p tag seconds => Sys2Proof.Machine.execSetSettleTime p tag seconds s
  | .setGovernor p tag enable => Sys2Proof.Machine.execSetGovernor p tag enable s
  | .setTimebase p tag mode => Sys2Proof.Machine.execSetTimebase p tag mode s
  | .setSyncPeriod p tag ms => Sys2Proof.Machine.execSetSyncPeriod p tag ms s
  | .setMark p tag mark enable period phase direction => Sys2Proof.Machine.execSetMark p tag mark enable period phase direction s
  | .readMark p tag mark => Sys2Proof.Machine.execReadMark p tag mark s
  | .appendSegments p tag channel segments => Sys2Proof.Machine.execAppendSegments p tag channel segments s
  | .insertSegment p tag channel segment => Sys2Proof.Machine.execInsertSegment p tag channel segment s
  | .deleteSpan p tag channel x0 x1 => Sys2Proof.Machine.execDeleteSpan p tag channel x0 x1 s
  | .clearChannel p tag channel => Sys2Proof.Machine.execClearChannel p tag channel s
  | .setChannelKind p tag channel kind => Sys2Proof.Machine.execSetChannelKind p tag channel kind s
  | .setChannelEnable p tag channel enable => Sys2Proof.Machine.execSetChannelEnable p tag channel enable s
  | .readChannel p tag channel => Sys2Proof.Machine.execReadChannel p tag channel s
  | .readSegment p tag channel index => Sys2Proof.Machine.execReadSegment p tag channel index s
  | .readStore p tag => Sys2Proof.Machine.execReadStore p tag s
  | .queryAngle p tag channel form epoch => Sys2Proof.Machine.execQueryAngle p tag channel form epoch s
  | .readAxisRecord p tag axis => Sys2Proof.Machine.execReadAxisRecord p tag axis s
  | .configureAxis p tag axis record => Sys2Proof.Machine.execConfigureAxis p tag axis record s
  | .bind p tag axis channel => Sys2Proof.Machine.execBind p tag axis channel s
  | .unbind p tag axis => Sys2Proof.Machine.execUnbind p tag axis s
  | .lockSafety p tag axis => Sys2Proof.Machine.execLockSafety p tag axis s
  | .readAxisState p tag axis => Sys2Proof.Machine.execReadAxisState p tag axis s
  | .enable p tag axis => Sys2Proof.Machine.execEnable p tag axis s
  | .disable p tag axis => Sys2Proof.Machine.execDisable p tag axis s
  | .declareReference p tag axis hi lo => Sys2Proof.Machine.execDeclareReference p tag axis hi lo s
  | .slew p tag axis form value => Sys2Proof.Machine.execSlew p tag axis form value s
  | .track p tag axis => Sys2Proof.Machine.execTrack p tag axis s
  | .stop p tag axis => Sys2Proof.Machine.execStop p tag axis s
  | .home p tag axis => Sys2Proof.Machine.execHome p tag axis s
  | .clearFault p tag axis => Sys2Proof.Machine.execClearFault p tag axis s
  | .readGroup p tag group => Sys2Proof.Machine.execReadGroup p tag group s
  | .coordinatedSlew p tag group entries => Sys2Proof.Machine.execCoordinatedSlew p tag group entries s
  | .stageGroup p tag group epoch => Sys2Proof.Machine.execStageGroup p tag group epoch s
  | .trackGroup p tag group => Sys2Proof.Machine.execTrackGroup p tag group s
  | .stopGroup p tag group => Sys2Proof.Machine.execStopGroup p tag group s
  | .readGroupMotion p tag group => Sys2Proof.Machine.execReadGroupMotion p tag group s
  | .readClaims p tag => Sys2Proof.Machine.execReadClaims p tag s
  | .claim p tag resource wait preempt lease => Sys2Proof.Machine.execClaim p tag resource wait preempt lease s
  | .renew p tag resource => Sys2Proof.Machine.execRenew p tag resource s
  | .release p tag resource => Sys2Proof.Machine.execRelease p tag resource s
  | .withdraw p tag resource => Sys2Proof.Machine.execWithdraw p tag resource s
  | .openProgram p tag program requirement => Sys2Proof.Machine.execOpenProgram p tag program requirement s
  | .appendCues p tag program cues => Sys2Proof.Machine.execAppendCues p tag program cues s
  | .closeProgram p tag program => Sys2Proof.Machine.execCloseProgram p tag program s
  | .eraseProgram p tag program => Sys2Proof.Machine.execEraseProgram p tag program s
  | .readProgram p tag program index => Sys2Proof.Machine.execReadProgram p tag program index s
  | .runProgram p tag program => Sys2Proof.Machine.execRunProgram p tag program s
  | .stopRunner p tag => Sys2Proof.Machine.execStopRunner p tag s
  | .resume p tag => Sys2Proof.Machine.execResume p tag s
  | .leaveLoop p tag => Sys2Proof.Machine.execLeaveLoop p tag s
  | .readRunner p tag runner => Sys2Proof.Machine.execReadRunner p tag runner s
  | .setLink p tag link enable source dest => Sys2Proof.Machine.execSetLink p tag link enable source dest s
  | .setLinkEnable p tag link enable => Sys2Proof.Machine.execSetLinkEnable p tag link enable s
  | .readLink p tag link => Sys2Proof.Machine.execReadLink p tag link s
  | .setTriggerFilter p tag input length => Sys2Proof.Machine.execSetTriggerFilter p tag input length s
  | .readLines p tag => Sys2Proof.Machine.execReadLines p tag s
  | .readCapture p tag => Sys2Proof.Machine.execReadCapture p tag s
  | .readDrivePower p tag => Sys2Proof.Machine.execReadDrivePower p tag s
  | .setReturnPolicy p tag policy => Sys2Proof.Machine.execSetReturnPolicy p tag policy s
  | .fetchNotices p tag => Sys2Proof.Machine.execFetchNotices p tag s
  | .setNoticeMask p tag mask => Sys2Proof.Machine.execSetNoticeMask p tag mask s
  | .setNoticeRouting p tag kind form ports => Sys2Proof.Machine.execSetNoticeRouting p tag kind form ports s
  | .readNoticeRouting p tag => Sys2Proof.Machine.execReadNoticeRouting p tag s
  | .setReportRate p tag k => Sys2Proof.Machine.execSetReportRate p tag k s
  | .frameReceived p tag code payload crc => Sys2Proof.Machine.execFrameReceived p tag code payload crc s
  | .framingError p => Sys2Proof.Machine.execFramingError p s
  | .frameGapTimeout p => Sys2Proof.Machine.execFrameGapTimeout p s
  | .replyStart p => Sys2Proof.Machine.execReplyStart p s
  | .frameTransmissionEnd p => Sys2Proof.Machine.execFrameTransmissionEnd p s
  | .epochUpdate => Sys2Proof.Machine.execEpochUpdate s
  | .settleTimerExpiry => Sys2Proof.Machine.execSettleTimerExpiry s
  | .quietTimerExpiry => Sys2Proof.Machine.execQuietTimerExpiry s
  | .syncPulse crystal => Sys2Proof.Machine.execSyncPulse crystal s
  | .syncTimeout => Sys2Proof.Machine.execSyncTimeout s
  | .evaluationStart => Sys2Proof.Machine.execEvaluationStart s
  | .evaluationComplete => Sys2Proof.Machine.execEvaluationComplete s
  | .stepPulse a => Sys2Proof.Machine.execStepPulse a s
  | .stepPulseEnd a => Sys2Proof.Machine.execStepPulseEnd a s
  | .reversalPauseEnd a => Sys2Proof.Machine.execReversalPauseEnd a s
  | .axisArrived a => Sys2Proof.Machine.execAxisArrived a s
  | .stoppingRest a => Sys2Proof.Machine.execStoppingRest a s
  | .homeInputChange a level => Sys2Proof.Machine.execHomeInputChange a level s
  | .clearPhaseRest a => Sys2Proof.Machine.execClearPhaseRest a s
  | .axisHomed a => Sys2Proof.Machine.execAxisHomed a s
  | .homingSearchExhausted a late => Sys2Proof.Machine.execHomingSearchExhausted a late s
  | .limitInputChange a side level late => Sys2Proof.Machine.execLimitInputChange a side level late s
  | .fltInputChange a level => Sys2Proof.Machine.execFltInputChange a level s
  | .autoClearExpiry a => Sys2Proof.Machine.execAutoClearExpiry a s
  | .haltLineAsserted => Sys2Proof.Machine.execHaltLineAsserted s
  | .haltLineDeasserted => Sys2Proof.Machine.execHaltLineDeasserted s
  | .drivePowerOkActive => Sys2Proof.Machine.execDrivePowerOkActive s
  | .drivePowerOkInactive => Sys2Proof.Machine.execDrivePowerOkInactive s
  | .drivePowerReturn => Sys2Proof.Machine.execDrivePowerReturn s
  | .leaseExpiry r => Sys2Proof.Machine.execLeaseExpiry r s
  | .delayExpiry r => Sys2Proof.Machine.execDelayExpiry r s
  | .loopPauseEnd r => Sys2Proof.Machine.execLoopPauseEnd r s
  | .trigInputChange t level => Sys2Proof.Machine.execTrigInputChange t level s
  | .pulseTimerExpiry o => Sys2Proof.Machine.execPulseTimerExpiry o s
  | .powerOnReset => Sys2Proof.Machine.execPowerOnReset s
  | .lineReset => Sys2Proof.Machine.execLineReset s
  | .start straps lines => Sys2Proof.Machine.execStart straps lines s
  | .inputSample line level => Sys2Proof.Machine.execInputSample line level s
  | .byteReceived p byte => Sys2Proof.Machine.execByteReceived p byte s
  | .velocityReachesZero a => Sys2Proof.Machine.execVelocityReachesZero a s

end Sys2Proof.Machine
end

