-- ==== Sys2Proof/WellFormed.lean ====
section
/-! DEFINITION. The commands a master or the part can send: every operand fits the bytes that carry it (10 Tables 10-1,
10-2, 10-5 to 10-7, 10-11). What a value MEANS out of its range is the request's own refusal, not this check. -/

namespace Sys2Proof

/-- A number fits k bytes. -/
def fitsNat (k n : Nat) : Bool := decide (n < 256 ^ k)

/-- A signed number fits k bytes in two's complement. -/
def fitsInt (k : Nat) (i : Int) : Bool := decide (-(256 ^ k : Nat) ≤ 2 * i ∧ 2 * i < (256 ^ k : Nat))

/-- Table 10-5. -/
def RawSegment.wf (r : RawSegment) : Bool :=
  fitsInt 7 r.start && fitsNat 6 r.span && fitsNat 4 r.a0 && fitsInt 6 r.a1 && fitsNat 1 r.flag && fitsInt 8 r.a2

/-- Table 10-11. -/
def RawRecord.wf (r : RawRecord) : Bool :=
  fitsNat 1 r.kind && fitsNat 4 r.stepsPerTurn && fitsNat 1 r.softPresence && fitsInt 4 r.softMin && fitsInt 4 r.softMax &&
    fitsNat 4 r.velocity && fitsNat 4 r.acceleration && fitsNat 4 r.haltDecel && fitsNat 4 r.stopDecel &&
    fitsNat 4 r.lagLimit && fitsNat 2 r.settleTolerance && fitsNat 1 r.homeMethod && fitsNat 1 r.homeDirection &&
    fitsNat 4 r.homeSpeed && fitsNat 1 r.homeEdge && fitsNat 1 r.homeFilter && fitsNat 4 r.searchDistance &&
    fitsNat 1 r.clearPolicy && fitsNat 1 r.keepPosition && fitsNat 1 r.pulseWidth && fitsNat 2 r.reversalPause &&
    fitsNat 1 r.dirPolarity && fitsNat 1 r.group && fitsNat 1 r.wrapPolicy && fitsNat 1 r.binding && fitsNat 1 r.sense

/-- Table 10-6: the length byte counts the cue's bytes. -/
def RawCue.wf (c : RawCue) : Bool :=
  decide (c.length = 13 + c.params.length) && fitsNat 1 c.length && fitsNat 1 c.kind && fitsNat 1 c.trigger &&
    fitsNat 1 c.targetKind && fitsNat 1 c.target

/-- A source in its form byte and two bytes (log 14). -/
def RawSource.wf (r : RawSource) : Bool :=
  fitsNat 1 r.form && (if r.form = 1 then fitsNat 1 r.index && fitsNat 1 r.edge else fitsNat 2 r.index && decide (r.edge = 0))

/-- A destination in its form byte and five bytes (log 14). -/
def RawDest.wf (r : RawDest) : Bool :=
  fitsNat 1 r.form &&
    (if r.form = 1 then fitsNat 4 r.index && fitsNat 1 r.param
     else if r.form = 2 then fitsNat 1 r.index && fitsNat 4 r.param
     else fitsNat 5 r.index && decide (r.param = 0))

/-- A request whose fields fit their bytes and whose payload fits a frame. -/
def Request.wf : Request → Bool
  | .identify => true
  | .readStartRecord => true
  | .readSnapshot => true
  | .readPortStatus port => fitsNat 1 port
  | .haltAll => true
  | .readClock => true
  | .setRate goal ramp => fitsInt 5 goal && fitsNat 4 ramp
  | .run => true
  | .halt => true
  | .setEpoch epoch mode => fitsInt 7 epoch && fitsNat 1 mode
  | .setSettleTime seconds => fitsNat 2 seconds
  | .setGovernor onOff => fitsNat 1 onOff
  | .setTimebase mode => fitsNat 1 mode
  | .setSyncPeriod ms => fitsNat 4 ms
  | .setMark mark onOff period phase direction => fitsNat 1 mark && fitsNat 1 onOff && fitsNat 7 period && fitsInt 7 phase && fitsNat 1 direction
  | .readMark mark => fitsNat 1 mark
  | .appendSegments channel segments => fitsNat 1 channel && (segments.all RawSegment.wf && decide (segments.length ≤ 7))
  | .insertSegment channel segment => fitsNat 1 channel && segment.wf
  | .deleteSpan channel x0 x1 => fitsNat 1 channel && fitsInt 7 x0 && fitsInt 7 x1
  | .clearChannel channel => fitsNat 1 channel
  | .setChannelKind channel kind => fitsNat 1 channel && fitsNat 1 kind
  | .setChannelEnable channel onOff => fitsNat 1 channel && fitsNat 1 onOff
  | .readChannel channel => fitsNat 1 channel
  | .readSegment channel index => fitsNat 1 channel && fitsNat 1 index
  | .readStore => true
  | .queryAngle channel form epoch => fitsNat 1 channel && fitsNat 1 form && fitsInt 7 epoch
  | .readAxisRecord axis => fitsNat 1 axis
  | .configureAxis axis record => fitsNat 1 axis && record.wf
  | .bind axis channel => fitsNat 1 axis && fitsNat 1 channel
  | .unbind axis => fitsNat 1 axis
  | .lockSafety axis => fitsNat 1 axis
  | .readAxisState axis => fitsNat 1 axis
  | .enable axis => fitsNat 1 axis
  | .disable axis => fitsNat 1 axis
  | .declareReference axis _ _ => fitsNat 1 axis
  | .slew axis form _ => fitsNat 1 axis && fitsNat 1 form
  | .track axis => fitsNat 1 axis
  | .stop axis => fitsNat 1 axis
  | .home axis => fitsNat 1 axis
  | .clearFault axis => fitsNat 1 axis
  | .readGroup group => fitsNat 1 group
  | .coordinatedSlew group entries => fitsNat 1 group && (entries.all (fun e => fitsNat 1 e.1) && decide (entries.length ≤ 47))
  | .stageGroup group epoch => fitsNat 1 group && fitsInt 7 epoch
  | .trackGroup group => fitsNat 1 group
  | .stopGroup group => fitsNat 1 group
  | .readGroupMotion group => fitsNat 1 group
  | .readClaims => true
  | .claim resource wait preempt lease => fitsNat 1 resource && fitsNat 1 wait && fitsNat 1 preempt && fitsNat 2 lease
  | .renew resource => fitsNat 1 resource
  | .release resource => fitsNat 1 resource
  | .withdraw resource => fitsNat 1 resource
  | .openProgram program _ => fitsNat 1 program
  | .appendCues program cues => fitsNat 1 program && (cues.all RawCue.wf && decide ((cues.map RawCue.length).sum ≤ 238))
  | .closeProgram program => fitsNat 1 program
  | .eraseProgram program => fitsNat 1 program
  | .readProgram program index => fitsNat 1 program && fitsNat 1 index
  | .runProgram program => fitsNat 1 program
  | .stopRunner => true
  | .resume => true
  | .leaveLoop => true
  | .readRunner runner => fitsNat 1 runner
  | .setLink link onOff source dest => fitsNat 1 link && fitsNat 1 onOff && source.wf && dest.wf
  | .setLinkEnable link onOff => fitsNat 1 link && fitsNat 1 onOff
  | .readLink link => fitsNat 1 link
  | .setTriggerFilter input length => fitsNat 1 input && fitsNat 1 length
  | .readLines => true
  | .readCapture => true
  | .readDrivePower => true
  | .setReturnPolicy policy => fitsNat 1 policy
  | .fetchNotices => true
  | .setNoticeMask _ => true
  | .setNoticeRouting kind form ports => fitsNat 1 kind && fitsNat 1 form && fitsNat 1 ports
  | .readNoticeRouting => true
  | .setReportRate k => fitsNat 2 k

/-- The request a command carries, where it is one. -/
def Instr.request : Instr → Option Request
  | .identify _ _ => some .identify
  | .readStartRecord _ _ => some .readStartRecord
  | .readSnapshot _ _ => some .readSnapshot
  | .readPortStatus _ _ port => some (.readPortStatus port)
  | .haltAll _ _ => some .haltAll
  | .readClock _ _ => some .readClock
  | .setRate _ _ goal ramp => some (.setRate goal ramp)
  | .run _ _ => some .run
  | .halt _ _ => some .halt
  | .setEpoch _ _ epoch mode => some (.setEpoch epoch mode)
  | .setSettleTime _ _ seconds => some (.setSettleTime seconds)
  | .setGovernor _ _ onOff => some (.setGovernor onOff)
  | .setTimebase _ _ mode => some (.setTimebase mode)
  | .setSyncPeriod _ _ ms => some (.setSyncPeriod ms)
  | .setMark _ _ mark onOff period phase direction => some (.setMark mark onOff period phase direction)
  | .readMark _ _ mark => some (.readMark mark)
  | .appendSegments _ _ channel segments => some (.appendSegments channel segments)
  | .insertSegment _ _ channel segment => some (.insertSegment channel segment)
  | .deleteSpan _ _ channel x0 x1 => some (.deleteSpan channel x0 x1)
  | .clearChannel _ _ channel => some (.clearChannel channel)
  | .setChannelKind _ _ channel kind => some (.setChannelKind channel kind)
  | .setChannelEnable _ _ channel onOff => some (.setChannelEnable channel onOff)
  | .readChannel _ _ channel => some (.readChannel channel)
  | .readSegment _ _ channel index => some (.readSegment channel index)
  | .readStore _ _ => some .readStore
  | .queryAngle _ _ channel form epoch => some (.queryAngle channel form epoch)
  | .readAxisRecord _ _ axis => some (.readAxisRecord axis)
  | .configureAxis _ _ axis record => some (.configureAxis axis record)
  | .bind _ _ axis channel => some (.bind axis channel)
  | .unbind _ _ axis => some (.unbind axis)
  | .lockSafety _ _ axis => some (.lockSafety axis)
  | .readAxisState _ _ axis => some (.readAxisState axis)
  | .enable _ _ axis => some (.enable axis)
  | .disable _ _ axis => some (.disable axis)
  | .declareReference _ _ axis hi lo => some (.declareReference axis hi lo)
  | .slew _ _ axis form value => some (.slew axis form value)
  | .track _ _ axis => some (.track axis)
  | .stop _ _ axis => some (.stop axis)
  | .home _ _ axis => some (.home axis)
  | .clearFault _ _ axis => some (.clearFault axis)
  | .readGroup _ _ group => some (.readGroup group)
  | .coordinatedSlew _ _ group entries => some (.coordinatedSlew group entries)
  | .stageGroup _ _ group epoch => some (.stageGroup group epoch)
  | .trackGroup _ _ group => some (.trackGroup group)
  | .stopGroup _ _ group => some (.stopGroup group)
  | .readGroupMotion _ _ group => some (.readGroupMotion group)
  | .readClaims _ _ => some .readClaims
  | .claim _ _ resource wait preempt lease => some (.claim resource wait preempt lease)
  | .renew _ _ resource => some (.renew resource)
  | .release _ _ resource => some (.release resource)
  | .withdraw _ _ resource => some (.withdraw resource)
  | .openProgram _ _ program requirement => some (.openProgram program requirement)
  | .appendCues _ _ program cues => some (.appendCues program cues)
  | .closeProgram _ _ program => some (.closeProgram program)
  | .eraseProgram _ _ program => some (.eraseProgram program)
  | .readProgram _ _ program index => some (.readProgram program index)
  | .runProgram _ _ program => some (.runProgram program)
  | .stopRunner _ _ => some .stopRunner
  | .resume _ _ => some .resume
  | .leaveLoop _ _ => some .leaveLoop
  | .readRunner _ _ runner => some (.readRunner runner)
  | .setLink _ _ link onOff source dest => some (.setLink link onOff source dest)
  | .setLinkEnable _ _ link onOff => some (.setLinkEnable link onOff)
  | .readLink _ _ link => some (.readLink link)
  | .setTriggerFilter _ _ input length => some (.setTriggerFilter input length)
  | .readLines _ _ => some .readLines
  | .readCapture _ _ => some .readCapture
  | .readDrivePower _ _ => some .readDrivePower
  | .setReturnPolicy _ _ policy => some (.setReturnPolicy policy)
  | .fetchNotices _ _ => some .fetchNotices
  | .setNoticeMask _ _ mask => some (.setNoticeMask mask)
  | .setNoticeRouting _ _ kind form ports => some (.setNoticeRouting kind form ports)
  | .readNoticeRouting _ _ => some .readNoticeRouting
  | .setReportRate _ _ k => some (.setReportRate k)
  | _ => none

/-- A frame's payload has at most the 255 bytes its length byte can count. -/
def Instr.frameFits : Instr → Bool
  | .frameReceived _ _ _ payload _ => decide (payload.length ≤ 255)
  | _ => true

/-- A well-formed command. -/
def Instr.wf (i : Instr) : Bool :=
  match i.request with
  | some q => q.wf
  | none => i.frameFits

end Sys2Proof
end

