-- ==== Sys2Proof/Safety.lean ====
section
/-! DEFINITION. The laws the spec states of the part (01 R4, 02 R27, 03 R50, 04 R64 and R71, 06 R113, 07 R130, R132, R136,
R137 and R152, 08 R171, 09 R186); the words the statements use: a port that takes requests, a request answered, a part in which nothing
is about to follow; and the layouts of the replies. -/

namespace Sys2Proof

/-- The port and the tag of a request command. -/
def Instr.sender : Instr → Option (Port × Byte)
  | .identify p t => some (p, t)
  | .readStartRecord p t => some (p, t)
  | .readSnapshot p t => some (p, t)
  | .readPortStatus p t _ => some (p, t)
  | .haltAll p t => some (p, t)
  | .readClock p t => some (p, t)
  | .setRate p t _ _ => some (p, t)
  | .run p t => some (p, t)
  | .halt p t => some (p, t)
  | .setEpoch p t _ _ => some (p, t)
  | .setSettleTime p t _ => some (p, t)
  | .setGovernor p t _ => some (p, t)
  | .setTimebase p t _ => some (p, t)
  | .setSyncPeriod p t _ => some (p, t)
  | .setMark p t _ _ _ _ _ => some (p, t)
  | .readMark p t _ => some (p, t)
  | .appendSegments p t _ _ => some (p, t)
  | .insertSegment p t _ _ => some (p, t)
  | .deleteSpan p t _ _ _ => some (p, t)
  | .clearChannel p t _ => some (p, t)
  | .setChannelKind p t _ _ => some (p, t)
  | .setChannelEnable p t _ _ => some (p, t)
  | .readChannel p t _ => some (p, t)
  | .readSegment p t _ _ => some (p, t)
  | .readStore p t => some (p, t)
  | .queryAngle p t _ _ _ => some (p, t)
  | .readAxisRecord p t _ => some (p, t)
  | .configureAxis p t _ _ => some (p, t)
  | .bind p t _ _ => some (p, t)
  | .unbind p t _ => some (p, t)
  | .lockSafety p t _ => some (p, t)
  | .readAxisState p t _ => some (p, t)
  | .enable p t _ => some (p, t)
  | .disable p t _ => some (p, t)
  | .declareReference p t _ _ _ => some (p, t)
  | .slew p t _ _ _ => some (p, t)
  | .track p t _ => some (p, t)
  | .stop p t _ => some (p, t)
  | .home p t _ => some (p, t)
  | .clearFault p t _ => some (p, t)
  | .readGroup p t _ => some (p, t)
  | .coordinatedSlew p t _ _ => some (p, t)
  | .stageGroup p t _ _ => some (p, t)
  | .trackGroup p t _ => some (p, t)
  | .stopGroup p t _ => some (p, t)
  | .readGroupMotion p t _ => some (p, t)
  | .readClaims p t => some (p, t)
  | .claim p t _ _ _ _ => some (p, t)
  | .renew p t _ => some (p, t)
  | .release p t _ => some (p, t)
  | .withdraw p t _ => some (p, t)
  | .openProgram p t _ _ => some (p, t)
  | .appendCues p t _ _ => some (p, t)
  | .closeProgram p t _ => some (p, t)
  | .eraseProgram p t _ => some (p, t)
  | .readProgram p t _ _ => some (p, t)
  | .runProgram p t _ => some (p, t)
  | .stopRunner p t => some (p, t)
  | .resume p t => some (p, t)
  | .leaveLoop p t => some (p, t)
  | .readRunner p t _ => some (p, t)
  | .setLink p t _ _ _ _ => some (p, t)
  | .setLinkEnable p t _ _ => some (p, t)
  | .readLink p t _ => some (p, t)
  | .setTriggerFilter p t _ _ => some (p, t)
  | .readLines p t => some (p, t)
  | .readCapture p t => some (p, t)
  | .readDrivePower p t => some (p, t)
  | .setReturnPolicy p t _ => some (p, t)
  | .fetchNotices p t => some (p, t)
  | .setNoticeMask p t _ => some (p, t)
  | .setNoticeRouting p t _ _ _ => some (p, t)
  | .readNoticeRouting p t => some (p, t)
  | .setReportRate p t _ => some (p, t)
  | _ => none

/-- The commands that act in a part held in reset (11 R211): the resets, START and a sample of RESET. -/
def Instr.startsPart : Instr → Bool
  | .powerOnReset => true
  | .lineReset => true
  | .start _ _ => true
  | .inputSample .reset _ => true
  | _ => false

/-- The requests that need SKY whatever their fields are (06 Table 6-1). -/
def Request.needsSky : Request → Bool
  | .setRate _ _ | .run | .halt | .setEpoch _ _ | .setSettleTime _ | .setGovernor _ | .setTimebase _ | .setSyncPeriod _
  | .setMark _ _ _ _ _ | .appendSegments _ _ | .insertSegment _ _ | .deleteSpan _ _ _ | .clearChannel _
  | .setChannelKind _ _ | .setChannelEnable _ _ | .setLink _ _ _ _ | .setLinkEnable _ _ | .setTriggerFilter _ _
  | .setReturnPolicy _ | .setNoticeRouting _ _ _ => true
  | _ => false

/-- The axis number of the requests that need the claim of an axis's group (06 Table 6-1). -/
def Request.ofAxis : Request → Option Nat
  | .configureAxis a _ => some a
  | .unbind a => some a
  | .lockSafety a => some a
  | .enable a => some a
  | .disable a => some a
  | .declareReference a _ _ => some a
  | .slew a _ _ => some a
  | .track a => some a
  | .stop a => some a
  | .home a => some a
  | .clearFault a => some a
  | _ => none

/-- The motion requests of one axis that a held part refuses (04 R68). -/
def Request.movesAxis : Request → Option Nat
  | .enable a => some a
  | .disable a => some a
  | .declareReference a _ _ => some a
  | .slew a _ _ => some a
  | .track a => some a
  | .stop a => some a
  | .home a => some a
  | _ => none

/-- The group number of the group motion requests (04 R68, R86). -/
def Request.ofGroup : Request → Option Nat
  | .coordinatedSlew g _ => some g
  | .stageGroup g _ => some g
  | .trackGroup g => some g
  | .stopGroup g => some g
  | _ => none

/-- The own ranges of Table 3-1, field by field, in the encoding of Table 10-11; field 15 and field 25 have none of their own. -/
def RawRecord.inRange (r : RawRecord) : Nat → Prop
  | 1 => r.kind ≤ 1
  | 2 => 200 ≤ r.stepsPerTurn ∧ r.stepsPerTurn ≤ 16777216
  | 3 => r.softPresence ≤ 1
  | 4 => 1 ≤ r.velocity ∧ r.velocity ≤ 250000
  | 5 => 10 ≤ r.acceleration ∧ r.acceleration ≤ 5000000
  | 6 => r.haltDecel ≤ 5000000
  | 7 => 10 ≤ r.stopDecel ∧ r.stopDecel ≤ 5000000
  | 8 => 1 ≤ r.lagLimit ∧ r.lagLimit ≤ 1000000
  | 9 => r.settleTolerance ≤ 65535
  | 10 => r.homeMethod ≤ 1
  | 11 => r.homeDirection ≤ 1
  | 12 => 1 ≤ r.homeSpeed
  | 13 => r.homeEdge ≤ 1
  | 14 => r.homeFilter ∈ [0, 4, 8, 16]
  | 16 => 1 ≤ r.searchDistance ∧ r.searchDistance ≤ 2147483648
  | 17 => r.clearPolicy ≤ 1
  | 18 => r.keepPosition ≤ 1
  | 19 => 2 ≤ r.pulseWidth ∧ r.pulseWidth ≤ 20
  | 20 => 10 ≤ r.reversalPause ∧ r.reversalPause ≤ 1000
  | 21 => r.dirPolarity ≤ 1
  | 22 => r.group ≤ 7
  | 23 => r.wrapPolicy ∈ [0, 1, 2, 255]
  | 24 => r.binding ≤ 11 ∨ r.binding = 255
  | 26 => r.sense ≤ 1
  | _ => True

/-- The seven agreements of R50 in their order; kind 1 is LIMITED, and an absent value is coded 0 or 255. -/
def RawRecord.agrees (r : RawRecord) : Nat → Prop
  | 1 => if r.kind = 1 then r.softPresence = 1 ∧ r.softMin < r.softMax else r.softPresence ≠ 1
  | 2 => r.haltDecel = 0 ∨ r.acceleration ≤ r.haltDecel
  | 3 => r.homeSpeed ≤ r.velocity
  | 4 => if r.kind = 1 then r.softMin ≤ r.homeOffset.toInt ∧ r.homeOffset.toInt ≤ r.softMax
      else r.homeOffset.toNat < r.stepsPerTurn
  | 5 => r.velocity * 2 * r.pulseWidth ≤ 1000000
  | 6 => if r.kind = 1 then r.wrapPolicy = 255 else r.wrapPolicy ≠ 255
  | 7 => r.kind = 1 ∨ r.zeroOffset.toNat < r.stepsPerTurn
  | _ => True

/-- A cue well formed (R135, R200): its kind and trigger known, its target kind the one its kind requires, its length that of
Table 10-7, a known SLEW form or OUTPUT action, and 1 to 16 entries of a SLEW with a group. -/
def RawCue.formed (r : RawCue) : Prop :=
  r.kind ≤ 13 ∧ r.trigger ≤ 5 ∧ r.length = 13 + r.params.length ∧
    match r.kind with
    | 0 => r.targetKind = 0 ∧ r.params.length = 9
    | 1 => r.targetKind = 0 ∧ r.params.length = 8
    | 4 => r.targetKind = 1 ∧ r.params.length = 1
    | 5 => r.targetKind = 2 ∧ r.params.length = 0
    | 6 => r.targetKind = 2 ∧ r.params.length = 0
    | 7 => (r.targetKind = 1 ∧ r.params.length = 8 ∧ (r.params[0]?.getD 0).toNat ≤ 1) ∨
        (r.targetKind = 2 ∧ r.params.length = 1 + 5 * (r.params[0]?.getD 0).toNat ∧ 1 ≤ (r.params[0]?.getD 0).toNat ∧
          (r.params[0]?.getD 0).toNat ≤ 16)
    | 8 => r.targetKind = 2 ∧ r.params.length = 7
    | 9 => r.targetKind = 3 ∧ r.params.length = 3 ∧ (r.params[0]?.getD 0).toNat ≤ 2
    | 11 => r.targetKind = 0 ∧ r.params.length = 2
    | _ => r.targetKind = 0 ∧ r.params.length = 0

/-- The whole frame that carries a request: its tag, its code, its payload and the right CRC (10 R191, R201). -/
def Request.asFrame (q : Request) (p : Port) (tag : Byte) : Instr :=
  .frameReceived p tag (Machine.requestByte q) (Machine.encodeRequest q)
    (Machine.crcOf (BitVec.ofNat 8 (Machine.encodeRequest q).length :: tag :: Machine.requestByte q :: Machine.encodeRequest q))

/-- The action of a well-formed cue: each parameter of Table 10-7 read from its own bytes. -/
def RawCue.means (r : RawCue) : Machine.CueAction :=
  let nat (i n : Nat) : Nat := Machine.natOf ((r.params.drop i).take n)
  match r.kind with
  | 0 => .setRate (Machine.intOf (r.params.take 5)) (nat 5 4)
  | 1 => .jump (Machine.intOf (r.params.take 7)) (nat 7 1)
  | 2 => .runClock
  | 3 => .haltClock
  | 4 => .bind (nat 0 1)
  | 5 => .trackGroup
  | 6 => .stopGroup
  | 7 =>
    if r.targetKind = 1 then .slewAxis (nat 0 1) (BitVec.ofNat 56 (nat 1 7))
    else .slewGroup ((List.range (nat 0 1)).map fun i => (nat (1 + 5 * i) 1, BitVec.ofNat 32 (nat (2 + 5 * i) 4)))
  | 8 => .stageGroup (Machine.intOf (r.params.take 7))
  | 9 => .output (nat 0 1) (nat 1 2)
  | 10 => .note
  | 11 => .loopOpen (nat 0 2)
  | 12 => .loopClose
  | _ => .endProgram

namespace Machine

/-- A source as its bytes name it (Table 8-2; its form byte by log 14): a CLOCK source carries no index. -/
def Source.sentAs (x : Source) (r : RawSource) : Prop :=
  match x with
  | .mark m => r.form = 0 ∧ r.index = m.val
  | .trig t e => r.form = 1 ∧ r.index = t.val ∧ r.edge = e.code
  | .axisArrived a => r.form = 2 ∧ r.index = a.val
  | .axisHomed a => r.form = 3 ∧ r.index = a.val
  | .axisFault a => r.form = 4 ∧ r.index = a.val
  | .groupArrived g => r.form = 5 ∧ r.index = g.val
  | .runnerNote q => r.form = 6 ∧ r.index = encPort q
  | .clockSettled => r.form = 7 ∧ r.index = 0 ∧ r.edge = 0
  | .timebaseLost => r.form = 8 ∧ r.index = 0 ∧ r.edge = 0
  | .clockRange => r.form = 9 ∧ r.index = 0 ∧ r.edge = 0

/-- A destination as its bytes name it (Table 8-3; its form byte by log 14). -/
def Dest.sentAs (x : Dest) (r : RawDest) : Prop :=
  match x with
  | .runnerLink q => r.form = 0 ∧ r.index = encPort q
  | .runnerStart q i => r.form = 1 ∧ r.index = encPort q ∧ r.param = i.val
  | .outputPulse o w => r.form = 2 ∧ r.index = o.val ∧ r.param = w ∧ 1 ≤ w ∧ w ≤ 1000
  | .outputSet o => r.form = 3 ∧ r.index = o.val
  | .outputClear o => r.form = 4 ∧ r.index = o.val
  | .capture => r.form = 5 ∧ r.index = 0 ∧ r.param = 0
  | .clockHalt => r.form = 6 ∧ r.index = 0 ∧ r.param = 0

/-! ## Words of the statements -/

/-- The part runs and the port has no request outstanding: the next frame passed is taken (10 R194). -/
def State.ready (s : State) (p : Port) : Prop := s.phase = .running ∧ (s.port p).request = .ready

/-- A taken request that has been answered: the port is OUTSTANDING for it, and the reply with its tag and code stands in
the reply slot (10 R194, R196, R197). Nothing else of the part differs from `s`. -/
def State.replied (s : State) (p : Port) (tag : Byte) (code : Nat) (r : Reply) : State :=
  s.modPort p fun q =>
    { q with request := .outstanding tag (BitVec.ofNat 8 code), reply := some (r.frame tag (BitVec.ofNat 8 code)) }

/-- An answer OK with data (10 R196): detail 255. -/
def Reply.okData (data : List Byte) : Reply := ⟨.ok, 255, data⟩
/-- An answer OK without data. -/
def Reply.done : Reply := ⟨.ok, 255, []⟩
/-- A refusal that names no item. -/
def Reply.no (st : Status) : Reply := ⟨st, 255, []⟩

/-- Nothing is about to follow: no signal waits, no runner waits for a group that stands settled, and no axis in a moving
state is at rest. -/
def State.Quiet (s : State) : Prop :=
  s.signals = [] ∧ s.settledRunners = [] ∧ ∀ a : AxisId, (s.axis a).state.moving = true → 0 < (s.axis a).speedSq

/-- The command answers a next state: `t`, from which everything the command set off is then taken; where nothing was about
to follow, nothing follows, and `t` itself is the next state. -/
def Answers (i : Instr) (s t : State) : Prop := exec i s = .next t.drain ∧ (s.Quiet → exec i s = .next t)

/-- Two axes differ in their stage pending and its outcome alone. -/
def Axis.sameButStage (x y : Axis) : Prop := y = { x with stage := y.stage, lastStage := y.lastStage }

/-- The state a resume-to names (R13). -/
def ResumeTo.state : ResumeTo → ClockState
  | .running => .running
  | .halted => .halted

/-- What the axes make of a jump (R3, R75, R77): each axis in TRACKING acquires afresh, its evaluation in flight is to be
discarded, and it asks for its channel's angle at the new epoch; the others do not change. The announcement goes to the runners
that wait on AT_EPOCH. -/
def State.hearsJump (s t : State) (e : Int) : Prop :=
  .epoch e s.epochWaiters ∈ t.signals ∧
  (∀ a, (s.axis a).state ≠ .tracking → t.axis a = s.axis a) ∧
  ∀ a, (s.axis a).state = .tracking →
    t.axis a = { s.axis a with
      tracking := (s.axis a).tracking.map fun r => { r with acquire := true, settled := false }
      discard := (s.axis a).discard || ((s.axis a).record.binding.isSome && s.axisInFlight a) } ∧
    ∀ c, (s.axis a).record.binding = some c → ∃ f ∈ t.evals, f.who = .axis a .track ∧ f.channel = c ∧ f.epoch = some e

/-- The form of an offered segment (R28): its curvature flag and its span. -/
def formedSegment (r : RawSegment) : Prop := r.flag ≤ 1 ∧ 1 ≤ r.span ∧ r.span ≤ 2 ^ 42

/-- The bounds of an offered segment (R28): start, end, greatest rate and greatest angle over its span. -/
def boundedSegment (r : RawSegment) : Prop :=
  -(2 ^ 50) ≤ r.start ∧ r.start < 2 ^ 50 ∧ r.start + r.span ≤ 2 ^ 50 ∧
    (r.a1.natAbs : Int) * 2 ^ 16 * 88473600 + 2 * (if r.flag = 1 then (r.a2.natAbs : Int) else 0) * r.span <
      2 ^ 31 * 2 ^ 48 * 88473600 ∧
    (r.a1.natAbs : Int) * r.span * 2 ^ 16 * 88473600 + (if r.flag = 1 then (r.a2.natAbs : Int) else 0) * r.span * r.span <
      2 ^ 47 * 2 ^ 48 * (88473600 * 88473600)

/-- Where the list of an append stands before its place `i`: the end of the segment before it, in the list or in the
channel; `none` where nothing stands there (R30). -/
def endBefore (c : Channel) (rs : List RawSegment) : Nat → Option Int
  | 0 => c.segments.getLast?.map fun g => g.start + g.span
  | i + 1 => (rs[i]?).map fun r => r.start + r.span

/-- The segment at place `i` starts at or after the end of the one before it (R30). -/
def placedAt (c : Channel) (rs : List RawSegment) (i : Nat) : Prop :=
  ∀ r x, rs[i]? = some r → endBefore c rs i = some x → x ≤ r.start

/-- The rest state a STOPPING axis takes at rest (R76), as an axis state. -/
def RestState.state : RestState → AxisState
  | .standing => .standing
  | .unreferenced => .unreferenced

/-- The target an absolute position names (R71): that position of a LIMITED axis; of a CONTINUOUS one the position of that place
within the turn which the wrap policy picks. -/
def Axis.names (x : Axis) (raw : BitVec 32) (k : Int) : Prop :=
  match x.record.kind with
  | .limited => k = raw.toInt
  | .continuous =>
    raw.toNat < x.record.stepsPerTurn ∧ (k - raw.toNat).emod x.record.stepsPerTurn = 0 ∧
      match x.record.wrap.getD .shortest with
      | .shortest =>
        2 * (k - x.extended) ≤ x.record.stepsPerTurn ∧ -(x.record.stepsPerTurn : Int) < 2 * (k - x.extended)
      | .positive => x.extended ≤ k ∧ k < x.extended + x.record.stepsPerTurn
      | .negative => x.extended - x.record.stepsPerTurn < k ∧ k ≤ x.extended

/-- A target no slew may take (R71, R94): outside the soft limits of a LIMITED axis, or beyond the position toward an active
remembered limit. -/
def Axis.barred (x : Axis) (k : Int) : Prop :=
  (x.record.kind = .limited ∧ ∃ l h, x.record.soft = some (l, h) ∧ (k < l ∨ h < k)) ∨
    (x.limitMemory = some .plus ∧ x.limP.accepted = true ∧ x.extended < k) ∨
    (x.limitMemory = some .minus ∧ x.limN.accepted = true ∧ k < x.extended)

/-- An entry of a Coordinated Slew that does not fit its list (R87): it names no axis of the group or one an entry before it
names, or its position does not lie within the turn. -/
def State.misfits (s : State) (g : GroupId) (before : List (Nat × BitVec 32)) (e : Nat × BitVec 32) : Prop :=
  (∀ a : AxisId, a.val = e.1 → (s.axis a).record.group ≠ g) ∨ e.1 ∈ before.map Prod.fst ∨
    ∃ a : AxisId, a.val = e.1 ∧ (s.axis a).record.kind = .continuous ∧ (s.axis a).record.stepsPerTurn ≤ e.2.toNat

/-- A runner that a halt or a loss of drive power reaches (R156). -/
def Runner.haltedTo (x y : Runner) : Prop :=
  (x.state ∈ [.waitingTrigger, .waitingCompletion] →
    y = { x with state := .suspended .halt, delay := none, loopPause := none, completions := [] }) ∧
  (x.state ∉ [.waitingTrigger, .waitingCompletion] → y = x)

/-- An axis that a halt reaches (Table 9-4, R180). -/
def Axis.haltedTo (x y : Axis) : Prop :=
  y.position = x.position ∧ y.known = x.known ∧ y.record = x.record ∧
    (∀ rest : RestState, x.state ∈ [.homing, .slewing, .tracking] → (x.state = .homing → rest = .unreferenced) →
      (x.state ≠ .homing → rest = .standing) →
      y.target = none ∧ y.tracking = none ∧ y.homing = none ∧
        (x.record.haltDecel = none ∨ x.speedSq = 0 → y.state = rest.state ∧ y.speedSq = 0 ∧ y.direction = none) ∧
        (∀ k, x.record.haltDecel = some k → x.speedSq ≠ 0 →
          y.state = .stopping ∧ y.stopping = some ⟨some k, rest⟩ ∧ y.speedSq = x.speedSq ∧ y.direction = x.direction)) ∧
    (∀ k rest, x.state = .stopping → x.stopping = some ⟨k, rest⟩ →
      (k = none ∨ x.record.haltDecel = none → y.state = rest.state ∧ y.speedSq = 0 ∧ y.direction = none) ∧
      (∀ i j, k = some i → x.record.haltDecel = some j →
        y.state = .stopping ∧ y.stopping = some ⟨some (max i j), rest⟩ ∧ y.speedSq = x.speedSq)) ∧
    (x.state = .standing → y.state = .standing) ∧
    (x.state ∈ [.homing, .slewing, .tracking, .stopping, .standing] →
      y.stage = none ∧ y.lastStage = if x.stage = none then x.lastStage else .ended) ∧
    (x.state ∉ [.homing, .slewing, .tracking, .stopping] → y.state = x.state ∧ y.speedSq = x.speedSq ∧ y.fault = x.fault)

/-- One halt (R86, R180, R181): the clock HALTED with reason HALT_LINE and its sky kept, every axis and every runner as the halt
reaches it, each member halted with a part in a group motion ENDED and the record FAILED, a return sequence abandoned; claims,
channels, links, outputs and captures stand. -/
def State.haltedTo (s t : State) : Prop :=
  t.clock.state = .halted ∧ t.clock.reason = .haltLine ∧ t.clock.roll = [] ∧ t.clock.settleTimer = none ∧
    t.clock.epoch = s.clock.epoch ∧ t.clock.residue = s.clock.residue ∧ t.clock.scheduled = s.clock.scheduled ∧
    t.clock.commanded = s.clock.commanded ∧ t.clock.ramp = s.clock.ramp ∧ (∀ a, (s.axis a).haltedTo (t.axis a)) ∧
    (∀ r, (s.runner r).haltedTo (t.runner r)) ∧ t.power.sequence = none ∧
    (s.power.sequence ≠ none →
      t.power.outcome = .abandoned ∧ t.clock.wasRunning = false ∧ ∀ a, (t.axis a).resumeMark = false) ∧
    (∀ (g : GroupId) (m : GroupMotion) (z : Member), s.motions[g] = some m → m.state ∈ [.evaluating, .moving] → z ∈ m.members →
      z.outcome ∈ [.evaluating, .ready, .moving] →
      (s.axis z.axis).state ∈ [.homing, .slewing, .tracking, .stopping, .standing] →
      ∃ n y, t.motions[g] = some n ∧ n.state = .failed ∧ n.cause = some .memberEnded ∧ y ∈ n.members ∧ y.axis = z.axis ∧
        y.outcome = .ended) ∧
    t.claims = s.claims ∧ t.channels = s.channels ∧
    t.links = s.links ∧ t.outputs = s.outputs ∧ t.captures = s.captures

/-- What a homing that ends other than by completion makes of a return sequence (R187): one of its members still in HOMING abandons
it, and the resume is dropped, with RESUME_ABANDONED for the axis; any other axis leaves it. -/
def State.homingEnds (s t : State) (a : AxisId) : Prop :=
  ∀ q, s.power.sequence = some q →
    ((a, false) ∉ q.members → t.power.sequence = some q) ∧
    ((a, false) ∈ q.members →
      t.power.sequence = none ∧ t.power.outcome = .abandoned ∧ t.clock.wasRunning = false ∧
        (∀ b, (t.axis b).resumeMark = false) ∧
        ∀ p ∈ s.routedPorts .resumeAbandoned .sky, ∃ e, (t.port p).notices[24] = some e ∧ e.subject = some a.val)

/-- From `s` to `t` the port has taken one notice of a kind (R204): its entry has the subject, and the count 1, or one more than it
had, up to 255. -/
def State.tells (s t : State) (q : Port) (k : NoticeKind) (subject : Option Nat) : Prop :=
  ∃ e : NoticeEntry, (t.port q).notices[k.idx] = some e ∧ e.subject = subject ∧
    ((s.port q).notices[k.idx] = none → e.count = 1) ∧
    ∀ d, (s.port q).notices[k.idx] = some d → e.count = min 255 (d.count + 1)

/-- The event and the notice AXIS_FAULT of an axis (R175, R176): the notice goes to the ports that its routing names for the axis's
group (R206). -/
def State.tellsFault (s t : State) (a : AxisId) : Prop :=
  .event (.axisFault a) none ∈ t.signals ∧
    ∀ q ∈ s.routedPorts .axisFault (.group (s.axis a).record.group), s.tells t q .axisFault (some a.val)

/-- Settling ends complete (R13): the event CLOCK_SETTLED, the completion of the settling that a runner may await, and the notice
CLOCK_SETTLED with no subject, which sets no timeout flag. -/
def State.saysSettled (s t : State) (serial : Nat) : Prop :=
  .event .clockSettled none ∈ t.signals ∧ .done (.settling serial) ∈ t.signals ∧
    ∀ q ∈ s.routedPorts .clockSettled .sky, s.tells t q .clockSettled none ∧
      ∀ e, (t.port q).notices[NoticeKind.clockSettled.idx] = some e →
        e.timeout = ((s.port q).notices[NoticeKind.clockSettled.idx].map NoticeEntry.timeout).getD false

/-- Settling completes (R13): the settle timer stops, the roll is empty, the clock enters resume-to, with epoch and halt reason as
they were, and says so. -/
def State.completesSettling (s t : State) : Prop :=
  t.clock.state = s.clock.resumeTo.state ∧ t.clock.settleTimer = none ∧ t.clock.roll = [] ∧
    t.clock.reason = s.clock.reason ∧ t.clock.epoch = s.clock.epoch ∧ s.saysSettled t s.clock.settleSerial

/-- An axis leaves the settle roll (R12): in SETTLING the others stay on it, and with the last one settling completes (R13); an axis
that is not on it leaves the clock as it stands. -/
def State.leavesRoll (s t : State) (a : AxisId) : Prop :=
  (s.clock.state = .settling → a ∈ s.clock.roll →
    ((∃ b ∈ s.clock.roll, b ≠ a) →
      t.clock.state = .settling ∧ t.clock.settleTimer = s.clock.settleTimer ∧
        ∀ b, b ∈ t.clock.roll ↔ b ∈ s.clock.roll ∧ b ≠ a) ∧
    ((∀ b ∈ s.clock.roll, b = a) → s.completesSettling t)) ∧
  (s.clock.state ≠ .settling ∨ a ∉ s.clock.roll →
    t.clock.state = s.clock.state ∧ t.clock.settleTimer = s.clock.settleTimer ∧ t.clock.roll = s.clock.roll)

/-- A tracking axis enters LAGGING (R82): the notice AXIS_LAGGING for its group, and with the governor enabled a lag excess (R17),
which halves the ceiling, or sets it at half the scheduled rate with GOVERNOR_ENGAGED, never below 1/256, and starts the quiet
timer. -/
def State.tellsLagging (s t : State) (a : AxisId) : Prop :=
  (∀ q ∈ s.routedPorts .axisLagging (s.groupOf a), s.tells t q .axisLagging (some a.val)) ∧
  (s.clock.governor = false → t.clock.ceiling = s.clock.ceiling ∧ t.clock.quiet = s.clock.quiet) ∧
  (s.clock.governor = true →
    t.clock.quiet = some 500 ∧ t.clock.ceiling = some (max 1 ((s.clock.ceiling.getD s.clock.scheduled.natAbs) / 2)) ∧
      (s.clock.ceiling = none →
        ∀ q ∈ s.routedPorts .governorEngaged .sky, s.tells t q .governorEngaged (some a.val)))

/-- A hard-limit stop (R93): FAULTED with HARD_LIMIT at the position it has, which stays as known as it was, the limit remembered
where it is known (R108), and every use of the axis dropped; an axis in TRACKING leaves the settle roll (R81). -/
def State.stopsAtLimit (s t : State) (a : AxisId) (side : LimitSide) : Prop :=
  (t.axis a).state = .faulted ∧
    (t.axis a).fault = { first := some .hardLimit, further := [], reversals := none, autoClear := none } ∧
    (t.axis a).speedSq = 0 ∧ (t.axis a).direction = none ∧ (t.axis a).position = (s.axis a).position ∧
    (t.axis a).known = (s.axis a).known ∧ (t.axis a).target = none ∧ (t.axis a).tracking = none ∧ (t.axis a).stage = none ∧
    ((s.axis a).known = true → (t.axis a).limitMemory = some side) ∧
    s.tellsFault t a ∧ ((s.axis a).state = .tracking → s.leavesRoll t a)

/-- A homing failure (R107): FAULTED with HOME_NOT_FOUND and the reversals of its search, at rest at position `q`, the homing record
gone and the limit memory as it stood; a return sequence of which the axis is a member is abandoned (R187). -/
def State.failsSearch (s t : State) (a : AxisId) (reversals : Nat) (q : Position) : Prop :=
  (t.axis a).state = .faulted ∧ (t.axis a).homing = none ∧ (t.axis a).speedSq = 0 ∧ (t.axis a).direction = none ∧
    (t.axis a).position = q ∧ (t.axis a).known = (s.axis a).known ∧ (t.axis a).limitMemory = (s.axis a).limitMemory ∧
    (t.axis a).fault = { first := some .homeNotFound, further := [], reversals := some reversals, autoClear := none } ∧
    s.homingEnds t a ∧ s.tellsFault t a

/-- What an axis in motion, or at rest in a moving state, would move toward in direction `d`: the target of a slew (R72), the
velocity goal of a tracking axis (R80), the search of a homing before its braking and before its edge (R100, R101). -/
def Axis.wishes (x : Axis) (ra : Int) (d : Dir) : Prop :=
  (∃ r, x.state = .slewing ∧ x.target = some r ∧ 0 < d.sign * x.difference r.position x.extended) ∨
    (x.state = .tracking ∧ 0 < d.sign * x.goal ra) ∨
    ∃ h, x.state = .homing ∧ x.homing = some h ∧ h.braking = false ∧ h.edge = none ∧
      ((h.phase = .seek ∧ d = h.direction) ∨ (h.phase = .clear ∧ d = h.direction.flip))

/-- A motion begins in direction `d` (R67): DIR takes the level that the polarity gives that direction, and the reversal pause of the
record runs exactly where this level is a new one. -/
def Axis.starts (x : Axis) (d : Dir) (y : Axis) : Prop :=
  y = { x with direction := some d, dirHigh := y.dirHigh, pause := y.pause } ∧
    (y.dirHigh = true ↔ (d = .plus ↔ x.record.inverted = false)) ∧ (y.dirHigh = x.dirHigh → y.pause = none) ∧
    (y.dirHigh ≠ x.dirHigh → y.pause = some x.record.reversalPause)

/-- The position one step on in direction `d` (R66): the turn count of a CONTINUOUS axis follows at the ends of the turn, 2^31 − 1
followed by −2^31 (R64); a LIMITED count that leaves its 32 bits is free (log 11). -/
def Axis.oneStepOn (x : Axis) (d : Dir) (q : Position) : Prop :=
  match x.record.kind with
  | .limited =>
    q.turn = x.position.turn ∧ -(2 ^ 31) ≤ q.within ∧ q.within < 2 ^ 31 ∧
      (-(2 ^ 31) ≤ x.position.within + d.sign → x.position.within + d.sign < 2 ^ 31 → q.within = x.position.within + d.sign)
  | .continuous =>
    (0 ≤ x.position.within + d.sign → x.position.within + d.sign < x.record.stepsPerTurn →
      q = { x.position with within := x.position.within + d.sign }) ∧
    (x.position.within + d.sign < 0 →
      q = ⟨if x.position.turn = -(2 ^ 31) then 2 ^ 31 - 1 else x.position.turn - 1, x.record.stepsPerTurn - 1⟩) ∧
    (0 ≤ x.position.within + d.sign → (x.record.stepsPerTurn : Int) ≤ x.position.within + d.sign →
      q = ⟨if x.position.turn = 2 ^ 31 - 1 then -(2 ^ 31) else x.position.turn + 1, 0⟩)

/-- A step in direction `d` as the filter of HOME counts it: since the captured position, while a run stands (R97, R102). -/
def HomeFilter.steppedTo (f : HomeFilter) (d : Dir) (g : HomeFilter) : Prop :=
  (f.run = 0 → g = f) ∧ (f.run ≠ 0 → d = .plus → g = { f with plusSteps := f.plusSteps + 1 }) ∧
    (f.run ≠ 0 → d = .minus → g = { f with minusSteps := f.minusSteps + 1 })

/-- A quantity goes from `v` to `w` toward a goal by at most `most`, and holds it once there. -/
def goesToward (v goal most w : Nat) : Prop := (v ≤ goal → w = min goal (v + most)) ∧ (goal < v → w = max goal (v - most))

/-- A group's record in progress gives way to a new one (R86): what awaits it learns that it failed, and the stage pending of every
member of one in EVALUATING ends ENDED, to be set anew on the axes staged again. -/
def State.supersedes (s t : State) (g : GroupId) (again : AxisId → Prop) : Prop :=
  ∀ m, s.motions[g] = some m → m.state ∈ [.evaluating, .moving] →
    .failed (.motion m.serial) ∈ t.signals ∧
    (m.state = .evaluating → ∀ y ∈ m.members, ∀ z, (s.axis y.axis).stage = some z → z.owner = .group g →
      (t.axis y.axis).lastStage = .ended ∧ (¬ again y.axis → (t.axis y.axis).stage = none))

/-- The stamp the counter gives at the value `n` (R27): the first value from `n` on, 2^32 − 1 followed by 0, that no stored segment
holds. -/
def State.givesStamp (s : State) (n k : Nat) : Prop :=
  ∃ j, k = (fun m => (m + 1) % 2 ^ 32)^[j] n ∧ s.stampUsed k = false ∧
    ∀ i, i < j → s.stampUsed ((fun m => (m + 1) % 2 ^ 32)^[i] n) = true

/-- The runner waits on the AT_EPOCH trigger of a cue (R143); during a loop pause it does not (R154). -/
def State.waitsAtEpoch (s : State) (r : Port) (c : Cue) : Prop :=
  (s.runner r).state = .waitingTrigger ∧ (s.runner r).loopPause = none ∧ (s.cuesOf r)[(s.runner r).cue]? = some c ∧
    c.trigger = .atEpoch

/-- The runner waits on the ON_SETTLED trigger of a cue (R144); during a loop pause it does not (R154). -/
def State.waitsSettled (s : State) (r : Port) (c : Cue) : Prop :=
  (s.runner r).state = .waitingTrigger ∧ (s.runner r).loopPause = none ∧ (s.cuesOf r)[(s.runner r).cue]? = some c ∧
    c.trigger = .onSettled

/-- The condition of AT_EPOCH at an epoch (R143). -/
def Cue.reachedAt (c : Cue) (e : Int) : Prop := if c.falling = true then e ≤ c.value.toInt else c.value.toInt ≤ e

/-- A trigger other than ON_LINK satisfied as it is entered (R142 to R144). -/
def State.metAtEntry (s : State) (c : Cue) : Prop :=
  match c.trigger with
  | .afterPrevious => True
  | .atEpoch => c.reachedAt s.clock.epoch
  | .onSettled =>
    ∃ g : GroupId, c.settledGroup = g.val ∧ s.clock.state ≠ .settling ∧
      ∀ a, (s.axis a).record.group = g → (s.axis a).state = .tracking → ∃ y, (s.axis a).tracking = some y ∧ y.settled = true
  | _ => False

/-- The program of a runner ends (R155): `w` is the runner at that moment. -/
def State.endsProgram (t : State) (r : Port) (w : Runner) : Prop :=
  t.runner r = { w with state := .idle, delay := none, loopPause := none, completions := [], loops := [] } ∧
    (∀ i, w.program = some i → (t.program i).inUse ≠ some r) ∧ ∃ n : NoticeEntry, (t.port r).notices[17] = some n

/-- A runner that performs a cue of its list and goes on (R147, R148, R155), for the cues END and NOTE, a NOTE before a DELAY. -/
def State.goesOn (t : State) (r : Port) (l : List Cue) (w : Runner) (c : Cue) : Prop :=
  (c.action = .endProgram → t.endsProgram r w) ∧
    ∀ c', c.action = .note → l[w.cue + 1]? = some c' → c'.trigger = .delay →
      t.runner r = { w with cue := w.cue + 1, delay := some c'.delayMs, completions := [] } ∧
        .event (.runnerNote r) none ∈ t.signals

/-- The entry of a trigger (R142 to R145, R155), from `s` to `t`: `w` is the runner as it stands at the cue, its waits clear. -/
def State.entersTrigger (s t : State) (r : Port) (l : List Cue) (w : Runner) : Prop :=
  (l.length ≤ w.cue → t.endsProgram r w) ∧
    ∀ c, l[w.cue]? = some c →
      (c.trigger = .delay → t.runner r = { w with delay := some c.delayMs }) ∧
      (c.trigger = .atEpoch ∨ c.trigger = .onSettled → ¬s.metAtEntry c → t.runner r = w) ∧
      (c.trigger = .onLink → c.fresh = true ∨ w.latch = false → t.runner r = { w with latch := false }) ∧
      (s.metAtEntry c → t.goesOn r l w c) ∧
      (c.trigger = .onLink → c.fresh = false → w.latch = true → t.goesOn r l { w with latch := false } c)

/-- The leases of a set of resources restart at their full length (R119), and the other claims stand. -/
def State.leasesRestart (s t : State) (set : BitVec 16) : Prop :=
  ∀ x : Resource, t.claim x = if set.getLsbD (resourceIdx x).val then { s.claim x with holder := (s.claim x).holder.map fun h =>
      { h with lease := h.lease.map fun l => { l with remaining := l.length * 1000 } } } else s.claim x

/-- Table 7-3, TARGET_RANGE passed: every axis, group, output and channel the cue names exists. -/
def Cue.targetsExist (c : Cue) : Prop :=
  match c.action with
  | .bind ch => c.target < 16 ∧ (ch < 12 ∨ ch = 255)
  | .slewAxis _ _ => c.target < 16
  | .slewGroup l => c.target < 8 ∧ ∀ e ∈ l, e.1 < 16
  | .trackGroup => c.target < 8
  | .stopGroup => c.target < 8
  | .stageGroup _ => c.target < 8
  | .output _ _ => c.target < 4
  | _ => True

/-- Table 7-3, PARAMETER_RANGE passed: the parameters within Table 7-5, the trigger value within Table 7-6. -/
def Cue.valuesInRange (c : Cue) : Prop :=
  (match c.action with
    | .setRate goal ramp => -17179869184 ≤ goal ∧ goal ≤ 17179869184 ∧ ramp ≤ 600000
    | .jump e mode => -(2 ^ 50) ≤ e ∧ e < 2 ^ 50 ∧ mode ≤ 1
    | .slewAxis form v => form = 0 ∨ (-(2 ^ 50) ≤ v.toInt ∧ v.toInt < 2 ^ 50)
    | .slewGroup l => (l.map Prod.fst).Nodup
    | .stageGroup e => -(2 ^ 50) ≤ e ∧ e < 2 ^ 50
    | .output action width => action = 2 → 1 ≤ width ∧ width ≤ 1000
    | _ => True) ∧
  match c.trigger with
  | .atEpoch => -(2 ^ 50) ≤ c.value.toInt ∧ c.value.toInt < 2 ^ 50
  | .delay => 1 ≤ c.value.toNat % 2 ^ 32 ∧ c.value.toNat % 2 ^ 32 ≤ 3600000
  | .onSettled => c.value.toNat % 256 < 8
  | _ => True

/-- The request a cue is performed as (Table 7-5, R148); OUTPUT, NOTE and the control cues have none. -/
def Cue.request (c : Cue) : Option Request :=
  match c.action with
  | .setRate goal ramp => some (.setRate goal ramp)
  | .jump e mode => some (.setEpoch e mode)
  | .runClock => some .run
  | .haltClock => some .halt
  | .bind ch => some (if ch = 255 then .unbind c.target else .bind c.target ch)
  | .trackGroup => some (.trackGroup c.target)
  | .stopGroup => some (.stopGroup c.target)
  | .slewAxis form value => some (.slew c.target form value)
  | .slewGroup entries => some (.coordinatedSlew c.target entries)
  | .stageGroup e => some (.stageGroup c.target e)
  | _ => none

/-- The completion set of a chain of cues from index `i` (R150): an entry for each awaited cue in list order. `v` gives the part as it
stands before each cue; an entry whose completion the chain itself brought about is COMPLETE at once. -/
def chainEntries (r : Port) (i : Nat) (chain : List Cue) (v : Nat → State) : List Completion :=
  chain.zipIdx.filterMap fun d =>
    if d.1.await then
      ((v d.2).perform r d.1).awaited.map fun w =>
        { cue := i + d.2, awaited := w, complete := decide (.done w ∈ (v chain.length).signals) }
    else none

/-- The resource a cue acts on (Table 7-5). -/
def State.cueActsOn (s : State) (c : Cue) (r : Resource) : Prop :=
  match c.action with
  | .setRate _ _ => r = .sky
  | .jump _ _ => r = .sky
  | .runClock => r = .sky
  | .haltClock => r = .sky
  | .bind _ => ∃ a : AxisId, a.val = c.target ∧ r = .group (s.axis a).record.group
  | .slewAxis _ _ => ∃ a : AxisId, a.val = c.target ∧ r = .group (s.axis a).record.group
  | .trackGroup => ∃ g : GroupId, g.val = c.target ∧ r = .group g
  | .stopGroup => ∃ g : GroupId, g.val = c.target ∧ r = .group g
  | .slewGroup _ => ∃ g : GroupId, g.val = c.target ∧ r = .group g
  | .stageGroup _ => ∃ g : GroupId, g.val = c.target ∧ r = .group g
  | _ => False

/-- The kinds with a completion (Table 7-5): a SETTLE jump, the slews and the stage. -/
def CueAction.hasCompletion : CueAction → Prop
  | .jump _ mode => mode = 0
  | .slewAxis _ _ => True
  | .slewGroup _ => True
  | .stageGroup _ => True
  | _ => False

/-- The loops open behind a list of cues (the note of Table 7-3). -/
def loopsOpen (l : List Cue) : Nat :=
  l.foldl (fun d c => match c.action with | .loopOpen _ => d + 1 | .loopClose => d - 1 | _ => d) 0

/-- The checks of Table 7-3 by position: the cue at place `j` of a list fails the check. -/
def State.cueFails (s : State) (requirement : BitVec 16) (l : List Cue) (j : Nat) (c : Cue) : Nat → Prop
  | 1 => c.trigger = .chained ∧
      (j = 0 ∨ c.action.control = true ∨ ∃ b, 0 < j ∧ l[j - 1]? = some b ∧ b.action.control = true)
  | 2 => ¬ c.targetsExist
  | 3 => ¬ c.valuesInRange
  | 4 => ∃ r, s.cueActsOn c r ∧ requirement.getLsbD (resourceIdx r).val = false
  | 5 => c.flags.getLsbD 0 = true ∧ ¬ c.action.hasCompletion
  | 6 => ∃ n, c.action = .loopOpen n ∧ 2 ≤ loopsOpen (l.take j)
  | 7 => (c.action = .loopClose ∧ loopsOpen (l.take j) = 0) ∨
      ((∃ n, c.action = .loopOpen n) ∧
        ¬ ∃ k b, j < k ∧ l[k]? = some b ∧ b.action = .loopClose ∧ loopsOpen (l.take k) = loopsOpen (l.take j) + 1)
  | _ => False

/-- The safety part of a record (R51). -/
def AxisRecord.safety (r : AxisRecord) : AxisKind × Nat × Option (Int × Int) × Nat × Nat × Option Nat :=
  (r.kind, r.stepsPerTurn, r.soft, r.velocity, r.acceleration, r.haltDecel)

/-- The record that an encoding within its ranges names, field by field (Table 3-1, Table 10-11): a position is signed for kind
LIMITED and unsigned for CONTINUOUS, and an absent value is coded 0 or 255. -/
def AxisRecord.written (r : AxisRecord) (raw : RawRecord) : Prop :=
  (raw.kind = 0 → r.kind = .continuous ∧ r.homeOffset = raw.homeOffset.toNat ∧ r.zeroOffset = raw.zeroOffset.toNat) ∧
    (raw.kind = 1 → r.kind = .limited ∧ r.homeOffset = raw.homeOffset.toInt ∧ r.zeroOffset = raw.zeroOffset.toInt) ∧
    r.stepsPerTurn = raw.stepsPerTurn ∧ (raw.softPresence = 0 → r.soft = none) ∧
    (raw.softPresence = 1 → r.soft = some (raw.softMin, raw.softMax)) ∧ r.velocity = raw.velocity ∧
    r.acceleration = raw.acceleration ∧ r.haltDecel = (if raw.haltDecel = 0 then none else some raw.haltDecel) ∧
    r.stopDecel = raw.stopDecel ∧ r.lagLimit = raw.lagLimit ∧ r.settleTolerance = raw.settleTolerance ∧
    (r.sensor = true ↔ raw.homeMethod = 1) ∧ r.homeDirection.code = raw.homeDirection ∧ r.homeSpeed = raw.homeSpeed ∧
    (r.homeRising = true ↔ raw.homeEdge = 0) ∧ r.homeFilter = raw.homeFilter ∧ r.searchDistance = raw.searchDistance ∧
    (r.auto = true ↔ raw.clearPolicy = 0) ∧ (r.keepPosition = true ↔ raw.keepPosition = 1) ∧
    r.pulseWidth = raw.pulseWidth ∧ r.reversalPause = raw.reversalPause ∧ (r.inverted = true ↔ raw.dirPolarity = 1) ∧
    r.group.val = raw.group ∧ (raw.wrapPolicy = 0 → r.wrap = some .shortest) ∧ (raw.wrapPolicy = 1 → r.wrap = some .positive) ∧
    (raw.wrapPolicy = 2 → r.wrap = some .negative) ∧ (raw.wrapPolicy = 255 → r.wrap = none) ∧
    (r.binding.map Fin.val).getD 255 = raw.binding ∧ r.sense.code = raw.sense

/-- The fields of the safety part agree from one record to another (R51), by their numbers in Table 3-1. -/
def AxisRecord.keeps (old new : AxisRecord) : Nat → Prop
  | 1 => new.kind = old.kind
  | 2 => new.stepsPerTurn = old.stepsPerTurn
  | 3 => new.soft = old.soft
  | 4 => new.velocity = old.velocity
  | 5 => new.acceleration = old.acceleration
  | 6 => new.haltDecel = old.haltDecel
  | _ => True

/-! ## Layouts of the replies (10 R193, R201, Tables 10-2, 10-8 and 10-11; what they leave open is log 14's) -/

/-- Items of so many bytes each as they stand in a payload: the most significant byte first, a negative number in two's
complement. -/
def laid (l : List (Nat × Int)) : List Byte :=
  l.flatMap fun x => (List.range x.1).reverse.map fun i => BitVec.ofInt 8 (x.2 / (256 ^ i : Nat))

def intItem (k : Nat) (i : Int) : Nat × Int := (k, i)
def natItem (k n : Nat) : Nat × Int := (k, (n : Int))
def flagItem (b : Bool) : Nat × Int := natItem 1 (if b then 1 else 0)
/-- A number whose absence is coded 255. -/
def indexItem (n : Option Nat) : Nat × Int := natItem 1 (n.getD 255)
def portItem (p : Port) : Nat × Int := natItem 1 (encPort p)
/-- A presence byte and an item of `k` bytes, which are 0 where it is absent. -/
def optItems {α : Type} (k : Nat) (f : α → List (Nat × Int)) : Option α → List (Nat × Int)
  | some x => natItem 1 1 :: f x
  | none => [natItem 1 0, (k, 0)]
/-- A count byte and the entries. -/
def listItems {α : Type} (f : α → List (Nat × Int)) (l : List α) : List (Nat × Int) := natItem 1 l.length :: l.flatMap f
def angleItems (a : Int) : List (Nat × Int) := [intItem 7 (a.fdiv (2 ^ 32)), intItem 4 (a.emod (2 ^ 32))]
def wordItems (w : Int × Int) : List (Nat × Int) := [intItem 4 w.1, intItem 4 w.2]
def portOptItems (p : Option Port) : List (Nat × Int) := optItems 1 (fun q => [portItem q]) p

/-- Table 1-1 as Read Clock gives it (R3). -/
def State.clockItems (s : State) : List (Nat × Int) :=
  [intItem 7 s.clock.epoch, intItem 5 s.clock.commanded, intItem 5 s.clock.scheduled] ++
    optItems 9 (fun r : Ramp => [intItem 5 r.goal, natItem 4 r.remaining]) s.clock.ramp ++
    [intItem 5 s.clock.ra, natItem 1 s.clock.state.code, natItem 1 s.clock.reason.code,
     natItem 1 (match s.clock.resumeTo with | .running => 0 | .halted => 1), natItem 2 s.clock.settleTime] ++
    optItems 4 (fun n : Nat => [natItem 4 n]) s.clock.settleTimer ++
    listItems (fun a : AxisId => [natItem 1 a.val]) (allAxes.filter fun a => decide (a ∈ s.clock.roll)) ++
    [flagItem s.clock.governor, natItem 5 (s.clock.ceiling.getD 0)] ++
    optItems 4 (fun n : Nat => [natItem 4 n]) s.clock.quiet ++
    [flagItem s.timebase.sync, natItem 1 s.timebase.state.code, natItem 4 s.timebase.nominal,
     natItem 4 ((2 * s.timebase.trimNum * 2 ^ 30 + s.timebase.trimDen) / (2 * s.timebase.trimDen)), natItem 1 s.timebase.good,
     natItem 1 s.timebase.bad, flagItem s.clock.wasRunning]

/-- Table 1-7 as Read Mark gives it (R24). -/
def Mark.items (m : Mark) : List (Nat × Int) :=
  [flagItem m.enabled, natItem 7 m.period.toNat, intItem 7 m.phase, natItem 1 m.direction.code, natItem 1 m.crossings] ++
    optItems 7 (fun e : Int => [intItem 7 e]) m.last

/-- Table 10-11. -/
def AxisRecord.items (r : AxisRecord) : List (Nat × Int) :=
  [natItem 1 (match r.kind with | .continuous => 0 | .limited => 1), natItem 4 r.stepsPerTurn] ++ optItems 8 wordItems r.soft ++
    [natItem 4 r.velocity, natItem 4 r.acceleration, natItem 4 (r.haltDecel.getD 0), natItem 4 r.stopDecel, natItem 4 r.lagLimit,
     natItem 2 r.settleTolerance, flagItem r.sensor, natItem 1 r.homeDirection.code, natItem 4 r.homeSpeed, flagItem (!r.homeRising),
     natItem 1 r.homeFilter, intItem 4 r.homeOffset, natItem 4 r.searchDistance, flagItem (!r.auto), flagItem r.keepPosition,
     natItem 1 r.pulseWidth, natItem 2 r.reversalPause, flagItem r.inverted, natItem 1 r.group.val,
     indexItem (r.wrap.map fun w => match w with | .shortest => 0 | .positive => 1 | .negative => 2),
     indexItem (r.binding.map Fin.val), intItem 4 r.zeroOffset, natItem 1 r.sense.code]

def Tracking.items (x : Axis) (t : Tracking) : List (Nat × Int) :=
  flagItem t.acquire :: optItems 7 (fun e : Int => [intItem 7 e]) t.lastEpoch ++ optItems 7 (fun n : Nat => [natItem 7 n]) x.lag ++
    [flagItem t.lagging, flagItem t.clamped, flagItem t.uncovered, flagItem t.settled]

def StagedAt.items (y : StagedAt) : List (Nat × Int) :=
  intItem 7 y.epoch :: angleItems y.angle ++ natItem 4 y.result.stamp :: angleItems y.result.raw ++
    angleItems y.result.reduced ++ [intItem 7 y.result.epoch]

def FaultRecord.items (f : FaultRecord) : List (Nat × Int) :=
  natItem 1 (match f.first with | some c => c.code | none => 0) ::
    listItems (fun c : FaultCause => [natItem 1 c.code]) f.further ++
    optItems 1 (fun n : Nat => [natItem 1 n]) f.reversals ++ optItems 4 (fun n : Nat => [natItem 4 n]) f.autoClear

def Homing.items (x : Axis) (h : Homing) : List (Nat × Int) :=
  [natItem 1 (match h.phase with | .clear => 0 | .seek => 1), natItem 1 h.direction.code, natItem 4 h.travel, natItem 1 h.reversals] ++
    optItems 8 (fun q : Position => wordItems (q.words x.record.kind)) h.edge ++
    [natItem 1 (match h.starter with | .request => 0 | .returnPolicy => 1)]

/-- Table 4-2 as Read Axis State gives it (R64, R96, R176). -/
def Axis.items (x : Axis) : List (Nat × Int) :=
  [natItem 1 x.state.code, flagItem x.known] ++ wordItems x.words ++
    [intItem 3 x.velocity, natItem 1 (match x.direction with | none => 0 | some .plus => 1 | some .minus => 2)] ++
    optItems 7 (fun t : Int => [intItem 7 t]) (x.tracking.elim (x.target.map Target.position) fun t => some t.target) ++
    optItems 5 (fun r : Stopping =>
      [natItem 4 (r.decel.getD 0), natItem 1 (match r.rest with | .standing => 0 | .unreferenced => 1)]) x.stopping ++
    optItems 21 (Tracking.items x) x.tracking ++
    optItems 9 (fun st : StagePending =>
      intItem 7 st.epoch ::
        match st.owner with | .single => [natItem 1 0, natItem 1 0] | .group g => [natItem 1 1, natItem 1 g.val]) x.stage ++
    natItem 1 x.lastStage.code :: optItems 51 StagedAt.items x.stagedAt ++
    [natItem 1 (match x.limitMemory with | none => 0 | some .plus => 1 | some .minus => 2), flagItem x.activeMemory.isSome,
     flagItem x.resumeMark] ++ x.fault.items ++ optItems 17 (Homing.items x) x.homing ++
    [flagItem x.home.accepted, flagItem x.flt.accepted]

def MemberOutcome.items (o : MemberOutcome) : List (Nat × Int) :=
  match o with
  | .passedOver r => [natItem 1 7, natItem 1 1, natItem 1 r.code]
  | o => [natItem 1 o.code, natItem 1 0, natItem 1 0]

/-- Table 4-5 as Read Group Motion gives it (R86). -/
def GroupMotion.items (m : GroupMotion) : List (Nat × Int) :=
  flagItem m.stageEpoch.isSome :: optItems 7 (fun e : Int => [intItem 7 e]) m.stageEpoch ++ natItem 1 m.state.code ::
    optItems 1 (fun c : EndCause => [natItem 1 c.code]) m.cause ++
    optItems 4 (fun ns : Nat => [natItem 4 (ns / 1000000)]) m.duration ++
    listItems (fun x : Member => natItem 1 x.axis.val :: optItems 7 (fun t : Int => [intItem 7 t]) x.target ++ x.outcome.items)
      m.members

def ClaimEntry.lengthItem (c : ClaimEntry) : Nat × Int := natItem 2 (((c.holder.bind Holder.lease).map Lease.length).getD 0)
def ClaimEntry.waitItems (c : ClaimEntry) : List (Nat × Int) :=
  listItems (fun w : Waiter => [portItem w.port, natItem 1 w.standing]) c.waiting

/-- Table 6-2 as Read Claims gives it (R113). -/
def ClaimEntry.items (c : ClaimEntry) : List (Nat × Int) :=
  optItems 2 (fun h : Holder => [portItem h.port, natItem 1 h.standing]) c.holder ++ c.lengthItem ::
    optItems 4 (fun l : Lease => [natItem 4 l.remaining]) (c.holder.bind Holder.lease) ++ c.waitItems

/-- An entry as a Claim leaves it (R115). -/
def ClaimEntry.claimedItems (r : Resource) (c : ClaimEntry) : List (Nat × Int) :=
  natItem 1 (resourceCode r) :: portOptItems (c.holder.map Holder.port) ++ c.lengthItem :: c.waitItems

/-- Table 7-7 as Read Runner gives it (R136): of the completion entries as many as the payload holds (log 15). -/
def Runner.items (s : State) (x : Runner) : List (Nat × Int) :=
  natItem 1 x.state.code ::
    (match x.state with
      | .waitingTrigger => [natItem 1 1, natItem 1 0, natItem 1 0, natItem 1 0, natItem 1 0, natItem 2 0]
      | .waitingCompletion => [natItem 1 1, natItem 1 1, natItem 1 0, natItem 1 0, natItem 1 0, natItem 2 0]
      | .suspended .claim => [natItem 1 0, natItem 1 0, natItem 1 1, natItem 1 0, natItem 1 0, natItem 2 0]
      | .suspended .halt => [natItem 1 0, natItem 1 0, natItem 1 1, natItem 1 1, natItem 1 0, natItem 2 0]
      | .faulted c i => [natItem 1 0, natItem 1 0, natItem 1 0, natItem 1 0, natItem 1 1, natItem 1 c.code, natItem 1 i]
      | .idle => [natItem 1 0, natItem 1 0, natItem 1 0, natItem 1 0, natItem 1 0, natItem 2 0]) ++
    [indexItem (x.program.map Fin.val), natItem 1 x.cue] ++ optItems 4 (fun n : Nat => [natItem 4 n]) x.loopPause ++
    optItems 4 (fun n : Nat => [natItem 4 n]) x.delay ++
    listItems (fun e : Completion => [natItem 1 e.cue, flagItem e.complete]) (x.completions.take 102) ++
    listItems (fun e : LoopEntry => [natItem 1 e.first, natItem 2 (e.remaining.getD 0), flagItem e.leave]) x.loops.reverse ++
    [flagItem x.latch, natItem 1 x.overruns] ++ portOptItems (x.program.bind fun i => (s.program i).inUse)

/-- Table 10-7. -/
def CueAction.items (a : CueAction) : List (Nat × Int) :=
  match a with
  | .setRate goal ramp => [intItem 5 goal, natItem 4 ramp]
  | .jump e mode => [intItem 7 e, natItem 1 mode]
  | .bind ch => [natItem 1 ch]
  | .slewAxis form value => [natItem 1 form, natItem 7 value.toNat]
  | .slewGroup l => listItems (fun e : Nat × BitVec 32 => [natItem 1 e.1, natItem 4 e.2.toNat]) l
  | .stageGroup e => [intItem 7 e]
  | .output action width => [natItem 1 action, natItem 2 width]
  | .loopOpen n => [natItem 2 n]
  | _ => []

/-- A cue behind its index, as Read Program gives it (R130, Table 10-6). -/
def Cue.items (i : Nat) (c : Cue) : List (Nat × Int) :=
  [natItem 1 i, natItem 1 (13 + (laid c.action.items).length), natItem 1 c.action.kindCode,
   natItem 1 c.trigger.code, natItem 1 c.flags.toNat, natItem 7 c.value.toNat, natItem 1 c.action.targetKind,
   natItem 1 c.target] ++ c.action.items

def Source.items (x : Source) : List (Nat × Int) :=
  match x with
  | .mark m => [natItem 1 0, natItem 2 m.val]
  | .trig t e => [natItem 1 1, natItem 1 t.val, natItem 1 e.code]
  | .axisArrived a => [natItem 1 2, natItem 2 a.val]
  | .axisHomed a => [natItem 1 3, natItem 2 a.val]
  | .axisFault a => [natItem 1 4, natItem 2 a.val]
  | .groupArrived g => [natItem 1 5, natItem 2 g.val]
  | .runnerNote r => [natItem 1 6, natItem 2 (encPort r)]
  | .clockSettled => [natItem 1 7, natItem 2 0]
  | .timebaseLost => [natItem 1 8, natItem 2 0]
  | .clockRange => [natItem 1 9, natItem 2 0]

def Dest.items (x : Dest) : List (Nat × Int) :=
  match x with
  | .runnerLink r => [natItem 1 0, natItem 5 (encPort r)]
  | .runnerStart r i => [natItem 1 1, natItem 4 (encPort r), natItem 1 i.val]
  | .outputPulse o w => [natItem 1 2, natItem 1 o.val, natItem 4 w]
  | .outputSet o => [natItem 1 3, natItem 5 o.val]
  | .outputClear o => [natItem 1 4, natItem 5 o.val]
  | .capture => [natItem 1 5, natItem 5 0]
  | .clockHalt => [natItem 1 6, natItem 5 0]

/-- Table 8-1 as Read Link gives it (R158). -/
def Link.items (x : Link) : List (Nat × Int) :=
  flagItem x.enabled :: optItems 3 Source.items x.source ++ optItems 6 Dest.items x.dest ++
    [natItem 1 x.arrivals, natItem 1 (match x.lastStart with | .none => 0 | .started => 1 | .refused st => st.code)]

/-- Table 8-6. -/
def Capture.items (c : Capture) : List (Nat × Int) :=
  [natItem 2 c.number, natItem 1 c.link.val] ++ c.source.items ++
    [intItem 7 c.snap.epoch, intItem 5 c.snap.ra, natItem 1 c.snap.state.code] ++ c.snap.positions.flatMap (optItems 8 wordItems)

/-- The start record (R212). -/
def StartRecord.items (r : StartRecord) : List (Nat × Int) :=
  [flagItem (!r.powerOn), flagItem r.drivePresent, flagItem r.halted, natItem 1 (r.standings.get .A),
   natItem 1 (r.standings.get .B), natItem 1 (r.standings.get .C), natItem 3 r.bitRate, flagItem r.rateNamed,
   flagItem r.sync] ++ listItems (fun a : AxisId => [natItem 1 a.val]) r.lockedKept

/-- An axis in a snapshot: a position absent where it is not known (Table 10-8). -/
def Axis.snapItems (x : Axis) : List (Nat × Int) :=
  let bit (b : Bool) (n : Int) : Int := if b then n else 0
  let track (f : Tracking → Bool) : Bool := (x.tracking.map f).getD false
  [natItem 1 x.state.code,
   intItem 1 (bit x.known 1 + bit x.locked 2 + bit (track Tracking.lagging) 4 + bit (track Tracking.clamped) 8 +
     bit (track Tracking.uncovered) 16 + bit (track Tracking.settled) 32 + bit x.resumeMark 64)] ++
    wordItems (if x.state = .unconfigured ∨ x.known = false then (0, 0) else x.words)

/-- Table 10-8. -/
def State.snapshotItems (s : State) (n : Nat) : List (Nat × Int) :=
  let bit (b : Bool) (n : Int) : Int := if b then n else 0
  [natItem 2 n, intItem 7 s.clock.epoch, intItem 5 s.clock.ra, intItem 5 s.clock.scheduled, natItem 1 s.clock.state.code,
   natItem 1 s.clock.reason.code, natItem 1 s.timebase.state.code, natItem 5 (s.clock.ceiling.getD 0),
   intItem 1 (bit s.power.halt.accepted 1 + bit (decide (s.power.state = .present)) 2 + bit s.faultOut 4)] ++
    allAxes.flatMap fun a => (s.axis a).snapItems

/-- The result of a Query Angle (R39, R44). -/
def InFlight.items (f : InFlight) : List (Nat × Int) :=
  [natItem 1 f.channel.val, intItem 7 f.epoch] ++
    match f.result with
    | .error r =>
      [natItem 1 1, natItem 1 1, natItem 1 r.code, natItem 2 0, natItem 5 0, natItem 12 0, natItem 12 0, natItem 9 0, natItem 2 0]
    | .ok c =>
      [natItem 1 0, natItem 2 0, natItem 1 1, natItem 1 c.index, natItem 1 1, natItem 4 c.stamp] ++ natItem 1 1 :: angleItems c.raw ++
        natItem 1 1 :: angleItems c.reduced ++ [natItem 1 1, intItem 8 c.rate, natItem 1 1, natItem 1 c.kind.code]

/-! ## Laws -/

/-- R50: a LIMITED record has soft limits, the lower below the upper; a CONTINUOUS one has none. -/
def AxisRecord.limitsLawful (r : AxisRecord) : Prop :=
  match r.kind with
  | .limited => ∃ l h, r.soft = some (l, h) ∧ l < h
  | .continuous => r.soft = none

/-- A target within the soft limits (R71). -/
def AxisRecord.allows (r : AxisRecord) (t : Int) : Prop := ∀ l h, r.soft = some (l, h) → l ≤ t ∧ t ≤ h

/-- R64: where the position of an axis may be unknown. -/
def Axis.mayBeUnknown (x : Axis) : Prop :=
  x.state ∈ [.unconfigured, .disabled, .unreferenced, .homing, .faulted] ∨
    (x.state = .stopping ∧ ∀ r, x.stopping = some r → r.rest = .unreferenced)

/-- R64, R71 and Table 4-2: a position unknown only where it may be, targets only in SLEWING and TRACKING, and all of them within
the soft limits. -/
def Axis.lawful (x : Axis) : Prop :=
  x.record.limitsLawful ∧ (x.known = false → x.mayBeUnknown) ∧ (x.state ≠ .slewing → x.target = none) ∧
    (x.state ≠ .tracking → x.tracking = none) ∧ (∀ t, x.target = some t → x.record.allows t.position) ∧
    (∀ t, x.tracking = some t → x.record.allows t.target)

/-- Every axis is lawful. -/
def State.axesLawful (s : State) : Prop := ∀ a : AxisId, (s.axis a).lawful

/-- R152: a loop stack of at most two entries. -/
def Runner.lawful (x : Runner) : Prop := x.loops.length ≤ 2

/-- R152 at every runner. -/
def State.loopsLawful (s : State) : Prop := ∀ r : Port, (s.runner r).lawful

/-- R137, R136: a runner in WAITING or SUSPENDED has its program in use, and the port of one in WAITING holds every resource of
the program's requirement set. -/
def State.runnerLawful (s : State) (r : Port) : Prop :=
  ((s.runner r).state.inProgram = true → ∃ i, (s.runner r).program = some i ∧ (s.program i).inUse = some r) ∧
    ((s.runner r).state.waiting = true →
      ∀ x : Resource, (s.requirement r).getLsbD (resourceIdx x).val = true → s.holderOf x = some r)

/-- R136 and R137 at every runner. -/
def State.runnersLawful (s : State) : Prop := ∀ r : Port, s.runnerLawful r

/-- R4, and the residue's range of Table 1-1. -/
def Clock.inRange (c : Clock) : Prop :=
  Config.epochMin ≤ c.epoch ∧ c.epoch ≤ Config.epochMax ∧ 0 ≤ c.residue ∧ c.residue < 125

/-- R113: at most two ports wait, never the holder and never one port twice, in falling standing; nobody waits for a free
resource. -/
def ClaimEntry.lawful (c : ClaimEntry) : Prop :=
  c.waiting.length ≤ 2 ∧ (c.waiting.map Waiter.port).Nodup ∧
    (∀ h, c.holder = some h → ∀ w ∈ c.waiting, w.port ≠ h.port) ∧
    c.waiting.Pairwise (fun x y => y.standing ≤ x.standing) ∧ (c.holder = none → c.waiting = [])

/-- R113 over the whole table. -/
def State.claimsLawful (s : State) : Prop := ∀ r : Resource, (s.claim r).lawful

/-- R171: the queue never holds more than four records. -/
def CaptureQueue.lawful (q : CaptureQueue) : Prop := q.records.length ≤ 4

/-- The cues stored in all programs. -/
def State.cueTotal (s : State) : Nat := (allPrograms.map fun i => (s.program i).cues.length).sum

/-- R130, R132: a program holds at most 128 cues, all together at most 256. -/
def State.cuesLawful (s : State) : Prop := (∀ i : ProgramId, (s.program i).cues.length ≤ 128) ∧ s.cueTotal ≤ 256

/-- R27: the segments of a channel stand in order of start, none overlapping the next. -/
def Channel.ordered (c : Channel) : Prop :=
  c.segments.Pairwise (fun x y => x.stop ≤ y.start) ∧ ∀ g ∈ c.segments, 0 < g.span

/-- The segments stored in all channels. -/
def State.segmentTotal (s : State) : Nat := (allChannels.map fun c => (s.channel c).segments.length).sum

/-- R27: a channel holds at most 255 segments in order, all together at most 1,024. -/
def State.segmentsLawful (s : State) : Prop :=
  (∀ c : ChannelId, (s.channel c).ordered ∧ (s.channel c).segments.length ≤ 255) ∧ s.segmentTotal ≤ 1024

/-- R186: a return sequence is in progress only while drive power is present; a loss ends it (R187). -/
def DrivePower.lawful (d : DrivePower) : Prop := d.sequence ≠ none → d.state = .present

/-- The laws of the part that its stores and tables keep. -/
def State.lawful (s : State) : Prop :=
  s.clock.inRange ∧ s.claimsLawful ∧ s.captures.lawful ∧ s.cuesLawful ∧ s.segmentsLawful ∧ s.power.lawful ∧
    s.axesLawful ∧ s.loopsLawful ∧ s.runnersLawful

end Machine

end Sys2Proof
end

