-- ==== Sys2Proof/Certificates/Slice0/Obligations.lean ====
section
/-! DEFINITION. The statements for the provers. In a statement about a request, the state answered is written as the request's
effect with the reply entered (`State.replied`, or `State.enterReply` where the effect itself reaches the ports). -/

section Statements

open Sys2Proof Sys2Proof.Machine

/-! ## The queue and the part as a whole -/

/-- A step runs the command at the front of the queue on the state with the queue's rest; on an empty queue the block idles
(the model's own: log 3). -/
def Obligations.StepRunsTheFrontCommand : Prop :=
  (∀ (c : Instr) (rest : List Instr) (s : State), s.pending = c :: rest → step s = exec c { s with pending := rest }) ∧
  ∀ s : State, s.pending = [] → step s = .next s

/-- Every command answers a next state, and leaves the queue as it stands; held in reset the part takes nothing but resets,
its start and the samples of RESET (R211; log 20). -/
def Obligations.EveryCommandAnswersANextState : Prop :=
  (∀ (c : Instr) (s : State), ∃ t, exec c s = .next t ∧ t.pending = s.pending) ∧
  ∀ (c : Instr) (s : State), s.phase ≠ .running → c.startsPart = false → exec c s = .next s

/-! ## The port protocol (chapter 10) -/

/-- R194, R197, R198: a request passed in OUTSTANDING is answered BUSY from the short slot, which adds to the BUSY count; where
that slot is full it is discarded, which the model adds to both the discarded frames and the short-slot discards (log 16). A
Halt All performs its halt all the same; its OK takes the place of a BUSY reply. The port stays OUTSTANDING. -/
def Obligations.OutstandingPortAnswersBusyButHalts : Prop :=
  (∀ (i : Instr) (q : Request) (p : Port) (tag tag' code' : Byte) (s : State),
    i.request = some q → i.sender = some (p, tag) → q ≠ .haltAll → s.phase = .running →
    (s.port p).request = .outstanding tag' code' →
    ((s.port p).short = none →
      Answers i s (s.modPort p fun x =>
        { x with short := some { tag := tag, code := requestByte q, payload := [3, 255] }, busyCount := sat255 x.busyCount })) ∧
    ∀ f, (s.port p).short = some f →
      Answers i s (s.modPort p fun x =>
        { x with discarded := sat255 x.discarded, shortDiscards := sat255 x.shortDiscards })) ∧
  ∀ (p : Port) (tag tag' code' : Byte) (s : State), s.phase = .running → (s.port p).request = .outstanding tag' code' →
    ((s.performHalt.port p).short = none →
      exec (.haltAll p tag) s = .next (s.performHalt.modPort p fun x =>
        { x with short := some { tag := tag, code := 5, payload := [0, 255] } }).drain) ∧
    (∀ f, (s.performHalt.port p).short = some f →
      exec (.haltAll p tag) s = .next (s.performHalt.modPort p fun x =>
        { x with discarded := sat255 x.discarded, shortDiscards := sat255 x.shortDiscards }).drain) ∧
    (s.performHalt.port p).request = .outstanding tag' code' ∧ (s.performHalt.port p).short = (s.port p).short

/-- R192, R195: a whole frame whose CRC or length is wrong is discarded and counted; one whose code names no request is
answered BAD_CODE; one whose payload has a length its code does not allow is answered BAD_VALUE with detail 254. The lengths are
those of the fields in their encodings (R201; log 14): fixed, or fixed by a count byte for segments, entries and cues. In
OUTSTANDING such a frame is answered BUSY (R197). -/
def Obligations.BadFramesAreDiscardedOrAnswered : Prop :=
  ∀ (p : Port) (tag code : Byte) (payload : List Byte) (crc : BitVec 16) (s : State), s.phase = .running →
    (240 < payload.length ∨ crcOf (BitVec.ofNat 8 payload.length :: tag :: code :: payload) ≠ crc →
      Answers (.frameReceived p tag code payload crc) s
        (s.modPort p fun x => { x with discarded := sat255 x.discarded, receiver := .hunt })) ∧
    (payload.length ≤ 240 → crcOf (BitVec.ofNat 8 payload.length :: tag :: code :: payload) = crc →
      (s.port p).request = .ready →
      (code.toNat ∉ [1, 2, 3, 4, 5, 16, 17, 18, 19, 20, 21, 22, 23, 24, 25, 26, 32, 33, 34, 35, 36, 37, 38, 39, 40, 41, 48, 49, 50,
          51, 52, 53, 54, 55, 56, 57, 58, 59, 60, 61, 64, 65, 66, 67, 68, 69, 80, 81, 82, 83, 84, 96, 97, 98, 99, 100, 112, 113,
          114, 115, 116, 128, 129, 130, 131, 132, 133, 144, 145, 160, 161, 162, 163, 164] →
        Answers (.frameReceived p tag code payload crc) s
          (s.modPort p fun x => { x with receiver := .hunt, request := .outstanding tag code,
                                         reply := some { tag := tag, code := code, payload := [4, 255] } })) ∧
      ((∃ n, (code.toNat, n) ∈ [(1, 0), (2, 0), (3, 0), (4, 1), (5, 0), (16, 0), (17, 9), (18, 0), (19, 0), (20, 8), (21, 2),
          (22, 1), (23, 1), (24, 4), (25, 17), (26, 1), (33, 33), (34, 15), (35, 1), (36, 2), (37, 2), (38, 1), (39, 2), (40, 0),
          (41, 9), (48, 1), (49, 67), (50, 2), (51, 1), (52, 1), (53, 1), (54, 1), (55, 1), (56, 9), (57, 9), (58, 1), (59, 1),
          (60, 1), (61, 1), (64, 1), (66, 8), (67, 1), (68, 1), (69, 1), (80, 0), (81, 5), (82, 1), (83, 1), (84, 1), (96, 3),
          (98, 1), (99, 1), (100, 2), (112, 1), (113, 0), (114, 0), (115, 0), (116, 1), (128, 11), (129, 2), (130, 1), (131, 2),
          (132, 0), (133, 0), (144, 0), (145, 1), (160, 0), (161, 4), (162, 3), (163, 0), (164, 2)] ∧ payload.length ≠ n) ∨
        (code.toNat = 32 ∧ payload.length ≠ 2 + 32 * (payload[1]?.getD 0).toNat) ∨
        (code.toNat = 65 ∧ payload.length ≠ 2 + 5 * (payload[1]?.getD 0).toNat) ∨
        (code.toNat = 97 ∧ (payload.length < 2 ∨ rawCues (payload[1]?.getD 0).toNat (payload.drop 2) = none)) →
        Answers (.frameReceived p tag code payload crc) s
          (s.modPort p fun x => { x with receiver := .hunt, request := .outstanding tag code,
                                         reply := some { tag := tag, code := code, payload := [5, 254] } }))) ∧
    (payload.length ≤ 240 → crcOf (BitVec.ofNat 8 payload.length :: tag :: code :: payload) = crc →
      (∀ q, decodeRequest code.toNat payload ≠ .request q) → (s.port p).request ≠ .ready → (s.port p).short = none →
        Answers (.frameReceived p tag code payload crc) s
          (s.modPort p fun x => { x with receiver := .hunt, short := some { tag := tag, code := code, payload := [3, 255] },
                                         busyCount := sat255 x.busyCount }))

/-- R192, R194, R195: a whole frame that carries a well-formed request completes. The receiver is in HUNT after it, and the frame
does what the request's command does (log 12). In READY the port becomes OUTSTANDING for the tag and code, the request takes its
effect, its reply, where it is answered at once, enters the reply slot, and what follows is taken. In OUTSTANDING the frame is
answered BUSY from a free short slot (R197), Halt All apart. -/
def Obligations.FrameOfARequestDoesWhatTheRequestDoes : Prop :=
  ∀ (q : Request) (p : Port) (tag : Byte) (s : State), q.wf = true → s.phase = .running →
    (∀ i : Instr, i.request = some q → i.sender = some (p, tag) → exec (q.asFrame p tag) s = exec i (s.setReceiver p .hunt)) ∧
    ((s.port p).request = .ready →
      exec (q.asFrame p tag) s = .next
        (match serve p q ((s.setReceiver p .hunt).modPort p fun x => { x with request := .outstanding tag (requestByte q) }) with
         | (t, some r) => t.modPort p fun x => { x with reply := some (r.frame tag (requestByte q)) }
         | (t, none) => t).drain) ∧
    ((s.port p).request ≠ .ready → q ≠ .haltAll → (s.port p).short = none →
      Answers (q.asFrame p tag) s (s.modPort p fun x =>
        { x with receiver := .hunt, short := some { tag := tag, code := requestByte q, payload := [3, 255] },
                 busyCount := sat255 x.busyCount }))

/-- Every field of every well-formed request survives its bytes: what the payload was written from is read back. The layout of
the fields that the tables leave open is the model's (log 14). -/
def Obligations.RequestsSurviveTheirBytes : Prop :=
  ∀ q : Request, q.wf = true →
    (encodeRequest q).length ≤ 240 ∧ decodeRequest (requestByte q).toNat (encodeRequest q) = .request q

/-- R191, R192: bytes at the receiver, one command each: HUNT waits for 197, a length above 240 discards the frame, HEADER
takes length, tag and code, BODY the payload, CHECK the two bytes of the CRC; so the bytes of a frame pass that frame to the
request handling. A framing error or a gap discards the frame in progress and does nothing in HUNT. -/
def Obligations.ReceiverTakesBytesIntoFrames : Prop :=
  (∀ (p : Port) (b : Byte) (s : State), s.phase = .running →
    ((s.port p).receiver = .hunt →
      (b = 197 → Answers (.byteReceived p b) s (s.setReceiver p (.header []))) ∧
      (b ≠ 197 → Answers (.byteReceived p b) s s)) ∧
    ((s.port p).receiver = .header [] →
      (240 < b.toNat →
        Answers (.byteReceived p b) s (s.modPort p fun x => { x with discarded := sat255 x.discarded, receiver := .hunt })) ∧
      (b.toNat ≤ 240 → Answers (.byteReceived p b) s (s.setReceiver p (.header [b])))) ∧
    (∀ len, (s.port p).receiver = .header [len] → Answers (.byteReceived p b) s (s.setReceiver p (.header [len, b]))) ∧
    (∀ len tag, (s.port p).receiver = .header [len, tag] →
      (len.toNat = 0 → Answers (.byteReceived p b) s (s.setReceiver p (.check tag b [] none))) ∧
      (len.toNat ≠ 0 → Answers (.byteReceived p b) s (s.setReceiver p (.body tag b len.toNat [])))) ∧
    (∀ tag code left taken, (s.port p).receiver = .body tag code left taken →
      (left ≤ 1 → Answers (.byteReceived p b) s (s.setReceiver p (.check tag code (taken ++ [b]) none))) ∧
      (1 < left → Answers (.byteReceived p b) s (s.setReceiver p (.body tag code (left - 1) (taken ++ [b]))))) ∧
    (∀ tag code taken, (s.port p).receiver = .check tag code taken none →
      Answers (.byteReceived p b) s (s.setReceiver p (.check tag code taken (some b)))) ∧
    ∀ tag code taken hi, (s.port p).receiver = .check tag code taken (some hi) →
      exec (.byteReceived p b) s = exec (.frameReceived p tag code taken (hi ++ b)) s) ∧
  (∀ (p : Port) (f : Frame) (s : State), f.payload.length ≤ 240 → (s.port p).receiver = .hunt →
    f.bytes.foldl (fun s b => s.byteReceived p b) s = s.passFrame p f.tag f.code f.payload) ∧
  ∀ (p : Port) (s : State), s.phase = .running →
    ((s.port p).receiver = .hunt → Answers (.framingError p) s s ∧ Answers (.frameGapTimeout p) s s) ∧
    ((s.port p).receiver ≠ .hunt →
      Answers (.framingError p) s (s.modPort p fun x => { x with discarded := sat255 x.discarded, receiver := .hunt }) ∧
      Answers (.frameGapTimeout p) s (s.modPort p fun x => { x with discarded := sat255 x.discarded, receiver := .hunt }))

/-- R194, R197: a frame starts where none is in transmission, the reply slot's first; its start makes the port READY; the end
of a transmission frees the line. That REPLY_START changes nothing while a frame is in transmission or with both slots empty is
the model's (log 4, log 17). -/
def Obligations.TransmitterStartsTheReplySlotFirst : Prop :=
  ∀ (p : Port) (s : State), s.phase = .running →
    Answers (.frameTransmissionEnd p) s (s.modPort p fun x => { x with tx := none }) ∧
    (∀ b, (s.port p).tx = some b → Answers (.replyStart p) s s) ∧
    ((s.port p).tx = none →
      (∀ f, (s.port p).reply = some f →
        Answers (.replyStart p) s (s.modPort p fun x => { x with tx := some f.bytes, reply := none, request := .ready })) ∧
      ((s.port p).reply = none →
        (∀ f, (s.port p).short = some f →
          Answers (.replyStart p) s (s.modPort p fun x => { x with tx := some f.bytes, short := none })) ∧
        ((s.port p).short = none → Answers (.replyStart p) s s)))

/-! ## Reads -/

/-- The reads of Table 10-4, each answered OK with the items its rule names, as they stand. Most change nothing; those that clear
what they report clear a mark's crossings, a link's arrivals, the oldest capture with the overrun count, a port's four counts,
the notices outside the mask, and a snapshot takes the port's next number. A read of an item that does not exist is refused:
BAD_VALUE for a number outside its range, RANGE for an index at or above the count. R193, R201: the items stand in order, each in
its bytes, the most significant first and a negative number in two's complement; an item that may be absent has a presence byte, a list
a count byte, a named value its place in its table. Where a table leaves the bytes of an item open, the layout is the model's (log
14), such as the levels of HOME and TRIG (1 for high), FLT, HALT and DRIVE_POWER_OK (1 for active), and the items of yes or no, in the start
record and elsewhere (1 for yes); so is a common duration too long for its
bytes (log 9); so are the lag with its square roots (log 9), the cues and the completion entries
that fit a reply (log 15) and the level of FAULT_OUT in reset (log 20). That Read Axis Record sends the lock origin of an unlocked
axis as absent (encOpt of lockOrigin) is the model's reading (log 26), and the model's choices are that the last result epoch is absent,
with a presence byte, before an acquiring Track's first result (log 35), and that a target past the turn count's range is sent unwrapped,
its low 7 bytes (log 36). -/
def Obligations.ReadsAnswerTheirItems : Prop :=
  (∀ (k n : Nat) (i : Int) (b : Bool) (o : Option Nat) (p : Option Port) (w : Int × Int),
    u8 n = laid [(1, (n : Int))] ∧ beNat k n = laid [(k, (n : Int))] ∧ beInt k i = laid [(k, i)] ∧ encEpoch i = laid [(7, i)] ∧
    encRate i = laid [(5, i)] ∧ encCeiling o = laid [(5, (o.getD 0 : Nat))] ∧ encFlag b = laid [flagItem b] ∧
    encIndexOpt o = laid [indexItem o] ∧ encPortOpt p = laid (portOptItems p) ∧ encAngle i = laid (angleItems i) ∧
    encWords w = laid (wordItems w)) ∧
  (∀ (α : Type) (k : Nat) (enc : α → List Byte) (x : α) (l : List α),
    encOpt k enc (some x) = u8 1 ++ enc x ∧ encOpt k enc none = u8 0 ++ List.replicate k 0 ∧
    encList enc l = u8 l.length ++ l.flatMap enc) ∧
  ((∀ s : State, encClock s = laid s.clockItems) ∧ (∀ m : Mark, encMark m = laid m.items) ∧
    (∀ r : AxisRecord, encRecord r = laid r.items) ∧ (∀ x : Axis, x.encState = laid x.items) ∧
    (∀ o : MemberOutcome, encOutcome o = laid o.items) ∧ (∀ m : GroupMotion, encMotion m = laid m.items) ∧
    (∀ c : ClaimEntry, encEntry c = laid c.items) ∧ (∀ r c, encClaimed r c = laid (c.claimedItems r)) ∧
    (∀ (s : State) (x : Runner), encRunner s x = laid (x.items s)) ∧
    (∀ (k room i : Nat) (c : Cue) (l : List Cue),
      cuesFrom 0 room i l = [] ∧ cuesFrom k room i [] = [] ∧
      cuesFrom (k + 1) room i (c :: l) =
        if (laid (c.items i)).length ≤ room then
          laid (c.items i) :: cuesFrom k (room - (laid (c.items i)).length) (i + 1) l else []) ∧
    (∀ x : Link, encLink x = laid x.items) ∧ (∀ c : Capture, encCapture c = laid c.items) ∧
    (∀ r : StartRecord, encStart r = laid r.items) ∧ (∀ (s : State) (n : Nat), s.snapshotBytes n = laid (s.snapshotItems n)) ∧
    (∀ f : InFlight, encResult f = laid f.items) ∧
    encRouting .holder = [0, 0] ∧ encRouting .all = [1, 0] ∧ ∀ b : BitVec 3, encRouting (.ports b) = [2, b.setWidth 8]) ∧
  (([.ok, .granted, .queued, .busy, .badCode, .badValue, .notHolder, .held, .locked, .state, .range, .full, .halted, .inUse,
      .notReferenced] : List Status).map Status.code = List.range 15 ∧
    ([.halted, .running, .settling] : List ClockState).map ClockState.code = List.range 3 ∧
    ([.command, .range, .haltLine, .drivePower, .start] : List HaltReason).map HaltReason.code = List.range 5 ∧
    ([.internal, .locked, .holdover] : List TimebaseState).map TimebaseState.code = List.range 3 ∧
    ([.forward, .backward, .both] : List MarkDirection).map MarkDirection.code = List.range 3 ∧
    ([.cyclic, .bounded] : List ChannelKind).map ChannelKind.code = List.range 2 ∧
    ([.disabled, .empty, .gap, .outside] : List UncoveredReason).map UncoveredReason.code = List.range 4 ∧
    ([.unconfigured, .disabled, .unreferenced, .homing, .standing, .slewing, .tracking, .stopping, .faulted] :
      List AxisState).map AxisState.code = List.range 9 ∧
    ([.none, .arrived, .uncovered, .outOfRange, .ended] : List StageOutcome).map StageOutcome.code = List.range 5 ∧
    ([.hardLimit, .driveFault, .homeNotFound] : List FaultCause).map FaultCause.code = [1, 2, 3] ∧
    ([.evaluating, .ready, .moving, .arrived, .uncovered, .outOfRange, .ended] : List MemberOutcome).map MemberOutcome.code =
      List.range 7 ∧
    ([.unbound, .notReferenced, .notStanding, .limit] : List PassReason).map PassReason.code = List.range 4 ∧
    ([.evaluating, .moving, .arrived, .failed] : List MotionState).map MotionState.code = List.range 4 ∧
    ([.memberEnded, .outOfRange, .superseded] : List EndCause).map EndCause.code = List.range 3 ∧
    ([.empty, .opened, .closed] : List ProgramState).map ProgramState.code = List.range 3 ∧
    ([.afterPrevious, .chained, .atEpoch, .delay, .onLink, .onSettled] : List TriggerKind).map TriggerKind.code = List.range 6 ∧
    ([.rising, .falling, .both] : List Edge).map Edge.code = List.range 3 ∧
    ([.hold, .rehome, .rehomeAndResume] : List ReturnPolicy).map ReturnPolicy.code = List.range 3 ∧
    ([.none, .held, .rehomed, .pending, .resumed, .abandoned] : List ReturnOutcome).map ReturnOutcome.code = List.range 6 ∧
    (∀ n, [DriveState.present, .absent, .returning n].map DriveState.code = List.range 3) ∧
    (∀ n, [OutputState.inactive, .set, .pulsing n].map OutputState.code = List.range 3) ∧
    [Dir.plus, .minus].map Dir.code = List.range 2 ∧ allPorts.map encPort = List.range 3 ∧
    allResources.map resourceCode = List.range 9 ∧ RunnerCause.motionFailed.code = 15 ∧
    (∀ st : Status, (RunnerCause.refused st).code = st.code)) ∧
  ((∀ (s : State) (p : Port) (tag : Byte), s.ready p →
    Answers (.identify p tag) s (s.replied p tag 1 (.okData
      ([72, 71, 50, 52, 49, 54, 16, 12, 4, 0, 16, 1, 0, 24, 4] ++ u8 (encPort p) ++ u8 (s.port p).standing))) ∧
    Answers (.readStartRecord p tag) s (s.replied p tag 2 (.okData (encStart s.startRecord))) ∧
    Answers (.readClock p tag) s (s.replied p tag 16 (.okData (encClock s))) ∧
    (∀ c : ChannelId, Answers (.readChannel p tag c.val) s (s.replied p tag 38 (.okData
      (u8 (s.channel c).kind.code ++ encFlag (s.channel c).enabled ++ u8 (s.channel c).segments.length ++
        encOpt 7 encEpoch ((s.channel c).segments.head?.map (·.start)) ++
        encOpt 7 encEpoch ((s.channel c).segments.getLast?.map fun g => g.start + g.span) ++
        encList (fun a : AxisId => u8 a.val) (allAxes.filter fun a => (s.axis a).record.binding == some c))))) ∧
    (∀ (c : ChannelId) (n : Nat) (g : Segment), (s.channel c).segments[n]? = some g →
      Answers (.readSegment p tag c.val n) s (s.replied p tag 39 (.okData
        (encEpoch g.start ++ beNat 6 g.span ++ beNat 4 g.a0 ++ beInt 6 g.a1 ++ encFlag g.a2.isSome ++ beInt 8 (g.a2.getD 0) ++
          beNat 4 g.stamp)))) ∧
    Answers (.readStore p tag) s (s.replied p tag 40 (.okData
      (beNat 2 s.freeSegments ++ allChannels.flatMap (fun c => u8 (s.channel c).segments.length) ++ beNat 4 s.stampCounter))) ∧
    (∀ a : AxisId, Answers (.readAxisRecord p tag a.val) s (s.replied p tag 48 (.okData
      (encRecord (s.axis a).record ++ u8 (s.axis a).state.code ++ encFlag (s.axis a).locked ++ encFlag (s.axis a).known ++
        encOpt 1 (fun o : LockOrigin => u8 (match o with | .byRequest => 0 | .keptAtLineReset => 1)) (s.axis a).lockOrigin ++
        encWords ((s.axis a).position.words (s.axis a).record.kind))))) ∧
    (∀ a : AxisId, Answers (.readAxisState p tag a.val) s (s.replied p tag 53 (.okData (s.axis a).encState))) ∧
    (∀ g : GroupId, Answers (.readGroup p tag g.val) s (s.replied p tag 64 (.okData
      (encList (fun a : AxisId => u8 a.val ++ u8 (s.axis a).state.code ++ encIndexOpt ((s.axis a).record.binding.map Fin.val))
          (allAxes.filter fun a => (s.axis a).record.group == g) ++ encPortOpt (s.holderOf (.group g)))))) ∧
    (∀ g : GroupId, Answers (.readGroupMotion p tag g.val) s (s.replied p tag 69 (.okData (encOpt 18 encMotion s.motions[g])))) ∧
    Answers (.readClaims p tag) s (s.replied p tag 80 (.okData
      (allResources.flatMap (fun r => encEntry (s.claim r)) ++ u8 (s.port p).standing))) ∧
    (∀ (i : ProgramId) (n : Nat), n < (s.program i).cues.length ∨ n = 0 →
      Answers (.readProgram p tag i.val n) s (s.replied p tag 100 (.okData
        (u8 (s.program i).state.code ++ encPortOpt (s.program i).opener ++ beNat 2 (s.program i).requirement.toNat ++
          u8 (s.program i).cues.length ++ encPortOpt (s.program i).inUse ++ beNat 2 s.freeCues ++
          encList id (cuesFrom 8 227 n ((s.program i).cues.drop n)))))) ∧
    (∀ r : Port, Answers (.readRunner p tag (encPort r)) s (s.replied p tag 116 (.okData (encRunner s (s.runner r))))) ∧
    Answers (.readLines p tag) s (s.replied p tag 132 (.okData
      (allTrigs.flatMap (fun t => encFlag s.trigs[t].accepted ++ u8 s.trigs[t].length) ++
        allOutputs.flatMap (fun o => u8 s.outputs[o].code ++ encOpt 4 (beNat 4) s.outputs[o].timer) ++
        encFlag s.haltAsserted ++ encFlag s.power.ok.accepted ++ encFlag s.faultOut))) ∧
    Answers (.readDrivePower p tag) s (s.replied p tag 144 (.okData
      (encFlag s.power.ok.accepted ++ encFlag s.power.halt.accepted ++ u8 s.power.state.code ++
        encOpt 4 (beNat 4) (match s.power.state with | .returning t => some t | _ => none) ++ u8 s.power.policy.code ++
        encOpt 3 (fun q : ReturnRecord =>
          encList (fun m : AxisId × Bool => u8 m.1.val ++ encFlag m.2) q.members ++ encList (fun a : AxisId => u8 a.val) q.resume ++
            encFlag q.wasRunning) s.power.sequence ++
        u8 s.power.outcome.code ++ encList (fun a : AxisId => u8 a.val) s.power.keptResume ++ encFlag s.power.keptRunning ++
        encFlag s.clock.wasRunning ++ allAxes.flatMap fun a => encFlag (s.axis a).resumeMark))) ∧
    Answers (.readNoticeRouting p tag) s (s.replied p tag 163 (.okData
      ((allKinds.filter NoticeKind.routed).flatMap fun k => encRouting s.routing[k.idx])))) ∧
  ∀ (s : State) (p : Port) (tag : Byte) (n m : Nat), s.ready p →
    (3 ≤ n → Answers (.readPortStatus p tag n) s (s.replied p tag 4 (.no .badValue)) ∧
      Answers (.readRunner p tag n) s (s.replied p tag 116 (.no .badValue))) ∧
    (4 ≤ n → Answers (.readMark p tag n) s (s.replied p tag 26 (.no .badValue))) ∧
    (8 ≤ n → Answers (.readGroup p tag n) s (s.replied p tag 64 (.no .badValue)) ∧
      Answers (.readGroupMotion p tag n) s (s.replied p tag 69 (.no .badValue))) ∧
    (12 ≤ n → Answers (.readChannel p tag n) s (s.replied p tag 38 (.no .badValue)) ∧
      Answers (.readSegment p tag n m) s (s.replied p tag 39 (.no .badValue))) ∧
    (16 ≤ n → Answers (.readAxisRecord p tag n) s (s.replied p tag 48 (.no .badValue)) ∧
      Answers (.readAxisState p tag n) s (s.replied p tag 53 (.no .badValue)) ∧
      Answers (.readProgram p tag n m) s (s.replied p tag 100 (.no .badValue))) ∧
    (24 ≤ n → Answers (.readLink p tag n) s (s.replied p tag 130 (.no .badValue))) ∧
    (∀ c : ChannelId, (s.channel c).segments.length ≤ m →
      Answers (.readSegment p tag c.val m) s (s.replied p tag 39 (.no .range))) ∧
    ∀ i : ProgramId, (s.program i).cues.length ≤ m → m ≠ 0 →
      Answers (.readProgram p tag i.val m) s (s.replied p tag 100 (.no .range))) ∧
  ∀ (s : State) (p : Port) (tag : Byte), s.ready p →
    (∀ m : MarkId, Answers (.readMark p tag m.val) s
      ((s.withClock { s.clock with marks := s.clock.marks.set m { s.clock.marks[m] with crossings := 0 } }).replied p tag 26
        (.okData (encMark s.clock.marks[m])))) ∧
    (∀ l : LinkId, Answers (.readLink p tag l.val) s
      ((s.setLink l { s.link l with arrivals := 0 }).replied p tag 130 (.okData (encLink (s.link l))))) ∧
    Answers (.readCapture p tag) s
      (({ s with captures := { s.captures with records := s.captures.records.tail, overruns := 0 } } : State).replied p tag 133
        (.okData (encOpt 163 encCapture s.captures.records.head? ++ u8 (s.captures.records.length - 1) ++
          beNat 2 s.captures.next ++ u8 s.captures.overruns))) ∧
    (∀ r : Port, Answers (.readPortStatus p tag (encPort r)) s
      ((s.modPort r fun q => { q with discarded := 0, busyCount := 0, shortDiscards := 0, skipped := 0 }).replied p tag 4
        (.okData (u8 (s.port r).standing ++ beNat 3 s.startRecord.bitRate ++
          u8 (if r = p then 1 else (s.port r).request.code) ++ beNat 2 (s.port r).reportRate ++ beNat 2 (s.port r).snapNumber ++
          beNat 4 (s.port r).mask.toNat ++ u8 ((allKinds.filter fun k => (s.port r).notices[k.idx].isSome).length) ++
          encFlag (allKinds.any fun k => (s.port r).notices[k.idx].isSome && !(s.port r).mask.getLsbD k.idx.val) ++
          u8 (s.port r).discarded ++ u8 (s.port r).busyCount ++ u8 (s.port r).shortDiscards ++ u8 (s.port r).skipped)))) ∧
    Answers (.fetchNotices p tag) s
      ((s.modPort p fun q =>
        { q with
          notices := Vector.ofFn fun k : Fin 25 => if q.mask.getLsbD k.val then q.notices[k] else none }).replied
        p tag 160 (.okData (encList id (allKinds.filterMap fun k => (s.port p).notices[k.idx].map fun e =>
          u8 k.idx.val ++ u8 e.count ++ encIndexOpt e.subject ++ (if k = .clockSettled then encFlag e.timeout else []) ++
            encFlag ((s.port p).mask.getLsbD k.idx.val))))) ∧
    Answers (.readSnapshot p tag) s
      ((s.modPort p fun q => { q with snapNumber := (q.snapNumber + 1) % 65536 }).replied p tag 3
        (.okData (s.snapshotBytes (s.port p).snapNumber)))

/-! ## Claim checks and HALTED -/

/-- R112: a request that needs SKY from a port that does not hold it is refused with NOT_HOLDER, which names SKY, and a request
on an axis or a group likewise names the group. R68, R179, R184: while HALT is asserted or drive power is absent, the motion
requests of a holder are refused with HALTED, and so are Run and a SETTLE jump. Nothing else changes. -/
def Obligations.ClaimsAndHaltRefuseRequests : Prop :=
  (∀ (i : Instr) (q : Request) (p : Port) (tag : Byte) (s : State),
    i.request = some q → i.sender = some (p, tag) → s.ready p →
    (q.needsSky = true → s.holderOf .sky ≠ some p →
      Answers i s (s.replied p tag (requestCode q) ⟨.notHolder, 0, []⟩)) ∧
    (∀ a : AxisId, q.ofAxis = some a.val → s.holderOf (.group (s.axis a).record.group) ≠ some p →
      Answers i s (s.replied p tag (requestCode q) ⟨.notHolder, (s.axis a).record.group.val + 1, []⟩)) ∧
    (∀ (a : AxisId) (c : ChannelId), q = .bind a.val c.val → s.holderOf (.group (s.axis a).record.group) ≠ some p →
      Answers i s (s.replied p tag (requestCode q) ⟨.notHolder, (s.axis a).record.group.val + 1, []⟩)) ∧
    ∀ g : GroupId, q.ofGroup = some g.val → s.holderOf (.group g) ≠ some p →
      Answers i s (s.replied p tag (requestCode q) ⟨.notHolder, g.val + 1, []⟩)) ∧
  ∀ (i : Instr) (q : Request) (p : Port) (tag : Byte) (s : State),
    i.request = some q → i.sender = some (p, tag) → s.ready p → (s.power.halt.accepted = true ∨ s.power.state ≠ .present) →
    (∀ a : AxisId, q.movesAxis = some a.val → s.holderOf (.group (s.axis a).record.group) = some p →
      Answers i s (s.replied p tag (requestCode q) (.no .halted))) ∧
    (∀ g : GroupId, q.ofGroup = some g.val → s.holderOf (.group g) = some p →
      Answers i s (s.replied p tag (requestCode q) (.no .halted))) ∧
    (q = .run ∨ (∃ e, -(2 ^ 50) ≤ e ∧ e < 2 ^ 50 ∧ q = .setEpoch e 0) → s.holderOf .sky = some p →
      Answers i s (s.replied p tag (requestCode q) (.no .halted)))

/-- What follows a command (links, runners, motions that begin: log 5, log 10) leaves the receivers, the slots and the counts of
the ports, the channels, the filters of the TRIG inputs and of RESET, the settings of the timebase, the routing and the cues of
every program as they are. -/
def Obligations.WhatFollowsLeavesThePortsAndTheStores : Prop :=
  ∀ s : State,
    s.drain.phase = s.phase ∧ s.drain.resetLine = s.resetLine ∧ s.drain.straps = s.straps ∧ s.drain.startRecord = s.startRecord ∧
    s.drain.timebase = s.timebase ∧ s.drain.channels = s.channels ∧ s.drain.stampCounter = s.stampCounter ∧
    s.drain.inFlight = s.inFlight ∧ s.drain.trigs = s.trigs ∧ s.drain.routing = s.routing ∧ s.drain.pending = s.pending ∧
    (∀ p, s.drain.port p = { s.port p with notices := (s.drain.port p).notices }) ∧
    ∀ i, (s.drain.program i).cues = (s.program i).cues

/-! ## The sky clock (chapter 1) -/

/-- R5: an accepted Set Rate takes its goal at once, or starts a ramp of its duration rounded up to 2 ms. -/
def Obligations.SetRateTakesTheGoalAtOnceOrByARamp : Prop :=
  ∀ (s : State) (p : Port) (tag : Byte) (goal : Int) (ms : Nat), s.ready p → s.holderOf .sky = some p →
    (goal < -17179869184 ∨ 17179869184 < goal ∨ 600000 < ms →
      Answers (.setRate p tag goal ms) s (s.replied p tag 17 (.no .badValue))) ∧
    (-17179869184 ≤ goal → goal ≤ 17179869184 →
      (ms = 0 →
        Answers (.setRate p tag goal ms) s
          (((s.withClock { s.clock with commanded := goal, scheduled := goal, ramp := none }).restartLease .sky).replied
            p tag 17 .done)) ∧
      (1 ≤ ms → ms ≤ 600000 →
        Answers (.setRate p tag goal ms) s
          (((s.withClock
              { s.clock with
                commanded := goal
                ramp := some { start := s.clock.scheduled, goal := goal, duration := (ms + 1) / 2 * 2,
                               remaining := (ms + 1) / 2 * 2 } }).restartLease .sky).replied p tag 17 .done)))

/-- R7: Run is refused while the part is held; else it starts the sky, changes nothing in RUNNING, and in SETTLING makes
resume-to RUNNING. R8, R9, R15: a Halt takes the clock to HALTED with reason COMMAND in every state and keeps epoch, residue,
rates and ramp; from SETTLING it abandons the settling, and what awaits that settling learns of it. -/
def Obligations.RunStartsAndHaltHoldsTheSky : Prop :=
  (∀ (s : State) (p : Port) (tag : Byte), s.ready p → s.holderOf .sky = some p →
    (s.power.halt.accepted = true ∨ s.power.state ≠ .present →
      Answers (.run p tag) s (s.replied p tag 18 (.no .halted))) ∧
    (s.power.halt.accepted = false → s.power.state = .present →
      (s.clock.state = .halted →
        Answers (.run p tag) s
          (((s.withClock { s.clock with state := .running, wasRunning := false }).restartLease .sky).replied p tag 18 .done)) ∧
      (s.clock.state = .running → Answers (.run p tag) s ((s.restartLease .sky).replied p tag 18 .done)) ∧
      (s.clock.state = .settling →
        Answers (.run p tag) s
          (((s.withClock { s.clock with resumeTo := .running, wasRunning := false }).restartLease .sky).replied
            p tag 18 .done)))) ∧
  ∀ (s : State) (p : Port) (tag : Byte), s.ready p → s.holderOf .sky = some p →
    (s.clock.state ≠ .settling →
      Answers (.halt p tag) s
        (((s.withClock
            { s.clock with state := .halted, reason := .command, settleTimer := none, roll := [],
                           wasRunning := false }).restartLease .sky).replied p tag 19 .done)) ∧
    (s.clock.state = .settling →
      exec (.halt p tag) s = .next
        ((((s.withClock
            { s.clock with state := .halted, reason := .command, settleTimer := none, roll := [],
                           wasRunning := false }).raise (.failed (.settling s.clock.settleSerial))).restartLease .sky).replied
          p tag 19 .done).drain)

/-- R10, R11, R3, R13: a jump replaces the epoch and clears the residue, whatever the clock's state; a SETTLE jump settles until
its roll is empty, and with no axis in TRACKING it is settled at once, which it says (R13: CLOCK_SETTLED, event and notice, and the
completion of the settling that may be awaited). The rates, the ramp, the halt reason and the marks
stand. A jump out of range, or of neither mode, changes nothing. -/
def Obligations.JumpsReplaceTheEpoch : Prop :=
  ∀ (s : State) (p : Port) (tag : Byte) (e : Int) (mode : Nat), s.ready p → s.holderOf .sky = some p →
    (1 < mode → Answers (.setEpoch p tag e mode) s (s.replied p tag 20 (.no .badValue))) ∧
    (mode ≤ 1 → e < -(2 ^ 50) ∨ 2 ^ 50 ≤ e → Answers (.setEpoch p tag e mode) s (s.replied p tag 20 (.no .range))) ∧
    (-(2 ^ 50) ≤ e → e < 2 ^ 50 → mode = 1 →
      ∃ t : State, exec (.setEpoch p tag e mode) s = .next t.drain ∧ s.hearsJump t e ∧
        (t.port p).request = .outstanding tag 20 ∧ (t.port p).reply = some (Reply.done.frame tag 20) ∧
        t.runners = s.runners ∧ t.channels = s.channels ∧ t.power = s.power ∧ t.motions = s.motions ∧
        (s.clock.state ≠ .settling → t.clock = { s.clock with epoch := e, residue := 0 }) ∧
        (s.clock.state = .settling →
          (s.trackingAxes ≠ [] → t.clock = { s.clock with epoch := e, residue := 0, roll := s.trackingAxes }) ∧
          (s.trackingAxes = [] →
            t.clock = { s.clock with epoch := e, residue := 0, roll := [], settleTimer := none,
                                     state := s.clock.resumeTo.state } ∧
            s.saysSettled t s.clock.settleSerial))) ∧
    (-(2 ^ 50) ≤ e → e < 2 ^ 50 → mode = 0 → s.power.halt.accepted = false → s.power.state = .present →
      ∃ (t : State) (r : ResumeTo), exec (.setEpoch p tag e mode) s = .next t.drain ∧ s.hearsJump t e ∧
        (t.port p).request = .outstanding tag 20 ∧ (t.port p).reply = some (Reply.done.frame tag 20) ∧
        t.runners = s.runners ∧ t.channels = s.channels ∧ t.power = s.power ∧ t.motions = s.motions ∧
        (s.clock.state = .running → r = .running) ∧ (s.clock.state = .halted → r = .halted) ∧
        (s.clock.state = .settling → r = s.clock.resumeTo) ∧
        (s.trackingAxes ≠ [] →
          t.clock = { s.clock with epoch := e, residue := 0, state := .settling, resumeTo := r, roll := s.trackingAxes,
                                   settleTimer := some (s.clock.settleTime * 1000),
                                   settleSerial := t.clock.settleSerial }) ∧
        (s.trackingAxes = [] →
          t.clock = { s.clock with epoch := e, residue := 0, state := r.state, resumeTo := r, roll := [],
                                   settleTimer := none, settleSerial := t.clock.settleSerial } ∧
          s.saysSettled t t.clock.settleSerial))

/-- R16: a settle time of 1 to 60 s is the one used at the next start of the settle timer; one already running stands. -/
def Obligations.SetSettleTimeIsUsedAtTheNextStart : Prop :=
  ∀ (s : State) (p : Port) (tag : Byte) (n : Nat), s.ready p → s.holderOf .sky = some p →
    (n < 1 ∨ 60 < n → Answers (.setSettleTime p tag n) s (s.replied p tag 21 (.no .badValue))) ∧
    (1 ≤ n → n ≤ 60 →
      Answers (.setSettleTime p tag n) s
        (((s.withClock { s.clock with settleTime := n }).restartLease .sky).replied p tag 21 .done)) ∧
    (∀ e : Int, -(2 ^ 50) ≤ e → e < 2 ^ 50 → s.power.halt.accepted = false → s.power.state = .present →
      s.trackingAxes ≠ [] →
      ∃ t : State, exec (.setEpoch p tag e 0) s = .next t.drain ∧ t.clock.settleTimer = some (s.clock.settleTime * 1000))

/-- R19: enabling the governor leaves ceiling and quiet timer; disabling it stops the timer, drops the ceiling, and raises
GOVERNOR_RELEASED where there was one. OK in either case. -/
def Obligations.SetGovernorEnablesAndDisables : Prop :=
  ∀ (s : State) (p : Port) (tag : Byte), s.ready p → s.holderOf .sky = some p →
    Answers (.setGovernor p tag 1) s
      (((s.withClock { s.clock with governor := true }).restartLease .sky).replied p tag 22 .done) ∧
    (s.clock.ceiling = none →
      Answers (.setGovernor p tag 0) s
        (((s.withClock { s.clock with governor := false, quiet := none, ceiling := none }).restartLease .sky).replied
          p tag 22 .done)) ∧
    (∀ k, s.clock.ceiling = some k →
      Answers (.setGovernor p tag 0) s
        ((((s.withClock { s.clock with governor := false, quiet := none, ceiling := none }).notify .governorReleased .sky
          none).restartLease .sky).replied p tag 22 .done))

/-- R14, R82, R18: the settle timer's expiry ends a settling with LAGGING for the axes left in the roll, and AXIS_LAGGING for those
that were not LAGGING already (log 28), the subject the last of them told, in no order the spec gives (log 6); no lag excess goes to
the governor; the quiet timer's
expiry doubles the ceiling or drops it. Where the timer does not run, its expiry changes nothing (log 4); where it runs, the command
says that it has run out, whatever remaining time is shown (log 1). -/
def Obligations.ClockTimersExpire : Prop :=
  ∀ s : State, s.phase = .running →
    (s.clock.state ≠ .settling ∨ s.clock.settleTimer = none → Answers .settleTimerExpiry s s) ∧
    (s.clock.state = .settling → s.clock.settleTimer ≠ none →
      ∃ t : State, exec .settleTimerExpiry s = .next t.drain ∧
        t.clock = { s.clock with settleTimer := none, roll := [], state := s.clock.resumeTo.state } ∧
        (∀ a, a ∈ s.clock.roll →
          t.axis a = { s.axis a with tracking := (s.axis a).tracking.map fun r => { r with lagging := true } }) ∧
        (∀ a, a ∉ s.clock.roll → t.axis a = s.axis a) ∧
        (∀ a ∈ s.clock.roll, (s.axis a).tracking.map Tracking.lagging = some false →
          ∀ q ∈ s.routedPorts .axisLagging (s.groupOf a), ∃ n : NoticeEntry,
            (t.port q).notices[NoticeKind.axisLagging.idx] = some n ∧
              ∃ b ∈ s.clock.roll, n.subject = some b.val ∧ (s.axis b).tracking.map Tracking.lagging = some false) ∧
        ((∀ a ∈ s.clock.roll, (s.axis a).tracking.map Tracking.lagging ≠ some false) → ∀ q,
          (t.port q).notices[NoticeKind.axisLagging.idx] = (s.port q).notices[NoticeKind.axisLagging.idx]) ∧
        (∀ q, q ∈ s.routedPorts .clockSettled .sky →
          ∃ n : NoticeEntry, (t.port q).notices[2] = some n ∧ n.timeout = true ∧
            n.subject = (allAxes.find? (· ∈ s.clock.roll)).map Fin.val) ∧
        .event .clockSettled none ∈ t.signals ∧ .done (.settling s.clock.settleSerial) ∈ t.signals) ∧
    (s.clock.quiet = none ∨ s.clock.ceiling = none → Answers .quietTimerExpiry s s) ∧
    ∀ n k, s.clock.quiet = some n → s.clock.ceiling = some k →
      (s.clock.scheduled.natAbs ≤ 2 * k →
        Answers .quietTimerExpiry s
          ((s.withClock { s.clock with ceiling := none, quiet := none }).notify .governorReleased .sky none)) ∧
      (2 * k < s.clock.scheduled.natAbs →
        Answers .quietTimerExpiry s (s.withClock { s.clock with ceiling := some (2 * k), quiet := some 500 }))

/-- R20: INTERNAL puts the timebase in state INTERNAL with trim 1; SYNC taken in INTERNAL puts it in HOLDOVER, and changes
nothing elsewhere; the nominal period is set in INTERNAL alone. R21 to R23: an interval is good within 5 per cent of the nominal
period, and the window holds the last 8 good ones; the first pulse becomes the reference; the eighth good interval locks; a bad one starts the count afresh in HOLDOVER and counts toward the loss in
LOCKED; silence drops the reference or the lock. Intervals are whole nanoseconds of the crystal and the trim is held as a fraction
(log 19); a silence in INTERNAL or without a reference changes nothing (log 4); a period out of range is refused before the state
is looked at (log 28). -/
def Obligations.TimebaseFollowsItsRequestsAndSync : Prop :=
  (∀ (t : Timebase) (i : Nat), t.goodInterval i = true ↔
    19 * (t.nominal * 1000000) ≤ 20 * i ∧ 20 * i ≤ 21 * (t.nominal * 1000000)) ∧
  (∀ (w : List Nat) (i : Nat),
    (w.length < 8 → pushWindow w i = w ++ [i]) ∧ (8 ≤ w.length → pushWindow w i = w.drop 1 ++ [i])) ∧
  (∀ (s : State) (p : Port) (tag : Byte), s.ready p → s.holderOf .sky = some p →
    Answers (.setTimebase p tag 0) s
      (((s.withTimebase { s.timebase with sync := false, state := .internal, trimNum := 1, trimDen := 1, good := 0, bad := 0,
                                          window := [], reference := none }).restartLease .sky).replied p tag 23 .done) ∧
    (s.timebase.state = .internal →
      Answers (.setTimebase p tag 1) s
        (((s.withTimebase { s.timebase with sync := true, state := .holdover, trimNum := 1, trimDen := 1, good := 0,
                                            bad := 0, window := [], reference := none }).restartLease .sky).replied
          p tag 23 .done)) ∧
    (s.timebase.state ≠ .internal → Answers (.setTimebase p tag 1) s ((s.restartLease .sky).replied p tag 23 .done)) ∧
    (∀ mode, 1 < mode → Answers (.setTimebase p tag mode) s (s.replied p tag 23 (.no .badValue))) ∧
    ∀ ms,
      (ms < 10 ∨ 100 < ms → Answers (.setSyncPeriod p tag ms) s (s.replied p tag 24 (.no .badValue))) ∧
      (10 ≤ ms → ms ≤ 100 →
        (s.timebase.state = .internal →
          Answers (.setSyncPeriod p tag ms) s
            (((s.withTimebase { s.timebase with nominal := ms }).restartLease .sky).replied p tag 24 .done)) ∧
        (s.timebase.state ≠ .internal → Answers (.setSyncPeriod p tag ms) s (s.replied p tag 24 (.no .state))))) ∧
  ∀ (s : State) (x : Nat), s.phase = .running →
    (s.timebase.state = .internal → Answers (.syncPulse x) s s ∧ Answers .syncTimeout s s) ∧
    (s.timebase.state ≠ .internal → s.timebase.reference = none →
      Answers (.syncPulse x) s (s.withTimebase { s.timebase with reference := some x }) ∧ Answers .syncTimeout s s) ∧
    ∀ r, s.timebase.reference = some r →
      (s.timebase.state = .holdover →
        Answers .syncTimeout s (s.withTimebase { s.timebase with good := 0, window := [], reference := none }) ∧
        (s.timebase.goodInterval (x - r) = false →
          Answers (.syncPulse x) s (s.withTimebase { s.timebase with reference := some x, good := 0, window := [] })) ∧
        (s.timebase.goodInterval (x - r) = true →
          (min 8 (s.timebase.good + 1) ≠ 8 →
            Answers (.syncPulse x) s
              (s.withTimebase { s.timebase with reference := some x, good := min 8 (s.timebase.good + 1),
                                                window := pushWindow s.timebase.window (x - r) })) ∧
          (min 8 (s.timebase.good + 1) = 8 →
            Answers (.syncPulse x) s
              ((s.withTimebase
                { s.timebase with
                  reference := some x, good := 8, bad := 0, state := .locked
                  window := pushWindow s.timebase.window (x - r)
                  trimNum := s.timebase.nominal * 1000000 * (pushWindow s.timebase.window (x - r)).length
                  trimDen := (pushWindow s.timebase.window (x - r)).sum }).notify .timebaseLocked .sky none)))) ∧
      (s.timebase.state = .locked →
        exec .syncTimeout s = .next
          (((s.withTimebase { s.timebase with state := .holdover, good := 0, bad := 0, window := [],
                                              reference := none }).notify .timebaseLost .sky none).event .timebaseLost).drain ∧
        (s.timebase.goodInterval (x - r) = true →
          Answers (.syncPulse x) s
            (s.withTimebase
              { s.timebase with
                reference := some x, good := min 8 (s.timebase.good + 1), bad := 0
                window := pushWindow s.timebase.window (x - r)
                trimNum := s.timebase.nominal * 1000000 * (pushWindow s.timebase.window (x - r)).length
                trimDen := (pushWindow s.timebase.window (x - r)).sum })) ∧
        (s.timebase.goodInterval (x - r) = false →
          (s.timebase.bad ≠ 2 →
            Answers (.syncPulse x) s
              (s.withTimebase { s.timebase with reference := some x, bad := s.timebase.bad + 1 })) ∧
          (s.timebase.bad = 2 →
            exec (.syncPulse x) s = .next
              (((s.withTimebase { s.timebase with state := .holdover, good := 0, bad := 0, window := [],
                                                  reference := some x }).notify .timebaseLost .sky none).event
                .timebaseLost).drain)))

/-- R24: Set Mark replaces the mark, with its crossings 0 and no last crossing; its checks stand in the order of its fields.
Read Mark carries the record and then sets the crossings to 0. -/
def Obligations.SetMarkReplacesTheMark : Prop :=
  ∀ (s : State) (p : Port) (tag : Byte) (n onOff period : Nat) (phase : Int) (d : Nat), s.ready p →
    (s.holderOf .sky = some p →
      (4 ≤ n ∨ 1 < onOff ∨ period < 1 ∨ 2 ^ 50 < period →
        Answers (.setMark p tag n onOff period phase d) s (s.replied p tag 25 (.no .badValue))) ∧
      (n < 4 → onOff ≤ 1 → 1 ≤ period → period ≤ 2 ^ 50 → phase < -(2 ^ 50) ∨ 2 ^ 50 ≤ phase →
        Answers (.setMark p tag n onOff period phase d) s (s.replied p tag 25 (.no .range))) ∧
      (n < 4 → onOff ≤ 1 → 1 ≤ period → period ≤ 2 ^ 50 → -(2 ^ 50) ≤ phase → phase < 2 ^ 50 → 3 ≤ d →
        Answers (.setMark p tag n onOff period phase d) s (s.replied p tag 25 (.no .badValue))) ∧
      (onOff ≤ 1 → 1 ≤ period → period ≤ 2 ^ 50 → -(2 ^ 50) ≤ phase → phase < 2 ^ 50 →
        ∀ (m : MarkId) (dir : MarkDirection), n = m.val → d = dir.code →
          Answers (.setMark p tag n onOff period phase d) s
            (((s.withClock
                { s.clock with
                  marks := s.clock.marks.set m
                    { enabled := decide (onOff = 1), period := period, phase := phase, direction := dir, crossings := 0,
                      last := none } }).restartLease .sky).replied p tag 25 .done))) ∧
    (4 ≤ n → Answers (.readMark p tag n) s (s.replied p tag 26 (.no .badValue))) ∧
    ∀ m : MarkId, n = m.val →
      Answers (.readMark p tag n) s
        ((s.withClock { s.clock with marks := s.clock.marks.set m { s.clock.marks[m] with crossings := 0 } }).replied p tag 26
          (.okData (encMark s.clock.marks[m])))

/-- R1, R2, R4, R6: an epoch update. Out of RUNNING the sky stands; in RUNNING the epoch moves by the whole part of rate and
residue and the ramp progresses; at a limit, or past one, the epoch is held there, the residue is 0, the ramp stands, and the
clock halts with RANGE and CLOCK_RANGE after the announcement, the event carrying the sky the update left (R162). R25: a mark
whose boundary the epoch passed counts and fires, with its event and its notice; the others stand. R3, R77: each axis in TRACKING
asks for its channel's angle at the new epoch, and the runners that wait on AT_EPOCH then hear it; the marks are told in an
undefined order, and the marks before the axes before the runners is the model's choice (logs 6, 33). Every timer falls by 2 ms: settle
timer, quiet timer (R18), leases (R119), delays (R142), loop pauses (R154), pulse timers (R169), the stable timer (R182) and the
automatic clearings (R178); that one command is 2 ms of every timer is the model's (log 2). R202, R203: every K-th update a port
whose line and slots are free sends its snapshot unasked; where they are not, the report is skipped. That a snapshot is formed
before what the update's events do over links and runners is the model's choice (log 33). -/
def Obligations.EpochUpdateAdvancesTheSky : Prop :=
  (∀ (m : Mark) (e0 e1 n0 n1 : Int), n0 = (e0 - m.phase).fdiv m.period → n1 = (e1 - m.phase).fdiv m.period →
    (m.enabled = false ∨ n0 = n1 ∨ (n0 < n1 ∧ m.direction = .backward) ∨ (n1 < n0 ∧ m.direction = .forward) →
      m.cross e0 e1 = none) ∧
    (m.enabled = true → n0 < n1 → m.direction ≠ .backward →
      m.cross e0 e1 = some { m with
        crossings := min 255 (m.crossings + (n1 - n0).toNat), last := some (m.phase + n1 * m.period) }) ∧
    (m.enabled = true → n1 < n0 → m.direction ≠ .forward →
      m.cross e0 e1 = some { m with
        crossings := min 255 (m.crossings + (n0 - n1).toNat), last := some (m.phase + (n1 + 1) * m.period) })) ∧
  ∀ s : State, s.phase = .running →
    ∃ t : State, exec .epochUpdate s = .next t.drain ∧
      (s.clock.state ≠ .running →
        t.clock = { s.clock with settleTimer := s.clock.settleTimer.map (· - 2), quiet := s.clock.quiet.map (· - 2) } ∧
        t.signals = s.signals ∧ t.evals = s.evals) ∧
      (s.clock.state = .running → ∀ (k e : Int) (stop past : Prop), k = s.clock.ra →
        e = s.clock.epoch + (k + s.clock.residue).fdiv 125 →
        (stop ↔ (s.clock.epoch = 2 ^ 50 - 1 ∧ 0 < s.clock.scheduled) ∨ (s.clock.epoch = -(2 ^ 50) ∧ s.clock.scheduled < 0)) →
        (past ↔ stop ∨ e < -(2 ^ 50) ∨ 2 ^ 50 ≤ e) →
        (¬past →
          t.clock = { s.clock with
            epoch := e, residue := (k + s.clock.residue).emod 125, ramp := t.clock.ramp, scheduled := t.clock.scheduled
            marks := t.clock.marks, settleTimer := s.clock.settleTimer.map (· - 2), quiet := s.clock.quiet.map (· - 2) } ∧
          (s.clock.ramp = none → t.clock.ramp = none ∧ t.clock.scheduled = s.clock.scheduled) ∧
          (∀ r, s.clock.ramp = some r →
            (r.remaining ≤ 2 → t.clock.ramp = none ∧ t.clock.scheduled = r.goal) ∧
            (2 < r.remaining →
              t.clock.ramp = some { r with remaining := r.remaining - 2 } ∧
              t.clock.scheduled =
                r.start + ((r.goal - r.start) * ((r.duration : Int) - (r.remaining - 2 : Nat))).tdiv r.duration))) ∧
        (past →
          t.clock = { s.clock with
            epoch := t.clock.epoch, residue := 0, state := .halted, reason := .range, marks := t.clock.marks
            settleTimer := none, roll := [], quiet := s.clock.quiet.map (· - 2) } ∧
          (stop → t.clock.epoch = s.clock.epoch) ∧
          (¬stop → 2 ^ 50 ≤ e → t.clock.epoch = 2 ^ 50 - 1) ∧ (¬stop → e < -(2 ^ 50) → t.clock.epoch = -(2 ^ 50)) ∧
          ∀ q ∈ s.routedPorts .clockRange .sky,
            ∃ n : NoticeEntry, (t.port q).notices[NoticeKind.clockRange.idx] = some n ∧ n.subject = none) ∧
        (∃ l : List MarkId,
          l.Perm (allMarks.filter fun m => (s.clock.marks[m].cross s.clock.epoch t.clock.epoch).isSome) ∧
          (¬past → t.signals = s.signals ++ l.map (fun m => .event (.mark m) none) ++
            if t.clock.epoch = s.clock.epoch then [] else [.epoch t.clock.epoch s.epochWaiters]) ∧
          (past → t.signals = s.signals ++ l.map (fun m => .event (.mark m) none) ++
            (if t.clock.epoch = s.clock.epoch then [] else [.epoch t.clock.epoch s.epochWaiters]) ++ [.event .clockRange (some t.skySnap)])) ∧
        (∀ m : MarkId,
          (s.clock.marks[m].cross s.clock.epoch t.clock.epoch = none → t.clock.marks[m] = s.clock.marks[m]) ∧
          ∀ r, s.clock.marks[m].cross s.clock.epoch t.clock.epoch = some r →
            t.clock.marks[m] = r ∧ .event (.mark m) none ∈ t.signals ∧
            ∀ q ∈ s.routedPorts .mark .sky, ∃ n : NoticeEntry, (t.port q).notices[NoticeKind.mark.idx] = some n ∧
              ∃ x : MarkId, n.subject = some x.val ∧ (s.clock.marks[x].cross s.clock.epoch t.clock.epoch).isSome = true) ∧
        (t.clock.epoch = s.clock.epoch → t.evals = s.evals) ∧
        (t.clock.epoch ≠ s.clock.epoch →
          (∀ a c, (s.axis a).state = .tracking → (s.axis a).record.binding = some c →
            ∃ f ∈ t.evals, f.who = .axis a .track ∧ f.channel = c ∧ f.epoch = some t.clock.epoch) ∧
          ∀ f ∈ s.evals, (∀ a, (s.axis a).state = .tracking → f.isAxis a = false) → f ∈ t.evals)) ∧
      (∀ a, t.axis a = { s.axis a with
        fault := { (s.axis a).fault with autoClear := (s.axis a).fault.autoClear.map (· - 2) } }) ∧
      (∀ r, t.claim r = { s.claim r with holder := (s.claim r).holder.map fun h =>
        { h with lease := h.lease.map fun l => { l with remaining := l.remaining - 2 } } }) ∧
      (∀ r, t.runner r = { s.runner r with
        delay := (s.runner r).delay.map (· - 2), loopPause := (s.runner r).loopPause.map (· - 2) }) ∧
      (∀ o : OutputId, t.outputs[o] = match s.outputs[o] with | .pulsing n => .pulsing (n - 2) | x => x) ∧
      t.power = { s.power with state := match s.power.state with | .returning n => .returning (n - 2) | x => x } ∧
      t.channels = s.channels ∧ t.programs = s.programs ∧ t.links = s.links ∧
      t.timebase = s.timebase ∧ t.motions = s.motions ∧ t.trigs = s.trigs ∧ t.captures = s.captures ∧
      ∀ (p : Port) (x y : PortState), x = s.port p → y = t.port p →
        (x.reportRate = 0 → y = { x with notices := y.notices }) ∧
        (x.updates + 1 < x.reportRate → y = { x with notices := y.notices, updates := x.updates + 1 }) ∧
        (x.reportRate ≠ 0 → x.reportRate ≤ x.updates + 1 →
          (x.tx ≠ none ∨ x.reply ≠ none ∨ x.short ≠ none →
            y = { x with notices := y.notices, updates := 0, skipped := sat255 x.skipped }) ∧
          (x.tx = none → x.reply = none → x.short = none →
            y = { x with
              notices := y.notices, updates := 0, snapNumber := (x.snapNumber + 1) % 65536
              tx := some (Frame.bytes { tag := 0, code := 240, payload := t.snapshotBytes x.snapNumber }) }))

/-! ## Ephemeris channels and the evaluator (chapter 2) -/

/-- R28, R29: an offered segment is checked for its form, then for its bounds, and nothing changes where one fails. R30: an append of
0 or more than 6 segments is refused, and the first segment that fails is named by its place in the list, counted from 0. R199: a
span or flag fault names the segment's place in an Insert Segment too, where it is 0. Where form and bounds fail within one segment, that flag and span stand before start and end is the model's reading
(log 28). -/
def Obligations.OfferedSegmentsAreChecked : Prop :=
  ∀ (s : State) (p : Port) (tag : Byte) (c : ChannelId), s.ready p → s.holderOf .sky = some p →
    (∀ r : RawSegment, ¬ formedSegment r →
      Answers (.insertSegment p tag c.val r) s (s.replied p tag 33 ⟨.badValue, 0, []⟩)) ∧
    (∀ r : RawSegment, formedSegment r → ¬ boundedSegment r →
      Answers (.insertSegment p tag c.val r) s (s.replied p tag 33 (.no .range))) ∧
    (∀ n, 12 ≤ n → ∀ r rs,
      Answers (.insertSegment p tag n r) s (s.replied p tag 33 (.no .badValue)) ∧
      Answers (.appendSegments p tag n rs) s (s.replied p tag 32 (.no .badValue))) ∧
    (∀ rs : List RawSegment, rs.length = 0 ∨ 6 < rs.length →
      Answers (.appendSegments p tag c.val rs) s (s.replied p tag 32 (.no .badValue))) ∧
    ∀ (rs : List RawSegment) (i : Nat) (r : RawSegment), rs.length ≤ 6 → rs[i]? = some r →
      (∀ j x, j < i → rs[j]? = some x → formedSegment x ∧ boundedSegment x) →
      (¬ formedSegment r → Answers (.appendSegments p tag c.val rs) s (s.replied p tag 32 ⟨.badValue, i, []⟩)) ∧
      (formedSegment r → ¬ boundedSegment r →
        Answers (.appendSegments p tag c.val rs) s (s.replied p tag 32 ⟨.range, i, []⟩))

/-- R27, R30: an append whose segments pass goes behind the channel's last one, each stamped in the order of the request with the
counter's value, which passes over those that stored segments hold and stands one past the last stamp given; a misplaced segment is refused with RANGE, too many with FULL. -/
def Obligations.AppendPlacesSegmentsBehindTheLast : Prop :=
  ∀ (s : State) (p : Port) (tag : Byte) (c : ChannelId) (rs : List RawSegment), s.ready p → s.holderOf .sky = some p →
    1 ≤ rs.length → rs.length ≤ 6 → (∀ r ∈ rs, formedSegment r ∧ boundedSegment r) →
    (∀ i, i < rs.length → (∀ j, j < i → placedAt (s.channel c) rs j) → ¬ placedAt (s.channel c) rs i →
      Answers (.appendSegments p tag c.val rs) s (s.replied p tag 32 ⟨.range, i, []⟩)) ∧
    ((∀ i, i < rs.length → placedAt (s.channel c) rs i) →
      (255 < (s.channel c).segments.length + rs.length ∨ s.freeSegments < rs.length →
        Answers (.appendSegments p tag c.val rs) s (s.replied p tag 32 (.no .full))) ∧
      ((s.channel c).segments.length + rs.length ≤ 255 → rs.length ≤ s.freeSegments →
        ∃ (stamps : List Nat) (first last : Nat),
          stamps.length = rs.length ∧ stamps.Nodup ∧ stamps.head? = some first ∧ stamps.getLast? = some last ∧
          s.givesStamp s.stampCounter first ∧
          (∀ i x y, stamps[i]? = some x → stamps[i + 1]? = some y → s.givesStamp ((x + 1) % 2 ^ 32) y) ∧
          Answers (.appendSegments p tag c.val rs) s
            ((({ s.setChannel c { s.channel c with
                  segments := (s.channel c).segments ++ List.zipWith storedSegment rs stamps } with
                stampCounter := (last + 1) % 2 ^ 32 } : State).restartLease .sky).replied p tag 32
              (.okData (beNat 4 first ++ u8 ((s.channel c).segments.length + rs.length))))))

/-- R27, R31: an inserted segment takes the place its start decides, stamped with the counter's value, which passes over those that
stored segments hold and stands one past it; an overlap is refused with RANGE,
a full channel or store with FULL. R32: Delete Span removes every segment that meets the interval, whole. -/
def Obligations.InsertAndDeleteSegments : Prop :=
  (∀ (s : State) (p : Port) (tag : Byte) (c : ChannelId) (r : RawSegment), s.ready p → s.holderOf .sky = some p →
    (s.channel c).ordered → formedSegment r → boundedSegment r →
    ((∃ g ∈ (s.channel c).segments, r.start < g.start + g.span ∧ g.start < r.start + r.span) →
      Answers (.insertSegment p tag c.val r) s (s.replied p tag 33 (.no .range))) ∧
    ((∀ g ∈ (s.channel c).segments, g.start + g.span ≤ r.start ∨ r.start + r.span ≤ g.start) →
      (255 ≤ (s.channel c).segments.length ∨ s.freeSegments = 0 →
        Answers (.insertSegment p tag c.val r) s (s.replied p tag 33 (.no .full))) ∧
      ((s.channel c).segments.length < 255 → 0 < s.freeSegments →
        ∃ k : Nat, s.givesStamp s.stampCounter k ∧
          Answers (.insertSegment p tag c.val r) s
            ((({ s.setChannel c { s.channel c with
                  segments := ((s.channel c).segments.takeWhile fun g => g.start < r.start) ++
                    storedSegment r k :: (s.channel c).segments.dropWhile fun g => g.start < r.start } with
                stampCounter := (k + 1) % 2 ^ 32 } : State).restartLease .sky).replied p tag 33
              (.okData (u8 ((s.channel c).segments.takeWhile fun g => g.start < r.start).length ++ beNat 4 k)))))) ∧
  ∀ (s : State) (p : Port) (tag : Byte) (n : Nat) (x0 x1 : Int), s.ready p → s.holderOf .sky = some p →
    (12 ≤ n ∨ x1 ≤ x0 → Answers (.deleteSpan p tag n x0 x1) s (s.replied p tag 34 (.no .badValue))) ∧
    (n < 12 → x0 < x1 → x0 < -(2 ^ 50) ∨ 2 ^ 50 ≤ x0 ∨ x1 ≤ -(2 ^ 50) ∨ 2 ^ 50 < x1 →
      Answers (.deleteSpan p tag n x0 x1) s (s.replied p tag 34 (.no .range))) ∧
    (∀ c : ChannelId, n = c.val → -(2 ^ 50) ≤ x0 → x0 < x1 → x1 ≤ 2 ^ 50 →
      ∀ left : List Segment,
        left = (s.channel c).segments.filter (fun g => decide (x1 ≤ g.start ∨ g.start + g.span ≤ x0)) →
        Answers (.deleteSpan p tag n x0 x1) s
          (((s.setChannel c { s.channel c with segments := left }).restartLease .sky).replied p tag 34
            (.okData (u8 ((s.channel c).segments.length - left.length)))))

/-- R33: Clear Channel removes every segment, returns their places to the store, keeps kind and enabled flag, and answers
OK with the number removed. -/
def Obligations.ClearChannelRemovesEverySegment : Prop :=
  ∀ (s : State) (p : Port) (tag : Byte), s.ready p → s.holderOf .sky = some p →
    (∀ n, 12 ≤ n → Answers (.clearChannel p tag n) s (s.replied p tag 35 (.no .badValue))) ∧
    ∀ c : ChannelId,
      Answers (.clearChannel p tag c.val) s
        (((s.setChannel c { s.channel c with segments := [] }).restartLease .sky).replied p tag 35
          (.okData (u8 (s.channel c).segments.length))) ∧
      (s.segmentsLawful →
        (s.setChannel c { s.channel c with segments := [] }).freeSegments =
          s.freeSegments + (s.channel c).segments.length)

/-- R34, R35: the kind changes while no axis is bound to the channel, and the same kind changes nothing; the enabled flag is
set whatever it was. An enabled byte above 1 is refused with BAD_VALUE (log 13). -/
def Obligations.ChannelSettings : Prop :=
  ∀ (s : State) (p : Port) (tag : Byte) (n x : Nat), s.ready p → s.holderOf .sky = some p →
    (12 ≤ n ∨ 1 < x →
      Answers (.setChannelKind p tag n x) s (s.replied p tag 36 (.no .badValue)) ∧
      Answers (.setChannelEnable p tag n x) s (s.replied p tag 37 (.no .badValue))) ∧
    ∀ c : ChannelId, n = c.val →
      (x ≤ 1 →
        Answers (.setChannelEnable p tag n x) s
          (((s.setChannel c { s.channel c with enabled := decide (x = 1) }).restartLease .sky).replied p tag 37 .done)) ∧
      ∀ k : ChannelKind, x = k.code →
        ((s.channel c).kind = k → Answers (.setChannelKind p tag n x) s ((s.restartLease .sky).replied p tag 36 .done)) ∧
        ((s.channel c).kind ≠ k → (∃ a, (s.axis a).record.binding = some c) →
          Answers (.setChannelKind p tag n x) s (s.replied p tag 36 (.no .state))) ∧
        ((s.channel c).kind ≠ k → (∀ a, (s.axis a).record.binding ≠ some c) →
          Answers (.setChannelKind p tag n x) s
            (((s.setChannel c { s.channel c with kind := k }).restartLease .sky).replied p tag 36 .done))

/-- R37: the segment that covers an epoch, or the reason there is none. R38: angle and rate are the exact values rounded once
to 2^-32, a half to the greater; the reduced angle differs from the raw one by whole turns and lies in [0, 1) for CYCLIC, in
(-1/2, 1/2] for BOUNDED. -/
def Obligations.EvaluationFindsItsSegmentAndRoundsOnce : Prop :=
  (∀ (c : Channel) (e : Int), c.ordered →
    (c.enabled = false → c.lookup e = .uncovered .disabled) ∧
    (c.enabled = true → c.segments = [] → c.lookup e = .uncovered .empty) ∧
    (∀ i g, c.enabled = true → c.segments[i]? = some g → g.start ≤ e → e < g.start + g.span →
      c.lookup e = .covered i g c.kind) ∧
    (∀ first last, c.enabled = true → c.segments.head? = some first → c.segments.getLast? = some last →
      (e < first.start ∨ last.start + last.span ≤ e → c.lookup e = .uncovered .outside) ∧
      (first.start ≤ e → e < last.start + last.span → (∀ g ∈ c.segments, e < g.start ∨ g.start + g.span ≤ e) →
        c.lookup e = .uncovered .gap))) ∧
  (∀ (g : Segment) (e t d a2 : Int), t = e - g.start → d = 88473600 → a2 = g.a2.getD 0 →
    2 * 2 ^ 16 * d * d * g.angle e - 2 ^ 16 * d * d ≤
        2 * ((g.a0 : Int) * 2 ^ 16 * d * d + g.a1 * t * 2 ^ 16 * d + a2 * t * t) ∧
      2 * ((g.a0 : Int) * 2 ^ 16 * d * d + g.a1 * t * 2 ^ 16 * d + a2 * t * t) <
        2 * 2 ^ 16 * d * d * g.angle e + 2 ^ 16 * d * d ∧
      2 * 2 ^ 16 * d * g.rateAt e - 2 ^ 16 * d ≤ 2 * (g.a1 * 2 ^ 16 * d + 2 * a2 * t) ∧
      2 * (g.a1 * 2 ^ 16 * d + 2 * a2 * t) < 2 * 2 ^ 16 * d * g.rateAt e + 2 ^ 16 * d) ∧
  ∀ raw : Int,
    (0 ≤ reduce .cyclic raw ∧ reduce .cyclic raw < 2 ^ 32 ∧ ∃ k, reduce .cyclic raw = raw - k * 2 ^ 32) ∧
    -(2 ^ 31) < reduce .bounded raw ∧ reduce .bounded raw ≤ 2 ^ 31 ∧ ∃ k, reduce .bounded raw = raw - k * 2 ^ 32

/-- R40, R42, R44: a Query Angle joins the evaluator's list and gets no reply yet; the free evaluator takes the oldest request
with the channel as it stands; its completion hands the result over, and a discard flag drops it (R75). An EVALUATION_START or
EVALUATION_COMPLETE with nothing to take changes nothing (log 4), and a form byte above 1 is refused (log 13); the epoch bytes of a
query at the current epoch are not read (log 14). -/
def Obligations.EvaluationsAreQueuedTakenAndDelivered : Prop :=
  ∀ (s : State) (p : Port) (tag : Byte), s.phase = .running →
    ((s.port p).request = .ready →
      (∀ n form e, 12 ≤ n ∨ 1 < form → Answers (.queryAngle p tag n form e) s (s.replied p tag 41 (.no .badValue))) ∧
      (∀ (c : ChannelId) (e : Int),
        (e < -(2 ^ 50) ∨ 2 ^ 50 ≤ e → Answers (.queryAngle p tag c.val 0 e) s (s.replied p tag 41 (.no .range))) ∧
        (-(2 ^ 50) ≤ e → e < 2 ^ 50 →
          Answers (.queryAngle p tag c.val 0 e) s
            { s.modPort p fun q => { q with request := .outstanding tag 41 } with
                evals := s.evals ++ [{ who := .port p, channel := c, epoch := some e }] }) ∧
        Answers (.queryAngle p tag c.val 1 e) s
          { s.modPort p fun q => { q with request := .outstanding tag 41 } with
              evals := s.evals ++ [{ who := .port p, channel := c, epoch := none }] })) ∧
    (s.inFlight.isSome ∨ s.evals = [] → Answers .evaluationStart s s) ∧
    (∀ f rest e, s.inFlight = none → s.evals = f :: rest → e = f.epoch.getD s.clock.epoch →
      ∃ ch : Channel, ch = { s.channel f.channel with cursor := ch.cursor } ∧
        Answers .evaluationStart s
          { s.setChannel f.channel ch with
              evals := rest
              inFlight := some { who := f.who, channel := f.channel, epoch := e,
                                 found := (s.channel f.channel).lookup e } }) ∧
    (s.inFlight = none → Answers .evaluationComplete s s) ∧
    (∀ f r tag' code', s.inFlight = some f → f.who = .port r → (s.port r).request = .outstanding tag' code' →
      Answers .evaluationComplete s
        ({ s with inFlight := none } |>.modPort r fun q =>
          { q with reply := some { tag := tag', code := code', payload := [0, 255] ++ encResult f } })) ∧
    ∀ f a use, s.inFlight = some f → f.who = .axis a use → (s.axis a).discard = true →
      exec .evaluationComplete s =
        .next (({ s with inFlight := none } : State).modAxis a fun x => { x with discard := false }).drain

/-- R78, R79, R83, R84, R13: a TRACK result at an axis in TRACKING. A covered one gives the tracking angle (where the axis acquires,
the reduced angle, on a CONTINUOUS axis with the whole turns that bring the target nearest the position, the greater where two are
equally near; else the change from the last result), the target in steps held within the soft limits, and CLAMPED where it was
held; an uncovered one keeps target and angle and sets UNCOVERED. R82, R85: after either, but for an axis that still acquires,
LAGGING is set above the lag limit and cleared at half of it, its setting lowers the governor's ceiling, an engagement with
GOVERNOR_ENGAGED (R17), and raises AXIS_LAGGING, and SETTLED holds within the tolerance, a report on the current epoch taking the axis
off the roll (R12), with which settling may complete (R13). CLAMPED set from clear raises AXIS_CLAMPED, and nothing else does. An
angle (in 2^-32 turns, R38) becomes steps as the zero offset plus the angle times steps per turn times sense, rounded to the nearest
step, a half to the greater; the change between two stamps goes the shorter way round (R79). -/
def Obligations.TrackingFollowsItsResults : Prop :=
  (∀ (x : Axis) (n m : Int), (x.record.sense = .plus → m = n * x.record.stepsPerTurn) →
    (x.record.sense = .minus → m = -(n * x.record.stepsPerTurn)) →
    2 * 2 ^ 32 * (x.stepsOf n - x.record.zeroOffset) ≤ 2 * m + 2 ^ 32 ∧
      2 * m + 2 ^ 32 < 2 * 2 ^ 32 * (x.stepsOf n - x.record.zeroOffset + 1)) ∧
  (∀ n : Int, -(2 ^ 31) < shortest n ∧ shortest n ≤ 2 ^ 31 ∧ ∃ j : Int, shortest n = n + j * 2 ^ 32) ∧
  ∀ (s : State) (f : InFlight) (a : AxisId) (t : Tracking), s.phase = .running → s.inFlight = some f →
    f.who = .axis a .track → (s.axis a).discard = false → (s.axis a).state = .tracking → (s.axis a).tracking = some t →
    (∀ r, f.result = .error r →
      ∃ (u : State) (v : Tracking), exec .evaluationComplete s = .next u.drain ∧ u.inFlight = none ∧ (u.axis a).tracking = some v ∧
        v.uncovered = true ∧ v.settled = false ∧ v.lastEpoch = some f.epoch ∧ v.target = t.target ∧ v.angle = t.angle ∧
        v.last = t.last ∧ v.acquire = t.acquire ∧ v.clamped = t.clamped ∧ (u.axis a).position = (s.axis a).position ∧
        (t.acquire = true → v.lagging = t.lagging) ∧
        (t.acquire = false → (v.lagging = true ↔
          (t.lagging = false ∧ (s.axis a).record.lagLimit < ((s.axis a).difference t.target (s.axis a).extended).natAbs) ∨
          (t.lagging = true ∧ (s.axis a).record.lagLimit / 2 < ((s.axis a).difference t.target (s.axis a).extended).natAbs))) ∧
        (t.acquire = false → t.lagging = false → v.lagging = true → s.tellsLagging u a) ∧
        (t.acquire = true ∨ t.lagging = true ∨ v.lagging = false → u.clock = s.clock) ∧
        (t.uncovered = false → ∀ q ∈ s.routedPorts .channelGap .sky, ∃ n : NoticeEntry,
          (u.port q).notices[NoticeKind.channelGap.idx] = some n ∧ n.subject = some f.channel.val) ∧
        u.clock.roll = s.clock.roll ∧ ∀ b, b ≠ a → u.axis b = s.axis b) ∧
    ∀ c, f.result = .ok c →
      ∃ (u : State) (v : Tracking), exec .evaluationComplete s = .next u.drain ∧ u.inFlight = none ∧ (u.axis a).tracking = some v ∧
        v.acquire = false ∧ v.uncovered = false ∧ v.last = some c ∧ v.lastEpoch = some c.epoch ∧
        (t.acquire = true → (s.axis a).record.kind = .limited → v.angle = c.reduced) ∧
        (t.acquire = true → (s.axis a).record.kind = .continuous → 0 < (s.axis a).record.stepsPerTurn →
          (∃ k : Int, v.angle = c.reduced + k * 2 ^ 32) ∧
          2 * ((s.axis a).stepsOf v.angle - (s.axis a).extended) ≤ (s.axis a).record.stepsPerTurn ∧
          -((s.axis a).record.stepsPerTurn : Int) < 2 * ((s.axis a).stepsOf v.angle - (s.axis a).extended)) ∧
        (∀ l, t.acquire = false → t.last = some l →
          v.angle = t.angle + (if l.stamp = c.stamp then c.raw - l.raw else shortest (c.reduced - l.reduced))) ∧
        (∀ lo hi, (s.axis a).record.soft = some (lo, hi) → lo < hi →
          v.target = max lo (min hi ((s.axis a).stepsOf v.angle)) ∧
          (v.clamped = true ↔ (s.axis a).stepsOf v.angle < lo ∨ hi < (s.axis a).stepsOf v.angle)) ∧
        ((s.axis a).record.soft = none → v.target = (s.axis a).stepsOf v.angle ∧ v.clamped = false) ∧
        (v.clamped = true → t.clamped = false →
          ∀ q ∈ s.routedPorts .axisClamped (s.groupOf a), s.tells u q .axisClamped (some a.val)) ∧
        (v.clamped = false ∨ t.clamped = true → ∀ q,
          (u.port q).notices[NoticeKind.axisClamped.idx] = (s.port q).notices[NoticeKind.axisClamped.idx]) ∧
        (u.axis a).position = (s.axis a).position ∧ (∀ b, b ≠ a → u.axis b = s.axis b) ∧
        ∀ lag : Nat, lag = ((s.axis a).difference v.target (s.axis a).extended).natAbs →
          (v.lagging = true ↔ (t.lagging = false ∧ (s.axis a).record.lagLimit < lag) ∨
            (t.lagging = true ∧ (s.axis a).record.lagLimit / 2 < lag)) ∧
          (t.lagging = true ∨ lag ≤ (s.axis a).record.lagLimit ∨ s.clock.governor = false → u.clock.ceiling = s.clock.ceiling) ∧
          (t.lagging = false → (s.axis a).record.lagLimit < lag → s.tellsLagging u a) ∧
          (v.settled = true ↔ lag ≤ (s.axis a).record.settleTolerance) ∧
          (v.settled = true → c.epoch = s.clock.epoch → s.leavesRoll u a) ∧
          (v.settled = false ∨ c.epoch ≠ s.clock.epoch ∨ s.clock.state ≠ .settling →
            u.clock.roll = s.clock.roll ∧ u.clock.state = s.clock.state)

/-! ## Axis records (chapter 3) -/

/-- R49 to R52: Configure Axis in the order of its checks, and what an accepted one writes: the whole record, DISABLED from
UNCONFIGURED, and where kind or steps per turn change the position known flag, position, turn count, hard-limit memory and staged-at
epoch cleared. The staged-at epoch goes with a changed binding, zero offset or sense too, the resume mark with a changed binding
(R56); each stands where nothing it rests on changes. R50: the field
named first is the first out of its own range of Table 3-1, else the field the first failing agreement names; a bound that names
another field is an agreement (log 28). The soft-limit bytes of a record whose presence byte is 0 are not read (log 14). The record written holds each field as
the encoding names it; the safety field named is the first that differs (R51); the reply's last flag says whether a known position
stands outside the soft limits (R52). -/
def Obligations.ConfigureAxisWritesTheRecord : Prop :=
  (∀ raw : RawRecord, (∀ f, raw.inRange f) → (recordOf raw).written raw) ∧
  (∀ old new : AxisRecord,
    (∀ f, 1 ≤ f → f ≤ 6 → (∀ g, g < f → old.keeps new g) → ¬ old.keeps new f → firstSafetyChange old new = some f) ∧
    ((∀ g, old.keeps new g) → firstSafetyChange old new = none)) ∧
  (∀ y : Axis, y.outsideLimits = true ↔
    y.known = true ∧ ∃ lo hi, y.record.soft = some (lo, hi) ∧ (y.position.within < lo ∨ hi < y.position.within)) ∧
  (∀ raw : RawRecord,
    (∀ f, 1 ≤ f → f ≤ 26 → (∀ g, g < f → raw.inRange g) → ¬ raw.inRange f → firstBadField raw = some f) ∧
    (∀ i, i < 7 → (∀ g, raw.inRange g) → (∀ j, j < i → raw.agrees (j + 1)) → ¬ raw.agrees (i + 1) →
      firstBadField raw = [3, 6, 12, 15, 19, 23, 25][i]?) ∧
    ((∀ g, raw.inRange g) → (∀ j, raw.agrees j) → firstBadField raw = none)) ∧
  ∀ (s : State) (p : Port) (tag : Byte) (raw : RawRecord), s.ready p →
    (∀ n, 16 ≤ n → Answers (.configureAxis p tag n raw) s (s.replied p tag 49 (.no .badValue))) ∧
    ∀ (a : AxisId) (x : Axis) (g h : GroupId), x = s.axis a → g = x.record.group → s.holderOf (.group g) = some p →
      (raw.group < 8 → h.val = raw.group) → (8 ≤ raw.group → h = g) →
      (s.holderOf (.group h) ≠ some p →
        Answers (.configureAxis p tag a.val raw) s (s.replied p tag 49 ⟨.notHolder, h.val + 1, []⟩)) ∧
      (s.holderOf (.group h) = some p →
        (x.state ∉ [.unconfigured, .disabled, .unreferenced, .standing] ∨ x.stage ≠ none ∨ s.evalOutstanding a = true →
          Answers (.configureAxis p tag a.val raw) s (s.replied p tag 49 (.no .state))) ∧
        (x.state ∈ [.unconfigured, .disabled, .unreferenced, .standing] → x.stage = none → s.evalOutstanding a = false →
          (∀ f, firstBadField raw = some f →
            Answers (.configureAxis p tag a.val raw) s (s.replied p tag 49 ⟨.badValue, f, []⟩)) ∧
          (∀ f, firstBadField raw = none → x.locked = true → firstSafetyChange x.record (recordOf raw) = some f →
            Answers (.configureAxis p tag a.val raw) s (s.replied p tag 49 ⟨.locked, f, []⟩)) ∧
          (firstBadField raw = none → x.locked = false ∨ firstSafetyChange x.record (recordOf raw) = none →
            ∃ y : Axis,
              Answers (.configureAxis p tag a.val raw) s
                ((((s.setAxis a y).restartLease (.group g)).restartLease (.group h)).replied p tag 49
                  (.okData (encFlag (x.known && !y.known) ++ encFlag y.outsideLimits))) ∧
              y = { x with record := recordOf raw, state := y.state, known := y.known, position := y.position,
                           limitMemory := y.limitMemory, stagedAt := y.stagedAt, resumeMark := y.resumeMark } ∧
              (x.state = .unconfigured → y.state = .disabled) ∧
              (x.record.kind = y.record.kind → x.record.stepsPerTurn = y.record.stepsPerTurn →
                y.known = x.known ∧ y.position = x.position ∧ y.limitMemory = x.limitMemory ∧
                (x.state ≠ .unconfigured → y.state = x.state)) ∧
              (x.record.kind ≠ y.record.kind ∨ x.record.stepsPerTurn ≠ y.record.stepsPerTurn →
                y.known = false ∧ y.position = ⟨0, 0⟩ ∧ y.limitMemory = none ∧ y.stagedAt = none ∧
                (x.state = .standing → y.state = .unreferenced) ∧ (x.state = .disabled → y.state = .disabled) ∧
                (x.state = .unreferenced → y.state = .unreferenced)) ∧
              (x.record.binding ≠ y.record.binding → y.stagedAt = none ∧ y.resumeMark = false) ∧
              (x.record.binding = y.record.binding → y.resumeMark = x.resumeMark) ∧
              (x.record.zeroOffset ≠ y.record.zeroOffset ∨ x.record.sense ≠ y.record.sense → y.stagedAt = none) ∧
              (x.record.kind = y.record.kind → x.record.stepsPerTurn = y.record.stepsPerTurn →
                x.record.binding = y.record.binding → x.record.zeroOffset = y.record.zeroOffset →
                x.record.sense = y.record.sense → y.stagedAt = x.stagedAt))))

/-- R53, R54, R56: Bind and Unbind set the binding, which clears the staged-at epoch and the resume mark where it changes; that a
slew in progress on a target a group staged loses the staged angle it would arrive with is the model's reading (log 24). They wait
for tracking, staging and evaluations to end. A channel number out of range is refused before the claim is looked at (R112;
log 28). R59: Lock Safety locks a configured axis by request, and changes nothing
on a locked one. -/
def Obligations.BindingsAndSafetyLocks : Prop :=
  (∀ (s : State) (p : Port) (tag : Byte), s.ready p →
    (∀ n m, 16 ≤ n ∨ 12 ≤ m → Answers (.bind p tag n m) s (s.replied p tag 50 (.no .badValue))) ∧
    (∀ n, 16 ≤ n → Answers (.unbind p tag n) s (s.replied p tag 51 (.no .badValue))) ∧
    ∀ (a : AxisId) (x : Axis) (c : ChannelId), x = s.axis a → s.holderOf (.group x.record.group) = some p →
      (x.state = .tracking ∨ x.stage ≠ none ∨ s.evalOutstanding a = true →
        Answers (.bind p tag a.val c.val) s (s.replied p tag 50 (.no .state)) ∧
        Answers (.unbind p tag a.val) s (s.replied p tag 51 (.no .state))) ∧
      (x.state ≠ .tracking → x.stage = none → s.evalOutstanding a = false →
        (x.record.binding = some c →
          Answers (.bind p tag a.val c.val) s ((s.restartLease (.group x.record.group)).replied p tag 50 .done)) ∧
        (x.record.binding = none →
          Answers (.unbind p tag a.val) s ((s.restartLease (.group x.record.group)).replied p tag 51 .done)) ∧
        (x.record.binding ≠ some c →
          Answers (.bind p tag a.val c.val) s
            (((s.setAxis a { x with record := { x.record with binding := some c }, stagedAt := none, resumeMark := false,
                                    target := x.target.map fun t => { t with staged := none } }).restartLease (.group x.record.group)).replied p tag 50 .done)) ∧
        (x.record.binding ≠ none →
          Answers (.unbind p tag a.val) s
            (((s.setAxis a { x with record := { x.record with binding := none }, stagedAt := none, resumeMark := false,
                                    target := x.target.map fun t => { t with staged := none } }).restartLease (.group x.record.group)).replied p tag 51 .done)))) ∧
  ∀ (s : State) (p : Port) (tag : Byte), s.ready p →
    (∀ n, 16 ≤ n → Answers (.lockSafety p tag n) s (s.replied p tag 52 (.no .badValue))) ∧
    ∀ (a : AxisId) (x : Axis), x = s.axis a → s.holderOf (.group x.record.group) = some p →
      (x.state = .unconfigured → Answers (.lockSafety p tag a.val) s (s.replied p tag 52 (.no .state))) ∧
      (x.state ≠ .unconfigured → x.locked = true →
        Answers (.lockSafety p tag a.val) s ((s.restartLease (.group x.record.group)).replied p tag 52 .done)) ∧
      (x.state ≠ .unconfigured → x.locked = false →
        Answers (.lockSafety p tag a.val) s
          (((s.setAxis a { x with locked := true, lockOrigin := some .byRequest }).restartLease
            (.group x.record.group)).replied p tag 52 .done))

/-! ## Axis motion (chapter 4) -/

/-- R69, R70: Enable and Disable move an axis between DISABLED and its referenced or unreferenced state; Declare Reference
sets a position that fits the record. Each answers STATE elsewhere, and BAD_VALUE for an axis number of 16 or more (R68). Enable, as a change of state, clears the staged-at epoch (R68),
Disable keeps it. The second word of a LIMITED position is not read (log 14). -/
def Obligations.EnableDisableAndDeclare : Prop :=
  (∀ (s : State) (p : Port) (tag : Byte) (n : Nat) (hi lo : BitVec 32), s.ready p → 16 ≤ n →
    Answers (.enable p tag n) s (s.replied p tag 54 (.no .badValue)) ∧
    Answers (.disable p tag n) s (s.replied p tag 55 (.no .badValue)) ∧
    Answers (.declareReference p tag n hi lo) s (s.replied p tag 56 (.no .badValue))) ∧
  ∀ (s : State) (p : Port) (tag : Byte) (a : AxisId) (x : Axis) (hi lo : BitVec 32), s.ready p → x = s.axis a →
    s.holderOf (.group x.record.group) = some p → s.power.halt.accepted = false → s.power.state = .present →
    (x.state = .disabled → x.flt.accepted = false →
      Answers (.enable p tag a.val) s
        (((s.setAxis a { x with state := if x.known then .standing else .unreferenced, stagedAt := none }).restartLease
          (.group x.record.group)).replied p tag 54 .done)) ∧
    (x.state = .disabled → x.flt.accepted = true →
      ∃ t : State, exec (.enable p tag a.val) s = .next t.drain ∧ (t.axis a).state = .faulted ∧
        (t.axis a).fault.first = some .driveFault ∧ (t.port p).reply = some (Reply.done.frame tag 54)) ∧
    (x.state = .unreferenced ∨ x.state = .standing →
      Answers (.enable p tag a.val) s ((s.restartLease (.group x.record.group)).replied p tag 54 .done)) ∧
    (x.state ∉ [.disabled, .unreferenced, .standing] →
      Answers (.enable p tag a.val) s (s.replied p tag 54 (.no .state)) ∧
      Answers (.disable p tag a.val) s (s.replied p tag 55 (.no .state))) ∧
    (x.state = .disabled →
      Answers (.disable p tag a.val) s ((s.restartLease (.group x.record.group)).replied p tag 55 .done)) ∧
    (x.state = .unreferenced →
      Answers (.disable p tag a.val) s
        (((s.setAxis a { x with state := .disabled }).restartLease (.group x.record.group)).replied p tag 55 .done)) ∧
    (x.state = .standing →
      ∃ t : State, exec (.disable p tag a.val) s = .next t.drain ∧ (t.port p).reply = some (Reply.done.frame tag 55) ∧
        t.axis a = { x with state := .disabled, stage := none, lastStage := (t.axis a).lastStage } ∧
        ∀ b, b ≠ a → (s.axis b).sameButStage (t.axis b)) ∧
    (x.state ≠ .unreferenced → x.state ≠ .standing →
      Answers (.declareReference p tag a.val hi lo) s (s.replied p tag 56 (.no .state))) ∧
    (x.state = .unreferenced ∨ x.state = .standing →
      (x.record.kind = .continuous →
        (x.record.stepsPerTurn ≤ lo.toNat →
          Answers (.declareReference p tag a.val hi lo) s (s.replied p tag 56 (.no .badValue))) ∧
        (lo.toNat < x.record.stepsPerTurn →
          ∃ t : State, exec (.declareReference p tag a.val hi lo) s = .next t.drain ∧
            (t.port p).reply = some (Reply.done.frame tag 56) ∧ (∀ b, b ≠ a → (s.axis b).sameButStage (t.axis b)) ∧
            t.axis a = { x with state := .standing, known := true, position := ⟨hi.toInt, lo.toNat⟩, stagedAt := none,
                                stage := none, lastStage := (t.axis a).lastStage })) ∧
      (x.record.kind = .limited → ∀ l h, x.record.soft = some (l, h) →
        (hi.toInt < l ∨ h < hi.toInt →
          Answers (.declareReference p tag a.val hi lo) s (s.replied p tag 56 (.no .range))) ∧
        (l ≤ hi.toInt → hi.toInt ≤ h →
          ∃ t : State, exec (.declareReference p tag a.val hi lo) s = .next t.drain ∧
            (t.port p).reply = some (Reply.done.frame tag 56) ∧ (∀ b, b ≠ a → (s.axis b).sameButStage (t.axis b)) ∧
            t.axis a = { x with state := .standing, known := true, position := ⟨0, hi.toInt⟩, stagedAt := none,
                                stage := none, lastStage := (t.axis a).lastStage })))

/-- R68, R71, R74, R94: the checks of a Slew, the axis number first and then those past the claim and HALTED, the first that fails
giving the reply; a form byte above 1
is refused (log 13). R71 to R73: the target of a LIMITED axis is the one named, that of a CONTINUOUS axis the position of that place
within the turn which the wrap policy picks; a target toward an active remembered limit is refused, one away from it is not. The
axis enters SLEWING toward it on its record's profile, held as squared speeds in units of 2^-32 (log 8), or arrives at once where it
stands there; one in TRACKING leaves the settle roll, with which settling may complete (R81, R13). The bytes before the 4-byte target are not read (log 14); of two places equally near the greater is taken (log 28). -/
def Obligations.AbsoluteSlewTakesItsTarget : Prop :=
  (∀ (s : State) (p : Port) (tag : Byte) (n form : Nat) (v : BitVec 56), s.ready p → 16 ≤ n →
    Answers (.slew p tag n form v) s (s.replied p tag 57 (.no .badValue))) ∧
  (∀ (s : State) (p : Port) (tag : Byte) (a : AxisId) (x : Axis) (form : Nat) (v : BitVec 56), s.ready p → x = s.axis a →
    s.holderOf (.group x.record.group) = some p → s.power.halt.accepted = false → s.power.state = .present →
    (x.state ∉ [.standing, .slewing, .tracking, .stopping] →
      Answers (.slew p tag a.val form v) s (s.replied p tag 57 (.no .state))) ∧
    (x.state ∈ [.standing, .slewing, .tracking, .stopping] →
      (x.known = false → Answers (.slew p tag a.val form v) s (s.replied p tag 57 (.no .notReferenced))) ∧
      (x.known = true →
        (1 < form → Answers (.slew p tag a.val form v) s (s.replied p tag 57 (.no .badValue))) ∧
        (form = 1 →
          (x.record.binding = none → Answers (.slew p tag a.val form v) s (s.replied p tag 57 (.no .state))) ∧
          (x.record.binding ≠ none → v.toInt < -(2 ^ 50) ∨ 2 ^ 50 ≤ v.toInt →
            Answers (.slew p tag a.val form v) s (s.replied p tag 57 (.no .range)))) ∧
        (form = 0 →
          (x.record.kind = .continuous → x.record.stepsPerTurn ≤ v.toNat % 2 ^ 32 →
            Answers (.slew p tag a.val form v) s (s.replied p tag 57 (.no .badValue))) ∧
          (x.record.kind = .limited → ∀ l h, x.record.soft = some (l, h) →
            (v.setWidth 32).toInt < l ∨ h < (v.setWidth 32).toInt →
            Answers (.slew p tag a.val form v) s (s.replied p tag 57 (.no .range))) ∧
          (x.record.kind = .limited → x.limitMemory = some .plus → x.limP.accepted = true →
            x.position.within < (v.setWidth 32).toInt →
            Answers (.slew p tag a.val form v) s (s.replied p tag 57 (.no .range))) ∧
          (x.record.kind = .limited → x.limitMemory = some .minus → x.limN.accepted = true →
            (v.setWidth 32).toInt < x.position.within →
            Answers (.slew p tag a.val form v) s (s.replied p tag 57 (.no .range))))))) ∧
  ∀ (s : State) (p : Port) (tag : Byte) (a : AxisId) (x : Axis) (v : BitVec 56) (k : Int), s.ready p → x = s.axis a →
    s.holderOf (.group x.record.group) = some p → s.power.halt.accepted = false → s.power.state = .present →
    x.state ∈ [.standing, .slewing, .tracking, .stopping] → x.known = true →
    (x.record.kind = .limited →
      k = (v.setWidth 32).toInt ∧ ∃ l h, x.record.soft = some (l, h) ∧ l ≤ k ∧ k ≤ h) →
    (x.record.kind = .continuous →
      v.toNat % 2 ^ 32 < x.record.stepsPerTurn ∧ (k - (v.toNat % 2 ^ 32 : Nat)).emod x.record.stepsPerTurn = 0 ∧
      (x.record.wrap.getD .shortest = .shortest →
        2 * (k - x.extended) ≤ x.record.stepsPerTurn ∧ -(x.record.stepsPerTurn : Int) < 2 * (k - x.extended)) ∧
      (x.record.wrap = some .positive → x.extended ≤ k ∧ k < x.extended + x.record.stepsPerTurn) ∧
      (x.record.wrap = some .negative → x.extended - x.record.stepsPerTurn < k ∧ k ≤ x.extended)) →
    ((x.limitMemory = some .plus ∧ x.limP.accepted = true ∧ x.extended < k) ∨
        (x.limitMemory = some .minus ∧ x.limN.accepted = true ∧ k < x.extended) →
      Answers (.slew p tag a.val 0 v) s (s.replied p tag 57 (.no .range))) ∧
    ((x.limitMemory = some .plus → x.limP.accepted = true → k ≤ x.extended) →
      (x.limitMemory = some .minus → x.limN.accepted = true → x.extended ≤ k) →
      ∃ t : State, exec (.slew p tag a.val 0 v) s = .next t.drain ∧ (t.port p).reply = some (Reply.done.frame tag 57) ∧
      (x.state = .tracking → s.leavesRoll t a) ∧
      (k ≠ x.extended ∨ x.speedSq ≠ 0 →
        t.axis a = { x with
          state := .slewing, stopping := none, tracking := none, stagedAt := none, stage := none
          lastStage := (t.axis a).lastStage, target := (t.axis a).target } ∧
        ∃ r : Target, (t.axis a).target = some r ∧ r.position = k ∧ r.staged = none ∧
          r.limitSq = x.record.velocity * x.record.velocity * 2 ^ 32 ∧ r.accel2 = 2 * x.record.acceleration * 2 ^ 32) ∧
      (k = x.extended → x.speedSq = 0 →
        (t.axis a).state = .standing ∧ (t.axis a).target = none ∧ (t.axis a).position = x.position ∧
        .event (.axisArrived a) none ∈ t.signals))

/-- R74, R40: an accepted Slew to an epoch makes the stage pending and asks for the channel's angle at that epoch, with
purpose STAGE; an axis in TRACKING, its target within its soft limits as in every state a run reaches (R71), goes on to that
target as a fixed one, off the settle roll (R81, R13). Its result: an uncovered one ends the stage
UNCOVERED with CHANNEL_GAP; a position outside the soft limits or toward an active remembered limit ends it OUT_OF_RANGE with
AXIS_CLAMPED; any other becomes the target of a slew that holds the staged tracking angle, the stage still pending, on the record's
profile held as squared speeds in units of 2^-32 (log 8). The position is that of the reduced angle in steps (R74); a CONTINUOUS
axis takes its place within the turn through the wrap policy (R71), of two equally near the greater (log 28). -/
def Obligations.StagedSlewAsksForItsAngle : Prop :=
  (∀ (x : Axis) (n k : Int), x.record.kind = .continuous → 0 < x.record.stepsPerTurn → k = x.extendedTarget n →
    (k - n).emod x.record.stepsPerTurn = 0 ∧
    (x.record.wrap.getD .shortest = .shortest →
      2 * (k - x.extended) ≤ x.record.stepsPerTurn ∧ -(x.record.stepsPerTurn : Int) < 2 * (k - x.extended)) ∧
    (x.record.wrap = some .positive → x.extended ≤ k ∧ k < x.extended + x.record.stepsPerTurn) ∧
    (x.record.wrap = some .negative → x.extended - x.record.stepsPerTurn < k ∧ k ≤ x.extended)) ∧
  (∀ (s : State) (p : Port) (tag : Byte) (a : AxisId) (x : Axis) (c : ChannelId) (v : BitVec 56), s.ready p → x = s.axis a →
    s.holderOf (.group x.record.group) = some p → s.power.halt.accepted = false → s.power.state = .present →
    x.state ∈ [.standing, .slewing, .tracking, .stopping] → x.known = true → x.record.binding = some c →
    x.lawful → -(2 ^ 50) ≤ v.toInt → v.toInt < 2 ^ 50 →
    ∃ (t : State) (k : StagePending), exec (.slew p tag a.val 1 v) s = .next t.drain ∧
      (t.port p).reply = some (Reply.done.frame tag 57) ∧
      (t.axis a).stage = some k ∧ k.epoch = v.toInt ∧ k.owner = .single ∧
      (∃ f ∈ t.evals, f.who = .axis a .stage ∧ f.channel = c ∧ f.epoch = some v.toInt) ∧
      (s.axisInFlight a = true → (t.axis a).discard = true) ∧
      (t.axis a).position = x.position ∧ (t.axis a).known = true ∧ (t.axis a).record = x.record ∧
      (x.tracking = none → (t.axis a).state = x.state ∧ (t.axis a).target = x.target) ∧
      (∀ r, x.tracking = some r →
        (t.axis a).tracking = none ∧ s.leavesRoll t a ∧
        (x.difference r.target x.extended ≠ 0 ∨ x.speedSq ≠ 0 →
          (t.axis a).state = .slewing ∧ ∃ g : Target, (t.axis a).target = some g ∧ g.position = r.target))) ∧
  ∀ (s : State) (f : InFlight) (a : AxisId) (x : Axis) (st : StagePending), s.phase = .running → s.inFlight = some f →
    f.who = .axis a .stage → x = s.axis a → x.discard = false → x.stage = some st → st.owner = .single →
    (∀ r, f.result = .error r →
      exec .evaluationComplete s = .next
        ((((({ s with inFlight := none } : State).setAxis a { x with stage := none, lastStage := .uncovered }).raise
          (.done (.stage st.serial))).notify .channelGap .sky (some f.channel.val)).drain)) ∧
    ∀ (c : Covered) (g : Int), f.result = .ok c → (x.record.kind = .limited → g = x.stepsOf c.reduced) →
      (x.record.kind = .continuous → g = x.extendedTarget ((x.stepsOf c.reduced).emod x.record.stepsPerTurn)) →
      ((∃ lo hi, x.record.soft = some (lo, hi) ∧ (g < lo ∨ hi < g)) ∨ x.towardMemory g = true →
        exec .evaluationComplete s = .next
          ((((({ s with inFlight := none } : State).setAxis a { x with stage := none, lastStage := .outOfRange }).raise
            (.failed (.stage st.serial))).notifyAxis .axisClamped a).drain)) ∧
      ((∀ lo hi, x.record.soft = some (lo, hi) → lo ≤ g ∧ g ≤ hi) → x.towardMemory g = false → x.known = true →
        x.difference g x.extended ≠ 0 ∨ x.speedSq ≠ 0 →
        ∃ (u : State) (r : Target) (y : StagedAt), exec .evaluationComplete s = .next u.drain ∧
          u.axis a = { x with state := .slewing, target := some r, stopping := none, tracking := none, stagedAt := none } ∧
          r.position = g ∧ r.limitSq = x.record.velocity * x.record.velocity * 2 ^ 32 ∧
          r.accel2 = 2 * x.record.acceleration * 2 ^ 32 ∧ r.serial = s.serial ∧ r.staged = some y ∧
          y.epoch = st.epoch ∧ y.result = c ∧ x.stepsOf y.angle = g ∧ ∃ n : Int, y.angle = c.reduced + n * 2 ^ 32)

/-- R76, R77: Track puts a referenced, bound axis in TRACKING, acquiring afresh, or SETTLED where it was staged at this
epoch; its target is its position, or the soft limit it stands beyond (R71, R83; log 32). Stop brings a moving axis to STOPPING
with the stop deceleration, or to its rest state where it stands; a homing it ends is lost to a return sequence (R187); an axis in
TRACKING leaves the settle roll, and with the last settling completes (R81, R12, R13). An axis number of 16 or more is refused (R68). -/
def Obligations.TrackAndStop : Prop :=
  (∀ (s : State) (p : Port) (tag : Byte) (n : Nat), s.ready p → 16 ≤ n →
    Answers (.track p tag n) s (s.replied p tag 58 (.no .badValue)) ∧
    Answers (.stop p tag n) s (s.replied p tag 59 (.no .badValue))) ∧
  ∀ (s : State) (p : Port) (tag : Byte) (a : AxisId) (x : Axis), s.ready p → x = s.axis a →
    s.holderOf (.group x.record.group) = some p → s.power.halt.accepted = false → s.power.state = .present →
    (x.state ∉ [.standing, .slewing, .tracking, .stopping] →
      Answers (.track p tag a.val) s (s.replied p tag 58 (.no .state))) ∧
    (x.state ∈ [.standing, .slewing, .tracking, .stopping] →
      (x.known = false → Answers (.track p tag a.val) s (s.replied p tag 58 (.no .notReferenced))) ∧
      (x.known = true → x.record.binding = none → Answers (.track p tag a.val) s (s.replied p tag 58 (.no .state)))) ∧
    (x.state = .tracking → x.known = true → x.record.binding ≠ none →
      Answers (.track p tag a.val) s ((s.restartLease (.group x.record.group)).replied p tag 58 .done)) ∧
    (x.state ∈ [.standing, .slewing, .stopping] → x.known = true → ∀ c, x.record.binding = some c →
      (x.activeMemory ≠ none → Answers (.track p tag a.val) s (s.replied p tag 58 (.no .range))) ∧
      (x.activeMemory = none →
        ∃ (t : State) (r : Tracking), exec (.track p tag a.val) s = .next t.drain ∧
          (t.port p).reply = some (Reply.done.frame tag 58) ∧
          (t.axis a).state = .tracking ∧ (t.axis a).tracking = some r ∧ (t.axis a).target = none ∧
          (t.axis a).stopping = none ∧ (t.axis a).stage = none ∧ (t.axis a).stagedAt = none ∧
          (t.axis a).position = x.position ∧ (t.axis a).speedSq = x.speedSq ∧
          (x.record.soft = none → r.target = x.extended) ∧
          (∀ lo hi, x.record.soft = some (lo, hi) → lo < hi → r.target = max lo (min hi x.extended)) ∧ r.lagging = false ∧ r.clamped = false ∧ r.uncovered = false ∧
          (∀ y, x.stagedAt = some y → y.epoch = s.clock.epoch →
            r.acquire = false ∧ r.settled = true ∧ r.angle = y.angle ∧ r.last = some y.result) ∧
          (x.stagedAt.map StagedAt.epoch ≠ some s.clock.epoch →
            r.acquire = true ∧ r.settled = false ∧ (s.clock.state = .settling → a ∈ t.clock.roll)) ∧
          ∃ f ∈ t.evals, f.who = .axis a .track ∧ f.channel = c ∧ f.epoch = some s.clock.epoch)) ∧
    (x.state ∈ [.unconfigured, .faulted] → Answers (.stop p tag a.val) s (s.replied p tag 59 (.no .state))) ∧
    (x.state ∈ [.disabled, .unreferenced, .standing, .stopping] →
      Answers (.stop p tag a.val) s ((s.restartLease (.group x.record.group)).replied p tag 59 .done)) ∧
    (x.state ∈ [.slewing, .tracking, .homing] → ∀ rest : RestState,
      (x.state = .homing → rest = .unreferenced) → (x.state ≠ .homing → rest = .standing) →
      ∃ t : State, exec (.stop p tag a.val) s = .next t.drain ∧ (t.port p).reply = some (Reply.done.frame tag 59) ∧
        (t.axis a).target = none ∧ (t.axis a).tracking = none ∧ (t.axis a).homing = none ∧ (t.axis a).stage = none ∧
        (t.axis a).position = x.position ∧ (t.axis a).known = x.known ∧
        (x.speedSq ≠ 0 →
          (t.axis a).state = .stopping ∧ (t.axis a).stopping = some ⟨some x.record.stopDecel, rest⟩ ∧
          (t.axis a).speedSq = x.speedSq ∧ (t.axis a).direction = x.direction) ∧
        (x.speedSq = 0 →
          (t.axis a).state = (match rest with | .standing => .standing | .unreferenced => .unreferenced) ∧
          (t.axis a).stopping = none ∧ (t.axis a).direction = none) ∧
        (x.state = .tracking → s.leavesRoll t a) ∧
        (x.state = .homing → s.homingEnds t a))

/-- R98, R99: Home begins a search where a sensor stands and the axis may home: the position is no longer known, and the
homing record takes the record's fields, in CLEAR where HOME is active and in SEEK where it is not. An axis number of 16 or more is
refused with BAD_VALUE. -/
def Obligations.HomeBeginsASearch : Prop :=
  (∀ (s : State) (p : Port) (tag : Byte) (n : Nat), s.ready p → 16 ≤ n →
    Answers (.home p tag n) s (s.replied p tag 60 (.no .badValue))) ∧
  ∀ (s : State) (p : Port) (tag : Byte) (a : AxisId) (x : Axis), s.ready p → x = s.axis a →
    s.holderOf (.group x.record.group) = some p → s.power.halt.accepted = false → s.power.state = .present →
    (x.state ≠ .unreferenced → x.state ≠ .standing → Answers (.home p tag a.val) s (s.replied p tag 60 (.no .state))) ∧
    (x.record.sensor = false → Answers (.home p tag a.val) s (s.replied p tag 60 (.no .state))) ∧
    (x.state = .unreferenced ∨ x.state = .standing → x.record.sensor = true →
      ∃ t : State, exec (.home p tag a.val) s = .next t.drain ∧ (t.port p).reply = some (Reply.done.frame tag 60) ∧
        (∀ b, b ≠ a → (s.axis b).sameButStage (t.axis b)) ∧
        t.axis a = { x with
          state := .homing, known := false, position := ⟨0, 0⟩, limitMemory := none, stagedAt := none, stage := none
          target := none, stopping := none, tracking := none, lastStage := (t.axis a).lastStage
          homing := some
            { phase := if x.home.accepted = x.record.homeRising then .clear else .seek
              braking := false, direction := x.record.homeDirection, speed := x.record.homeSpeed
              activeHigh := x.record.homeRising, filter := x.record.homeFilter, offset := x.record.homeOffset
              distance := x.record.searchDistance, travel := 0, reversals := 0, edge := none, starter := .request } })

/-- R177: Clear Fault is refused without drive power, off a fault, and while FLT is active after a drive fault; HALT does not
refuse it. Else the axis leaves FAULTED with its fault record cleared, and an FLT still active faults it afresh (R175). -/
def Obligations.ClearFaultLeavesFaulted : Prop :=
  ∀ (s : State) (p : Port) (tag : Byte), s.ready p →
    (∀ n, 16 ≤ n → Answers (.clearFault p tag n) s (s.replied p tag 61 (.no .badValue))) ∧
    ∀ (a : AxisId) (x : Axis), x = s.axis a → s.holderOf (.group x.record.group) = some p →
      (s.power.state ≠ .present → Answers (.clearFault p tag a.val) s (s.replied p tag 61 (.no .halted))) ∧
      (s.power.state = .present →
        (x.state ≠ .faulted → Answers (.clearFault p tag a.val) s (s.replied p tag 61 (.no .state))) ∧
        (x.state = .faulted →
          (x.fault.first = some .driveFault ∨ .driveFault ∈ x.fault.further → x.flt.accepted = true →
            Answers (.clearFault p tag a.val) s (s.replied p tag 61 (.no .state))) ∧
          (x.flt.accepted = false →
            Answers (.clearFault p tag a.val) s
              (((s.setAxis a { x with
                  fault := { first := none, further := [], reversals := none, autoClear := none }
                  state := if x.known then .standing else .unreferenced }).restartLease
                (.group x.record.group)).replied p tag 61 .done)) ∧
          (x.flt.accepted = true → x.fault.first ≠ some .driveFault → .driveFault ∉ x.fault.further →
            ∃ t : State, exec (.clearFault p tag a.val) s = .next t.drain ∧ (t.axis a).state = .faulted ∧
              (t.axis a).fault = { first := some .driveFault, further := [], reversals := none, autoClear := none } ∧
              (t.port p).reply = some (Reply.done.frame tag 61))))

/-! ## Groups (chapter 4) -/

/-- R86, R87: a Coordinated Slew whose entries all fit moves the named axes of its group together: one record in MOVING with the
greatest T of their least durations Ti, each axis SLEWING to its own target with velocity limit times Ti/T and acceleration times
(Ti/T)^2; Ti is d/v + v/a, or 2√(d/a) below v²/a. An axis at its target arrives at once (R73); where all do, so does the record (R88).
A record of the group in progress fails first, SUPERSEDED: what awaits it learns so, and the stage pendings of its members end
(R86), and the held targets with the record. Refused, each by the place, counted from 0 (log 28), of the first entry that fails:
an axis not STANDING; then one without its position known; then, after an empty or too long list, an entry that names no axis of
the group or one named before it, or no position within the turn; then a target outside the soft limits or toward an active
remembered limit (RANGE). That states stand before positions, and these before the list's own fields, is
R68's order of checks as the model reads it beside R87 (log 28), as is the greater of two places equally near; durations are whole nanoseconds, rounded down (log 9), and speeds are held as squares
in units of 2^-32 (log 8). -/
def Obligations.CoordinatedSlewMovesTogether : Prop :=
  (∀ (x : Axis) (raw : BitVec 32),
    (∀ k, x.names raw k → (x.barred k → x.absoluteTarget raw = .error .range) ∧ (¬x.barred k → x.absoluteTarget raw = .ok k)) ∧
    (x.record.kind = .continuous → x.record.stepsPerTurn ≤ raw.toNat → x.absoluteTarget raw = .error .badValue)) ∧
  (∀ (s : State) (a : AxisId) (k : Int) (d v c : Nat), d = ((s.axis a).difference k (s.axis a).extended).natAbs →
    v = (s.axis a).record.velocity → c = (s.axis a).record.acceleration →
    (d = 0 → s.memberTime a k = 0) ∧
    (d ≠ 0 → v * v ≤ d * c → s.memberTime a k = (d * c + v * v) * 1000000000 / (v * c)) ∧
    (d * c < v * v → ∃ q : Nat, q * q ≤ d * 1000000000000000000 / c ∧
      d * 1000000000000000000 / c < (q + 1) * (q + 1) ∧ s.memberTime a k = 2 * q)) ∧
  ∀ (s : State) (p : Port) (tag : Byte) (l : List (Nat × BitVec 32)), s.ready p →
    (∀ n, 8 ≤ n → Answers (.coordinatedSlew p tag n l) s (s.replied p tag 65 (.no .badValue))) ∧
    ∀ g : GroupId, s.holderOf (.group g) = some p → s.power.halt.accepted = false → s.power.state = .present →
      (∀ pre (a : AxisId) raw post, l = pre ++ (a.val, raw) :: post →
        (∀ e ∈ pre, ∀ b : AxisId, b.val = e.1 → (s.axis b).state = .standing) → (s.axis a).state ≠ .standing →
        Answers (.coordinatedSlew p tag g.val l) s (s.replied p tag 65 ⟨.state, pre.length, []⟩)) ∧
      ((∀ e ∈ l, ∀ a : AxisId, a.val = e.1 → (s.axis a).state = .standing) →
        (∀ pre (a : AxisId) raw post, l = pre ++ (a.val, raw) :: post →
          (∀ e ∈ pre, ∀ b : AxisId, b.val = e.1 → (s.axis b).known = true) → (s.axis a).known = false →
          Answers (.coordinatedSlew p tag g.val l) s (s.replied p tag 65 ⟨.notReferenced, pre.length, []⟩)) ∧
        ((∀ e ∈ l, ∀ a : AxisId, a.val = e.1 → (s.axis a).known = true) →
          (l.length = 0 ∨ 16 < l.length →
            Answers (.coordinatedSlew p tag g.val l) s (s.replied p tag 65 (.no .badValue))) ∧
          (1 ≤ l.length → l.length ≤ 16 →
            (∀ pre e post, l = pre ++ e :: post → (∀ u d v, pre = u ++ d :: v → ¬s.misfits g u d) → s.misfits g pre e →
              Answers (.coordinatedSlew p tag g.val l) s (s.replied p tag 65 ⟨.badValue, pre.length, []⟩)) ∧
            ((∀ u d v, l = u ++ d :: v → ¬s.misfits g u d) →
              ∀ pre (a : AxisId) raw post k, l = pre ++ (a.val, raw) :: post →
                (∀ e ∈ pre, ∀ (b : AxisId) j, b.val = e.1 → (s.axis b).names e.2 j → ¬(s.axis b).barred j) →
                (s.axis a).names raw k → (s.axis a).barred k →
                Answers (.coordinatedSlew p tag g.val l) s (s.replied p tag 65 ⟨.range, pre.length, []⟩))))) ∧
      ∀ k : AxisId → Int, 1 ≤ l.length → l.length ≤ 16 → (l.map Prod.fst).Nodup →
        (∀ e ∈ l, ∃ a : AxisId, a.val = e.1 ∧ (s.axis a).record.group = g ∧ (s.axis a).state = .standing ∧
          (s.axis a).known = true ∧ (s.axis a).absoluteTarget e.2 = .ok (k a) ∧
          ((s.axis a).difference (k a) (s.axis a).extended ≠ 0 ∨ (s.axis a).speedSq = 0)) →
        ∃ (t : State) (m : GroupMotion) (d : Nat), exec (.coordinatedSlew p tag g.val l) s = .next t.drain ∧
          (t.port p).reply = some (Reply.done.frame tag 65) ∧ t.motions[g] = some m ∧
          m.stageEpoch = none ∧ m.cause = none ∧ m.duration = some d ∧ s.supersedes t g (fun _ => False) ∧
          ((∃ a : AxisId, a.val ∈ l.map Prod.fst ∧ (s.axis a).difference (k a) (s.axis a).extended ≠ 0) →
            m.state = .moving) ∧
          ((∀ a : AxisId, a.val ∈ l.map Prod.fst → (s.axis a).difference (k a) (s.axis a).extended = 0) →
            m.state = .arrived ∧ .event (.groupArrived g) none ∈ t.signals) ∧
          (∀ a : AxisId, a.val ∈ l.map Prod.fst → s.memberTime a (k a) ≤ d) ∧
          (∃ a : AxisId, a.val ∈ l.map Prod.fst ∧ s.memberTime a (k a) = d) ∧
          (∀ a : AxisId, a.val ∈ l.map Prod.fst ↔ a ∈ m.members.map Member.axis) ∧
          (∀ x ∈ m.members, x.target = some (k x.axis) ∧
            x.outcome = if (s.axis x.axis).difference (k x.axis) (s.axis x.axis).extended = 0 then .arrived else .moving) ∧
          (∀ (a : AxisId) (n : Nat) (y : AxisRecord), a.val ∈ l.map Prod.fst → n = s.memberTime a (k a) →
            y = (s.axis a).record → (t.axis a).position = (s.axis a).position ∧
            ((s.axis a).difference (k a) (s.axis a).extended = 0 →
              (t.axis a).state = .standing ∧ (t.axis a).target = none ∧ .event (.axisArrived a) none ∈ t.signals) ∧
            ((s.axis a).difference (k a) (s.axis a).extended ≠ 0 →
              (t.axis a).state = .slewing ∧ ∃ r : Target, (t.axis a).target = some r ∧ r.position = k a ∧
                (n = d → r.limitSq = y.velocity * y.velocity * 2 ^ 32 ∧ r.accel2 = 2 * y.acceleration * 2 ^ 32) ∧
                (n ≠ d → r.limitSq = y.velocity * y.velocity * 2 ^ 32 * (n * n) / (d * d) ∧
                  r.accel2 = 2 * y.acceleration * 2 ^ 32 * (n * n) / (d * d)))) ∧
          ∀ a : AxisId, a.val ∉ l.map Prod.fst → (s.axis a).sameButStage (t.axis a)

/-- R89: Stage Group takes its members' places; those that stand referenced and bound become stage pendings with their angle
asked for, and where there is none the record is ARRIVED at once, its duration 0 (the model's: log 9). A member that meets several reasons
has the first of UNBOUND, NOT_REFERENCED, NOT_STANDING (the model's reading: log 28). R90: the result of a staged member settles its outcome:
UNCOVERED with CHANNEL_GAP; READY with its target and staged result; or OUT_OF_RANGE, which fails the record and ends the stages
of its members. With the last one the motion starts: the READY members slew to their targets on profiles stretched to the greatest of
their least durations (R87), one at its target arrives at once with its staged-at, the record is MOVING, or ARRIVED where none is left
to move (R88), and the stage pending of every member ends. A record in progress is superseded as by a Coordinated Slew (R86). Its last outcome is UNCOVERED for an uncovered member and stands for the others
(log 24); a stage pending that the request replaces ends with ENDED. The reply lists the members and their places (log 14). -/
def Obligations.StageGroupAsksForItsAngles : Prop :=
  (∀ (s : State) (g : GroupId), s.membersOf g = allAxes.filter fun a => (s.axis a).record.group = g) ∧
  (∀ (s : State) (a : AxisId) (x : Axis), x = s.axis a →
    (x.record.binding = none → s.stagePlace a = .passedOver .unbound) ∧
    (x.record.binding ≠ none → x.known = false → s.stagePlace a = .passedOver .notReferenced) ∧
    (x.record.binding ≠ none → x.known = true → x.state ≠ .standing → s.stagePlace a = .passedOver .notStanding) ∧
    (x.record.binding ≠ none → x.known = true → x.state = .standing → s.stagePlace a = .evaluating)) ∧
  (∀ (s : State) (p : Port) (tag : Byte) (e : Int), s.ready p →
    (∀ n, 8 ≤ n → Answers (.stageGroup p tag n e) s (s.replied p tag 66 (.no .badValue))) ∧
    ∀ g : GroupId, s.holderOf (.group g) = some p → s.power.halt.accepted = false → s.power.state = .present →
      (e < -(2 ^ 50) ∨ 2 ^ 50 ≤ e → Answers (.stageGroup p tag g.val e) s (s.replied p tag 66 (.no .range))) ∧
      (-(2 ^ 50) ≤ e → e < 2 ^ 50 →
        ∃ (t : State) (m : GroupMotion), exec (.stageGroup p tag g.val e) s = .next t.drain ∧
          (t.port p).reply = some ((Reply.okData
            (encList (fun a : AxisId => u8 a.val ++ encOutcome (s.stagePlace a)) (s.membersOf g))).frame tag 66) ∧
          t.motions[g] = some m ∧ m.stageEpoch = some e ∧ m.members.map Member.axis = s.membersOf g ∧
          ((∀ a ∈ s.membersOf g, s.stagePlace a ≠ .evaluating) →
            m.state = .arrived ∧ m.duration = some 0 ∧ .event (.groupArrived g) none ∈ t.signals ∧
              .done (.motion m.serial) ∈ t.signals) ∧
          ((∃ a ∈ s.membersOf g, s.stagePlace a = .evaluating) → m.state = .evaluating ∧ m.duration = none) ∧
          m.cause = none ∧ m.members.map Member.outcome = (s.membersOf g).map s.stagePlace ∧
          (∀ y ∈ m.members, y.target = none ∧ y.staged = none) ∧
          s.supersedes t g (fun a => a ∈ s.membersOf g ∧ s.stagePlace a = .evaluating) ∧
          (∀ a ∈ s.membersOf g, ∀ c, s.stagePlace a = .evaluating → (s.axis a).record.binding = some c →
            (t.axis a).stage = some ⟨e, .group g, m.serial⟩ ∧
            ∃ f ∈ t.evals, f.who = .axis a .stage ∧ f.channel = c ∧ f.epoch = some e) ∧
          ∀ a, (t.axis a).state = (s.axis a).state ∧ (t.axis a).position = (s.axis a).position ∧
            (t.axis a).target = (s.axis a).target ∧ (t.axis a).tracking = (s.axis a).tracking ∧
            ((s.axis a).stage = none → (t.axis a).lastStage = (s.axis a).lastStage) ∧
            ((s.axis a).stage ≠ none → a ∈ s.membersOf g → s.stagePlace a = .evaluating → (t.axis a).lastStage = .ended))) ∧
  ∀ (s : State) (f : InFlight) (a : AxisId) (x : Axis) (g : GroupId) (st : StagePending) (m : GroupMotion),
    s.phase = .running → s.inFlight = some f → f.who = .axis a .stage → x = s.axis a → x.discard = false →
    x.stage = some st → st.owner = .group g → s.motions[g] = some m → m.state = .evaluating →
    (∀ (c : Covered) (k : Int), f.result = .ok c → (x.record.kind = .limited → k = x.stepsOf c.reduced) →
      (x.record.kind = .continuous → k = x.extendedTarget ((x.stepsOf c.reduced).emod x.record.stepsPerTurn)) →
      (∃ lo hi, x.record.soft = some (lo, hi) ∧ (k < lo ∨ hi < k)) ∨ x.towardMemory k = true →
      s.motionOf a = some (g, m) →
      ∃ u : State, exec .evaluationComplete s = .next u.drain ∧
        u.motions[g] = some { m with
          state := .failed, cause := some .outOfRange
          members := m.members.map fun y =>
            { y with outcome := if y.axis = a then .outOfRange else y.outcome, target := none, staged := none } } ∧
        .failed (.motion m.serial) ∈ u.signals ∧
        (∀ q ∈ s.routedPorts .axisClamped (s.groupOf a), ∃ n : NoticeEntry,
          (u.port q).notices[NoticeKind.axisClamped.idx] = some n ∧ n.subject = some a.val) ∧
        (∀ y ∈ m.members, ∀ z, (s.axis y.axis).stage = some z → z.owner = .group g →
          (u.axis y.axis).stage = none ∧ (u.axis y.axis).lastStage = .ended) ∧
        ∀ b, (s.axis b).sameButStage (u.axis b)) ∧
    ∀ members : List Member,
      (∀ r, f.result = .error r → members = m.members.map fun y => if y.axis = a then { y with outcome := .uncovered } else y) →
      (∀ (c : Covered) (k : Int), f.result = .ok c → (x.record.kind = .limited → k = x.stepsOf c.reduced) →
        (x.record.kind = .continuous → k = x.extendedTarget ((x.stepsOf c.reduced).emod x.record.stepsPerTurn)) →
        (∀ lo hi, x.record.soft = some (lo, hi) → lo ≤ k ∧ k ≤ hi) ∧ x.towardMemory k = false ∧
        ∃ y : StagedAt, y.epoch = st.epoch ∧ y.result = c ∧ y.angle = x.angleFor c.reduced k ∧
          members = m.members.map fun z =>
            if z.axis = a then { z with outcome := .ready, target := some k, staged := some y } else z) →
      ((∃ y ∈ members, y.outcome = .evaluating) →
        ∃ u : State, exec .evaluationComplete s = .next u.drain ∧ u.motions[g] = some { m with members := members } ∧
          u.axes = s.axes ∧
          ∀ r, f.result = .error r → ∀ q ∈ s.routedPorts .channelGap .sky, ∃ n : NoticeEntry,
            (u.port q).notices[NoticeKind.channelGap.idx] = some n ∧ n.subject = some f.channel.val) ∧
      ((∀ y ∈ members, y.outcome ≠ .evaluating) → (∀ y ∈ members, y.outcome ≠ .ready) →
        ∃ u : State, exec .evaluationComplete s = .next u.drain ∧
          u.motions[g] = some { m with members := members, state := .arrived, duration := some 0 } ∧
          .event (.groupArrived g) none ∈ u.signals ∧
          (∀ y ∈ members, ∀ z, (s.axis y.axis).stage = some z → z.owner = .group g → (u.axis y.axis).stage = none) ∧
          ((members.map Member.axis).Nodup → ∀ y ∈ members, ∀ z, (s.axis y.axis).stage = some z → z.owner = .group g →
            (u.axis y.axis).lastStage = if y.outcome = .uncovered then .uncovered else (s.axis y.axis).lastStage)) ∧
      ((∀ y ∈ members, y.outcome ≠ .evaluating) → (∃ y ∈ members, y.outcome = .ready) →
        (members.map Member.axis).Nodup →
        (∀ y ∈ members, y.outcome = .ready → ∃ k, y.target = some k ∧ (s.axis y.axis).known = true ∧
          ((s.axis y.axis).record.kind = .limited → ∀ lo hi, (s.axis y.axis).record.soft = some (lo, hi) → lo ≤ k ∧ k ≤ hi) ∧
          ((s.axis y.axis).difference k (s.axis y.axis).extended = 0 →
            (s.axis y.axis).speedSq = 0 ∧ s.motionOf y.axis = some (g, m))) →
        ∃ (u : State) (d : Nat) (n : MotionState), exec .evaluationComplete s = .next u.drain ∧
          u.motions[g] = some { m with
            state := n, duration := some d
            members := members.map fun y =>
              if y.outcome = .ready then
                { y with outcome :=
                  if (s.axis y.axis).difference (y.target.getD 0) (s.axis y.axis).extended = 0 then .arrived else .moving }
              else y } ∧
          ((∃ y ∈ members, y.outcome = .ready ∧ (s.axis y.axis).difference (y.target.getD 0) (s.axis y.axis).extended ≠ 0) →
            n = .moving) ∧
          ((∀ y ∈ members, y.outcome ≠ .moving ∧
              (y.outcome = .ready → (s.axis y.axis).difference (y.target.getD 0) (s.axis y.axis).extended = 0)) →
            n = .arrived ∧ .event (.groupArrived g) none ∈ u.signals ∧ .done (.motion m.serial) ∈ u.signals) ∧
          (∃ y ∈ members, ∃ k, y.outcome = .ready ∧ y.target = some k ∧ s.memberTime y.axis k = d) ∧
          (∀ y ∈ members, ∀ (k : Int) (i : Nat) (x : AxisRecord), y.outcome = .ready → y.target = some k →
            i = s.memberTime y.axis k → x = (s.axis y.axis).record →
            i ≤ d ∧ (u.axis y.axis).position = (s.axis y.axis).position ∧
            ((s.axis y.axis).difference k (s.axis y.axis).extended ≠ 0 →
              (u.axis y.axis).state = .slewing ∧ ∃ r : Target, (u.axis y.axis).target = some r ∧ r.position = k ∧
                r.staged = y.staged ∧
                (i = d → r.limitSq = x.velocity * x.velocity * 2 ^ 32 ∧ r.accel2 = 2 * x.acceleration * 2 ^ 32) ∧
                (i ≠ d → r.limitSq = x.velocity * x.velocity * 2 ^ 32 * (i * i) / (d * d) ∧
                  r.accel2 = 2 * x.acceleration * 2 ^ 32 * (i * i) / (d * d))) ∧
            ((s.axis y.axis).difference k (s.axis y.axis).extended = 0 →
              (u.axis y.axis).state = .standing ∧ (u.axis y.axis).target = none ∧
              .event (.axisArrived y.axis) none ∈ u.signals ∧
              ∀ z, y.staged = some z → (u.axis y.axis).stagedAt = some z ∧ (u.axis y.axis).lastStage = .arrived)) ∧
          ∀ y ∈ members, (∀ z, (s.axis y.axis).stage = some z → z.owner = .group g → (u.axis y.axis).stage = none ∧
              (y.outcome = .uncovered → (u.axis y.axis).lastStage = .uncovered) ∧
              (y.outcome ≠ .uncovered → (∀ k, y.outcome = .ready → y.target = some k →
                  (s.axis y.axis).difference k (s.axis y.axis).extended ≠ 0) →
                (u.axis y.axis).lastStage = (s.axis y.axis).lastStage)) ∧
            (y.outcome ≠ .ready → (s.axis y.axis).sameButStage (u.axis y.axis)))

/-- R91, R92: Track Group puts every member that may track into TRACKING and leaves the others, which it passes over as UNBOUND,
NOT_REFERENCED, NOT_STANDING or LIMIT, the first of them where several apply (the model's reading: log 28); its reply lists the started, those in TRACKING and the passed over. Stop Group
stops every member in SLEWING, TRACKING or HOMING at its stop deceleration, to STANDING, or from HOMING to UNREFERENCED, lists them,
and fails a record that still evaluates. R86: every member whose part either ends takes ENDED at that one moment, and the record fails
with MEMBER_ENDED, one in EVALUATING dropping what it holds. That an UNCOVERED member of a record in EVALUATING still has a part
(o.active m), so that its end too fails the record with MEMBER_ENDED, is the model's reading (log 23). R92: a record of the group in
EVALUATING fails at Stop Group, its members still EVALUATING ENDED, the held targets and staged results dropped and the stage pendings
ended; that a READY member stands READY in it, since R92 names those still EVALUATING, is the model's reading (log 23). The axes stopped
leave the settle roll, and with the last of it settling completes (R81, R13). The bytes of the lists are those of log 14. -/
def Obligations.TrackGroupAndStopGroup : Prop :=
  (∀ x : Axis,
    (x.record.binding = none → x.trackPass = some .unbound) ∧
    (x.record.binding ≠ none → x.known = false → x.trackPass = some .notReferenced) ∧
    (x.record.binding ≠ none → x.known = true →
      (x.state ∉ [.standing, .slewing, .stopping] → x.trackPass = some .notStanding) ∧
      (x.state ∈ [.standing, .slewing, .stopping] →
        ((x.limitMemory = some .plus ∧ x.limP.accepted = true) ∨ (x.limitMemory = some .minus ∧ x.limN.accepted = true) →
          x.trackPass = some .limit) ∧
        ((x.limitMemory = some .plus → x.limP.accepted = false) → (x.limitMemory = some .minus → x.limN.accepted = false) →
          x.trackPass = none)))) ∧
  (∀ (o : MemberOutcome) (m : MotionState),
    o.active m = true ↔ o ∈ [.evaluating, .ready, .moving] ∨ (o = .uncovered ∧ m = .evaluating)) ∧
  ∀ (s : State) (p : Port) (tag : Byte), s.ready p →
    (∀ n, 8 ≤ n → Answers (.trackGroup p tag n) s (s.replied p tag 67 (.no .badValue)) ∧
      Answers (.stopGroup p tag n) s (s.replied p tag 68 (.no .badValue))) ∧
    ∀ g : GroupId, s.holderOf (.group g) = some p → s.power.halt.accepted = false → s.power.state = .present →
      (∃ t : State, exec (.trackGroup p tag g.val) s = .next t.drain ∧
        (∀ started already : List AxisId,
          started = (s.membersOf g).filter (fun a => (s.axis a).state ≠ .tracking ∧ (s.axis a).trackPass = none) →
          already = (s.membersOf g).filter (fun a => (s.axis a).state = .tracking) →
          (t.port p).reply = some ((Reply.okData (encList (fun a : AxisId => u8 a.val) started ++
            encList (fun a : AxisId => u8 a.val) already ++
            encList (fun y : AxisId × PassReason => u8 y.1.val ++ u8 y.2.code)
              (((s.membersOf g).filter fun a => (s.axis a).state ≠ .tracking).filterMap fun a =>
                (s.axis a).trackPass.map fun r => (a, r)))).frame tag 67) ∧
          ∀ (h : GroupId) (m : GroupMotion), s.motions[h] = some m → m.state ∈ [.evaluating, .moving] →
            (∃ y ∈ m.members, y.outcome.active m.state = true ∧ y.axis ∈ started) →
            t.motions[h] = some { m with
              state := .failed, cause := some .memberEnded
              members := m.members.map fun y =>
                { y with
                  outcome := if y.outcome.active m.state = true ∧ y.axis ∈ started then .ended else y.outcome
                  target := if m.state = .evaluating then none else y.target
                  staged := if m.state = .evaluating then none else y.staged } }) ∧
        (∀ a, (s.axis a).record.group = g → (s.axis a).trackPass = none → (s.axis a).state ≠ .tracking →
          (t.axis a).state = .tracking ∧ (t.axis a).tracking ≠ none ∧ (t.axis a).position = (s.axis a).position ∧
          ∀ c, (s.axis a).record.binding = some c →
            ∃ f ∈ t.evals, f.who = .axis a .track ∧ f.channel = c ∧ f.epoch = some s.clock.epoch) ∧
        (∀ a, (s.axis a).record.group ≠ g ∨ (s.axis a).trackPass ≠ none ∨ (s.axis a).state = .tracking →
          (s.axis a).sameButStage (t.axis a))) ∧
      ∃ (t : State) (stopped : List AxisId), exec (.stopGroup p tag g.val) s = .next t.drain ∧
        stopped = (s.membersOf g).filter (fun a => (s.axis a).state ∈ [.slewing, .tracking, .homing]) ∧
        (t.port p).reply = some ((Reply.okData (encList (fun a : AxisId => u8 a.val) stopped)).frame tag 68) ∧
        (∀ (a : AxisId) (rest : RestState), (s.axis a).record.group = g → (s.axis a).state ∈ [.slewing, .tracking, .homing] →
          rest = (if (s.axis a).state = .homing then .unreferenced else .standing) →
          (t.axis a).target = none ∧ (t.axis a).tracking = none ∧ (t.axis a).homing = none ∧
          (t.axis a).position = (s.axis a).position ∧
          ((s.axis a).speedSq ≠ 0 →
            (t.axis a).state = .stopping ∧ (t.axis a).speedSq = (s.axis a).speedSq ∧
            (t.axis a).stopping = some ⟨some (s.axis a).record.stopDecel, rest⟩) ∧
          ((s.axis a).speedSq = 0 → (t.axis a).state = rest.state ∧ (t.axis a).direction = none)) ∧
        (∀ a, (s.axis a).record.group ≠ g ∨ (s.axis a).state ∉ [.slewing, .tracking, .homing] →
          (t.axis a).state = (s.axis a).state ∧ (t.axis a).position = (s.axis a).position ∧
          (t.axis a).speedSq = (s.axis a).speedSq) ∧
        (∀ (h : GroupId) (m : GroupMotion), s.motions[h] = some m → m.state ∈ [.evaluating, .moving] →
          (h = g ∧ m.state = .evaluating) ∨ (∃ y ∈ m.members, y.outcome.active m.state = true ∧ y.axis ∈ stopped) →
          .failed (.motion m.serial) ∈ t.signals ∧
          t.motions[h] = some { m with
            state := .failed, cause := some .memberEnded
            members := m.members.map fun y =>
              { y with
                outcome := if (h = g ∧ m.state = .evaluating ∧ y.outcome = .evaluating) ∨
                  (y.outcome.active m.state = true ∧ y.axis ∈ stopped) then .ended else y.outcome
                target := if m.state = .evaluating then none else y.target
                staged := if m.state = .evaluating then none else y.staged } } ∧
          (m.state = .evaluating → ∀ y ∈ m.members, ∀ z, (s.axis y.axis).stage = some z → z.owner = .group h →
            (t.axis y.axis).stage = none ∧ (t.axis y.axis).lastStage = .ended)) ∧
        (∀ (h : GroupId) (m : GroupMotion), s.motions[h] = some m →
          m.state ∉ [.evaluating, .moving] ∨ ((h ≠ g ∨ m.state ≠ .evaluating) ∧
            ∀ y ∈ m.members, y.outcome.active m.state = true → y.axis ∉ stopped) → t.motions[h] = some m) ∧
        (s.clock.state = .settling →
          (∀ b, b ∈ t.clock.roll ↔ b ∈ s.clock.roll ∧ b ∉ stopped) ∧
          (s.clock.roll ≠ [] → (∀ b ∈ s.clock.roll, b ∈ stopped) → s.completesSettling t))

/-! ## Claims (chapter 6) -/

/-- R113, R115 to R118, R124: what a Claim answers and leaves of the table's entry. The bytes of the reply (a waiting entry with its
standing, the old holder's presence byte on every GRANTED) are the model's layout (log 14). -/
def Obligations.ClaimIsGrantedQueuedOrHeld : Prop :=
  ∀ (s : State) (p : Port) (tag : Byte) (n w f len : Nat), s.ready p →
    (9 ≤ n ∨ 1 < w ∨ 1 < f ∨ 600 < len → Answers (.claim p tag n w f len) s (s.replied p tag 81 (.no .badValue))) ∧
    ∀ (r : Resource) (granted : ClaimEntry), n = resourceCode r → w ≤ 1 → f ≤ 1 → len ≤ 600 →
      granted = { holder := some { port := p, standing := (s.port p).standing
                                   lease := if len = 0 then none else some { length := len, remaining := len * 1000 } }
                  waiting := (s.claim r).waiting.filter fun x => x.port ≠ p } →
      ((s.claim r).holder = none ∨ s.holderOf r = some p →
        Answers (.claim p tag n w f len) s
          ((s.setClaim r granted).replied p tag 81 ⟨.granted, 255, encClaimed r granted ++ encPortOpt none⟩)) ∧
      ∀ h, (s.claim r).holder = some h → h.port ≠ p →
        (f = 1 → h.standing < (s.port p).standing →
          exec (.claim p tag n w f len) s = .next
            (((((if s.runnerNeeds h.port r then s.modRunner h.port (·.suspend .claim) else s).noticeTo h.port .claimLost
              (claimSubject r)).setClaim r granted).replied p tag 81
              ⟨.granted, 255, encClaimed r granted ++ encPortOpt (some h.port)⟩)).drain) ∧
        (f = 0 ∨ (s.port p).standing ≤ h.standing →
          (w = 1 → (∀ x ∈ (s.claim r).waiting, x.port ≠ p) → ∀ queued : ClaimEntry,
            queued = { s.claim r with
              waiting := ((s.claim r).waiting.takeWhile fun x => (s.port p).standing ≤ x.standing) ++
                { port := p, standing := (s.port p).standing } ::
                  (s.claim r).waiting.dropWhile fun x => (s.port p).standing ≤ x.standing } →
            Answers (.claim p tag n w f len) s
              ((s.setClaim r queued).replied p tag 81
                ⟨.queued, 255, encClaimed r queued ++
                  u8 ((s.claim r).waiting.takeWhile fun x => (s.port p).standing ≤ x.standing).length⟩)) ∧
          (w = 1 → (∃ x ∈ (s.claim r).waiting, x.port = p) →
            Answers (.claim p tag n w f len) s
              (s.replied p tag 81 ⟨.queued, 255, encClaimed r (s.claim r) ++ u8 ((s.claim r).place p)⟩)) ∧
          (w = 0 →
            Answers (.claim p tag n w f len) s
              (s.replied p tag 81
                ⟨.held, 255, encClaimed r (s.claim r) ++ u8 (encPort h.port) ++ u8 h.standing⟩)))

/-- R119: Renew restarts the lease of a resource the port holds at its full length. R120 to R123: Release passes a resource to
the head of its waiting list, or frees it; Withdraw takes the port out of the list; a lease that lapses suspends the holder's
runner, tells it, and passes the resource on; where no lease runs its expiry changes nothing (log 4), and where one runs the command
says that it has run out (log 1), also of a lease that a request of the same moment restarted (log 25). -/
def Obligations.RenewReleaseWithdrawAndLapse : Prop :=
  (∀ (s : State) (p : Port) (tag : Byte), s.ready p →
    (∀ n, 9 ≤ n → Answers (.renew p tag n) s (s.replied p tag 82 (.no .badValue))) ∧
    ∀ r : Resource,
      (s.holderOf r ≠ some p →
        Answers (.renew p tag (resourceCode r)) s (s.replied p tag 82 ⟨.notHolder, resourceCode r, []⟩)) ∧
      (s.holderOf r = some p →
        ∃ t : State, Answers (.renew p tag (resourceCode r)) s (t.replied p tag 82 (.okData (encLeaseLength (s.claim r)))) ∧
          t = s.setClaim r (t.claim r) ∧ (t.claim r).waiting = (s.claim r).waiting ∧
          (t.claim r).holder = (s.claim r).holder.map fun h =>
            { h with lease := h.lease.map fun l => { l with remaining := l.length * 1000 } })) ∧
  ∀ (s : State) (p : Port) (tag : Byte) (r : Resource),
    (s.ready p →
      (∀ n, 9 ≤ n → Answers (.release p tag n) s (s.replied p tag 83 (.no .badValue)) ∧
        Answers (.withdraw p tag n) s (s.replied p tag 84 (.no .badValue))) ∧
      (s.holderOf r ≠ some p →
        Answers (.release p tag (resourceCode r)) s (s.replied p tag 83 ⟨.notHolder, resourceCode r, []⟩)) ∧
      (s.holderOf r = some p →
        (s.runnerNeeds p r = true → Answers (.release p tag (resourceCode r)) s (s.replied p tag 83 (.no .inUse))) ∧
        (s.runnerNeeds p r = false →
          ((s.claim r).waiting = [] →
            Answers (.release p tag (resourceCode r)) s
              ((s.setClaim r { holder := none, waiting := [] }).replied p tag 83 .done)) ∧
          ∀ w ws, (s.claim r).waiting = w :: ws →
            Answers (.release p tag (resourceCode r)) s
              (((s.setClaim r { holder := some { port := w.port, standing := w.standing, lease := none }
                                waiting := ws }).noticeTo w.port .claimGranted (claimSubject r)).replied p tag 83 .done))) ∧
      Answers (.withdraw p tag (resourceCode r)) s
        ((s.setClaim r { s.claim r with waiting := (s.claim r).waiting.filter fun x => x.port ≠ p }).replied p tag 84
          (.okData (encFlag ((s.claim r).waiting.any fun x => x.port == p))))) ∧
    (s.phase = .running →
      ((s.claim r).holder = none ∨ (∃ h, (s.claim r).holder = some h ∧ h.lease = none) →
        Answers (.leaseExpiry r) s s) ∧
      ∀ h, (s.claim r).holder = some h → h.lease ≠ none → ∀ u : State,
        u = (if s.runnerNeeds h.port r then s.modRunner h.port (·.suspend .claim) else s).noticeTo h.port .claimLapsed
          (claimSubject r) →
        ((s.claim r).waiting = [] →
          exec (.leaseExpiry r) s = .next (u.setClaim r { holder := none, waiting := [] }).drain) ∧
        ∀ w ws, (s.claim r).waiting = w :: ws →
          exec (.leaseExpiry r) s = .next
            ((u.setClaim r { holder := some { port := w.port, standing := w.standing, lease := none }
                             waiting := ws }).noticeTo w.port .claimGranted (claimSubject r)).drain)

/-! ## Cue programs and runners (chapter 7) -/

/-- R131 to R134: Open empties a program for its port, Append puts well-formed cues at its end, Close validates and closes it,
Erase empties it; each refuses in its order. A removal returns the places to the store. R135, R200: a cue is stored where it is
well formed, with its target, trigger, flags and value, and its parameter bytes read most significant first, the signed ones in
two's complement. R133: Close names the lowest bad cue and the first check of Table 7-3 it fails. What counts as a parameter out of
range beyond Table 7-5's words (an epoch outside the epoch range, a mode of JUMP above 1, an axis named twice, the group of
ON_SETTLED) is the model's choice (log 30). -/
def Obligations.ProgramsAreOpenedAppendedClosedAndErased : Prop :=
  (∀ (bs : List Byte) (b : Byte), natOf [] = 0 ∧ natOf (bs ++ [b]) = natOf bs * 256 + b.toNat ∧
    intOf bs = if 2 * natOf bs < 256 ^ bs.length then (natOf bs : Int) else natOf bs - 256 ^ bs.length) ∧
  (∀ r : RawCue, (¬ r.formed → cueOf r = none) ∧
    (r.formed → ∃ c, cueOf r = some c ∧ c.action = r.means ∧ c.action.kindCode = r.kind ∧ c.action.targetKind = r.targetKind ∧
      c.target = r.target ∧ c.trigger.code = r.trigger ∧ c.flags = r.flags ∧ c.value = r.value)) ∧
  (∀ (s : State) (x : Program),
    (∀ j c n, x.cues[j]? = some c → s.cueFails x.requirement x.cues j c n →
      (∀ m, m < n → ¬ s.cueFails x.requirement x.cues j c m) →
      (∀ i d, i < j → x.cues[i]? = some d → ∀ m, ¬ s.cueFails x.requirement x.cues i d m) →
      s.closeFault x = some (j, n)) ∧
    (x.cues ≠ [] → (∀ i d, x.cues[i]? = some d → ∀ m, ¬ s.cueFails x.requirement x.cues i d m) →
      s.closeFault x = none)) ∧
  ∀ (s : State) (p : Port) (tag : Byte) (n : Nat) (req : BitVec 16) (raws : List RawCue), s.ready p →
    (16 ≤ n →
      Answers (.openProgram p tag n req) s (s.replied p tag 96 (.no .badValue)) ∧
      Answers (.appendCues p tag n raws) s (s.replied p tag 97 (.no .badValue)) ∧
      Answers (.closeProgram p tag n) s (s.replied p tag 98 (.no .badValue)) ∧
      Answers (.eraseProgram p tag n) s (s.replied p tag 99 (.no .badValue))) ∧
    ∀ (i : ProgramId) (x : Program), n = i.val → x = s.program i →
      (512 ≤ req.toNat → Answers (.openProgram p tag n req) s (s.replied p tag 96 (.no .badValue))) ∧
      (req.toNat < 512 →
        (x.state = .opened → Answers (.openProgram p tag n req) s (s.replied p tag 96 (.no .state))) ∧
        (x.state ≠ .opened → x.inUse ≠ none →
          Answers (.openProgram p tag n req) s (s.replied p tag 96 (.no .inUse))) ∧
        (x.state ≠ .opened → x.inUse = none → ∀ t : State,
          t = s.setProgram i { state := .opened, opener := some p, requirement := req, cues := [], inUse := none } →
          exec (.openProgram p tag n req) s = .next (t.replied p tag 96 (.okData (beNat 2 t.freeCues))).drain ∧
          (s.cuesLawful → t.freeCues = s.freeCues + x.cues.length))) ∧
      (raws.length = 0 ∨ 8 < raws.length → Answers (.appendCues p tag n raws) s (s.replied p tag 97 (.no .badValue))) ∧
      (1 ≤ raws.length → raws.length ≤ 8 →
        (x.state ≠ .opened ∨ x.opener ≠ some p →
          Answers (.appendCues p tag n raws) s (s.replied p tag 97 (.no .state))) ∧
        (x.state = .opened → x.opener = some p →
          (∀ j r, raws[j]? = some r → cueOf r = none → (∀ k y, k < j → raws[k]? = some y → cueOf y ≠ none) →
            Answers (.appendCues p tag n raws) s (s.replied p tag 97 ⟨.badValue, j, []⟩)) ∧
          ∀ cues : List Cue, raws.map cueOf = cues.map some →
            (128 < x.cues.length + cues.length ∨ s.freeCues < cues.length →
              Answers (.appendCues p tag n raws) s (s.replied p tag 97 (.no .full))) ∧
            (x.cues.length + cues.length ≤ 128 → cues.length ≤ s.freeCues → ∀ t : State,
              t = s.setProgram i { x with cues := x.cues ++ cues } →
              exec (.appendCues p tag n raws) s = .next
                (t.replied p tag 97 (.okData (u8 (x.cues.length + cues.length) ++ beNat 2 t.freeCues))).drain ∧
              t.freeCues = s.freeCues - cues.length))) ∧
      (x.state ≠ .opened ∨ x.opener ≠ some p → Answers (.closeProgram p tag n) s (s.replied p tag 98 (.no .state))) ∧
      (x.state = .opened → x.opener = some p →
        (x.cues = [] → Answers (.closeProgram p tag n) s (s.replied p tag 98 ⟨.badValue, 0, [0]⟩)) ∧
        (∀ j why, s.closeFault x = some (j, why) →
          Answers (.closeProgram p tag n) s (s.replied p tag 98 ⟨.badValue, j, u8 why⟩)) ∧
        (s.closeFault x = none →
          x.cues ≠ [] ∧
          exec (.closeProgram p tag n) s = .next
            ((s.setProgram i { x with state := .closed, opener := none }).replied p tag 98
              (.okData (u8 x.cues.length))).drain)) ∧
      (x.state = .opened → x.opener ≠ some p →
        Answers (.eraseProgram p tag n) s (s.replied p tag 99 (.no .state))) ∧
      (x.state ≠ .opened ∨ x.opener = some p →
        (x.inUse ≠ none → Answers (.eraseProgram p tag n) s (s.replied p tag 99 (.no .inUse))) ∧
        (x.inUse = none →
          exec (.eraseProgram p tag n) s = .next
            ((s.setProgram i { state := .empty, opener := none, requirement := 0, cues := [], inUse := none }).replied
              p tag 99 .done).drain))

/-- R138 to R141: the checks of Run Program in order, then the entry of cue 0 with the record fresh and the program in use; Stop
Runner takes a runner to IDLE and frees its program; Resume enters the current cue's trigger afresh; Leave Loop marks the innermost
loop. The entry starts a DELAY, waits at an unmet AT_EPOCH, ON_LINK or ON_SETTLED, and takes a met one at once, here by an END or by
a NOTE before a DELAY. R119: Run and Resume restart the leases of the requirement set. -/
def Obligations.RunnersRunStopResumeAndLeave : Prop :=
  ∀ (s : State) (p : Port) (tag : Byte) (x : Runner), s.ready p → x = s.runner p →
    (∀ n, 16 ≤ n → Answers (.runProgram p tag n) s (s.replied p tag 112 (.no .badValue))) ∧
    (∀ i : ProgramId,
      (x.state.startable = false → Answers (.runProgram p tag i.val) s (s.replied p tag 112 (.no .state))) ∧
      (x.state.startable = true →
        ((s.program i).state ≠ .closed → Answers (.runProgram p tag i.val) s (s.replied p tag 112 (.no .state))) ∧
        ((s.program i).state = .closed →
          ((s.program i).inUse ≠ none →
            Answers (.runProgram p tag i.val) s (s.replied p tag 112 (.no .inUse))) ∧
          ((s.program i).inUse = none →
            (∀ r, s.missing p (s.program i).requirement = some r →
              Answers (.runProgram p tag i.val) s (s.replied p tag 112 ⟨.notHolder, resourceCode r, []⟩)) ∧
            (s.missing p (s.program i).requirement = none →
              (s.power.halt.accepted = true ∨ s.power.state ≠ .present →
                Answers (.runProgram p tag i.val) s (s.replied p tag 112 (.no .halted))) ∧
              (s.power.halt.accepted = false → s.power.state = .present →
                ∃ t : State, exec (.runProgram p tag i.val) s = .next t.drain ∧ (t.runner p).program = some i ∧
                  (t.port p).reply = some ((Reply.okData (u8 (t.runner p).state.code)).frame tag 112) ∧
                  (∀ w, w = { Runner.reset with program := some i, state := .waitingTrigger, cue := 0 } →
                    s.entersTrigger t p (s.program i).cues w) ∧
                  ∀ c rest, (s.program i).cues = c :: rest →
                    (c.trigger ∈ [.delay, .onLink] ∨ (c.trigger ∈ [.atEpoch, .onSettled] ∧ ¬s.metAtEntry c) →
                      t.program i = { s.program i with inUse := some p } ∧ s.leasesRestart t (s.program i).requirement) ∧
                    (c.action = .endProgram → s.metAtEntry c → s.leasesRestart t (s.program i).requirement))))))) ∧
    (x.state = .idle → Answers (.stopRunner p tag) s (s.replied p tag 113 .done)) ∧
    (x.state ≠ .idle →
      ∃ t : State, exec (.stopRunner p tag) s = .next t.drain ∧ (t.port p).reply = some (Reply.done.frame tag 113) ∧
        t.runner p = { x with state := .idle, delay := none, loopPause := none, completions := [], loops := [] } ∧
        (∀ i, x.program = some i → (t.program i).inUse ≠ some p) ∧ t.axes = s.axes ∧ t.clock = s.clock ∧
        t.outputs = s.outputs) ∧
    ((∀ c, x.state ≠ .suspended c) → Answers (.resume p tag) s (s.replied p tag 114 (.no .state))) ∧
    (∀ c, x.state = .suspended c →
      (∀ r, s.missing p (s.requirement p) = some r →
        Answers (.resume p tag) s (s.replied p tag 114 ⟨.notHolder, resourceCode r, []⟩)) ∧
      (s.missing p (s.requirement p) = none →
        (s.power.halt.accepted = true ∨ s.power.state ≠ .present →
          Answers (.resume p tag) s (s.replied p tag 114 (.no .halted))) ∧
        (s.power.halt.accepted = false → s.power.state = .present →
          ∃ t : State, exec (.resume p tag) s = .next t.drain ∧
            (t.port p).reply = some ((Reply.okData (u8 (t.runner p).state.code)).frame tag 114) ∧
            (∀ w, w = { x with state := .waitingTrigger, delay := none, loopPause := none, completions := [] } →
              s.entersTrigger t p (s.cuesOf p) w) ∧
            ∀ k, (s.cuesOf p)[x.cue]? = some k →
              k.trigger = .delay ∨ (k.trigger ∈ [.atEpoch, .onSettled] ∧ ¬s.metAtEntry k) ∨
                (k.trigger = .onLink ∧ (k.fresh = true ∨ x.latch = false)) ∨ (k.action = .endProgram ∧ s.metAtEntry k) →
              s.leasesRestart t (s.requirement p)))) ∧
    (x.state.inProgram = false ∨ x.loops = [] → Answers (.leaveLoop p tag) s (s.replied p tag 115 (.no .state))) ∧
    ∀ e es, x.state.inProgram = true → x.loops = e :: es →
      Answers (.leaveLoop p tag) s
        ((s.setRunner p { x with loops := { e with leave := true } :: es }).replied p tag 115 .done)

/-- R142 to R146, R154, R155: at the end of a loop pause the runner enters its cue's trigger; where no pause runs its end changes
nothing (log 4), and where one runs the command says that it is over (log 1). A DELAY starts its timer, an unmet AT_EPOCH, ON_LINK or ON_SETTLED waits, FRESH drops the latch; a met trigger is
taken at once, here by an END. R145, R146: a link arrival, taken as a signal behind what was raised before it (log 5), satisfies a
waiting ON_LINK and leaves the latch clear; at any other runner it sets the latch, or counts an overrun with LINK_OVERRUN. R143: an
announcement of an epoch goes to the runners that wait on AT_EPOCH as it is made, and satisfies one that waits so still and whose
epoch is reached; a trigger entered later hears nothing of it. R144: once no signal is left, a waiting ON_SETTLED trigger whose group
stands settled is satisfied, of several runners first one in an order that no rule gives (log 6), and the runner goes on. -/
def Obligations.TriggersAreTestedAtEntry : Prop :=
  (∀ (n : Nat) (s : State), s.signals = [] → (∃ q d, s.waitsSettled q d ∧ s.metAtEntry d) →
    ∃ (r : Port) (c : Cue) (t : State), s.waitsSettled r c ∧ s.metAtEntry c ∧
      State.drainFor (n + 1) s = State.drainFor n t ∧
      ∀ w, w = { s.runner r with delay := none, completions := [] } → t.goesOn r (s.cuesOf r) w c) ∧
  (∀ (n : Nat) (s : State) (x : Signal) (xs : List Signal), s.signals = x :: xs →
    State.drainFor (n + 1) s = State.drainFor n (({ s with signals := xs } : State).takeSignal x)) ∧
  (∀ (s : State) (r : Port), r ∈ s.epochWaiters ↔ ∃ c, s.waitsAtEpoch r c) ∧
  (∀ (s : State) (e : Int) (l : List Port), (∀ r c, r ∈ l → ¬s.waitsAtEpoch r c) → s.takeSignal (.epoch e l) = s) ∧
  (∀ (s : State) (e : Int) (l : List Port) (r : Port) (c : Cue), r ∈ l → s.waitsAtEpoch r c →
    (∀ q d, q ∈ l → q ≠ r → ¬s.waitsAtEpoch q d) →
    (¬c.reachedAt e → s.takeSignal (.epoch e l) = s) ∧
    (c.reachedAt e → ∀ w, w = { s.runner r with delay := none, completions := [] } →
      (s.takeSignal (.epoch e l)).goesOn r (s.cuesOf r) w c)) ∧
  (∀ (s : State) (r : Port) (l : LinkId) (x : Runner), x = s.runner r →
    (∀ c, x.state = .waitingTrigger → x.loopPause = none → (s.cuesOf r)[x.cue]? = some c → c.trigger = .onLink →
      (c.action = .endProgram →
        (s.takeSignal (.arrival r l)).runner r =
          { x with state := .idle, latch := false, delay := none, loopPause := none, completions := [], loops := [] }) ∧
      (∀ c', c.action = .note → (s.cuesOf r)[x.cue + 1]? = some c' → c'.trigger = .delay →
        (s.takeSignal (.arrival r l)).runner r =
          { x with cue := x.cue + 1, latch := false, delay := some c'.delayMs, loopPause := none, completions := [] })) ∧
    (x.state ≠ .waitingTrigger ∨ x.loopPause ≠ none ∨ (∀ c, (s.cuesOf r)[x.cue]? = some c → c.trigger ≠ .onLink) →
      (x.latch = false → s.takeSignal (.arrival r l) = s.setRunner r { x with latch := true }) ∧
      (x.latch = true → s.takeSignal (.arrival r l) =
        (s.setRunner r { x with overruns := sat255 x.overruns }).noticeTo r .linkOverrun (some l.val)))) ∧
  ∀ (s : State) (r : Port) (x w : Runner), s.phase = .running → x = s.runner r →
    (x.state ≠ .waitingTrigger ∨ x.loopPause = none → Answers (.loopPauseEnd r) s s) ∧
    (x.state = .waitingTrigger → x.loopPause ≠ none →
      w = { x with state := .waitingTrigger, delay := none, loopPause := none, completions := [] } →
      ∃ t : State, exec (.loopPauseEnd r) s = .next t.drain ∧ s.entersTrigger t r (s.cuesOf r) w ∧
        (∀ c e l, (s.cuesOf r)[x.cue]? = some c → c.trigger = .atEpoch → ¬s.metAtEntry c → .epoch e l ∈ t.signals → r ∉ l) ∧
        (∀ c, (s.cuesOf r)[x.cue]? = some c →
          (c.trigger = .delay → t.runner r = { w with delay := some c.delayMs }) ∧
          (c.trigger = .atEpoch → c.falling = false → s.clock.epoch < c.value.toInt → t.runner r = w) ∧
          (c.trigger = .atEpoch → c.falling = true → c.value.toInt < s.clock.epoch → t.runner r = w) ∧
          (c.trigger = .onLink → c.fresh = true ∨ x.latch = false → t.runner r = { w with latch := false }) ∧
          (∀ g : GroupId, c.trigger = .onSettled → c.settledGroup = g.val →
            s.clock.state = .settling ∨
              (∃ a y, (s.axis a).record.group = g ∧ (s.axis a).state = .tracking ∧ (s.axis a).tracking = some y ∧
                y.settled = false) →
            t.runner r = w) ∧
          (c.action = .endProgram →
            (c.trigger = .afterPrevious ∨
              (c.trigger = .atEpoch ∧ c.falling = false ∧ c.value.toInt ≤ s.clock.epoch) ∨
              (c.trigger = .atEpoch ∧ c.falling = true ∧ s.clock.epoch ≤ c.value.toInt) ∨
              (∃ g : GroupId, c.trigger = .onSettled ∧ c.settledGroup = g.val ∧ s.clock.state ≠ .settling ∧
                ∀ a, (s.axis a).record.group = g → (s.axis a).state ≠ .tracking) →
              t.runner r = { w with state := .idle, loops := [] }) ∧
            (c.trigger = .onLink → c.fresh = false → x.latch = true →
              t.runner r = { w with state := .idle, loops := [], latch := false }))) ∧
        ((s.cuesOf r).length ≤ x.cue →
          t.runner r = { w with state := .idle, loops := [] } ∧
          (∀ i, x.program = some i → (t.program i).inUse ≠ some r) ∧
          ∃ n : NoticeEntry, (t.port r).notices[17] = some n))

/-- R142, R147 to R149, R153 to R155: at the expiry of its DELAY a runner performs its cue and the cues CHAINED behind it, each as
the request of Table 7-5 from its port (JUMP as Set Epoch, RUN_CLOCK as Run, BIND as Bind or Unbind, a SLEW of a group as
Coordinated Slew, and so on), with the effect and the status that a command of that request has, and goes on to the next trigger,
here another DELAY. A refused action ends the chain and takes it to FAULTED with the status and the cue's index, the cues before it
keeping their effects, an END to IDLE. An awaited SETTLE jump, slew, stage or group motion enters the completion set with what it
formed (log 21). A NOTE, an OUTPUT, a Set Rate, the opening and the close of a loop are stated by their effects. Where no delay runs its expiry changes nothing
(log 4); where one runs the command says that it has run out (log 1). R150: an awaited cue, here a slew from rest, leaves the runner in the completion wait; the completion of the last one,
taken as a signal (log 5), takes it to the trigger behind the chain, an earlier one is marked. R151: the failing end of an awaited
action takes it to FAULTED with MOTION_FAILED and that cue's index, its program freed, with RUNNER_FAULT. -/
def Obligations.RunnersPerformTheirCues : Prop :=
  (∀ (r : Port) (c : Cue),
    (∀ q, c.request = some q →
      (∀ u : State, ∃ a : Reply, serve r q u = ((u.perform r c).state, some a) ∧ a.status = (u.perform r c).status) ∧
      ∀ (i : Instr) (u : State) (tag : Byte), i.request = some q → i.sender = some (r, tag) → u.ready r →
        ∃ (w : State) (a : Reply), serve r q (u.outstand r tag (requestByte q)) = (w, some a) ∧
          exec i u = .next (w.enterReply r tag (requestByte q) a).drain) ∧
    ∀ (u : State) (y : Performed), y = u.perform r c → y.status = .ok →
      (∀ e mode, c.action = .jump e mode → y.awaited = some (.settling y.state.clock.settleSerial)) ∧
      (∀ (a : AxisId) v g, c.action = .slewAxis 0 v → c.target = a.val → (y.state.axis a).target = some g →
        y.awaited = some (.slew g.serial)) ∧
      (∀ (a : AxisId) v, c.action = .slewAxis 1 v → c.target = a.val →
        ∃ st, (y.state.axis a).stage = some st ∧ st.owner = .single ∧ y.awaited = some (.stage st.serial)) ∧
      ∀ g : GroupId, c.target = g.val → (∃ l, c.action = .slewGroup l) ∨ (∃ e, c.action = .stageGroup e) →
        ∃ m, y.state.motions[g] = some m ∧ y.awaited = some (.motion m.serial)) ∧
  (∀ (s : State) (r : Port) (x : Runner) (c c' : Cue) (cs rest : List Cue) (v : Nat → State) (l : List Completion),
    s.phase = .running → x = s.runner r → x.state = .waitingTrigger → x.loopPause = none → x.delay ≠ none →
    (s.cuesOf r).drop x.cue = c :: (cs ++ c' :: rest) → c.trigger = .delay → c.action.control = false →
    (∀ d ∈ cs, d.trigger = .chained ∧ d.action.control = false) → c'.trigger = .delay →
    v 0 = s.setRunner r { x with delay := none } →
    (∀ k d, (c :: cs)[k]? = some d → v (k + 1) = ((v k).perform r d).state) → l = chainEntries r x.cue (c :: cs) v →
    (∀ k d, (c :: cs)[k]? = some d → (∀ j e, j < k → (c :: cs)[j]? = some e → ((v j).perform r e).status = .ok) →
      ((v k).perform r d).status ≠ .ok →
      exec (.delayExpiry r) s =
        .next ((v (k + 1)).faultRunner r (.refused ((v k).perform r d).status) (x.cue + k)).drain) ∧
    ((∀ k d, (c :: cs)[k]? = some d → ((v k).perform r d).status = .ok) → ∀ u : State, u = v (cs.length + 1) →
      (∀ e ∈ l, .failed e.awaited ∈ u.signals →
        ∃ e' ∈ l, .failed e'.awaited ∈ u.signals ∧
          exec (.delayExpiry r) s = .next (u.faultRunner r .motionFailed e'.cue).drain) ∧
      ((∀ e ∈ l, .failed e.awaited ∉ u.signals) →
        ((∀ e ∈ l, e.complete = true) →
          exec (.delayExpiry r) s = .next
            ((u.setRunner r { x with
                state := .waitingTrigger, cue := x.cue + 1 + cs.length, delay := some c'.delayMs
                completions := [] }).forgetEpochs r).drain) ∧
        ((∃ e ∈ l, e.complete = false) →
          exec (.delayExpiry r) s = .next
            (u.setRunner r { x with state := .waitingCompletion, delay := none, completions := l }).drain)))) ∧
  (∀ (u : State) (r : Port) (cause : RunnerCause) (k : Nat) (t : State), t = u.faultRunner r cause k →
    t.runner r = { u.runner r with
      state := .faulted cause k, cue := k, delay := none, loopPause := none, completions := [] } ∧
    (∀ q, q ≠ r → t.runner q = u.runner q) ∧ (∀ i, (u.runner r).program = some i → (t.program i).inUse ≠ some r) ∧
    u.tells t r .runnerFault (some (encPort r)) ∧
    t = { u with runners := t.runners, programs := t.programs, ports := t.ports }) ∧
  (∀ (s : State) (r : Port) (w : Awaited) (x : Runner), x = s.runner r → x.state = .waitingCompletion →
    (∃ e ∈ x.completions, e.awaited = w ∧ e.complete = false) → (∀ q, q ≠ r → (s.runner q).awaits w = false) →
    ((∃ e ∈ x.completions, e.awaited ≠ w ∧ e.complete = false) →
      s.takeSignal (.done w) = s.setRunner r { x with
        completions := x.completions.map fun e => if e.awaited = w then { e with complete := true } else e }) ∧
    (∀ (k : Nat) (c : Cue), (∀ e ∈ x.completions, e.awaited = w ∨ e.complete = true) →
      k = x.cue + 1 + (((s.cuesOf r).drop (x.cue + 1)).takeWhile Cue.chained).length → (s.cuesOf r)[k]? = some c →
      c.trigger = .delay →
      (s.takeSignal (.done w)).runner r =
        { x with state := .waitingTrigger, cue := k, delay := some c.delayMs, loopPause := none, completions := [] }) ∧
    ∀ e, x.completions.find? (fun e => e.awaited == w && !e.complete) = some e →
      (s.takeSignal (.failed w)).runner r =
        { x with state := .faulted .motionFailed e.cue, cue := e.cue, delay := none, loopPause := none, completions := [] } ∧
      (∀ i, x.program = some i → ((s.takeSignal (.failed w)).program i).inUse ≠ some r) ∧
      ∃ n : NoticeEntry, ((s.takeSignal (.failed w)).port r).notices[NoticeKind.runnerFault.idx] = some n ∧
        n.subject = some (encPort r)) ∧
  ∀ (s : State) (r : Port) (x : Runner), s.phase = .running → x = s.runner r →
    (x.state ≠ .waitingTrigger ∨ x.loopPause ≠ none ∨ x.delay = none → Answers (.delayExpiry r) s s) ∧
    ∀ c c' : Cue, x.state = .waitingTrigger → x.loopPause = none → x.delay ≠ none →
      (s.cuesOf r)[x.cue]? = some c → c.trigger = .delay → (s.cuesOf r)[x.cue + 1]? = some c' → c'.trigger = .delay →
      ∃ t : State, exec (.delayExpiry r) s = .next t.drain ∧ ∀ y : Runner,
        y = { x with state := .waitingTrigger, cue := x.cue + 1, delay := some c'.delayMs, completions := [] } →
        (c.action = .note →
          t.runner r = y ∧ .event (.runnerNote r) none ∈ t.signals ∧
          ∃ n : NoticeEntry, (t.port r).notices[18] = some n ∧ n.subject = some (encPort r)) ∧
        (∀ (o : OutputId) (n width : Nat), c.action = .output n width → c.target = o.val →
          t.runner r = y ∧
          (n = 0 → t.outputs[o] = .set) ∧ (n = 1 → t.outputs[o] = .inactive) ∧ (n = 2 → t.outputs[o] = .pulsing width) ∧
          ∀ o' : OutputId, o' ≠ o → t.outputs[o'] = s.outputs[o']) ∧
        (∀ goal ms, c.action = .setRate goal ms → c.await = false →
          (s.holderOf .sky = some r → -17179869184 ≤ goal → goal ≤ 17179869184 → ms ≤ 600000 →
            t.runner r = y ∧ t.clock.commanded = goal ∧ (ms = 0 → t.clock.scheduled = goal ∧ t.clock.ramp = none)) ∧
          (s.holderOf .sky ≠ some r →
            t.clock = s.clock ∧ (∀ i, x.program = some i → (t.program i).inUse ≠ some r) ∧
            t.runner r = { x with state := .faulted (.refused .notHolder) x.cue, delay := none, completions := [] })) ∧
        (∀ n, c.action = .loopOpen n →
          x.loops.length ≤ 1 → t.runner r = { y with
            loops := { first := x.cue + 1, remaining := if n = 0 then none else some n, leave := false } :: x.loops }) ∧
        (∀ e es, c.action = .loopClose → x.loops = e :: es →
          (e.leave = true ∨ e.remaining = some 1 → t.runner r = { y with loops := es }) ∧
          (e.leave = false → e.remaining ≠ some 1 →
            t.runner r = { x with delay := none, cue := e.first, loopPause := some 2,
                                  loops := { e with remaining := e.remaining.map (· - 1) } :: es })) ∧
        (c.action = .endProgram →
          t.runner r = { x with state := .idle, delay := none, completions := [], loops := [] } ∧
          (∀ i, x.program = some i → (t.program i).inUse ≠ some r)) ∧
        ∀ (a : AxisId) (v : BitVec 56) (k : Int), c.action = .slewAxis 0 v → c.target = a.val → c.await = true →
          s.signals = [] → s.holderOf (.group (s.axis a).record.group) = some r → s.power.halt.accepted = false →
          s.power.state = .present → (s.axis a).state = .standing → (s.axis a).known = true →
          (s.axis a).absoluteTarget (v.setWidth 32) = .ok k → (s.axis a).difference k (s.axis a).extended ≠ 0 →
          ∃ g : Target, (t.axis a).state = .slewing ∧ (t.axis a).target = some g ∧ g.position = k ∧
            t.runner r = { x with
              state := .waitingCompletion, delay := none
              completions := [{ cue := x.cue, awaited := .slew g.serial, complete := false }] }

/-! ## Links, lines and captures (chapter 8) -/

/-- R159, R160, R167: Set Link writes the whole entry, its checks in order and the failing item named; Set Link Enable sets
the flag of an entry that has source and destination; Set Trigger Filter sets a length of 0, 4, 8 or 16. The sources and
destinations are those of Tables 8-2 and 8-3, each with an index in its range; their form bytes, and that bytes before a shorter index are part of it, are log 14's. The failing item of Set
Link is named by its place in the rule's list, counted from 1 (log 14), and an enabled byte above 1 at Set Link Enable is refused
(log 13). -/
def Obligations.LinksAndFiltersAreSet : Prop :=
  (∀ (r : RawSource) (x : Source), sourceOf r = some x ↔ x.sentAs r) ∧
  (∀ (r : RawDest) (x : Dest), destOf r = some x ↔ x.sentAs r) ∧
  ∀ (s : State) (p : Port) (tag : Byte) (n e : Nat) (src : RawSource) (dst : RawDest), s.ready p →
    s.holderOf .sky = some p →
    (24 ≤ n →
      Answers (.setLink p tag n e src dst) s (s.replied p tag 128 ⟨.badValue, 1, []⟩) ∧
      Answers (.setLinkEnable p tag n e) s (s.replied p tag 129 (.no .badValue))) ∧
    (∀ l : LinkId, n = l.val →
      (1 < e →
        Answers (.setLink p tag n e src dst) s (s.replied p tag 128 ⟨.badValue, 2, []⟩) ∧
        Answers (.setLinkEnable p tag n e) s (s.replied p tag 129 (.no .badValue))) ∧
      (e ≤ 1 →
        (sourceOf src = none → Answers (.setLink p tag n e src dst) s (s.replied p tag 128 ⟨.badValue, 3, []⟩)) ∧
        (sourceOf src ≠ none → destOf dst = none →
          Answers (.setLink p tag n e src dst) s (s.replied p tag 128 ⟨.badValue, 4, []⟩)) ∧
        (∀ a d, sourceOf src = some a → destOf dst = some d →
          Answers (.setLink p tag n e src dst) s
            (((s.setLink l { enabled := decide (e = 1), source := some a, dest := some d, arrivals := 0,
                             lastStart := .none }).restartLease .sky).replied p tag 128 .done)) ∧
        (e = 1 → (s.link l).source = none ∨ (s.link l).dest = none →
          Answers (.setLinkEnable p tag n e) s (s.replied p tag 129 (.no .state))) ∧
        (e = 0 ∨ ((s.link l).source ≠ none ∧ (s.link l).dest ≠ none) →
          Answers (.setLinkEnable p tag n e) s
            (((s.setLink l { s.link l with enabled := decide (e = 1) }).restartLease .sky).replied p tag 129 .done)))) ∧
    (4 ≤ n ∨ e ∉ [0, 4, 8, 16] → Answers (.setTriggerFilter p tag n e) s (s.replied p tag 131 (.no .badValue))) ∧
    ∀ t : TrigId, n = t.val → e ∈ [0, 4, 8, 16] →
      Answers (.setTriggerFilter p tag n e) s
        ((({ s with trigs := s.trigs.set t { s.trigs[t] with length := e } } : State).restartLease .sky).replied
          p tag 131 .done)

/-- R161, R163 to R166, R168, R170, R171: in a quiet part, an accepted change of a TRIG input reaches the one live link that
names it. The link counts its arrival, and its destination acts: an output, the capture queue, the clock, the latch of a runner
that waits for no arrival (one that does: TriggersAreTestedAtEntry), a program's start, refused with STATE or accepted. With no live
link nothing but the input changes, and a change to the accepted level does nothing (log 4). The snapshot of a change with no run
standing is that of the change (log 18), that of one that ends a run the run's own, by the model's choice also at filter length 0 (log 38). R161: an event of any source is delivered over every live link that names it, in an
undefined order (log 6), in which arrivals for runners and program starts take their turn behind the others (log 5). -/
def Obligations.TrigEventsReachTheirLinks : Prop :=
  (∀ (s : State) (e : Source) (snap : Option SkySnap) (t : State), t = s.takeSignal (.event e snap) →
    (∀ k, (s.link k).takes e = false → t.link k = s.link k) ∧
    ∀ (k : LinkId) (d : Dest), (s.link k).takes e = true → (s.link k).dest = some d →
      t.link k = { s.link k with arrivals := sat255 (s.link k).arrivals } ∧
      (∀ r, d = .runnerLink r → .arrival r k ∈ t.signals) ∧ (∀ r i, d = .runnerStart r i → .start r k i ∈ t.signals) ∧
      (d = .clockHalt → t.clock.state = .halted ∧ t.clock.reason = .command) ∧
      (d = .capture →
        (s.captures.records.length + (allLinks.filter fun l => (s.link l).takes e && (s.link l).dest == some .capture).length ≤ 4 →
          ∃ z ∈ t.captures.records, z.link = k ∧ z.source = e) ∧
        (4 ≤ s.captures.records.length → t.captures.records = s.captures.records ∧ t.captures.overruns ≠ 0)) ∧
      ∀ o : OutputId, (∀ l, l ≠ k → (s.link l).takes e = true → (s.link l).dest ≠ some (.outputSet o) ∧
          (s.link l).dest ≠ some (.outputClear o) ∧ ∀ ms, (s.link l).dest ≠ some (.outputPulse o ms)) →
        (d = .outputSet o → t.outputs[o] = .set) ∧ (d = .outputClear o → t.outputs[o] = .inactive) ∧
        ∀ ms, d = .outputPulse o ms → t.outputs[o] = .pulsing ms) ∧
  ∀ (s : State) (t : TrigId) (v : Bool) (edge : Edge) (snap : SkySnap) (u : State), s.phase = .running → s.Quiet →
    snap = s.trigs[t].snap.getD s.skySnap → edge = (if v then .rising else .falling) →
    u = { s with trigs := s.trigs.set t { s.trigs[t] with accepted := v, run := 0, snap := none } } →
    (s.trigs[t].accepted = v → exec (.trigInputChange t v) s = .next s) ∧
    (s.trigs[t].accepted ≠ v →
      ((∀ k, (s.link k).takes (.trig t edge) = false) → exec (.trigInputChange t v) s = .next u) ∧
      ∀ (l : LinkId) (d : Dest) (w : State), (s.link l).takes (.trig t edge) = true → (s.link l).dest = some d →
        (∀ k, k ≠ l → (s.link k).takes (.trig t edge) = false) →
        w = u.setLink l { s.link l with arrivals := sat255 (s.link l).arrivals } →
        (∀ o, d = .outputSet o → exec (.trigInputChange t v) s = .next (w.setOutput o .set)) ∧
        (∀ o, d = .outputClear o → exec (.trigInputChange t v) s = .next (w.setOutput o .inactive)) ∧
        (∀ o ms, d = .outputPulse o ms → exec (.trigInputChange t v) s = .next (w.setOutput o (.pulsing ms))) ∧
        (d = .capture → s.captures.records.length < 4 →
          exec (.trigInputChange t v) s = .next
            { w with captures := { records := s.captures.records ++ [⟨s.captures.next, l, .trig t edge, snap⟩]
                                   next := (s.captures.next + 1) % 65536, overruns := s.captures.overruns } }) ∧
        (d = .capture → 4 ≤ s.captures.records.length →
          exec (.trigInputChange t v) s = .next
            (({ w with captures := { s.captures with next := (s.captures.next + 1) % 65536
                                                     overruns := sat255 s.captures.overruns } } : State).notify
              .captureOverrun .sky (some l.val))) ∧
        (d = .clockHalt → s.clock.state ≠ .settling →
          exec (.trigInputChange t v) s = .next
            (w.withClock { s.clock with state := .halted, reason := .command, settleTimer := none, roll := [] })) ∧
        (∀ r, d = .runnerLink r → s.waitsFor r .onLink = false →
          ((s.runner r).latch = false →
            exec (.trigInputChange t v) s = .next (w.setRunner r { s.runner r with latch := true })) ∧
          ((s.runner r).latch = true →
            exec (.trigInputChange t v) s = .next
              ((w.setRunner r { s.runner r with overruns := sat255 (s.runner r).overruns }).noticeTo r .linkOverrun
                (some l.val)))) ∧
        (∀ r i c rest, d = .runnerStart r i → (s.runner r).state.startable = true → (s.program i).state = .closed →
          (s.program i).inUse = none → s.missing r (s.program i).requirement = none → s.power.halt.accepted = false →
          s.power.state = .present → (s.program i).cues = c :: rest → c.trigger = .delay →
          ∃ z : State, exec (.trigInputChange t v) s = .next z ∧
            z.link l = { s.link l with arrivals := sat255 (s.link l).arrivals, lastStart := .started } ∧
            z.runner r = { Runner.reset with program := some i, state := .waitingTrigger, delay := some c.delayMs } ∧
            z.program i = { s.program i with inUse := some r }) ∧
        (∀ r i, d = .runnerStart r i → (s.runner r).state.startable = false →
          exec (.trigInputChange t v) s = .next
            ((w.setLink l { s.link l with arrivals := sat255 (s.link l).arrivals
                                          lastStart := .refused .state }).noticeTo r .linkRefused (some l.val))))

/-! ## Notices and reports (chapter 10) -/

/-- R204, R206, R207: a routed notice forms or updates one entry of its kind at every port its routing names, and nothing
else; an addressed one at the port its row of Table 10-9 names, whatever the routing; ATTN stands while an entry outside the mask is
pending. R125: CLAIM_LOST goes to the old holder at a preemption, CLAIM_LAPSED to the former one at a lapse (whose command says that
the lease has run out, log 1), CLAIM_GRANTED to the head of the waiting list that a resource passes on to, each with the group as
subject, absent for SKY; a Claim that takes a free resource raises none. -/
def Obligations.NoticesFormOneEntryOfTheirKind : Prop :=
  (∀ (s : State) (k : NoticeKind) (r : Resource) (subject : Option Nat) (late : Bool) (q : Port) (ports : List Port),
    (s.routing[k.idx] = .all → ports = [.A, .B, .C]) →
    (∀ set, s.routing[k.idx] = .ports set → ports = [Port.A, .B, .C].filter fun x => set.getLsbD (encPort x)) →
    (∀ h, s.routing[k.idx] = .holder → s.holderOf r = some h → ports = [h]) →
    (s.routing[k.idx] = .holder → s.holderOf r = none → ports = [.A, .B, .C]) →
    s.notify k r subject late = { s with ports := (s.notify k r subject late).ports } ∧
    (q ∉ ports → (s.notify k r subject late).port q = s.port q) ∧
    (q ∈ ports →
      ((s.port q).notices[k.idx] = none →
        (s.notify k r subject late).port q =
          { s.port q with notices := (s.port q).notices.set k.idx (some ⟨1, subject, late⟩) }) ∧
      ∀ e, (s.port q).notices[k.idx] = some e →
        (s.notify k r subject late).port q =
          { s.port q with
            notices := (s.port q).notices.set k.idx (some ⟨sat255 e.count, subject, e.timeout || late⟩) })) ∧
  (∀ k : NoticeKind, k.routed = false ↔
    k ∈ [.start, .claimLost, .claimLapsed, .claimGranted, .runnerFault, .programEnded, .cueNote, .linkOverrun, .linkRefused]) ∧
  (∀ (s : State) (p q : Port) (k : NoticeKind) (subject : Option Nat),
    s.noticeTo p k subject = { s with ports := (s.noticeTo p k subject).ports } ∧
    (q ≠ p → (s.noticeTo p k subject).port q = s.port q) ∧
    ((s.port p).notices[k.idx] = none →
      (s.noticeTo p k subject).port p =
        { s.port p with notices := (s.port p).notices.set k.idx (some ⟨1, subject, false⟩) }) ∧
    ∀ e, (s.port p).notices[k.idx] = some e →
      (s.noticeTo p k subject).port p =
        { s.port p with notices := (s.port p).notices.set k.idx (some ⟨sat255 e.count, subject, e.timeout⟩) }) ∧
  (∀ (s : State) (p : Port) (tag : Byte) (r : Resource) (f len : Nat) (subject : Option Nat),
    s.phase = .running → (r = .sky → subject = none) → (∀ g : GroupId, r = .group g → subject = some g.val) →
    (s.ready p → len ≤ 600 →
      (f ≤ 1 → (s.claim r).holder = none → ∃ t : State, exec (.claim p tag (resourceCode r) 0 f len) s = .next t.drain ∧
        s.holderOf r = none ∧ t.holderOf r = some p ∧ ∀ q, (t.port q).notices = (s.port q).notices) ∧
      ∀ h, (s.claim r).holder = some h → h.port ≠ p → h.standing < (s.port p).standing →
        ∃ t : State, exec (.claim p tag (resourceCode r) 0 1 len) s = .next t.drain ∧ s.tells t h.port .claimLost subject ∧
          ∀ q, q ≠ h.port → (t.port q).notices = (s.port q).notices) ∧
    (∀ w ws, s.ready p → s.holderOf r = some p → s.runnerNeeds p r = false → (s.claim r).waiting = w :: ws →
      ∃ t : State, exec (.release p tag (resourceCode r)) s = .next t.drain ∧ t.holderOf r = some w.port ∧
        s.tells t w.port .claimGranted subject ∧ ∀ q, q ≠ w.port → (t.port q).notices = (s.port q).notices) ∧
    ∀ h, (s.claim r).holder = some h → h.lease ≠ none →
      ∃ t : State, exec (.leaseExpiry r) s = .next t.drain ∧ s.tells t h.port .claimLapsed subject ∧
        ((s.claim r).waiting = [] → t.holderOf r = none) ∧
        ∀ w ws, (s.claim r).waiting = w :: ws → t.holderOf r = some w.port ∧ s.tells t w.port .claimGranted subject) ∧
  ∀ (s : State) (q : Port), s.attn q = true ↔
    s.phase = .running ∧ ∃ k : NoticeKind, (s.port q).notices[k.idx] ≠ none ∧ (s.port q).mask.getLsbD k.idx.val = false

/-- R202, R205, R207, R185: the settings of notices, reports and the return policy, each with its bounds. -/
def Obligations.NoticeReportAndPolicySettings : Prop :=
  ∀ (s : State) (p : Port) (tag : Byte) (n form ports : Nat) (mask : BitVec 32), s.ready p →
    (2 ^ 25 ≤ mask.toNat → Answers (.setNoticeMask p tag mask) s (s.replied p tag 161 (.no .badValue))) ∧
    (mask.toNat < 2 ^ 25 →
      Answers (.setNoticeMask p tag mask) s ((s.modPort p fun q => { q with mask := mask }).replied p tag 161 .done)) ∧
    (500 < n → Answers (.setReportRate p tag n) s (s.replied p tag 164 (.no .badValue))) ∧
    (n ≤ 500 →
      Answers (.setReportRate p tag n) s
        ((s.modPort p fun q => { q with reportRate := n, updates := 0 }).replied p tag 164 .done)) ∧
    (s.holderOf .sky = some p →
      (25 ≤ n ∨ 2 < form ∨ (form = 2 ∧ (ports = 0 ∨ 7 < ports)) ∨ (∃ k : NoticeKind, n = k.idx.val ∧ k.routed = false) →
        Answers (.setNoticeRouting p tag n form ports) s (s.replied p tag 162 (.no .badValue))) ∧
      (∀ k : NoticeKind, n = k.idx.val → k.routed = true → ∀ x : Routing,
        ((form = 0 ∧ ports = 0 ∧ x = .holder) ∨ (form = 1 ∧ ports = 0 ∧ x = .all) ∨
          (form = 2 ∧ 1 ≤ ports ∧ ports ≤ 7 ∧ x = .ports (BitVec.ofNat 3 ports))) →
        Answers (.setNoticeRouting p tag n form ports) s
          ((({ s with routing := s.routing.set k.idx x } : State).restartLease .sky).replied p tag 162 .done)) ∧
      (2 < n → Answers (.setReturnPolicy p tag n) s (s.replied p tag 145 (.no .badValue))) ∧
      ∀ x : ReturnPolicy, n = x.code →
        Answers (.setReturnPolicy p tag n) s
          (((s.withPower { s.power with policy := x }).restartLease .sky).replied p tag 145 .done))

/-! ## Motion, homing and fault events (chapters 4, 5, 9) -/

/-- R66, R67, R72, R76, R80, R82, R85, R97, R100, R101, R102, R104, R107, R17: the start of a pulse, the first of a motion from rest
among them. It moves the position one step in the motion direction, carrying the turn (a LIMITED count past its 32 bits is free:
log 11), and counts for the run of HOME that stands; the rest of the axis stands but for what follows. A slew's speed goes to its limit by its acceleration, and down by it where the target
lies behind or no nearer than its braking distance; the speed of a tracking axis goes to its goal, or down by the acceleration where
the goal points elsewhere; that of a homing in CLEAR before its braking and in SEEK before its edge goes to the home speed and holds
it; a braking homing and a STOPPING axis lose speed at their deceleration (squared speeds in units of 2^-32, log 8). The step that
brings the travel count to the search distance fails the homing in the same step (R104). The goal is
feed-forward, none where uncovered or clamped, plus the correction min(25 e, root of 2 a e), held to the velocity limit, in 2^-16
steps/s with its roots and quotients cut (log 9). A tracking axis is tested for LAGGING, with AXIS_LAGGING and an
excess that engages the governor with GOVERNOR_ENGAGED, and for SETTLED, whose report on the current epoch takes the axis off the roll
(R12), with which settling may complete (R13). Where the axis may not step nothing changes (log 4): inside a pulse or a pause, at
rest with no wish to move on, its search exhausted, or in a state that emits no pulses. -/
def Obligations.PulseMovesTheAxisOneStep : Prop :=
  (∀ (x : Axis) (ra : Int) (r : Tracking), x.tracking = some r →
    (r.acquire = true → x.goal ra = 0) ∧
    (r.acquire = false → ∀ (e forward top : Int) (root : Nat), e = x.difference r.target x.extended →
      (r.uncovered = true ∨ r.clamped = true ∨ r.last = none → forward = 0) →
      (∀ c, r.uncovered = false → r.clamped = false → r.last = some c →
        forward = (c.rate * ra * x.record.stepsPerTurn * x.record.sense.sign).tdiv (86400 * 2 ^ 24)) →
      root * root ≤ 2 * x.record.acceleration * e.natAbs * 2 ^ 32 →
      2 * x.record.acceleration * e.natAbs * 2 ^ 32 < (root + 1) * (root + 1) → top = x.record.velocity * 2 ^ 16 →
      x.goal ra = max (-top) (min top (forward + e.sign * (min (25 * e.natAbs * 2 ^ 16) root : Nat))))) ∧
  ∀ (s : State) (a : AxisId) (x : Axis), s.phase = .running → x = s.axis a →
    (x.state ∉ [.homing, .slewing, .tracking, .stopping] ∨ s.power.state ≠ .present ∨ x.direction = none ∨ x.pulse ≠ none ∨
        x.pause ≠ none ∨ (∃ h, x.homing = some h ∧ h.braking = false ∧ h.edge = none ∧ h.distance ≤ h.travel) →
      Answers (.stepPulse a) s s) ∧
    ∀ d : Dir, x.state ∈ [.homing, .slewing, .tracking, .stopping] → s.power.state = .present →
      x.direction = some d → x.pulse = none → x.pause = none →
      (x.speedSq = 0 → ¬ x.wishes s.clock.ra d → Answers (.stepPulse a) s s) ∧
      (0 < x.speedSq ∨ x.wishes s.clock.ra d →
      (∀ h, x.state = .homing → x.homing = some h → h.braking = false → h.edge = none → h.travel + 1 = h.distance →
        x.tracking = none →
        ∃ (t : State) (q : Position), exec (.stepPulse a) s = .next t.drain ∧ x.oneStepOn d q ∧ s.failsSearch t a h.reversals q ∧
          (t.axis a).pulse = some x.record.pulseWidth ∧ x.home.steppedTo d (t.axis a).home) ∧
      ((∀ h, x.homing = some h →
          h.braking = true ∨ h.edge ≠ none ∨ (h.travel < h.distance ∧ (x.state = .homing → h.travel + 1 < h.distance))) →
      ∃ (t : State) (y : Axis), exec (.stepPulse a) s = .next t.drain ∧ y = t.axis a ∧
        (∀ b, b ≠ a → t.axis b = s.axis b) ∧
        y = { x with position := y.position, pulse := some x.record.pulseWidth, speedSq := y.speedSq, home := y.home,
                     homing := y.homing, tracking := y.tracking } ∧
        x.oneStepOn d y.position ∧ x.home.steppedTo d y.home ∧ (x.homing = none → y.homing = none) ∧
        (x.tracking = none → y.tracking = none ∧ t.clock = s.clock) ∧
        (∀ r, x.state = .slewing → x.target = some r →
          y.speedSq ≤ x.speedSq + r.accel2 ∧ x.speedSq ≤ y.speedSq + r.accel2 ∧
          (x.speedSq ≤ r.limitSq → y.speedSq ≤ r.limitSq) ∧
          (d.sign * y.difference r.position y.extended < 0 → y.speedSq = x.speedSq - r.accel2) ∧
          ∀ left : Nat, d.sign * y.difference r.position y.extended = left →
            (x.speedSq ≤ r.accel2 * (left + 1) → y.speedSq ≤ r.accel2 * left) ∧
            (r.accel2 * left < x.speedSq - r.accel2 → y.speedSq = x.speedSq - r.accel2) ∧
            (x.speedSq - r.accel2 ≤ r.accel2 * left →
              ∃ v, goesToward x.speedSq r.limitSq r.accel2 v ∧ y.speedSq = min v (r.accel2 * left))) ∧
        (∀ k rest, x.state = .stopping → x.stopping = some ⟨some k, rest⟩ → y.speedSq = x.speedSq - 2 * k * 2 ^ 32) ∧
        (∀ h, x.state = .homing → x.homing = some h →
          (h.braking = true ∨ h.edge ≠ none →
            y.homing = some h ∧ y.speedSq = x.speedSq - 2 * x.record.stopDecel * 2 ^ 32) ∧
          (h.braking = false → h.edge = none →
            y.homing = some { h with travel := h.travel + 1 } ∧
            goesToward x.speedSq (h.speed * h.speed * 2 ^ 32) (2 * x.record.acceleration * 2 ^ 32) y.speedSq)) ∧
        ∀ r, x.state = .tracking → x.tracking = some r →
          (d.sign * y.goal s.clock.ra ≤ 0 → y.speedSq = x.speedSq - 2 * x.record.acceleration * 2 ^ 32) ∧
          (∀ g : Nat, d.sign * y.goal s.clock.ra = g → 0 < g →
            goesToward x.speedSq (g * g) (2 * x.record.acceleration * 2 ^ 32) y.speedSq) ∧
          (r.acquire = true → y.tracking = some r ∧ t.clock = s.clock) ∧
          ∀ lag : Nat, r.acquire = false → lag = (y.difference r.target y.extended).natAbs →
            (∃ q : Tracking, y.tracking = some q ∧
              q = { r with lagging := q.lagging, settled := !r.uncovered && decide (lag ≤ x.record.settleTolerance) } ∧
              (r.lagging = false → (q.lagging = true ↔ x.record.lagLimit < lag)) ∧
              (r.lagging = true → (q.lagging = false ↔ lag ≤ x.record.lagLimit / 2))) ∧
            (r.lagging = false → x.record.lagLimit < lag → s.tellsLagging t a) ∧
            (r.lagging = true ∨ lag ≤ x.record.lagLimit →
              t.clock.ceiling = s.clock.ceiling ∧ t.clock.quiet = s.clock.quiet) ∧
            (r.settled = false → r.uncovered = false → lag ≤ x.record.settleTolerance → r.lastEpoch = some s.clock.epoch →
              s.leavesRoll t a) ∧
            (r.settled = true ∨ r.uncovered = true ∨ x.record.settleTolerance < lag ∨ r.lastEpoch ≠ some s.clock.epoch →
              t.clock.roll = s.clock.roll ∧ t.clock.state = s.clock.state)))

/-- R66, R67, R73, R74, R76, R88: the width of a pulse and a reversal pause run out; a velocity that passes 0 leaves the axis at
rest; a slew at its target and at rest arrives, with its event, and its record arrives with its last member; a stop comes to
its rest state, with neither target nor stopping or tracking record. A staged slew that arrives ends its own stage pending ARRIVED, one taken after the target stands as it is. Where it
cannot occur the event changes nothing (log 4); the command tells the moment of rest, whatever speed is shown (log 1).
R67, R93, R105, R106: how a motion starts. When nothing else is left of a step, the axes take their turns in axis order (log 10). One
at rest in a moving state takes the direction of its target, goal or search, DIR at the level its polarity gives, and the reversal
pause exactly where that level is a new one; one that has nowhere to go drops its direction. A limit that is active on that side
already is met there and then: it stops a slew or a tracking axis, turns a search once, which starts the other way, or fails it. -/
def Obligations.MotionsComeToTheirEnds : Prop :=
  (∀ s : State, s.startMotions = (List.finRange 16).foldl (fun u b => u.startMotion b 3) s) ∧
  (∀ (n : Nat) (s : State), s.signals = [] → (∀ r c, s.waitsSettled r c → ¬ s.metAtEntry c) →
    (s.startMotions.signals = [] → State.drainFor (n + 1) s = s.startMotions) ∧
    (s.startMotions.signals ≠ [] → State.drainFor (n + 1) s = State.drainFor n s.startMotions)) ∧
  (∀ (s t : State) (a : AxisId) (x : Axis), x = s.axis a → t = s.startMotion a 3 →
    (x.state ∉ [.homing, .slewing, .tracking, .stopping] ∨ x.speedSq ≠ 0 ∨ s.power.state ≠ .present → t = s) ∧
    (x.state ∈ [.homing, .slewing, .tracking, .stopping] → x.speedSq = 0 → s.power.state = .present →
      ((∀ d, ¬ x.wishes s.clock.ra d) →
        (x.direction = none → t = s) ∧
        (x.direction ≠ none → t = s.setAxis a { x with speedSq := 0, direction := none, pause := none })) ∧
      ∀ d, x.wishes s.clock.ra d →
        (x.direction = some d → t = s) ∧
        (x.direction ≠ some d → ∀ y, x.starts d y →
          (x.limitLevel d.side = false → t = s.setAxis a y) ∧
          (x.limitLevel d.side = true →
            (x.state ∈ [.slewing, .tracking] → s.stopsAtLimit t a d.side ∧ (t.axis a).dirHigh = y.dirHigh) ∧
            ∀ h, x.state = .homing → x.homing = some h →
              (h.phase = .clear ∨ h.reversals ≠ 0 →
                s.failsSearch t a h.reversals x.position ∧ (t.axis a).dirHigh = y.dirHigh) ∧
              (h.phase = .seek → h.reversals = 0 → ∀ z,
                { y with direction := none, pause := none,
                         homing := some { h with reversals := 1, direction := d.flip, travel := 0 } }.starts d.flip z →
                (x.limitLevel d.flip.side = false → t = s.setAxis a z) ∧
                (x.limitLevel d.flip.side = true →
                  s.failsSearch t a 1 x.position ∧ (t.axis a).dirHigh = z.dirHigh)))))) ∧
  ∀ (s : State) (a : AxisId) (x : Axis), s.phase = .running → x = s.axis a →
    Answers (.stepPulseEnd a) s (s.setAxis a { x with pulse := none }) ∧
    Answers (.reversalPauseEnd a) s (s.setAxis a { x with pause := none }) ∧
    (x.state ∈ [.slewing, .tracking] → x.speedSq ≠ 0 →
      exec (.velocityReachesZero a) s = .next (s.setAxis a { x with speedSq := 0, direction := none, pause := none }).drain) ∧
    (x.state ∉ [.slewing, .tracking] ∨ x.speedSq = 0 → Answers (.velocityReachesZero a) s s) ∧
    (x.state ≠ .stopping ∨ x.stopping = none → Answers (.stoppingRest a) s s) ∧
    (∀ k rest, x.state = .stopping → x.stopping = some ⟨k, rest⟩ →
      Answers (.stoppingRest a) s
        (s.setAxis a { x with
          speedSq := 0, direction := none, pause := none, target := none, stopping := none, tracking := none
          state := match rest with | .standing => .standing | .unreferenced => .unreferenced })) ∧
    (x.state ≠ .slewing ∨ x.target = none ∨ x.speedSq ≠ 0 → Answers (.axisArrived a) s s) ∧
    ∀ r, x.state = .slewing → x.target = some r → x.speedSq = 0 →
      (x.difference r.position x.extended ≠ 0 → Answers (.axisArrived a) s s) ∧
      (x.difference r.position x.extended = 0 →
        ∃ t : State, exec (.axisArrived a) s = .next t.drain ∧ (∀ b, b ≠ a → t.axis b = s.axis b) ∧
          (t.axis a).state = .standing ∧ (t.axis a).target = none ∧ (t.axis a).direction = none ∧
          (t.axis a).position = x.position ∧ (t.axis a).known = x.known ∧ (t.axis a).dirHigh = x.dirHigh ∧
          .event (.axisArrived a) none ∈ t.signals ∧ .done (.slew r.serial) ∈ t.signals ∧
          (r.staged = none →
            (t.axis a).stagedAt = x.stagedAt ∧ (t.axis a).stage = x.stage ∧ (t.axis a).lastStage = x.lastStage) ∧
          (∀ y, r.staged = some y →
            (t.axis a).stagedAt = some y ∧ (t.axis a).lastStage = .arrived ∧
            ∀ k, x.stage = some k →
              (k.serial < r.serial →
                (t.axis a).stage = none ∧ (k.owner = .single → .done (.stage k.serial) ∈ t.signals)) ∧
              (r.serial ≤ k.serial → (t.axis a).stage = some k)) ∧
          ∀ g m, s.motionOf a = some (g, m) → m.state = .moving →
            (∀ z ∈ m.members, z.axis ≠ a → z.outcome ≠ .moving) →
            t.motions[g].map GroupMotion.state = some .arrived ∧ .event (.groupArrived g) none ∈ t.signals)

/-- R97, R100 to R104: HOME and the course of a homing. A change outside HOMING is taken down; one to inactive ends CLEAR, one
to active in SEEK assigns the position from the home offset and the steps since the capture: a LIMITED one within its 32 bits, and outside
them a value left open (R47, log 11), a CONTINUOUS one with its turn count modulo 2^32 (R64); the capture is that of the run's
first sample, also of one that a home filter length of 0 meets (log 37), and with no run standing the model takes the position at the
change (log 18). At rest after CLEAR the search
begins, at rest after the edge the axis is homed, with event and notice (R103). R104: the search is exhausted by the step that brings
the travel count to the distance, which fails the homing at that moment (that the command is this pulse: log 27); short of it nothing
is, and a change of HOME after it is one outside HOMING. R176: one that ends at the moment of a fault
taken first joins its causes (the operand `late`, log 25). R186, R187: the last member of a return sequence that is HOMED takes the
resume, one that fails abandons it. Where its condition does not hold an event changes nothing (log 4). -/
def Obligations.HomingTakesItsCourse : Prop :=
  ∀ (s : State) (a : AxisId) (x : Axis) (v : Bool) (f : HomeFilter) (late : Option Bool), s.phase = .running → x = s.axis a →
    f = (if x.home.run = 0 then ⟨v, 0, x.position, 0, 0⟩ else { x.home with accepted := v, run := 0 }) →
    (x.home.accepted = v → Answers (.homeInputChange a v) s s) ∧
    (x.home.accepted ≠ v → x.state ≠ .homing → Answers (.homeInputChange a v) s (s.setAxis a { x with home := f })) ∧
    (x.state ≠ .homing →
      Answers (.clearPhaseRest a) s s ∧ Answers (.axisHomed a) s s ∧
      (late = none ∨ x.state ≠ .faulted → Answers (.homingSearchExhausted a late) s s)) ∧
    (∀ b, late = some b → x.state = .faulted →
      ∃ t : State, exec (.homingSearchExhausted a late) s = .next t.drain ∧ (t.axis a).state = .faulted ∧
        (t.axis a).fault.first = x.fault.first ∧ (t.axis a).fault.autoClear = none ∧
        (x.fault.first = some .homeNotFound ∨ .homeNotFound ∈ x.fault.further →
          (t.axis a).fault.further = x.fault.further ∧ (t.axis a).fault.reversals = x.fault.reversals) ∧
        (x.fault.first ≠ some .homeNotFound → .homeNotFound ∉ x.fault.further →
          (t.axis a).fault.further = x.fault.further ++ [.homeNotFound] ∧
          (t.axis a).fault.reversals = some (if b then 1 else 0)) ∧
        .event (.axisFault a) none ∈ t.signals) ∧
    ∀ h, x.state = .homing → x.homing = some h →
      (x.home.accepted ≠ v →
        (h.phase = .clear → v = !h.activeHigh → h.braking = false →
          Answers (.homeInputChange a v) s (s.setAxis a { x with home := f, homing := some { h with braking := true } })) ∧
        (h.phase = .clear → v = h.activeHigh ∨ h.braking = true →
          Answers (.homeInputChange a v) s (s.setAxis a { x with home := f })) ∧
        (h.phase = .seek → v = !h.activeHigh ∨ h.edge ≠ none →
          Answers (.homeInputChange a v) s (s.setAxis a { x with home := f })) ∧
        (h.phase = .seek → v = h.activeHigh → h.edge = none → ∀ n : Int,
          n = h.offset + h.direction.sign * (match h.direction with | .plus => f.plusSteps | .minus => f.minusSteps : Nat) →
          ∃ q : Position,
            (x.record.kind = .limited →
              q.turn = 0 ∧ -(2 ^ 31) ≤ q.within ∧ q.within < 2 ^ 31 ∧ (-(2 ^ 31) ≤ n → n < 2 ^ 31 → q.within = n)) ∧
            (x.record.kind = .continuous →
              -(2 ^ 31) ≤ q.turn ∧ q.turn < 2 ^ 31 ∧ q.within = n.emod x.record.stepsPerTurn ∧
              ∃ k : Int, (q.turn + k * 2 ^ 32) * x.record.stepsPerTurn + q.within = n) ∧
            Answers (.homeInputChange a v) s
              (s.setAxis a { x with home := f, position := q, homing := some { h with edge := some q } }))) ∧
      (h.phase = .clear → h.braking = true →
        exec (.clearPhaseRest a) s = .next
          (s.setAxis a { x with
            speedSq := 0, direction := none, pause := none
            homing := some { h with phase := .seek, braking := false, travel := 0 } }).drain) ∧
      (h.phase = .seek ∨ h.braking = false → Answers (.clearPhaseRest a) s s) ∧
      (h.edge = none → Answers (.axisHomed a) s s) ∧
      (h.edge ≠ none →
        ∃ t : State, exec (.axisHomed a) s = .next t.drain ∧ (t.axis a).known = true ∧ (t.axis a).homing = none ∧
          (t.axis a).position = x.position ∧ .event (.axisHomed a) none ∈ t.signals ∧
          (∀ q ∈ s.routedPorts .axisHomed (s.groupOf a), s.tells t q .axisHomed (some a.val)) ∧
          (s.power.sequence = none → (t.axis a).state = .standing ∧ ∀ b, b ≠ a → t.axis b = s.axis b) ∧
          ∀ q, s.power.sequence = some q →
            ((a, false) ∉ q.members → t.power.sequence = some q ∧ (t.axis a).state = .standing) ∧
            ((a, false) ∈ q.members →
              ((∃ m ∈ q.members, m.1 ≠ a ∧ m.2 = false) →
                (t.axis a).state = .standing ∧ t.power.sequence =
                  some { q with members := q.members.map fun m => if m.1 = a then (a, true) else m }) ∧
              ((∀ m ∈ q.members, m.1 ≠ a → m.2 = true) →
                t.power.sequence = none ∧ t.power.outcome = .resumed ∧ t.clock.wasRunning = false ∧
                (s.clock.state ≠ .settling → t.clock.state = if q.wasRunning then .running else s.clock.state) ∧
                ∀ b z, z = (if b = a then { x with state := .standing, known := true } else s.axis b) →
                  (t.axis b).resumeMark = false ∧
                  (b ∈ q.resume ∧ z.resumeMark = true ∧ z.state ∈ [.standing, .slewing, .stopping] ∧ z.known = true ∧
                      z.record.binding ≠ none ∧ (∀ side, z.limitMemory = some side → z.limitLevel side = false) →
                    (t.axis b).state = .tracking) ∧
                  (b ∉ q.resume ∨ z.resumeMark = false ∨ z.state ∉ [.standing, .slewing, .stopping] ∨ z.known = false ∨
                      z.record.binding = none ∨ (∃ side, z.limitMemory = some side ∧ z.limitLevel side = true) →
                    (t.axis b).state = z.state)))) ∧
      (h.braking = true ∨ h.edge ≠ none ∨ h.travel + 1 < h.distance → Answers (.homingSearchExhausted a late) s s) ∧
      (h.braking = false → h.edge = none →
        (h.distance ≤ h.travel →
          ∃ t : State, exec (.homingSearchExhausted a late) s = .next t.drain ∧ s.failsSearch t a h.reversals x.position) ∧
        (h.travel + 1 = h.distance →
          exec (.homingSearchExhausted a late) s = exec (.stepPulse a) s ∧
          ∀ d, x.direction = some d → x.pulse = none → x.pause = none → s.power.state = .present → x.tracking = none →
            0 < x.speedSq ∨ x.wishes s.clock.ra d →
            ∃ (t : State) (q : Position), exec (.homingSearchExhausted a late) s = .next t.drain ∧ x.oneStepOn d q ∧
              s.failsSearch t a h.reversals q ∧ (t.axis a).pulse = some x.record.pulseWidth))

/-- R93, R94, R105, R106, R110, R175, R176, R178, R187: the limit inputs and FLT. A limit met by a motion toward it stops the axis with
HARD_LIMIT and its memory, turns a search once, or fails it; a drive fault stops a live axis and drops its position unless it
is kept (the count of an axis in HOMING stands: R110 excepts it); on a FAULTED axis it joins the causes and drops the position in the
same way, and a limit met at the moment of a fault taken first (the operand `late`, log 25) joins them too. Each raises the event
AXIS_FAULT and the notice, to the ports that routing names for the axis's group (R206), and takes an axis in TRACKING off the settle
roll (R81, R12), with whose last axis settling completes (R13). While drive power is not present a change of
FLT is no fault: it changes the accepted level, and no automatic clearing runs (R178). With drive power present FLT inactive starts the
automatic clearing of 100 ms where the policy is AUTO and a drive fault the only cause, and else changes the level alone, as FLT active
does on an axis in UNCONFIGURED or DISABLED. A homing so ended abandons a return sequence. The automatic
clearing leaves FAULTED. An unchanged level and a timer that does not run do nothing (log 4); the automatic clearing of one that runs
says that it has run out (log 1). -/
def Obligations.LimitsAndDriveFaultsStopTheAxis : Prop :=
  ∀ (s : State) (a : AxisId) (x : Axis) (side : LimitSide) (v : Bool) (late : Option LateCause) (f : Axis → Filter → Axis),
    s.phase = .running → x = s.axis a →
    (side = .plus → f = fun y k => { y with limP := k }) → (side = .minus → f = fun y k => { y with limN := k }) →
    (x.limitLevel side = v → Answers (.limitInputChange a side v late) s s) ∧
    (x.limitLevel side ≠ v →
      (v = true → x.direction.map Dir.side ≠ some side → late = none ∨ x.state ≠ .faulted →
        Answers (.limitInputChange a side v late) s (s.setAxis a (f x ⟨true, 0⟩))) ∧
      (v = true → x.direction.map Dir.side ≠ some side → late = some .hardLimit → x.state = .faulted →
        ∃ t : State, exec (.limitInputChange a side v late) s = .next t.drain ∧ (t.axis a).state = .faulted ∧
          (t.axis a).fault.first = x.fault.first ∧ (t.axis a).fault.autoClear = none ∧
          (x.fault.first = some .hardLimit ∨ .hardLimit ∈ x.fault.further →
            (t.axis a).fault.further = x.fault.further) ∧
          (x.fault.first ≠ some .hardLimit → .hardLimit ∉ x.fault.further →
            (t.axis a).fault.further = x.fault.further ++ [.hardLimit]) ∧
          (t.axis a).limitMemory = (if x.known then some side else x.limitMemory) ∧
          s.tellsFault t a) ∧
      (∀ b, v = true → x.direction.map Dir.side ≠ some side → late = some (.homeNotFound b) → x.state = .faulted →
        exec (.limitInputChange a side v late) s =
          exec (.homingSearchExhausted a (some b)) (s.setAxis a (f x ⟨true, 0⟩))) ∧
      (v = false →
        Answers (.limitInputChange a side v late) s
          (s.setAxis a { f x ⟨false, 0⟩ with
            limitMemory := if x.limitMemory = some side then none else x.limitMemory })) ∧
      (v = true → x.direction.map Dir.side = some side →
        (x.state ∈ [.slewing, .tracking, .stopping] →
          ∃ t : State, exec (.limitInputChange a side v late) s = .next t.drain ∧ s.stopsAtLimit t a side) ∧
        ∀ h, x.state = .homing → x.homing = some h →
          (h.phase = .seek → h.edge = none → h.reversals = 0 →
            exec (.limitInputChange a side v late) s = .next
              (s.setAxis a { f x ⟨true, 0⟩ with
                speedSq := 0, direction := none, pause := none
                homing := some { h with reversals := 1, direction := h.direction.flip, travel := 0 } }).drain) ∧
          (h.phase = .clear ∨ (h.edge = none ∧ h.reversals ≠ 0) →
            ∃ t : State, exec (.limitInputChange a side v late) s = .next t.drain ∧
              s.failsSearch t a h.reversals x.position) ∧
          (h.phase = .seek → h.edge ≠ none →
            ∃ t : State, exec (.limitInputChange a side v late) s = .next t.drain ∧ (t.axis a).state = .faulted ∧
              (t.axis a).fault.first = some .hardLimit ∧ (t.axis a).known = true ∧
              (t.axis a).position = x.position ∧ (t.axis a).limitMemory = some side ∧ s.homingEnds t a ∧ s.tellsFault t a))) ∧
    (x.flt.accepted = v → Answers (.fltInputChange a v) s s) ∧
    (x.flt.accepted ≠ v →
      (v = true → s.power.state = .present →
        x.state ∈ [.unreferenced, .homing, .standing, .slewing, .tracking, .stopping] →
        ∃ t : State, exec (.fltInputChange a v) s = .next t.drain ∧ (t.axis a).state = .faulted ∧
          (t.axis a).flt = ⟨true, 0⟩ ∧
          (t.axis a).fault = { first := some .driveFault, further := [], reversals := none, autoClear := none } ∧
          (t.axis a).speedSq = 0 ∧ (t.axis a).target = none ∧ (t.axis a).tracking = none ∧ (t.axis a).homing = none ∧
          (x.record.keepPosition = false → (t.axis a).known = false ∧
            (x.known = true ∨ x.state ≠ .homing → (t.axis a).position = ⟨0, 0⟩) ∧
            (x.known = false → x.state = .homing → (t.axis a).position = x.position)) ∧
          (x.state = .homing → s.homingEnds t a) ∧
          (x.record.keepPosition = true → (t.axis a).known = x.known ∧ (t.axis a).position = x.position) ∧
          s.tellsFault t a ∧ (x.state = .tracking → s.leavesRoll t a)) ∧
      (v = true → s.power.state = .present → x.state = .faulted →
        ∃ t : State, exec (.fltInputChange a v) s = .next t.drain ∧ (t.axis a).state = .faulted ∧
          (t.axis a).fault.first = x.fault.first ∧ (t.axis a).fault.autoClear = none ∧
          (x.fault.first = some .driveFault ∨ .driveFault ∈ x.fault.further →
            (t.axis a).fault.further = x.fault.further) ∧
          (x.fault.first ≠ some .driveFault → .driveFault ∉ x.fault.further →
            (t.axis a).fault.further = x.fault.further ++ [.driveFault]) ∧
          (x.record.keepPosition = false → (t.axis a).known = false ∧ (t.axis a).position = ⟨0, 0⟩) ∧
          (x.record.keepPosition = true → (t.axis a).known = x.known ∧ (t.axis a).position = x.position) ∧
          s.tellsFault t a) ∧
      (s.power.state ≠ .present →
        Answers (.fltInputChange a v) s
          (s.setAxis a { x with flt := ⟨v, 0⟩, fault := { x.fault with autoClear := none } })) ∧
      (v = false → s.power.state = .present →
        (x.record.auto = true → x.state = .faulted → x.fault.first = some .driveFault → x.fault.further = [] →
          Answers (.fltInputChange a v) s
            (s.setAxis a { x with
              flt := ⟨false, 0⟩, fault := { x.fault with autoClear := some (x.fault.autoClear.getD 100) } })) ∧
        (x.record.auto = false ∨ x.state ≠ .faulted ∨ x.fault.first ≠ some .driveFault ∨ x.fault.further ≠ [] →
          Answers (.fltInputChange a v) s
            (s.setAxis a { x with flt := ⟨false, 0⟩, fault := { x.fault with autoClear := none } }))) ∧
      (v = true → x.state ∈ [.unconfigured, .disabled] →
        Answers (.fltInputChange a v) s
          (s.setAxis a { x with flt := ⟨true, 0⟩, fault := { x.fault with autoClear := none } }))) ∧
    (x.state ≠ .faulted ∨ x.fault.autoClear = none → Answers (.autoClearExpiry a) s s) ∧
    (x.state = .faulted → x.fault.autoClear ≠ none → x.flt.accepted = false →
      Answers (.autoClearExpiry a) s
        (s.setAxis a { x with
          fault := { first := none, further := [], reversals := none, autoClear := none }
          state := if x.known then .standing else .unreferenced }))

/-! ## Halts, drive power and the filtered inputs (chapter 9) -/

/-- R179 to R181, R86, R187: the assertion of HALT and a Halt All of a READY port each perform one halt, which abandons a return
sequence; deassertion resumes nothing. A stage pending of an axis it reaches ends ENDED, also that of one in STANDING or STOPPING. An
assertion or a deassertion that changes no accepted level does nothing (log 4). -/
def Obligations.HaltReachesEveryBlock : Prop :=
  ∀ s : State,
    (s.phase = .running →
      (s.power.halt.accepted = true → Answers .haltLineAsserted s s ∧
        Answers .haltLineDeasserted s (s.withPower { s.power with halt := ⟨false, 0⟩ })) ∧
      (s.power.halt.accepted = false → Answers .haltLineDeasserted s s ∧
        ∃ t : State, exec .haltLineAsserted s = .next t.drain ∧ t.power.halt = ⟨true, 0⟩ ∧ s.haltedTo t)) ∧
    ∀ (p : Port) (tag : Byte), s.ready p →
      ∃ t : State, exec (.haltAll p tag) s = .next t.drain ∧ t.power.halt = s.power.halt ∧ s.haltedTo t ∧
        (t.port p).request = .outstanding tag 5 ∧ (t.port p).reply = some (Reply.done.frame tag 5)

/-- R9, R86, R110, R182 to R187: DRIVE_POWER_OK takes the block from PRESENT to ABSENT with a loss, which ends each member's part in a
group motion ENDED and leaves the count of an axis in HOMING (R110 excepts it), from ABSENT to RETURNING for 500 ms and back; the
return at the end of the wait, whatever time is shown (log 1), first faults every axis with FLT active, or adds the cause (R175, R176),
and starts the automatic clearing (R178), then applies the policy in force: under REHOME_AND_RESUME it forms the sequence, abandons it
at once while HALT is asserted, or resumes at once where no axis is eligible. A change to the accepted level, and a return outside RETURNING, do
nothing (log 4). -/
def Obligations.DrivePowerIsLostAndReturns : Prop :=
  ∀ s : State, s.phase = .running →
    (s.power.ok.accepted = true → Answers .drivePowerOkActive s s) ∧
    (s.power.ok.accepted = false → Answers .drivePowerOkInactive s s) ∧
    (s.power.ok.accepted = false → s.power.state = .absent →
      Answers .drivePowerOkActive s (s.withPower { s.power with ok := ⟨true, 0⟩, state := .returning 500 })) ∧
    (∀ n, s.power.ok.accepted = true → s.power.state = .returning n →
      Answers .drivePowerOkInactive s (s.withPower { s.power with ok := ⟨false, 0⟩, state := .absent })) ∧
    (s.power.ok.accepted = true → s.power.state = .present →
      ∃ t : State, exec .drivePowerOkInactive s = .next t.drain ∧ t.power.ok = ⟨false, 0⟩ ∧ t.power.state = .absent ∧
        t.power.sequence = none ∧ t.clock.state = .halted ∧ t.clock.reason = .drivePower ∧ t.clock.roll = [] ∧
        t.clock.epoch = s.clock.epoch ∧ t.clock.scheduled = s.clock.scheduled ∧
        (t.clock.wasRunning = true ↔ s.clock.wasRunning = true ∨ s.clock.state = .running ∨
          (s.clock.state = .settling ∧ s.clock.resumeTo = .running)) ∧
        (∀ r, (s.runner r).haltedTo (t.runner r)) ∧
        (∀ q, q ∈ s.routedPorts .drivePowerLost .sky → (t.port q).notices[22] ≠ none) ∧
        (s.power.sequence ≠ none → t.power.outcome = .none) ∧ (s.power.sequence = none → t.power.outcome = s.power.outcome) ∧
        (∀ (g : GroupId) (m : GroupMotion) (z : Member), s.motions[g] = some m → m.state ∈ [.evaluating, .moving] → z ∈ m.members →
          z.outcome ∈ [.evaluating, .ready, .moving] →
          ∃ n y, t.motions[g] = some n ∧ n.state = .failed ∧ n.cause = some .memberEnded ∧ y ∈ n.members ∧ y.axis = z.axis ∧
            y.outcome = .ended) ∧
        ∀ (a : AxisId) (x y : Axis), x = s.axis a → y = t.axis a →
          (x.state ∈ [.unconfigured, .disabled] →
            y.state = x.state ∧ y.known = x.known ∧ y.position = x.position) ∧
          (x.state ∈ [.unreferenced, .homing, .standing, .slewing, .tracking, .stopping] →
            y.state = .unreferenced ∧ y.known = false ∧
            (x.known = true ∨ x.state ≠ .homing → y.position = ⟨0, 0⟩) ∧
            (x.known = false → x.state = .homing → y.position = x.position) ∧ y.target = none ∧ y.tracking = none ∧
            y.homing = none ∧ y.stopping = none ∧ y.stage = none ∧ (x.state ≠ .unreferenced → y.speedSq = 0)) ∧
          (x.state = .faulted →
            y.state = .faulted ∧ y.known = false ∧ y.fault = { x.fault with autoClear := none }) ∧
          (x.state = .tracking → y.resumeMark = true) ∧ (x.state ≠ .tracking → y.resumeMark = x.resumeMark)) ∧
    ((∀ n, s.power.state ≠ .returning n) → Answers .drivePowerReturn s s) ∧
    ∀ n, s.power.state = .returning n → s.power.sequence = none →
      ∃ t : State, exec .drivePowerReturn s = .next t.drain ∧ t.power.state = .present ∧
        t.power.keptRunning = s.clock.wasRunning ∧
        (∀ a, a ∈ t.power.keptResume ↔ (s.axis a).resumeMark = true) ∧
        (∀ q, q ∈ s.routedPorts .drivePowerReturned .sky → (t.port q).notices[23] ≠ none) ∧
        (s.power.policy ≠ .rehomeAndResume → t.clock.wasRunning = false ∧ ∀ a, (t.axis a).resumeMark = false) ∧
        (s.power.policy = .hold → t.power.outcome = .held) ∧ (s.power.policy = .rehome → t.power.outcome = .rehomed) ∧
        (∀ (a : AxisId) (x y : Axis), x = s.axis a → y = t.axis a → x.flt.accepted = true →
          (x.state ∈ [.unconfigured, .disabled] → y.state = x.state ∧ y.known = x.known ∧ y.position = x.position) ∧
          (x.state ∉ [.unconfigured, .disabled] →
            y.state = .faulted ∧ .event (.axisFault a) none ∈ t.signals ∧ y.fault.autoClear = none ∧
            (∀ q ∈ s.routedPorts .axisFault (.group x.record.group), (t.port q).notices[11] ≠ none) ∧
            (x.record.keepPosition = true → y.known = x.known ∧ y.position = x.position) ∧
            (x.record.keepPosition = false →
              y.known = false ∧ (x.known = true ∨ x.state ≠ .homing → y.position = ⟨0, 0⟩)) ∧
            (x.state ≠ .faulted → y.fault.first = some .driveFault ∧ y.fault.further = []) ∧
            (x.state = .faulted →
              y.fault.first = x.fault.first ∧
              y.fault.further = if x.fault.first = some .driveFault ∨ .driveFault ∈ x.fault.further then x.fault.further
                else x.fault.further ++ [.driveFault]))) ∧
        (∀ (a : AxisId) (x : Axis), x = s.axis a → x.flt.accepted = false → x.state = .faulted → x.record.auto = true →
          x.fault.first = some .driveFault → x.fault.further = [] → x.fault.autoClear = none →
          (t.axis a).fault = { x.fault with autoClear := some 100 }) ∧
        (s.power.policy = .rehomeAndResume → s.power.halt.accepted = true →
          t.power.sequence = none ∧ t.power.outcome = .abandoned ∧ t.clock.wasRunning = false ∧
          (s.clock.state ≠ .settling → t.clock.state = s.clock.state) ∧
          (∀ q ∈ s.routedPorts .resumeAbandoned .sky, ∃ e, (t.port q).notices[24] = some e ∧ e.subject = none) ∧
          ∀ a, (t.axis a).resumeMark = false ∧ ((s.axis a).flt.accepted = false → (t.axis a).state = (s.axis a).state)) ∧
        (s.power.policy = .rehomeAndResume → s.power.halt.accepted = false →
          (∀ a, (s.axis a).state = .unreferenced → (s.axis a).flt.accepted = false → (s.axis a).record.sensor = false) →
          t.power.sequence = none ∧ t.power.outcome = .resumed ∧ t.clock.wasRunning = false ∧
          (s.clock.state ≠ .settling → t.clock.state = if s.clock.wasRunning then .running else s.clock.state) ∧
          ∀ (a : AxisId) (x : Axis), x = s.axis a → (t.axis a).resumeMark = false ∧
            (x.flt.accepted = false →
              (x.resumeMark = true ∧ x.state ∈ [.standing, .slewing, .stopping] ∧ x.known = true ∧ x.record.binding ≠ none ∧
                  (∀ side, x.limitMemory = some side → x.limitLevel side = false) → (t.axis a).state = .tracking) ∧
              (x.resumeMark = false ∨ x.state ∉ [.standing, .slewing, .stopping] ∨ x.known = false ∨
                  x.record.binding = none ∨ (∃ side, x.limitMemory = some side ∧ x.limitLevel side = true) →
                (t.axis a).state = x.state))) ∧
        ∀ (a : AxisId) (x : Axis), x = s.axis a → x.flt.accepted = false →
          (s.power.policy = .hold ∨ x.record.sensor = false ∨ s.power.halt.accepted = true →
            x.state = .unreferenced → x.resumeMark = false → (t.axis a).state = .unreferenced) ∧
          (s.power.policy ≠ .hold → x.record.sensor = true → s.power.halt.accepted = false → x.state = .unreferenced →
            (t.axis a).state = .homing ∧ (t.axis a).homing.map Homing.starter = some .returnPolicy ∧
            (s.power.policy = .rehomeAndResume →
              t.power.outcome = .pending ∧ ∃ q : ReturnRecord, t.power.sequence = some q ∧ (a, false) ∈ q.members ∧
                q.wasRunning = s.clock.wasRunning ∧ ∀ b, b ∈ q.resume ↔ (s.axis b).resumeMark = true))

/-- R93, R97, R166, R174: samples of the filtered inputs. One at the accepted level empties the run, one at the other level
lengthens it, and the one that completes the length (4, or that of the HOME or TRIG filter) is the accepted change (log 18; of a
limit, one that fell together with no fault, log 25); the first of a run records position or snapshot, which a run keeps
that a length of 0 meets (logs 37, 38). R211: the samples of
RESET, in reset too; the fourth that asserts it begins a line reset (log 20). R169: a pulse's expiry takes a PULSING output to
INACTIVE, whatever time is shown (log 1), and changes no other (log 4). -/
def Obligations.FiltersAcceptAtTheirLength : Prop :=
  (∀ (s : State) (a : AxisId) (x : Axis) (v : Bool), s.phase = .running → x = s.axis a →
    (s.power.halt.accepted = v →
      Answers (.inputSample .halt v) s (s.withPower { s.power with halt := { s.power.halt with run := 0 } })) ∧
    (s.power.halt.accepted ≠ v →
      (s.power.halt.run < 3 →
        Answers (.inputSample .halt v) s
          (s.withPower { s.power with halt := { s.power.halt with run := s.power.halt.run + 1 } })) ∧
      (3 ≤ s.power.halt.run → exec (.inputSample .halt v) s =
        if v then exec .haltLineAsserted s else exec .haltLineDeasserted s)) ∧
    (s.power.ok.accepted = v →
      Answers (.inputSample .drivePowerOk v) s (s.withPower { s.power with ok := { s.power.ok with run := 0 } })) ∧
    (s.power.ok.accepted ≠ v →
      (s.power.ok.run < 3 →
        Answers (.inputSample .drivePowerOk v) s
          (s.withPower { s.power with ok := { s.power.ok with run := s.power.ok.run + 1 } })) ∧
      (3 ≤ s.power.ok.run → exec (.inputSample .drivePowerOk v) s =
        if v then exec .drivePowerOkActive s else exec .drivePowerOkInactive s)) ∧
    (x.flt.accepted = v → Answers (.inputSample (.flt a) v) s (s.setAxis a { x with flt := { x.flt with run := 0 } })) ∧
    (x.flt.accepted ≠ v →
      (x.flt.run < 3 →
        Answers (.inputSample (.flt a) v) s (s.setAxis a { x with flt := { x.flt with run := x.flt.run + 1 } })) ∧
      (3 ≤ x.flt.run → exec (.inputSample (.flt a) v) s = exec (.fltInputChange a v) s)) ∧
    (x.limP.accepted = v →
      Answers (.inputSample (.limP a) v) s (s.setAxis a { x with limP := { x.limP with run := 0 } })) ∧
    (x.limP.accepted ≠ v → x.limP.run < 3 →
      Answers (.inputSample (.limP a) v) s (s.setAxis a { x with limP := { x.limP with run := x.limP.run + 1 } })) ∧
    (x.limP.accepted ≠ v → 3 ≤ x.limP.run →
      exec (.inputSample (.limP a) v) s = exec (.limitInputChange a .plus v none) s) ∧
    (x.limN.accepted = v →
      Answers (.inputSample (.limN a) v) s (s.setAxis a { x with limN := { x.limN with run := 0 } })) ∧
    (x.limN.accepted ≠ v → x.limN.run < 3 →
      Answers (.inputSample (.limN a) v) s (s.setAxis a { x with limN := { x.limN with run := x.limN.run + 1 } })) ∧
    (x.limN.accepted ≠ v → 3 ≤ x.limN.run →
      exec (.inputSample (.limN a) v) s = exec (.limitInputChange a .minus v none) s) ∧
    (x.home.accepted = v →
      Answers (.inputSample (.home a) v) s (s.setAxis a { x with home := ⟨v, 0, x.position, 0, 0⟩ })) ∧
    ∀ n, (∀ h, x.homing = some h → n = h.filter) → (x.homing = none → n = x.record.homeFilter) → x.home.accepted ≠ v →
      (x.home.run = 0 → 1 < n →
        Answers (.inputSample (.home a) v) s (s.setAxis a { x with home := ⟨!v, 1, x.position, 0, 0⟩ })) ∧
      (x.home.run ≠ 0 → x.home.run + 1 < n →
        Answers (.inputSample (.home a) v) s (s.setAxis a { x with home := { x.home with run := x.home.run + 1 } })) ∧
      (n ≤ x.home.run + 1 → exec (.inputSample (.home a) v) s = exec (.homeInputChange a v) s)) ∧
  (∀ (s : State) (v : Bool),
    (s.resetLine.accepted = v →
      exec (.inputSample .reset v) s = .next { s with resetLine := { s.resetLine with run := 0 } }) ∧
    (s.resetLine.accepted ≠ v → s.resetLine.run < 3 →
      exec (.inputSample .reset v) s = .next { s with resetLine := { s.resetLine with run := s.resetLine.run + 1 } }) ∧
    (s.resetLine.accepted ≠ v → 3 ≤ s.resetLine.run →
      (v = true → exec (.inputSample .reset v) s = exec .lineReset { s with resetLine := ⟨true, 0⟩ }) ∧
      (v = false → exec (.inputSample .reset v) s = .next { s with resetLine := ⟨false, 0⟩ }))) ∧
  ∀ (s : State) (t : TrigId) (v : Bool) (o : OutputId), s.phase = .running →
    (s.trigs[t].accepted = v →
      Answers (.inputSample (.trig t) v) s
        { s with trigs := s.trigs.set t { s.trigs[t] with run := 0, snap := none } }) ∧
    (s.trigs[t].accepted ≠ v → s.trigs[t].run + 1 < s.trigs[t].length →
      (s.trigs[t].run = 0 →
        Answers (.inputSample (.trig t) v) s
          { s with trigs := s.trigs.set t { s.trigs[t] with run := 1, snap := some s.skySnap } }) ∧
      (∀ k, s.trigs[t].snap = some k → s.trigs[t].run ≠ 0 →
        Answers (.inputSample (.trig t) v) s
          { s with trigs := s.trigs.set t { s.trigs[t] with run := s.trigs[t].run + 1 } })) ∧
    (s.trigs[t].accepted ≠ v → s.trigs[t].length ≤ s.trigs[t].run + 1 →
      (s.trigs[t].run = 0 ↔ s.trigs[t].snap = none) →
      exec (.inputSample (.trig t) v) s = exec (.trigInputChange t v) s) ∧
    (∀ n, s.outputs[o] = .pulsing n → Answers (.pulseTimerExpiry o) s (s.setOutput o .inactive)) ∧
    ((∀ n, s.outputs[o] ≠ .pulsing n) → Answers (.pulseTimerExpiry o) s s)

/-! ## Resets and the start (chapter 11) -/

/-- R26, R45, R61, R62, R95, R129, R157, R173, R190, R209 to R213: a reset holds every block at its values after reset; the queue and
the model's settle number stand (log 31), as do straps, input levels and start record until the start (log 20); the evaluator's cursors go
to none by the model's choice (log 29). A power-on
lifts every lock and samples RESET anew; a line reset keeps the safety part of a locked axis, in DISABLED, with the defaults that
Table 3-5 adjusts to it (R63). The
start reads the straps and the first samples, forms the start record with the axes whose lock it kept, and leaves a START entry at every port; where the part
runs already, or RESET is asserted by its samples, it changes nothing (log 4, log 20). -/
def Obligations.ResetsAndStartSetTheirTables : Prop :=
  ∀ (s t : State) (straps : Straps) (lines : FirstSamples),
    (exec .powerOnReset s = .next t ∨ exec .lineReset s = .next t →
      t.phase ≠ .running ∧ t.pending = s.pending ∧ t.straps = s.straps ∧ t.startRecord = s.startRecord ∧ t.clock = { Clock.reset with settleSerial := s.clock.settleSerial } ∧
      (∀ c, t.channel c = { kind := .cyclic, enabled := true, segments := [], cursor := none }) ∧
      t.stampCounter = 0 ∧ t.evals = [] ∧ t.inFlight = none ∧ (∀ g : GroupId, t.motions[g] = none) ∧
      (∀ r, t.claim r = { holder := none, waiting := [] }) ∧ (∀ i, t.program i = Program.reset) ∧
      (∀ r, t.runner r = Runner.reset) ∧ (∀ l, t.link l = Link.reset) ∧ (∀ o : OutputId, t.outputs[o] = .inactive) ∧
      t.captures = { records := [], next := 0, overruns := 0 } ∧ (∀ k : NoticeKind, t.routing[k.idx] = .all) ∧
      t.timebase = { sync := s.straps.tbsel, state := if s.straps.tbsel then .holdover else .internal, nominal := 40, trimNum := 1
                     trimDen := 1, good := 0, bad := 0, window := [], reference := none } ∧
      t.power = { ok := ⟨s.power.ok.accepted, 0⟩, halt := ⟨s.power.halt.accepted, 0⟩
                  state := if s.power.ok.accepted then .present else .absent, policy := .hold, sequence := none, outcome := .none
                  keptResume := [], keptRunning := false } ∧
      (∀ k : TrigId, t.trigs[k] = { length := 4, accepted := s.trigs[k].accepted, run := 0, snap := none }) ∧
      (∀ p, (t.port p).standing = (s.port p).standing ∧ (t.port p).reportRate = 0 ∧ (t.port p).updates = 0 ∧
        (t.port p).snapNumber = 0 ∧ (t.port p).discarded = 0 ∧ (t.port p).busyCount = 0 ∧ (t.port p).shortDiscards = 0 ∧
        (t.port p).skipped = 0 ∧ ∀ k : NoticeKind, (t.port p).notices[k.idx] = none) ∧
      (∀ p, (t.port p).receiver = .hunt ∧ (t.port p).request = .ready ∧ (t.port p).reply = none ∧
        (t.port p).short = none ∧ (t.port p).tx = none ∧ (t.port p).mask = 0 ∧ t.attn p = false) ∧
      ∀ a, (t.axis a).known = false ∧ (t.axis a).position = ⟨0, 0⟩ ∧ (t.axis a).pulse = none ∧
        (t.axis a).speedSq = 0 ∧ (t.axis a).dirHigh = true ∧ t.ena a = false ∧ (t.axis a).direction = none ∧
        (t.axis a).pause = none ∧ (t.axis a).target = none ∧ (t.axis a).stopping = none ∧ (t.axis a).tracking = none ∧
        (t.axis a).stage = none ∧ (t.axis a).lastStage = .none ∧ (t.axis a).stagedAt = none ∧ (t.axis a).discard = false ∧
        (t.axis a).limitMemory = none ∧ (t.axis a).resumeMark = false ∧ (t.axis a).homing = none ∧
        (t.axis a).fault = { first := none, further := [], reversals := none, autoClear := none }) ∧
    (∃ u, exec .powerOnReset s = .next u ∧ u.phase = .heldPower ∧ u.resetLine = ⟨false, 0⟩ ∧
      ∀ a, (u.axis a).locked = false ∧ (u.axis a).state = .unconfigured ∧ (u.axis a).record = AxisRecord.default) ∧
    (∃ u, exec .lineReset s = .next u ∧
      u.phase = (if s.phase = .heldPower then .heldPower else .heldLine) ∧ u.resetLine = s.resetLine ∧
      ∀ a,
        ((s.axis a).locked = false →
          (u.axis a).locked = false ∧ (u.axis a).state = .unconfigured ∧ (u.axis a).record = AxisRecord.default) ∧
        ((s.axis a).locked = true →
          (u.axis a).locked = true ∧ (u.axis a).lockOrigin = some .keptAtLineReset ∧ (u.axis a).state = .disabled ∧
          ∀ r q : AxisRecord, r = (s.axis a).record → q = (u.axis a).record →
            q = { AxisRecord.default with
              kind := r.kind, stepsPerTurn := r.stepsPerTurn, soft := r.soft, velocity := r.velocity
              acceleration := r.acceleration, haltDecel := r.haltDecel
              homeSpeed := if 1000 ≤ r.velocity then 1000 else r.velocity
              homeOffset := q.homeOffset, pulseWidth := q.pulseWidth
              wrap := if r.kind = .limited then none else some .shortest
              zeroOffset := 0 } ∧
            (r.kind = .continuous → q.homeOffset = 0) ∧
            (∀ l h, r.kind = .limited → r.soft = some (l, h) →
              (l ≤ 0 → 0 ≤ h → q.homeOffset = 0) ∧ (0 < l → q.homeOffset = l) ∧ (l ≤ 0 → h < 0 → q.homeOffset = h)) ∧
            (0 < r.velocity →
              2 ≤ q.pulseWidth ∧ q.pulseWidth ≤ 5 ∧ (2 < q.pulseWidth → r.velocity * 2 * q.pulseWidth ≤ 1000000) ∧
                ∀ w, q.pulseWidth < w → w ≤ 5 → 1000000 < r.velocity * 2 * w))) ∧
    AxisRecord.default = { kind := .continuous, stepsPerTurn := 51200, soft := none, velocity := 10000, acceleration := 50000
                           haltDecel := some 200000, stopDecel := 50000, lagLimit := 1000, settleTolerance := 4
                           sensor := false, homeDirection := .minus, homeSpeed := 1000, homeRising := true, homeFilter := 4
                           homeOffset := 0, searchDistance := 102400, auto := false, keepPosition := false, pulseWidth := 5
                           reversalPause := 50, inverted := false, group := 0, wrap := some .shortest, binding := none
                           zeroOffset := 0, sense := .plus } ∧
    (s.phase = .running ∨ s.resetLine.accepted = true → exec (.start straps lines) s = .next s) ∧
    (s.phase ≠ .running → s.resetLine.accepted = false →
      ∃ u, exec (.start straps lines) s = .next u ∧ u.phase = .running ∧ u.straps = straps ∧ u.pending = s.pending ∧
        u.clock = s.clock ∧ u.timebase = Timebase.reset straps.tbsel ∧ u.power = DrivePower.reset lines.drivePowerOk lines.halt ∧
        u.port .A = PortState.reset straps.stdA.val ∧ u.port .B = PortState.reset straps.stdB.val ∧
        u.port .C = PortState.reset straps.stdC.val ∧ (∀ p, u.attn p = true) ∧
        u.startRecord.powerOn = decide (s.phase = .heldPower) ∧ u.startRecord.drivePresent = lines.drivePowerOk ∧
        u.startRecord.halted = lines.halt ∧ u.startRecord.sync = straps.tbsel ∧
        u.startRecord.rateNamed = decide (straps.baud ≠ 3) ∧
        (s.phase = .heldPower → u.startRecord.lockedKept = []) ∧
        (s.phase = .heldLine → u.startRecord.lockedKept = allAxes.filter fun a => (s.axis a).locked) ∧
        u.startRecord.standings = ⟨straps.stdA.val, straps.stdB.val, straps.stdC.val⟩ ∧
        u.startRecord.bitRate = (match straps.baud with | 0 => 115200 | 1 => 460800 | 2 => 921600 | _ => 115200) ∧
        (∀ a, (u.axis a).state = (s.axis a).state ∧ (u.axis a).record = (s.axis a).record ∧
          (u.axis a).home.accepted = lines.home.getLsbD a.val ∧ (u.axis a).limP.accepted = lines.limP.getLsbD a.val ∧
          (u.axis a).limN.accepted = lines.limN.getLsbD a.val ∧ (u.axis a).flt.accepted = lines.flt.getLsbD a.val) ∧
        ∀ t : TrigId, u.trigs[t] = TrigInput.reset (lines.trig.getLsbD t.val))

/-! ## Laws of the part -/

/-- R4, R27, R50, R64, R71, R113, R130, R132, R136, R137, R152, R171, R186: whatever the command, the epoch stays in its range, the
claim table lawful, the capture queue within four records, the cues and the segments within their stores and in order, and a
return sequence in progress only while drive power is present; a position is unknown only in the states R64 lists, and every
target of a LIMITED axis stays within its soft limits; a runner's loop stack holds at most two entries, its program is in use by
it in WAITING and SUSPENDED, and in WAITING its port holds every resource the program requires. -/
def Obligations.EveryStepKeepsTheLaws : Prop :=
  ∀ s t : State, s.lawful → step s = .next t → t.lawful

/-- The state after reset is lawful and idle, with nothing pending but the START entry of each port (R213), and holds the values after
reset: those of Table 1-9, Table 2-8, Table 3-1's defaults and Table 4-8, Table 6-5, R157, Table 8-8, Table 9-8 and R209. Its
straps and first samples are the model's choice (log 7), as are the cursors at none (log 29) and the settle number, with the counters
of the model's own, at 0 (logs 21, 31). -/
def Obligations.ResetStateIsLawful : Prop :=
  ∀ s : State, s = State.reset →
    s.lawful ∧ s.pending = [] ∧ s.phase = .running ∧ s.resetLine = ⟨false, 0⟩ ∧
    s.clock = { epoch := 0, residue := 0, commanded := 0, scheduled := 0, ramp := none, state := .halted, reason := .start
                resumeTo := .halted, settleTime := 10, settleTimer := none, roll := [], governor := false, ceiling := none
                quiet := none, wasRunning := false, settleSerial := 0, marks := s.clock.marks } ∧
    (∀ m : MarkId, s.clock.marks[m] =
      { enabled := false, period := 88473600, phase := 0, direction := .both, crossings := 0, last := none }) ∧
    s.timebase = { sync := false, state := .internal, nominal := 40, trimNum := 1, trimDen := 1, good := 0, bad := 0, window := []
                   reference := none } ∧
    (∀ c, s.channel c = { kind := .cyclic, enabled := true, segments := [], cursor := none }) ∧
    s.evals = [] ∧ s.inFlight = none ∧ s.freeSegments = 1024 ∧ s.freeCues = 256 ∧
    (∀ a, (s.axis a).record = AxisRecord.default ∧ (s.axis a).state = .unconfigured ∧ (s.axis a).known = false ∧
      (s.axis a).position = ⟨0, 0⟩ ∧ (s.axis a).speedSq = 0 ∧ (s.axis a).locked = false ∧ (s.axis a).dirHigh = true ∧
      (s.axis a).stage = none ∧ (s.axis a).stagedAt = none ∧ s.ena a = false) ∧
    (∀ g : GroupId, s.motions[g] = none) ∧ (∀ r, s.claim r = { holder := none, waiting := [] }) ∧
    (∀ i, s.program i = { state := .empty, opener := none, requirement := 0, cues := [], inUse := none }) ∧
    (∀ r, (s.runner r).state = .idle ∧ (s.runner r).latch = false ∧ (s.runner r).overruns = 0) ∧
    (∀ l, s.link l = { enabled := false, source := none, dest := none, arrivals := 0, lastStart := .none }) ∧
    (∀ o : OutputId, s.outputs[o] = .inactive) ∧ s.captures = { records := [], next := 0, overruns := 0 } ∧
    s.power.policy = .hold ∧ s.power.sequence = none ∧ s.power.outcome = .none ∧ s.power.state = .present ∧
    (∀ k : NoticeKind, s.routing[k.idx] = .all) ∧
    ∀ p, s.ready p ∧ s.attn p = true ∧ (s.port p).reportRate = 0 ∧ (s.port p).mask = 0 ∧
      ∀ k : NoticeKind, (s.port p).notices[k.idx] = if k = .start then some ⟨1, none, false⟩ else none

/-- R59: the safety part of a locked axis keeps its values, and the axis its lock, through every command but a power-on reset. -/
def Obligations.LockedSafetyPartsStand : Prop :=
  ∀ (c : Instr) (s t : State) (a : AxisId), c ≠ .powerOnReset → (s.axis a).locked = true → exec c s = .next t →
    (t.axis a).locked = true ∧ (t.axis a).record.safety = (s.axis a).record.safety

end Statements
end

