-- ==== Sys2Proof/Laws/State.lean ====
section
/-! SUPPORT. One lemma per field per update, true by rfl; reading back what was written. -/

namespace Sys2Proof.Machine

/-! ### setAxis -/
@[simp] theorem State.setAxis_phase (s : State) (a : AxisId) (x : Axis) : (s.setAxis a x).phase = s.phase := rfl
@[simp] theorem State.setAxis_resetLine (s : State) (a : AxisId) (x : Axis) : (s.setAxis a x).resetLine = s.resetLine := rfl
@[simp] theorem State.setAxis_straps (s : State) (a : AxisId) (x : Axis) : (s.setAxis a x).straps = s.straps := rfl
@[simp] theorem State.setAxis_startRecord (s : State) (a : AxisId) (x : Axis) : (s.setAxis a x).startRecord = s.startRecord := rfl
@[simp] theorem State.setAxis_clock (s : State) (a : AxisId) (x : Axis) : (s.setAxis a x).clock = s.clock := rfl
@[simp] theorem State.setAxis_timebase (s : State) (a : AxisId) (x : Axis) : (s.setAxis a x).timebase = s.timebase := rfl
@[simp] theorem State.setAxis_channels (s : State) (a : AxisId) (x : Axis) : (s.setAxis a x).channels = s.channels := rfl
@[simp] theorem State.setAxis_stampCounter (s : State) (a : AxisId) (x : Axis) : (s.setAxis a x).stampCounter = s.stampCounter := rfl
@[simp] theorem State.setAxis_evals (s : State) (a : AxisId) (x : Axis) : (s.setAxis a x).evals = s.evals := rfl
@[simp] theorem State.setAxis_inFlight (s : State) (a : AxisId) (x : Axis) : (s.setAxis a x).inFlight = s.inFlight := rfl
@[simp] theorem State.setAxis_motions (s : State) (a : AxisId) (x : Axis) : (s.setAxis a x).motions = s.motions := rfl
@[simp] theorem State.setAxis_claims (s : State) (a : AxisId) (x : Axis) : (s.setAxis a x).claims = s.claims := rfl
@[simp] theorem State.setAxis_programs (s : State) (a : AxisId) (x : Axis) : (s.setAxis a x).programs = s.programs := rfl
@[simp] theorem State.setAxis_runners (s : State) (a : AxisId) (x : Axis) : (s.setAxis a x).runners = s.runners := rfl
@[simp] theorem State.setAxis_links (s : State) (a : AxisId) (x : Axis) : (s.setAxis a x).links = s.links := rfl
@[simp] theorem State.setAxis_trigs (s : State) (a : AxisId) (x : Axis) : (s.setAxis a x).trigs = s.trigs := rfl
@[simp] theorem State.setAxis_outputs (s : State) (a : AxisId) (x : Axis) : (s.setAxis a x).outputs = s.outputs := rfl
@[simp] theorem State.setAxis_captures (s : State) (a : AxisId) (x : Axis) : (s.setAxis a x).captures = s.captures := rfl
@[simp] theorem State.setAxis_power (s : State) (a : AxisId) (x : Axis) : (s.setAxis a x).power = s.power := rfl
@[simp] theorem State.setAxis_ports (s : State) (a : AxisId) (x : Axis) : (s.setAxis a x).ports = s.ports := rfl
@[simp] theorem State.setAxis_routing (s : State) (a : AxisId) (x : Axis) : (s.setAxis a x).routing = s.routing := rfl
@[simp] theorem State.setAxis_signals (s : State) (a : AxisId) (x : Axis) : (s.setAxis a x).signals = s.signals := rfl
@[simp] theorem State.setAxis_serial (s : State) (a : AxisId) (x : Axis) : (s.setAxis a x).serial = s.serial := rfl
@[simp] theorem State.setAxis_freeCount (s : State) (a : AxisId) (x : Axis) : (s.setAxis a x).freeCount = s.freeCount := rfl
@[simp] theorem State.setAxis_pending (s : State) (a : AxisId) (x : Axis) : (s.setAxis a x).pending = s.pending := rfl

/-! ### modAxis -/
@[simp] theorem State.modAxis_phase (s : State) (a : AxisId) (f : Axis → Axis) : (s.modAxis a f).phase = s.phase := rfl
@[simp] theorem State.modAxis_resetLine (s : State) (a : AxisId) (f : Axis → Axis) : (s.modAxis a f).resetLine = s.resetLine := rfl
@[simp] theorem State.modAxis_straps (s : State) (a : AxisId) (f : Axis → Axis) : (s.modAxis a f).straps = s.straps := rfl
@[simp] theorem State.modAxis_startRecord (s : State) (a : AxisId) (f : Axis → Axis) : (s.modAxis a f).startRecord = s.startRecord := rfl
@[simp] theorem State.modAxis_clock (s : State) (a : AxisId) (f : Axis → Axis) : (s.modAxis a f).clock = s.clock := rfl
@[simp] theorem State.modAxis_timebase (s : State) (a : AxisId) (f : Axis → Axis) : (s.modAxis a f).timebase = s.timebase := rfl
@[simp] theorem State.modAxis_channels (s : State) (a : AxisId) (f : Axis → Axis) : (s.modAxis a f).channels = s.channels := rfl
@[simp] theorem State.modAxis_stampCounter (s : State) (a : AxisId) (f : Axis → Axis) : (s.modAxis a f).stampCounter = s.stampCounter := rfl
@[simp] theorem State.modAxis_evals (s : State) (a : AxisId) (f : Axis → Axis) : (s.modAxis a f).evals = s.evals := rfl
@[simp] theorem State.modAxis_inFlight (s : State) (a : AxisId) (f : Axis → Axis) : (s.modAxis a f).inFlight = s.inFlight := rfl
@[simp] theorem State.modAxis_motions (s : State) (a : AxisId) (f : Axis → Axis) : (s.modAxis a f).motions = s.motions := rfl
@[simp] theorem State.modAxis_claims (s : State) (a : AxisId) (f : Axis → Axis) : (s.modAxis a f).claims = s.claims := rfl
@[simp] theorem State.modAxis_programs (s : State) (a : AxisId) (f : Axis → Axis) : (s.modAxis a f).programs = s.programs := rfl
@[simp] theorem State.modAxis_runners (s : State) (a : AxisId) (f : Axis → Axis) : (s.modAxis a f).runners = s.runners := rfl
@[simp] theorem State.modAxis_links (s : State) (a : AxisId) (f : Axis → Axis) : (s.modAxis a f).links = s.links := rfl
@[simp] theorem State.modAxis_trigs (s : State) (a : AxisId) (f : Axis → Axis) : (s.modAxis a f).trigs = s.trigs := rfl
@[simp] theorem State.modAxis_outputs (s : State) (a : AxisId) (f : Axis → Axis) : (s.modAxis a f).outputs = s.outputs := rfl
@[simp] theorem State.modAxis_captures (s : State) (a : AxisId) (f : Axis → Axis) : (s.modAxis a f).captures = s.captures := rfl
@[simp] theorem State.modAxis_power (s : State) (a : AxisId) (f : Axis → Axis) : (s.modAxis a f).power = s.power := rfl
@[simp] theorem State.modAxis_ports (s : State) (a : AxisId) (f : Axis → Axis) : (s.modAxis a f).ports = s.ports := rfl
@[simp] theorem State.modAxis_routing (s : State) (a : AxisId) (f : Axis → Axis) : (s.modAxis a f).routing = s.routing := rfl
@[simp] theorem State.modAxis_signals (s : State) (a : AxisId) (f : Axis → Axis) : (s.modAxis a f).signals = s.signals := rfl
@[simp] theorem State.modAxis_serial (s : State) (a : AxisId) (f : Axis → Axis) : (s.modAxis a f).serial = s.serial := rfl
@[simp] theorem State.modAxis_freeCount (s : State) (a : AxisId) (f : Axis → Axis) : (s.modAxis a f).freeCount = s.freeCount := rfl
@[simp] theorem State.modAxis_pending (s : State) (a : AxisId) (f : Axis → Axis) : (s.modAxis a f).pending = s.pending := rfl

/-! ### setPort -/
@[simp] theorem State.setPort_phase (s : State) (p : Port) (q : PortState) : (s.setPort p q).phase = s.phase := rfl
@[simp] theorem State.setPort_resetLine (s : State) (p : Port) (q : PortState) : (s.setPort p q).resetLine = s.resetLine := rfl
@[simp] theorem State.setPort_straps (s : State) (p : Port) (q : PortState) : (s.setPort p q).straps = s.straps := rfl
@[simp] theorem State.setPort_startRecord (s : State) (p : Port) (q : PortState) : (s.setPort p q).startRecord = s.startRecord := rfl
@[simp] theorem State.setPort_clock (s : State) (p : Port) (q : PortState) : (s.setPort p q).clock = s.clock := rfl
@[simp] theorem State.setPort_timebase (s : State) (p : Port) (q : PortState) : (s.setPort p q).timebase = s.timebase := rfl
@[simp] theorem State.setPort_channels (s : State) (p : Port) (q : PortState) : (s.setPort p q).channels = s.channels := rfl
@[simp] theorem State.setPort_stampCounter (s : State) (p : Port) (q : PortState) : (s.setPort p q).stampCounter = s.stampCounter := rfl
@[simp] theorem State.setPort_evals (s : State) (p : Port) (q : PortState) : (s.setPort p q).evals = s.evals := rfl
@[simp] theorem State.setPort_inFlight (s : State) (p : Port) (q : PortState) : (s.setPort p q).inFlight = s.inFlight := rfl
@[simp] theorem State.setPort_axes (s : State) (p : Port) (q : PortState) : (s.setPort p q).axes = s.axes := rfl
@[simp] theorem State.setPort_motions (s : State) (p : Port) (q : PortState) : (s.setPort p q).motions = s.motions := rfl
@[simp] theorem State.setPort_claims (s : State) (p : Port) (q : PortState) : (s.setPort p q).claims = s.claims := rfl
@[simp] theorem State.setPort_programs (s : State) (p : Port) (q : PortState) : (s.setPort p q).programs = s.programs := rfl
@[simp] theorem State.setPort_runners (s : State) (p : Port) (q : PortState) : (s.setPort p q).runners = s.runners := rfl
@[simp] theorem State.setPort_links (s : State) (p : Port) (q : PortState) : (s.setPort p q).links = s.links := rfl
@[simp] theorem State.setPort_trigs (s : State) (p : Port) (q : PortState) : (s.setPort p q).trigs = s.trigs := rfl
@[simp] theorem State.setPort_outputs (s : State) (p : Port) (q : PortState) : (s.setPort p q).outputs = s.outputs := rfl
@[simp] theorem State.setPort_captures (s : State) (p : Port) (q : PortState) : (s.setPort p q).captures = s.captures := rfl
@[simp] theorem State.setPort_power (s : State) (p : Port) (q : PortState) : (s.setPort p q).power = s.power := rfl
@[simp] theorem State.setPort_routing (s : State) (p : Port) (q : PortState) : (s.setPort p q).routing = s.routing := rfl
@[simp] theorem State.setPort_signals (s : State) (p : Port) (q : PortState) : (s.setPort p q).signals = s.signals := rfl
@[simp] theorem State.setPort_serial (s : State) (p : Port) (q : PortState) : (s.setPort p q).serial = s.serial := rfl
@[simp] theorem State.setPort_freeCount (s : State) (p : Port) (q : PortState) : (s.setPort p q).freeCount = s.freeCount := rfl
@[simp] theorem State.setPort_pending (s : State) (p : Port) (q : PortState) : (s.setPort p q).pending = s.pending := rfl

/-! ### modPort -/
@[simp] theorem State.modPort_phase (s : State) (p : Port) (f : PortState → PortState) : (s.modPort p f).phase = s.phase := rfl
@[simp] theorem State.modPort_resetLine (s : State) (p : Port) (f : PortState → PortState) : (s.modPort p f).resetLine = s.resetLine := rfl
@[simp] theorem State.modPort_straps (s : State) (p : Port) (f : PortState → PortState) : (s.modPort p f).straps = s.straps := rfl
@[simp] theorem State.modPort_startRecord (s : State) (p : Port) (f : PortState → PortState) : (s.modPort p f).startRecord = s.startRecord := rfl
@[simp] theorem State.modPort_clock (s : State) (p : Port) (f : PortState → PortState) : (s.modPort p f).clock = s.clock := rfl
@[simp] theorem State.modPort_timebase (s : State) (p : Port) (f : PortState → PortState) : (s.modPort p f).timebase = s.timebase := rfl
@[simp] theorem State.modPort_channels (s : State) (p : Port) (f : PortState → PortState) : (s.modPort p f).channels = s.channels := rfl
@[simp] theorem State.modPort_stampCounter (s : State) (p : Port) (f : PortState → PortState) : (s.modPort p f).stampCounter = s.stampCounter := rfl
@[simp] theorem State.modPort_evals (s : State) (p : Port) (f : PortState → PortState) : (s.modPort p f).evals = s.evals := rfl
@[simp] theorem State.modPort_inFlight (s : State) (p : Port) (f : PortState → PortState) : (s.modPort p f).inFlight = s.inFlight := rfl
@[simp] theorem State.modPort_axes (s : State) (p : Port) (f : PortState → PortState) : (s.modPort p f).axes = s.axes := rfl
@[simp] theorem State.modPort_motions (s : State) (p : Port) (f : PortState → PortState) : (s.modPort p f).motions = s.motions := rfl
@[simp] theorem State.modPort_claims (s : State) (p : Port) (f : PortState → PortState) : (s.modPort p f).claims = s.claims := rfl
@[simp] theorem State.modPort_programs (s : State) (p : Port) (f : PortState → PortState) : (s.modPort p f).programs = s.programs := rfl
@[simp] theorem State.modPort_runners (s : State) (p : Port) (f : PortState → PortState) : (s.modPort p f).runners = s.runners := rfl
@[simp] theorem State.modPort_links (s : State) (p : Port) (f : PortState → PortState) : (s.modPort p f).links = s.links := rfl
@[simp] theorem State.modPort_trigs (s : State) (p : Port) (f : PortState → PortState) : (s.modPort p f).trigs = s.trigs := rfl
@[simp] theorem State.modPort_outputs (s : State) (p : Port) (f : PortState → PortState) : (s.modPort p f).outputs = s.outputs := rfl
@[simp] theorem State.modPort_captures (s : State) (p : Port) (f : PortState → PortState) : (s.modPort p f).captures = s.captures := rfl
@[simp] theorem State.modPort_power (s : State) (p : Port) (f : PortState → PortState) : (s.modPort p f).power = s.power := rfl
@[simp] theorem State.modPort_routing (s : State) (p : Port) (f : PortState → PortState) : (s.modPort p f).routing = s.routing := rfl
@[simp] theorem State.modPort_signals (s : State) (p : Port) (f : PortState → PortState) : (s.modPort p f).signals = s.signals := rfl
@[simp] theorem State.modPort_serial (s : State) (p : Port) (f : PortState → PortState) : (s.modPort p f).serial = s.serial := rfl
@[simp] theorem State.modPort_freeCount (s : State) (p : Port) (f : PortState → PortState) : (s.modPort p f).freeCount = s.freeCount := rfl
@[simp] theorem State.modPort_pending (s : State) (p : Port) (f : PortState → PortState) : (s.modPort p f).pending = s.pending := rfl

/-! ### setRunner -/
@[simp] theorem State.setRunner_phase (s : State) (r : Port) (x : Runner) : (s.setRunner r x).phase = s.phase := rfl
@[simp] theorem State.setRunner_resetLine (s : State) (r : Port) (x : Runner) : (s.setRunner r x).resetLine = s.resetLine := rfl
@[simp] theorem State.setRunner_straps (s : State) (r : Port) (x : Runner) : (s.setRunner r x).straps = s.straps := rfl
@[simp] theorem State.setRunner_startRecord (s : State) (r : Port) (x : Runner) : (s.setRunner r x).startRecord = s.startRecord := rfl
@[simp] theorem State.setRunner_clock (s : State) (r : Port) (x : Runner) : (s.setRunner r x).clock = s.clock := rfl
@[simp] theorem State.setRunner_timebase (s : State) (r : Port) (x : Runner) : (s.setRunner r x).timebase = s.timebase := rfl
@[simp] theorem State.setRunner_channels (s : State) (r : Port) (x : Runner) : (s.setRunner r x).channels = s.channels := rfl
@[simp] theorem State.setRunner_stampCounter (s : State) (r : Port) (x : Runner) : (s.setRunner r x).stampCounter = s.stampCounter := rfl
@[simp] theorem State.setRunner_evals (s : State) (r : Port) (x : Runner) : (s.setRunner r x).evals = s.evals := rfl
@[simp] theorem State.setRunner_inFlight (s : State) (r : Port) (x : Runner) : (s.setRunner r x).inFlight = s.inFlight := rfl
@[simp] theorem State.setRunner_axes (s : State) (r : Port) (x : Runner) : (s.setRunner r x).axes = s.axes := rfl
@[simp] theorem State.setRunner_motions (s : State) (r : Port) (x : Runner) : (s.setRunner r x).motions = s.motions := rfl
@[simp] theorem State.setRunner_claims (s : State) (r : Port) (x : Runner) : (s.setRunner r x).claims = s.claims := rfl
@[simp] theorem State.setRunner_programs (s : State) (r : Port) (x : Runner) : (s.setRunner r x).programs = s.programs := rfl
@[simp] theorem State.setRunner_links (s : State) (r : Port) (x : Runner) : (s.setRunner r x).links = s.links := rfl
@[simp] theorem State.setRunner_trigs (s : State) (r : Port) (x : Runner) : (s.setRunner r x).trigs = s.trigs := rfl
@[simp] theorem State.setRunner_outputs (s : State) (r : Port) (x : Runner) : (s.setRunner r x).outputs = s.outputs := rfl
@[simp] theorem State.setRunner_captures (s : State) (r : Port) (x : Runner) : (s.setRunner r x).captures = s.captures := rfl
@[simp] theorem State.setRunner_power (s : State) (r : Port) (x : Runner) : (s.setRunner r x).power = s.power := rfl
@[simp] theorem State.setRunner_ports (s : State) (r : Port) (x : Runner) : (s.setRunner r x).ports = s.ports := rfl
@[simp] theorem State.setRunner_routing (s : State) (r : Port) (x : Runner) : (s.setRunner r x).routing = s.routing := rfl
@[simp] theorem State.setRunner_signals (s : State) (r : Port) (x : Runner) : (s.setRunner r x).signals = s.signals := rfl
@[simp] theorem State.setRunner_serial (s : State) (r : Port) (x : Runner) : (s.setRunner r x).serial = s.serial := rfl
@[simp] theorem State.setRunner_freeCount (s : State) (r : Port) (x : Runner) : (s.setRunner r x).freeCount = s.freeCount := rfl
@[simp] theorem State.setRunner_pending (s : State) (r : Port) (x : Runner) : (s.setRunner r x).pending = s.pending := rfl

/-! ### modRunner -/
@[simp] theorem State.modRunner_phase (s : State) (r : Port) (f : Runner → Runner) : (s.modRunner r f).phase = s.phase := rfl
@[simp] theorem State.modRunner_resetLine (s : State) (r : Port) (f : Runner → Runner) : (s.modRunner r f).resetLine = s.resetLine := rfl
@[simp] theorem State.modRunner_straps (s : State) (r : Port) (f : Runner → Runner) : (s.modRunner r f).straps = s.straps := rfl
@[simp] theorem State.modRunner_startRecord (s : State) (r : Port) (f : Runner → Runner) : (s.modRunner r f).startRecord = s.startRecord := rfl
@[simp] theorem State.modRunner_clock (s : State) (r : Port) (f : Runner → Runner) : (s.modRunner r f).clock = s.clock := rfl
@[simp] theorem State.modRunner_timebase (s : State) (r : Port) (f : Runner → Runner) : (s.modRunner r f).timebase = s.timebase := rfl
@[simp] theorem State.modRunner_channels (s : State) (r : Port) (f : Runner → Runner) : (s.modRunner r f).channels = s.channels := rfl
@[simp] theorem State.modRunner_stampCounter (s : State) (r : Port) (f : Runner → Runner) : (s.modRunner r f).stampCounter = s.stampCounter := rfl
@[simp] theorem State.modRunner_evals (s : State) (r : Port) (f : Runner → Runner) : (s.modRunner r f).evals = s.evals := rfl
@[simp] theorem State.modRunner_inFlight (s : State) (r : Port) (f : Runner → Runner) : (s.modRunner r f).inFlight = s.inFlight := rfl
@[simp] theorem State.modRunner_axes (s : State) (r : Port) (f : Runner → Runner) : (s.modRunner r f).axes = s.axes := rfl
@[simp] theorem State.modRunner_motions (s : State) (r : Port) (f : Runner → Runner) : (s.modRunner r f).motions = s.motions := rfl
@[simp] theorem State.modRunner_claims (s : State) (r : Port) (f : Runner → Runner) : (s.modRunner r f).claims = s.claims := rfl
@[simp] theorem State.modRunner_programs (s : State) (r : Port) (f : Runner → Runner) : (s.modRunner r f).programs = s.programs := rfl
@[simp] theorem State.modRunner_links (s : State) (r : Port) (f : Runner → Runner) : (s.modRunner r f).links = s.links := rfl
@[simp] theorem State.modRunner_trigs (s : State) (r : Port) (f : Runner → Runner) : (s.modRunner r f).trigs = s.trigs := rfl
@[simp] theorem State.modRunner_outputs (s : State) (r : Port) (f : Runner → Runner) : (s.modRunner r f).outputs = s.outputs := rfl
@[simp] theorem State.modRunner_captures (s : State) (r : Port) (f : Runner → Runner) : (s.modRunner r f).captures = s.captures := rfl
@[simp] theorem State.modRunner_power (s : State) (r : Port) (f : Runner → Runner) : (s.modRunner r f).power = s.power := rfl
@[simp] theorem State.modRunner_ports (s : State) (r : Port) (f : Runner → Runner) : (s.modRunner r f).ports = s.ports := rfl
@[simp] theorem State.modRunner_routing (s : State) (r : Port) (f : Runner → Runner) : (s.modRunner r f).routing = s.routing := rfl
@[simp] theorem State.modRunner_signals (s : State) (r : Port) (f : Runner → Runner) : (s.modRunner r f).signals = s.signals := rfl
@[simp] theorem State.modRunner_serial (s : State) (r : Port) (f : Runner → Runner) : (s.modRunner r f).serial = s.serial := rfl
@[simp] theorem State.modRunner_freeCount (s : State) (r : Port) (f : Runner → Runner) : (s.modRunner r f).freeCount = s.freeCount := rfl
@[simp] theorem State.modRunner_pending (s : State) (r : Port) (f : Runner → Runner) : (s.modRunner r f).pending = s.pending := rfl

/-! ### setMotion -/
@[simp] theorem State.setMotion_phase (s : State) (g : GroupId) (m : Option GroupMotion) : (s.setMotion g m).phase = s.phase := rfl
@[simp] theorem State.setMotion_resetLine (s : State) (g : GroupId) (m : Option GroupMotion) : (s.setMotion g m).resetLine = s.resetLine := rfl
@[simp] theorem State.setMotion_straps (s : State) (g : GroupId) (m : Option GroupMotion) : (s.setMotion g m).straps = s.straps := rfl
@[simp] theorem State.setMotion_startRecord (s : State) (g : GroupId) (m : Option GroupMotion) : (s.setMotion g m).startRecord = s.startRecord := rfl
@[simp] theorem State.setMotion_clock (s : State) (g : GroupId) (m : Option GroupMotion) : (s.setMotion g m).clock = s.clock := rfl
@[simp] theorem State.setMotion_timebase (s : State) (g : GroupId) (m : Option GroupMotion) : (s.setMotion g m).timebase = s.timebase := rfl
@[simp] theorem State.setMotion_channels (s : State) (g : GroupId) (m : Option GroupMotion) : (s.setMotion g m).channels = s.channels := rfl
@[simp] theorem State.setMotion_stampCounter (s : State) (g : GroupId) (m : Option GroupMotion) : (s.setMotion g m).stampCounter = s.stampCounter := rfl
@[simp] theorem State.setMotion_evals (s : State) (g : GroupId) (m : Option GroupMotion) : (s.setMotion g m).evals = s.evals := rfl
@[simp] theorem State.setMotion_inFlight (s : State) (g : GroupId) (m : Option GroupMotion) : (s.setMotion g m).inFlight = s.inFlight := rfl
@[simp] theorem State.setMotion_axes (s : State) (g : GroupId) (m : Option GroupMotion) : (s.setMotion g m).axes = s.axes := rfl
@[simp] theorem State.setMotion_claims (s : State) (g : GroupId) (m : Option GroupMotion) : (s.setMotion g m).claims = s.claims := rfl
@[simp] theorem State.setMotion_programs (s : State) (g : GroupId) (m : Option GroupMotion) : (s.setMotion g m).programs = s.programs := rfl
@[simp] theorem State.setMotion_runners (s : State) (g : GroupId) (m : Option GroupMotion) : (s.setMotion g m).runners = s.runners := rfl
@[simp] theorem State.setMotion_links (s : State) (g : GroupId) (m : Option GroupMotion) : (s.setMotion g m).links = s.links := rfl
@[simp] theorem State.setMotion_trigs (s : State) (g : GroupId) (m : Option GroupMotion) : (s.setMotion g m).trigs = s.trigs := rfl
@[simp] theorem State.setMotion_outputs (s : State) (g : GroupId) (m : Option GroupMotion) : (s.setMotion g m).outputs = s.outputs := rfl
@[simp] theorem State.setMotion_captures (s : State) (g : GroupId) (m : Option GroupMotion) : (s.setMotion g m).captures = s.captures := rfl
@[simp] theorem State.setMotion_power (s : State) (g : GroupId) (m : Option GroupMotion) : (s.setMotion g m).power = s.power := rfl
@[simp] theorem State.setMotion_ports (s : State) (g : GroupId) (m : Option GroupMotion) : (s.setMotion g m).ports = s.ports := rfl
@[simp] theorem State.setMotion_routing (s : State) (g : GroupId) (m : Option GroupMotion) : (s.setMotion g m).routing = s.routing := rfl
@[simp] theorem State.setMotion_signals (s : State) (g : GroupId) (m : Option GroupMotion) : (s.setMotion g m).signals = s.signals := rfl
@[simp] theorem State.setMotion_serial (s : State) (g : GroupId) (m : Option GroupMotion) : (s.setMotion g m).serial = s.serial := rfl
@[simp] theorem State.setMotion_freeCount (s : State) (g : GroupId) (m : Option GroupMotion) : (s.setMotion g m).freeCount = s.freeCount := rfl
@[simp] theorem State.setMotion_pending (s : State) (g : GroupId) (m : Option GroupMotion) : (s.setMotion g m).pending = s.pending := rfl

/-! ### setProgram -/
@[simp] theorem State.setProgram_phase (s : State) (i : ProgramId) (x : Program) : (s.setProgram i x).phase = s.phase := rfl
@[simp] theorem State.setProgram_resetLine (s : State) (i : ProgramId) (x : Program) : (s.setProgram i x).resetLine = s.resetLine := rfl
@[simp] theorem State.setProgram_straps (s : State) (i : ProgramId) (x : Program) : (s.setProgram i x).straps = s.straps := rfl
@[simp] theorem State.setProgram_startRecord (s : State) (i : ProgramId) (x : Program) : (s.setProgram i x).startRecord = s.startRecord := rfl
@[simp] theorem State.setProgram_clock (s : State) (i : ProgramId) (x : Program) : (s.setProgram i x).clock = s.clock := rfl
@[simp] theorem State.setProgram_timebase (s : State) (i : ProgramId) (x : Program) : (s.setProgram i x).timebase = s.timebase := rfl
@[simp] theorem State.setProgram_channels (s : State) (i : ProgramId) (x : Program) : (s.setProgram i x).channels = s.channels := rfl
@[simp] theorem State.setProgram_stampCounter (s : State) (i : ProgramId) (x : Program) : (s.setProgram i x).stampCounter = s.stampCounter := rfl
@[simp] theorem State.setProgram_evals (s : State) (i : ProgramId) (x : Program) : (s.setProgram i x).evals = s.evals := rfl
@[simp] theorem State.setProgram_inFlight (s : State) (i : ProgramId) (x : Program) : (s.setProgram i x).inFlight = s.inFlight := rfl
@[simp] theorem State.setProgram_axes (s : State) (i : ProgramId) (x : Program) : (s.setProgram i x).axes = s.axes := rfl
@[simp] theorem State.setProgram_motions (s : State) (i : ProgramId) (x : Program) : (s.setProgram i x).motions = s.motions := rfl
@[simp] theorem State.setProgram_claims (s : State) (i : ProgramId) (x : Program) : (s.setProgram i x).claims = s.claims := rfl
@[simp] theorem State.setProgram_runners (s : State) (i : ProgramId) (x : Program) : (s.setProgram i x).runners = s.runners := rfl
@[simp] theorem State.setProgram_links (s : State) (i : ProgramId) (x : Program) : (s.setProgram i x).links = s.links := rfl
@[simp] theorem State.setProgram_trigs (s : State) (i : ProgramId) (x : Program) : (s.setProgram i x).trigs = s.trigs := rfl
@[simp] theorem State.setProgram_outputs (s : State) (i : ProgramId) (x : Program) : (s.setProgram i x).outputs = s.outputs := rfl
@[simp] theorem State.setProgram_captures (s : State) (i : ProgramId) (x : Program) : (s.setProgram i x).captures = s.captures := rfl
@[simp] theorem State.setProgram_power (s : State) (i : ProgramId) (x : Program) : (s.setProgram i x).power = s.power := rfl
@[simp] theorem State.setProgram_ports (s : State) (i : ProgramId) (x : Program) : (s.setProgram i x).ports = s.ports := rfl
@[simp] theorem State.setProgram_routing (s : State) (i : ProgramId) (x : Program) : (s.setProgram i x).routing = s.routing := rfl
@[simp] theorem State.setProgram_signals (s : State) (i : ProgramId) (x : Program) : (s.setProgram i x).signals = s.signals := rfl
@[simp] theorem State.setProgram_serial (s : State) (i : ProgramId) (x : Program) : (s.setProgram i x).serial = s.serial := rfl
@[simp] theorem State.setProgram_freeCount (s : State) (i : ProgramId) (x : Program) : (s.setProgram i x).freeCount = s.freeCount := rfl
@[simp] theorem State.setProgram_pending (s : State) (i : ProgramId) (x : Program) : (s.setProgram i x).pending = s.pending := rfl

/-! ### setLink -/
@[simp] theorem State.setLink_phase (s : State) (l : LinkId) (x : Link) : (s.setLink l x).phase = s.phase := rfl
@[simp] theorem State.setLink_resetLine (s : State) (l : LinkId) (x : Link) : (s.setLink l x).resetLine = s.resetLine := rfl
@[simp] theorem State.setLink_straps (s : State) (l : LinkId) (x : Link) : (s.setLink l x).straps = s.straps := rfl
@[simp] theorem State.setLink_startRecord (s : State) (l : LinkId) (x : Link) : (s.setLink l x).startRecord = s.startRecord := rfl
@[simp] theorem State.setLink_clock (s : State) (l : LinkId) (x : Link) : (s.setLink l x).clock = s.clock := rfl
@[simp] theorem State.setLink_timebase (s : State) (l : LinkId) (x : Link) : (s.setLink l x).timebase = s.timebase := rfl
@[simp] theorem State.setLink_channels (s : State) (l : LinkId) (x : Link) : (s.setLink l x).channels = s.channels := rfl
@[simp] theorem State.setLink_stampCounter (s : State) (l : LinkId) (x : Link) : (s.setLink l x).stampCounter = s.stampCounter := rfl
@[simp] theorem State.setLink_evals (s : State) (l : LinkId) (x : Link) : (s.setLink l x).evals = s.evals := rfl
@[simp] theorem State.setLink_inFlight (s : State) (l : LinkId) (x : Link) : (s.setLink l x).inFlight = s.inFlight := rfl
@[simp] theorem State.setLink_axes (s : State) (l : LinkId) (x : Link) : (s.setLink l x).axes = s.axes := rfl
@[simp] theorem State.setLink_motions (s : State) (l : LinkId) (x : Link) : (s.setLink l x).motions = s.motions := rfl
@[simp] theorem State.setLink_claims (s : State) (l : LinkId) (x : Link) : (s.setLink l x).claims = s.claims := rfl
@[simp] theorem State.setLink_programs (s : State) (l : LinkId) (x : Link) : (s.setLink l x).programs = s.programs := rfl
@[simp] theorem State.setLink_runners (s : State) (l : LinkId) (x : Link) : (s.setLink l x).runners = s.runners := rfl
@[simp] theorem State.setLink_trigs (s : State) (l : LinkId) (x : Link) : (s.setLink l x).trigs = s.trigs := rfl
@[simp] theorem State.setLink_outputs (s : State) (l : LinkId) (x : Link) : (s.setLink l x).outputs = s.outputs := rfl
@[simp] theorem State.setLink_captures (s : State) (l : LinkId) (x : Link) : (s.setLink l x).captures = s.captures := rfl
@[simp] theorem State.setLink_power (s : State) (l : LinkId) (x : Link) : (s.setLink l x).power = s.power := rfl
@[simp] theorem State.setLink_ports (s : State) (l : LinkId) (x : Link) : (s.setLink l x).ports = s.ports := rfl
@[simp] theorem State.setLink_routing (s : State) (l : LinkId) (x : Link) : (s.setLink l x).routing = s.routing := rfl
@[simp] theorem State.setLink_signals (s : State) (l : LinkId) (x : Link) : (s.setLink l x).signals = s.signals := rfl
@[simp] theorem State.setLink_serial (s : State) (l : LinkId) (x : Link) : (s.setLink l x).serial = s.serial := rfl
@[simp] theorem State.setLink_freeCount (s : State) (l : LinkId) (x : Link) : (s.setLink l x).freeCount = s.freeCount := rfl
@[simp] theorem State.setLink_pending (s : State) (l : LinkId) (x : Link) : (s.setLink l x).pending = s.pending := rfl

/-! ### setChannel -/
@[simp] theorem State.setChannel_phase (s : State) (c : ChannelId) (x : Channel) : (s.setChannel c x).phase = s.phase := rfl
@[simp] theorem State.setChannel_resetLine (s : State) (c : ChannelId) (x : Channel) : (s.setChannel c x).resetLine = s.resetLine := rfl
@[simp] theorem State.setChannel_straps (s : State) (c : ChannelId) (x : Channel) : (s.setChannel c x).straps = s.straps := rfl
@[simp] theorem State.setChannel_startRecord (s : State) (c : ChannelId) (x : Channel) : (s.setChannel c x).startRecord = s.startRecord := rfl
@[simp] theorem State.setChannel_clock (s : State) (c : ChannelId) (x : Channel) : (s.setChannel c x).clock = s.clock := rfl
@[simp] theorem State.setChannel_timebase (s : State) (c : ChannelId) (x : Channel) : (s.setChannel c x).timebase = s.timebase := rfl
@[simp] theorem State.setChannel_stampCounter (s : State) (c : ChannelId) (x : Channel) : (s.setChannel c x).stampCounter = s.stampCounter := rfl
@[simp] theorem State.setChannel_evals (s : State) (c : ChannelId) (x : Channel) : (s.setChannel c x).evals = s.evals := rfl
@[simp] theorem State.setChannel_inFlight (s : State) (c : ChannelId) (x : Channel) : (s.setChannel c x).inFlight = s.inFlight := rfl
@[simp] theorem State.setChannel_axes (s : State) (c : ChannelId) (x : Channel) : (s.setChannel c x).axes = s.axes := rfl
@[simp] theorem State.setChannel_motions (s : State) (c : ChannelId) (x : Channel) : (s.setChannel c x).motions = s.motions := rfl
@[simp] theorem State.setChannel_claims (s : State) (c : ChannelId) (x : Channel) : (s.setChannel c x).claims = s.claims := rfl
@[simp] theorem State.setChannel_programs (s : State) (c : ChannelId) (x : Channel) : (s.setChannel c x).programs = s.programs := rfl
@[simp] theorem State.setChannel_runners (s : State) (c : ChannelId) (x : Channel) : (s.setChannel c x).runners = s.runners := rfl
@[simp] theorem State.setChannel_links (s : State) (c : ChannelId) (x : Channel) : (s.setChannel c x).links = s.links := rfl
@[simp] theorem State.setChannel_trigs (s : State) (c : ChannelId) (x : Channel) : (s.setChannel c x).trigs = s.trigs := rfl
@[simp] theorem State.setChannel_outputs (s : State) (c : ChannelId) (x : Channel) : (s.setChannel c x).outputs = s.outputs := rfl
@[simp] theorem State.setChannel_captures (s : State) (c : ChannelId) (x : Channel) : (s.setChannel c x).captures = s.captures := rfl
@[simp] theorem State.setChannel_power (s : State) (c : ChannelId) (x : Channel) : (s.setChannel c x).power = s.power := rfl
@[simp] theorem State.setChannel_ports (s : State) (c : ChannelId) (x : Channel) : (s.setChannel c x).ports = s.ports := rfl
@[simp] theorem State.setChannel_routing (s : State) (c : ChannelId) (x : Channel) : (s.setChannel c x).routing = s.routing := rfl
@[simp] theorem State.setChannel_signals (s : State) (c : ChannelId) (x : Channel) : (s.setChannel c x).signals = s.signals := rfl
@[simp] theorem State.setChannel_serial (s : State) (c : ChannelId) (x : Channel) : (s.setChannel c x).serial = s.serial := rfl
@[simp] theorem State.setChannel_freeCount (s : State) (c : ChannelId) (x : Channel) : (s.setChannel c x).freeCount = s.freeCount := rfl
@[simp] theorem State.setChannel_pending (s : State) (c : ChannelId) (x : Channel) : (s.setChannel c x).pending = s.pending := rfl

/-! ### setClaim -/
@[simp] theorem State.setClaim_phase (s : State) (r : Resource) (x : ClaimEntry) : (s.setClaim r x).phase = s.phase := rfl
@[simp] theorem State.setClaim_resetLine (s : State) (r : Resource) (x : ClaimEntry) : (s.setClaim r x).resetLine = s.resetLine := rfl
@[simp] theorem State.setClaim_straps (s : State) (r : Resource) (x : ClaimEntry) : (s.setClaim r x).straps = s.straps := rfl
@[simp] theorem State.setClaim_startRecord (s : State) (r : Resource) (x : ClaimEntry) : (s.setClaim r x).startRecord = s.startRecord := rfl
@[simp] theorem State.setClaim_clock (s : State) (r : Resource) (x : ClaimEntry) : (s.setClaim r x).clock = s.clock := rfl
@[simp] theorem State.setClaim_timebase (s : State) (r : Resource) (x : ClaimEntry) : (s.setClaim r x).timebase = s.timebase := rfl
@[simp] theorem State.setClaim_channels (s : State) (r : Resource) (x : ClaimEntry) : (s.setClaim r x).channels = s.channels := rfl
@[simp] theorem State.setClaim_stampCounter (s : State) (r : Resource) (x : ClaimEntry) : (s.setClaim r x).stampCounter = s.stampCounter := rfl
@[simp] theorem State.setClaim_evals (s : State) (r : Resource) (x : ClaimEntry) : (s.setClaim r x).evals = s.evals := rfl
@[simp] theorem State.setClaim_inFlight (s : State) (r : Resource) (x : ClaimEntry) : (s.setClaim r x).inFlight = s.inFlight := rfl
@[simp] theorem State.setClaim_axes (s : State) (r : Resource) (x : ClaimEntry) : (s.setClaim r x).axes = s.axes := rfl
@[simp] theorem State.setClaim_motions (s : State) (r : Resource) (x : ClaimEntry) : (s.setClaim r x).motions = s.motions := rfl
@[simp] theorem State.setClaim_programs (s : State) (r : Resource) (x : ClaimEntry) : (s.setClaim r x).programs = s.programs := rfl
@[simp] theorem State.setClaim_runners (s : State) (r : Resource) (x : ClaimEntry) : (s.setClaim r x).runners = s.runners := rfl
@[simp] theorem State.setClaim_links (s : State) (r : Resource) (x : ClaimEntry) : (s.setClaim r x).links = s.links := rfl
@[simp] theorem State.setClaim_trigs (s : State) (r : Resource) (x : ClaimEntry) : (s.setClaim r x).trigs = s.trigs := rfl
@[simp] theorem State.setClaim_outputs (s : State) (r : Resource) (x : ClaimEntry) : (s.setClaim r x).outputs = s.outputs := rfl
@[simp] theorem State.setClaim_captures (s : State) (r : Resource) (x : ClaimEntry) : (s.setClaim r x).captures = s.captures := rfl
@[simp] theorem State.setClaim_power (s : State) (r : Resource) (x : ClaimEntry) : (s.setClaim r x).power = s.power := rfl
@[simp] theorem State.setClaim_ports (s : State) (r : Resource) (x : ClaimEntry) : (s.setClaim r x).ports = s.ports := rfl
@[simp] theorem State.setClaim_routing (s : State) (r : Resource) (x : ClaimEntry) : (s.setClaim r x).routing = s.routing := rfl
@[simp] theorem State.setClaim_signals (s : State) (r : Resource) (x : ClaimEntry) : (s.setClaim r x).signals = s.signals := rfl
@[simp] theorem State.setClaim_serial (s : State) (r : Resource) (x : ClaimEntry) : (s.setClaim r x).serial = s.serial := rfl
@[simp] theorem State.setClaim_freeCount (s : State) (r : Resource) (x : ClaimEntry) : (s.setClaim r x).freeCount = s.freeCount := rfl
@[simp] theorem State.setClaim_pending (s : State) (r : Resource) (x : ClaimEntry) : (s.setClaim r x).pending = s.pending := rfl

/-! ### restartLease -/
@[simp] theorem State.restartLease_phase (s : State) (r : Resource) : (s.restartLease r).phase = s.phase := rfl
@[simp] theorem State.restartLease_resetLine (s : State) (r : Resource) : (s.restartLease r).resetLine = s.resetLine := rfl
@[simp] theorem State.restartLease_straps (s : State) (r : Resource) : (s.restartLease r).straps = s.straps := rfl
@[simp] theorem State.restartLease_startRecord (s : State) (r : Resource) : (s.restartLease r).startRecord = s.startRecord := rfl
@[simp] theorem State.restartLease_clock (s : State) (r : Resource) : (s.restartLease r).clock = s.clock := rfl
@[simp] theorem State.restartLease_timebase (s : State) (r : Resource) : (s.restartLease r).timebase = s.timebase := rfl
@[simp] theorem State.restartLease_channels (s : State) (r : Resource) : (s.restartLease r).channels = s.channels := rfl
@[simp] theorem State.restartLease_stampCounter (s : State) (r : Resource) : (s.restartLease r).stampCounter = s.stampCounter := rfl
@[simp] theorem State.restartLease_evals (s : State) (r : Resource) : (s.restartLease r).evals = s.evals := rfl
@[simp] theorem State.restartLease_inFlight (s : State) (r : Resource) : (s.restartLease r).inFlight = s.inFlight := rfl
@[simp] theorem State.restartLease_axes (s : State) (r : Resource) : (s.restartLease r).axes = s.axes := rfl
@[simp] theorem State.restartLease_motions (s : State) (r : Resource) : (s.restartLease r).motions = s.motions := rfl
@[simp] theorem State.restartLease_programs (s : State) (r : Resource) : (s.restartLease r).programs = s.programs := rfl
@[simp] theorem State.restartLease_runners (s : State) (r : Resource) : (s.restartLease r).runners = s.runners := rfl
@[simp] theorem State.restartLease_links (s : State) (r : Resource) : (s.restartLease r).links = s.links := rfl
@[simp] theorem State.restartLease_trigs (s : State) (r : Resource) : (s.restartLease r).trigs = s.trigs := rfl
@[simp] theorem State.restartLease_outputs (s : State) (r : Resource) : (s.restartLease r).outputs = s.outputs := rfl
@[simp] theorem State.restartLease_captures (s : State) (r : Resource) : (s.restartLease r).captures = s.captures := rfl
@[simp] theorem State.restartLease_power (s : State) (r : Resource) : (s.restartLease r).power = s.power := rfl
@[simp] theorem State.restartLease_ports (s : State) (r : Resource) : (s.restartLease r).ports = s.ports := rfl
@[simp] theorem State.restartLease_routing (s : State) (r : Resource) : (s.restartLease r).routing = s.routing := rfl
@[simp] theorem State.restartLease_signals (s : State) (r : Resource) : (s.restartLease r).signals = s.signals := rfl
@[simp] theorem State.restartLease_serial (s : State) (r : Resource) : (s.restartLease r).serial = s.serial := rfl
@[simp] theorem State.restartLease_freeCount (s : State) (r : Resource) : (s.restartLease r).freeCount = s.freeCount := rfl
@[simp] theorem State.restartLease_pending (s : State) (r : Resource) : (s.restartLease r).pending = s.pending := rfl

/-! ### setOutput -/
@[simp] theorem State.setOutput_phase (s : State) (o : OutputId) (x : OutputState) : (s.setOutput o x).phase = s.phase := rfl
@[simp] theorem State.setOutput_resetLine (s : State) (o : OutputId) (x : OutputState) : (s.setOutput o x).resetLine = s.resetLine := rfl
@[simp] theorem State.setOutput_straps (s : State) (o : OutputId) (x : OutputState) : (s.setOutput o x).straps = s.straps := rfl
@[simp] theorem State.setOutput_startRecord (s : State) (o : OutputId) (x : OutputState) : (s.setOutput o x).startRecord = s.startRecord := rfl
@[simp] theorem State.setOutput_clock (s : State) (o : OutputId) (x : OutputState) : (s.setOutput o x).clock = s.clock := rfl
@[simp] theorem State.setOutput_timebase (s : State) (o : OutputId) (x : OutputState) : (s.setOutput o x).timebase = s.timebase := rfl
@[simp] theorem State.setOutput_channels (s : State) (o : OutputId) (x : OutputState) : (s.setOutput o x).channels = s.channels := rfl
@[simp] theorem State.setOutput_stampCounter (s : State) (o : OutputId) (x : OutputState) : (s.setOutput o x).stampCounter = s.stampCounter := rfl
@[simp] theorem State.setOutput_evals (s : State) (o : OutputId) (x : OutputState) : (s.setOutput o x).evals = s.evals := rfl
@[simp] theorem State.setOutput_inFlight (s : State) (o : OutputId) (x : OutputState) : (s.setOutput o x).inFlight = s.inFlight := rfl
@[simp] theorem State.setOutput_axes (s : State) (o : OutputId) (x : OutputState) : (s.setOutput o x).axes = s.axes := rfl
@[simp] theorem State.setOutput_motions (s : State) (o : OutputId) (x : OutputState) : (s.setOutput o x).motions = s.motions := rfl
@[simp] theorem State.setOutput_claims (s : State) (o : OutputId) (x : OutputState) : (s.setOutput o x).claims = s.claims := rfl
@[simp] theorem State.setOutput_programs (s : State) (o : OutputId) (x : OutputState) : (s.setOutput o x).programs = s.programs := rfl
@[simp] theorem State.setOutput_runners (s : State) (o : OutputId) (x : OutputState) : (s.setOutput o x).runners = s.runners := rfl
@[simp] theorem State.setOutput_links (s : State) (o : OutputId) (x : OutputState) : (s.setOutput o x).links = s.links := rfl
@[simp] theorem State.setOutput_trigs (s : State) (o : OutputId) (x : OutputState) : (s.setOutput o x).trigs = s.trigs := rfl
@[simp] theorem State.setOutput_captures (s : State) (o : OutputId) (x : OutputState) : (s.setOutput o x).captures = s.captures := rfl
@[simp] theorem State.setOutput_power (s : State) (o : OutputId) (x : OutputState) : (s.setOutput o x).power = s.power := rfl
@[simp] theorem State.setOutput_ports (s : State) (o : OutputId) (x : OutputState) : (s.setOutput o x).ports = s.ports := rfl
@[simp] theorem State.setOutput_routing (s : State) (o : OutputId) (x : OutputState) : (s.setOutput o x).routing = s.routing := rfl
@[simp] theorem State.setOutput_signals (s : State) (o : OutputId) (x : OutputState) : (s.setOutput o x).signals = s.signals := rfl
@[simp] theorem State.setOutput_serial (s : State) (o : OutputId) (x : OutputState) : (s.setOutput o x).serial = s.serial := rfl
@[simp] theorem State.setOutput_freeCount (s : State) (o : OutputId) (x : OutputState) : (s.setOutput o x).freeCount = s.freeCount := rfl
@[simp] theorem State.setOutput_pending (s : State) (o : OutputId) (x : OutputState) : (s.setOutput o x).pending = s.pending := rfl

/-! ### setRouting -/
@[simp] theorem State.setRouting_phase (s : State) (k : NoticeKind) (x : Routing) : (s.setRouting k x).phase = s.phase := rfl
@[simp] theorem State.setRouting_resetLine (s : State) (k : NoticeKind) (x : Routing) : (s.setRouting k x).resetLine = s.resetLine := rfl
@[simp] theorem State.setRouting_straps (s : State) (k : NoticeKind) (x : Routing) : (s.setRouting k x).straps = s.straps := rfl
@[simp] theorem State.setRouting_startRecord (s : State) (k : NoticeKind) (x : Routing) : (s.setRouting k x).startRecord = s.startRecord := rfl
@[simp] theorem State.setRouting_clock (s : State) (k : NoticeKind) (x : Routing) : (s.setRouting k x).clock = s.clock := rfl
@[simp] theorem State.setRouting_timebase (s : State) (k : NoticeKind) (x : Routing) : (s.setRouting k x).timebase = s.timebase := rfl
@[simp] theorem State.setRouting_channels (s : State) (k : NoticeKind) (x : Routing) : (s.setRouting k x).channels = s.channels := rfl
@[simp] theorem State.setRouting_stampCounter (s : State) (k : NoticeKind) (x : Routing) : (s.setRouting k x).stampCounter = s.stampCounter := rfl
@[simp] theorem State.setRouting_evals (s : State) (k : NoticeKind) (x : Routing) : (s.setRouting k x).evals = s.evals := rfl
@[simp] theorem State.setRouting_inFlight (s : State) (k : NoticeKind) (x : Routing) : (s.setRouting k x).inFlight = s.inFlight := rfl
@[simp] theorem State.setRouting_axes (s : State) (k : NoticeKind) (x : Routing) : (s.setRouting k x).axes = s.axes := rfl
@[simp] theorem State.setRouting_motions (s : State) (k : NoticeKind) (x : Routing) : (s.setRouting k x).motions = s.motions := rfl
@[simp] theorem State.setRouting_claims (s : State) (k : NoticeKind) (x : Routing) : (s.setRouting k x).claims = s.claims := rfl
@[simp] theorem State.setRouting_programs (s : State) (k : NoticeKind) (x : Routing) : (s.setRouting k x).programs = s.programs := rfl
@[simp] theorem State.setRouting_runners (s : State) (k : NoticeKind) (x : Routing) : (s.setRouting k x).runners = s.runners := rfl
@[simp] theorem State.setRouting_links (s : State) (k : NoticeKind) (x : Routing) : (s.setRouting k x).links = s.links := rfl
@[simp] theorem State.setRouting_trigs (s : State) (k : NoticeKind) (x : Routing) : (s.setRouting k x).trigs = s.trigs := rfl
@[simp] theorem State.setRouting_outputs (s : State) (k : NoticeKind) (x : Routing) : (s.setRouting k x).outputs = s.outputs := rfl
@[simp] theorem State.setRouting_captures (s : State) (k : NoticeKind) (x : Routing) : (s.setRouting k x).captures = s.captures := rfl
@[simp] theorem State.setRouting_power (s : State) (k : NoticeKind) (x : Routing) : (s.setRouting k x).power = s.power := rfl
@[simp] theorem State.setRouting_ports (s : State) (k : NoticeKind) (x : Routing) : (s.setRouting k x).ports = s.ports := rfl
@[simp] theorem State.setRouting_signals (s : State) (k : NoticeKind) (x : Routing) : (s.setRouting k x).signals = s.signals := rfl
@[simp] theorem State.setRouting_serial (s : State) (k : NoticeKind) (x : Routing) : (s.setRouting k x).serial = s.serial := rfl
@[simp] theorem State.setRouting_freeCount (s : State) (k : NoticeKind) (x : Routing) : (s.setRouting k x).freeCount = s.freeCount := rfl
@[simp] theorem State.setRouting_pending (s : State) (k : NoticeKind) (x : Routing) : (s.setRouting k x).pending = s.pending := rfl

/-! ### withClock -/
@[simp] theorem State.withClock_phase (s : State) (c : Clock) : (s.withClock c).phase = s.phase := rfl
@[simp] theorem State.withClock_resetLine (s : State) (c : Clock) : (s.withClock c).resetLine = s.resetLine := rfl
@[simp] theorem State.withClock_straps (s : State) (c : Clock) : (s.withClock c).straps = s.straps := rfl
@[simp] theorem State.withClock_startRecord (s : State) (c : Clock) : (s.withClock c).startRecord = s.startRecord := rfl
@[simp] theorem State.withClock_clock (s : State) (c : Clock) : (s.withClock c).clock = c := rfl
@[simp] theorem State.withClock_timebase (s : State) (c : Clock) : (s.withClock c).timebase = s.timebase := rfl
@[simp] theorem State.withClock_channels (s : State) (c : Clock) : (s.withClock c).channels = s.channels := rfl
@[simp] theorem State.withClock_stampCounter (s : State) (c : Clock) : (s.withClock c).stampCounter = s.stampCounter := rfl
@[simp] theorem State.withClock_evals (s : State) (c : Clock) : (s.withClock c).evals = s.evals := rfl
@[simp] theorem State.withClock_inFlight (s : State) (c : Clock) : (s.withClock c).inFlight = s.inFlight := rfl
@[simp] theorem State.withClock_axes (s : State) (c : Clock) : (s.withClock c).axes = s.axes := rfl
@[simp] theorem State.withClock_motions (s : State) (c : Clock) : (s.withClock c).motions = s.motions := rfl
@[simp] theorem State.withClock_claims (s : State) (c : Clock) : (s.withClock c).claims = s.claims := rfl
@[simp] theorem State.withClock_programs (s : State) (c : Clock) : (s.withClock c).programs = s.programs := rfl
@[simp] theorem State.withClock_runners (s : State) (c : Clock) : (s.withClock c).runners = s.runners := rfl
@[simp] theorem State.withClock_links (s : State) (c : Clock) : (s.withClock c).links = s.links := rfl
@[simp] theorem State.withClock_trigs (s : State) (c : Clock) : (s.withClock c).trigs = s.trigs := rfl
@[simp] theorem State.withClock_outputs (s : State) (c : Clock) : (s.withClock c).outputs = s.outputs := rfl
@[simp] theorem State.withClock_captures (s : State) (c : Clock) : (s.withClock c).captures = s.captures := rfl
@[simp] theorem State.withClock_power (s : State) (c : Clock) : (s.withClock c).power = s.power := rfl
@[simp] theorem State.withClock_ports (s : State) (c : Clock) : (s.withClock c).ports = s.ports := rfl
@[simp] theorem State.withClock_routing (s : State) (c : Clock) : (s.withClock c).routing = s.routing := rfl
@[simp] theorem State.withClock_signals (s : State) (c : Clock) : (s.withClock c).signals = s.signals := rfl
@[simp] theorem State.withClock_serial (s : State) (c : Clock) : (s.withClock c).serial = s.serial := rfl
@[simp] theorem State.withClock_freeCount (s : State) (c : Clock) : (s.withClock c).freeCount = s.freeCount := rfl
@[simp] theorem State.withClock_pending (s : State) (c : Clock) : (s.withClock c).pending = s.pending := rfl

/-! ### withPower -/
@[simp] theorem State.withPower_phase (s : State) (d : DrivePower) : (s.withPower d).phase = s.phase := rfl
@[simp] theorem State.withPower_resetLine (s : State) (d : DrivePower) : (s.withPower d).resetLine = s.resetLine := rfl
@[simp] theorem State.withPower_straps (s : State) (d : DrivePower) : (s.withPower d).straps = s.straps := rfl
@[simp] theorem State.withPower_startRecord (s : State) (d : DrivePower) : (s.withPower d).startRecord = s.startRecord := rfl
@[simp] theorem State.withPower_clock (s : State) (d : DrivePower) : (s.withPower d).clock = s.clock := rfl
@[simp] theorem State.withPower_timebase (s : State) (d : DrivePower) : (s.withPower d).timebase = s.timebase := rfl
@[simp] theorem State.withPower_channels (s : State) (d : DrivePower) : (s.withPower d).channels = s.channels := rfl
@[simp] theorem State.withPower_stampCounter (s : State) (d : DrivePower) : (s.withPower d).stampCounter = s.stampCounter := rfl
@[simp] theorem State.withPower_evals (s : State) (d : DrivePower) : (s.withPower d).evals = s.evals := rfl
@[simp] theorem State.withPower_inFlight (s : State) (d : DrivePower) : (s.withPower d).inFlight = s.inFlight := rfl
@[simp] theorem State.withPower_axes (s : State) (d : DrivePower) : (s.withPower d).axes = s.axes := rfl
@[simp] theorem State.withPower_motions (s : State) (d : DrivePower) : (s.withPower d).motions = s.motions := rfl
@[simp] theorem State.withPower_claims (s : State) (d : DrivePower) : (s.withPower d).claims = s.claims := rfl
@[simp] theorem State.withPower_programs (s : State) (d : DrivePower) : (s.withPower d).programs = s.programs := rfl
@[simp] theorem State.withPower_runners (s : State) (d : DrivePower) : (s.withPower d).runners = s.runners := rfl
@[simp] theorem State.withPower_links (s : State) (d : DrivePower) : (s.withPower d).links = s.links := rfl
@[simp] theorem State.withPower_trigs (s : State) (d : DrivePower) : (s.withPower d).trigs = s.trigs := rfl
@[simp] theorem State.withPower_outputs (s : State) (d : DrivePower) : (s.withPower d).outputs = s.outputs := rfl
@[simp] theorem State.withPower_captures (s : State) (d : DrivePower) : (s.withPower d).captures = s.captures := rfl
@[simp] theorem State.withPower_power (s : State) (d : DrivePower) : (s.withPower d).power = d := rfl
@[simp] theorem State.withPower_ports (s : State) (d : DrivePower) : (s.withPower d).ports = s.ports := rfl
@[simp] theorem State.withPower_routing (s : State) (d : DrivePower) : (s.withPower d).routing = s.routing := rfl
@[simp] theorem State.withPower_signals (s : State) (d : DrivePower) : (s.withPower d).signals = s.signals := rfl
@[simp] theorem State.withPower_serial (s : State) (d : DrivePower) : (s.withPower d).serial = s.serial := rfl
@[simp] theorem State.withPower_freeCount (s : State) (d : DrivePower) : (s.withPower d).freeCount = s.freeCount := rfl
@[simp] theorem State.withPower_pending (s : State) (d : DrivePower) : (s.withPower d).pending = s.pending := rfl

/-! ### withTimebase -/
@[simp] theorem State.withTimebase_phase (s : State) (t : Timebase) : (s.withTimebase t).phase = s.phase := rfl
@[simp] theorem State.withTimebase_resetLine (s : State) (t : Timebase) : (s.withTimebase t).resetLine = s.resetLine := rfl
@[simp] theorem State.withTimebase_straps (s : State) (t : Timebase) : (s.withTimebase t).straps = s.straps := rfl
@[simp] theorem State.withTimebase_startRecord (s : State) (t : Timebase) : (s.withTimebase t).startRecord = s.startRecord := rfl
@[simp] theorem State.withTimebase_clock (s : State) (t : Timebase) : (s.withTimebase t).clock = s.clock := rfl
@[simp] theorem State.withTimebase_timebase (s : State) (t : Timebase) : (s.withTimebase t).timebase = t := rfl
@[simp] theorem State.withTimebase_channels (s : State) (t : Timebase) : (s.withTimebase t).channels = s.channels := rfl
@[simp] theorem State.withTimebase_stampCounter (s : State) (t : Timebase) : (s.withTimebase t).stampCounter = s.stampCounter := rfl
@[simp] theorem State.withTimebase_evals (s : State) (t : Timebase) : (s.withTimebase t).evals = s.evals := rfl
@[simp] theorem State.withTimebase_inFlight (s : State) (t : Timebase) : (s.withTimebase t).inFlight = s.inFlight := rfl
@[simp] theorem State.withTimebase_axes (s : State) (t : Timebase) : (s.withTimebase t).axes = s.axes := rfl
@[simp] theorem State.withTimebase_motions (s : State) (t : Timebase) : (s.withTimebase t).motions = s.motions := rfl
@[simp] theorem State.withTimebase_claims (s : State) (t : Timebase) : (s.withTimebase t).claims = s.claims := rfl
@[simp] theorem State.withTimebase_programs (s : State) (t : Timebase) : (s.withTimebase t).programs = s.programs := rfl
@[simp] theorem State.withTimebase_runners (s : State) (t : Timebase) : (s.withTimebase t).runners = s.runners := rfl
@[simp] theorem State.withTimebase_links (s : State) (t : Timebase) : (s.withTimebase t).links = s.links := rfl
@[simp] theorem State.withTimebase_trigs (s : State) (t : Timebase) : (s.withTimebase t).trigs = s.trigs := rfl
@[simp] theorem State.withTimebase_outputs (s : State) (t : Timebase) : (s.withTimebase t).outputs = s.outputs := rfl
@[simp] theorem State.withTimebase_captures (s : State) (t : Timebase) : (s.withTimebase t).captures = s.captures := rfl
@[simp] theorem State.withTimebase_power (s : State) (t : Timebase) : (s.withTimebase t).power = s.power := rfl
@[simp] theorem State.withTimebase_ports (s : State) (t : Timebase) : (s.withTimebase t).ports = s.ports := rfl
@[simp] theorem State.withTimebase_routing (s : State) (t : Timebase) : (s.withTimebase t).routing = s.routing := rfl
@[simp] theorem State.withTimebase_signals (s : State) (t : Timebase) : (s.withTimebase t).signals = s.signals := rfl
@[simp] theorem State.withTimebase_serial (s : State) (t : Timebase) : (s.withTimebase t).serial = s.serial := rfl
@[simp] theorem State.withTimebase_freeCount (s : State) (t : Timebase) : (s.withTimebase t).freeCount = s.freeCount := rfl
@[simp] theorem State.withTimebase_pending (s : State) (t : Timebase) : (s.withTimebase t).pending = s.pending := rfl

/-! ### raise -/
@[simp] theorem State.raise_phase (s : State) (x : Signal) : (s.raise x).phase = s.phase := rfl
@[simp] theorem State.raise_resetLine (s : State) (x : Signal) : (s.raise x).resetLine = s.resetLine := rfl
@[simp] theorem State.raise_straps (s : State) (x : Signal) : (s.raise x).straps = s.straps := rfl
@[simp] theorem State.raise_startRecord (s : State) (x : Signal) : (s.raise x).startRecord = s.startRecord := rfl
@[simp] theorem State.raise_clock (s : State) (x : Signal) : (s.raise x).clock = s.clock := rfl
@[simp] theorem State.raise_timebase (s : State) (x : Signal) : (s.raise x).timebase = s.timebase := rfl
@[simp] theorem State.raise_channels (s : State) (x : Signal) : (s.raise x).channels = s.channels := rfl
@[simp] theorem State.raise_stampCounter (s : State) (x : Signal) : (s.raise x).stampCounter = s.stampCounter := rfl
@[simp] theorem State.raise_evals (s : State) (x : Signal) : (s.raise x).evals = s.evals := rfl
@[simp] theorem State.raise_inFlight (s : State) (x : Signal) : (s.raise x).inFlight = s.inFlight := rfl
@[simp] theorem State.raise_axes (s : State) (x : Signal) : (s.raise x).axes = s.axes := rfl
@[simp] theorem State.raise_motions (s : State) (x : Signal) : (s.raise x).motions = s.motions := rfl
@[simp] theorem State.raise_claims (s : State) (x : Signal) : (s.raise x).claims = s.claims := rfl
@[simp] theorem State.raise_programs (s : State) (x : Signal) : (s.raise x).programs = s.programs := rfl
@[simp] theorem State.raise_runners (s : State) (x : Signal) : (s.raise x).runners = s.runners := rfl
@[simp] theorem State.raise_links (s : State) (x : Signal) : (s.raise x).links = s.links := rfl
@[simp] theorem State.raise_trigs (s : State) (x : Signal) : (s.raise x).trigs = s.trigs := rfl
@[simp] theorem State.raise_outputs (s : State) (x : Signal) : (s.raise x).outputs = s.outputs := rfl
@[simp] theorem State.raise_captures (s : State) (x : Signal) : (s.raise x).captures = s.captures := rfl
@[simp] theorem State.raise_power (s : State) (x : Signal) : (s.raise x).power = s.power := rfl
@[simp] theorem State.raise_ports (s : State) (x : Signal) : (s.raise x).ports = s.ports := rfl
@[simp] theorem State.raise_routing (s : State) (x : Signal) : (s.raise x).routing = s.routing := rfl
@[simp] theorem State.raise_signals (s : State) (x : Signal) : (s.raise x).signals = s.signals ++ [x] := rfl
@[simp] theorem State.raise_serial (s : State) (x : Signal) : (s.raise x).serial = s.serial := rfl
@[simp] theorem State.raise_freeCount (s : State) (x : Signal) : (s.raise x).freeCount = s.freeCount := rfl
@[simp] theorem State.raise_pending (s : State) (x : Signal) : (s.raise x).pending = s.pending := rfl

/-! ### event -/
@[simp] theorem State.event_phase (s : State) (e : Source) : (s.event e).phase = s.phase := rfl
@[simp] theorem State.event_resetLine (s : State) (e : Source) : (s.event e).resetLine = s.resetLine := rfl
@[simp] theorem State.event_straps (s : State) (e : Source) : (s.event e).straps = s.straps := rfl
@[simp] theorem State.event_startRecord (s : State) (e : Source) : (s.event e).startRecord = s.startRecord := rfl
@[simp] theorem State.event_clock (s : State) (e : Source) : (s.event e).clock = s.clock := rfl
@[simp] theorem State.event_timebase (s : State) (e : Source) : (s.event e).timebase = s.timebase := rfl
@[simp] theorem State.event_channels (s : State) (e : Source) : (s.event e).channels = s.channels := rfl
@[simp] theorem State.event_stampCounter (s : State) (e : Source) : (s.event e).stampCounter = s.stampCounter := rfl
@[simp] theorem State.event_evals (s : State) (e : Source) : (s.event e).evals = s.evals := rfl
@[simp] theorem State.event_inFlight (s : State) (e : Source) : (s.event e).inFlight = s.inFlight := rfl
@[simp] theorem State.event_axes (s : State) (e : Source) : (s.event e).axes = s.axes := rfl
@[simp] theorem State.event_motions (s : State) (e : Source) : (s.event e).motions = s.motions := rfl
@[simp] theorem State.event_claims (s : State) (e : Source) : (s.event e).claims = s.claims := rfl
@[simp] theorem State.event_programs (s : State) (e : Source) : (s.event e).programs = s.programs := rfl
@[simp] theorem State.event_runners (s : State) (e : Source) : (s.event e).runners = s.runners := rfl
@[simp] theorem State.event_links (s : State) (e : Source) : (s.event e).links = s.links := rfl
@[simp] theorem State.event_trigs (s : State) (e : Source) : (s.event e).trigs = s.trigs := rfl
@[simp] theorem State.event_outputs (s : State) (e : Source) : (s.event e).outputs = s.outputs := rfl
@[simp] theorem State.event_captures (s : State) (e : Source) : (s.event e).captures = s.captures := rfl
@[simp] theorem State.event_power (s : State) (e : Source) : (s.event e).power = s.power := rfl
@[simp] theorem State.event_ports (s : State) (e : Source) : (s.event e).ports = s.ports := rfl
@[simp] theorem State.event_routing (s : State) (e : Source) : (s.event e).routing = s.routing := rfl
@[simp] theorem State.event_signals (s : State) (e : Source) : (s.event e).signals = s.signals ++ [.event e none] := rfl
@[simp] theorem State.event_serial (s : State) (e : Source) : (s.event e).serial = s.serial := rfl
@[simp] theorem State.event_freeCount (s : State) (e : Source) : (s.event e).freeCount = s.freeCount := rfl
@[simp] theorem State.event_pending (s : State) (e : Source) : (s.event e).pending = s.pending := rfl

/-! ### forgetEpochs -/
@[simp] theorem State.forgetEpochs_phase (s : State) (r : Port) : (s.forgetEpochs r).phase = s.phase := rfl
@[simp] theorem State.forgetEpochs_resetLine (s : State) (r : Port) : (s.forgetEpochs r).resetLine = s.resetLine := rfl
@[simp] theorem State.forgetEpochs_straps (s : State) (r : Port) : (s.forgetEpochs r).straps = s.straps := rfl
@[simp] theorem State.forgetEpochs_startRecord (s : State) (r : Port) : (s.forgetEpochs r).startRecord = s.startRecord := rfl
@[simp] theorem State.forgetEpochs_clock (s : State) (r : Port) : (s.forgetEpochs r).clock = s.clock := rfl
@[simp] theorem State.forgetEpochs_timebase (s : State) (r : Port) : (s.forgetEpochs r).timebase = s.timebase := rfl
@[simp] theorem State.forgetEpochs_channels (s : State) (r : Port) : (s.forgetEpochs r).channels = s.channels := rfl
@[simp] theorem State.forgetEpochs_stampCounter (s : State) (r : Port) : (s.forgetEpochs r).stampCounter = s.stampCounter := rfl
@[simp] theorem State.forgetEpochs_evals (s : State) (r : Port) : (s.forgetEpochs r).evals = s.evals := rfl
@[simp] theorem State.forgetEpochs_inFlight (s : State) (r : Port) : (s.forgetEpochs r).inFlight = s.inFlight := rfl
@[simp] theorem State.forgetEpochs_axes (s : State) (r : Port) : (s.forgetEpochs r).axes = s.axes := rfl
@[simp] theorem State.forgetEpochs_motions (s : State) (r : Port) : (s.forgetEpochs r).motions = s.motions := rfl
@[simp] theorem State.forgetEpochs_claims (s : State) (r : Port) : (s.forgetEpochs r).claims = s.claims := rfl
@[simp] theorem State.forgetEpochs_programs (s : State) (r : Port) : (s.forgetEpochs r).programs = s.programs := rfl
@[simp] theorem State.forgetEpochs_runners (s : State) (r : Port) : (s.forgetEpochs r).runners = s.runners := rfl
@[simp] theorem State.forgetEpochs_links (s : State) (r : Port) : (s.forgetEpochs r).links = s.links := rfl
@[simp] theorem State.forgetEpochs_trigs (s : State) (r : Port) : (s.forgetEpochs r).trigs = s.trigs := rfl
@[simp] theorem State.forgetEpochs_outputs (s : State) (r : Port) : (s.forgetEpochs r).outputs = s.outputs := rfl
@[simp] theorem State.forgetEpochs_captures (s : State) (r : Port) : (s.forgetEpochs r).captures = s.captures := rfl
@[simp] theorem State.forgetEpochs_power (s : State) (r : Port) : (s.forgetEpochs r).power = s.power := rfl
@[simp] theorem State.forgetEpochs_ports (s : State) (r : Port) : (s.forgetEpochs r).ports = s.ports := rfl
@[simp] theorem State.forgetEpochs_routing (s : State) (r : Port) : (s.forgetEpochs r).routing = s.routing := rfl
@[simp] theorem State.forgetEpochs_signals (s : State) (r : Port) : (s.forgetEpochs r).signals = s.signals.map (·.without r) := rfl
@[simp] theorem State.forgetEpochs_serial (s : State) (r : Port) : (s.forgetEpochs r).serial = s.serial := rfl
@[simp] theorem State.forgetEpochs_freeCount (s : State) (r : Port) : (s.forgetEpochs r).freeCount = s.freeCount := rfl
@[simp] theorem State.forgetEpochs_pending (s : State) (r : Port) : (s.forgetEpochs r).pending = s.pending := rfl

/-! ### noticeTo -/
@[simp] theorem State.noticeTo_phase (s : State) (p : Port) (k : NoticeKind) (subject : Option Nat) : (s.noticeTo p k subject).phase = s.phase := rfl
@[simp] theorem State.noticeTo_resetLine (s : State) (p : Port) (k : NoticeKind) (subject : Option Nat) : (s.noticeTo p k subject).resetLine = s.resetLine := rfl
@[simp] theorem State.noticeTo_straps (s : State) (p : Port) (k : NoticeKind) (subject : Option Nat) : (s.noticeTo p k subject).straps = s.straps := rfl
@[simp] theorem State.noticeTo_startRecord (s : State) (p : Port) (k : NoticeKind) (subject : Option Nat) : (s.noticeTo p k subject).startRecord = s.startRecord := rfl
@[simp] theorem State.noticeTo_clock (s : State) (p : Port) (k : NoticeKind) (subject : Option Nat) : (s.noticeTo p k subject).clock = s.clock := rfl
@[simp] theorem State.noticeTo_timebase (s : State) (p : Port) (k : NoticeKind) (subject : Option Nat) : (s.noticeTo p k subject).timebase = s.timebase := rfl
@[simp] theorem State.noticeTo_channels (s : State) (p : Port) (k : NoticeKind) (subject : Option Nat) : (s.noticeTo p k subject).channels = s.channels := rfl
@[simp] theorem State.noticeTo_stampCounter (s : State) (p : Port) (k : NoticeKind) (subject : Option Nat) : (s.noticeTo p k subject).stampCounter = s.stampCounter := rfl
@[simp] theorem State.noticeTo_evals (s : State) (p : Port) (k : NoticeKind) (subject : Option Nat) : (s.noticeTo p k subject).evals = s.evals := rfl
@[simp] theorem State.noticeTo_inFlight (s : State) (p : Port) (k : NoticeKind) (subject : Option Nat) : (s.noticeTo p k subject).inFlight = s.inFlight := rfl
@[simp] theorem State.noticeTo_axes (s : State) (p : Port) (k : NoticeKind) (subject : Option Nat) : (s.noticeTo p k subject).axes = s.axes := rfl
@[simp] theorem State.noticeTo_motions (s : State) (p : Port) (k : NoticeKind) (subject : Option Nat) : (s.noticeTo p k subject).motions = s.motions := rfl
@[simp] theorem State.noticeTo_claims (s : State) (p : Port) (k : NoticeKind) (subject : Option Nat) : (s.noticeTo p k subject).claims = s.claims := rfl
@[simp] theorem State.noticeTo_programs (s : State) (p : Port) (k : NoticeKind) (subject : Option Nat) : (s.noticeTo p k subject).programs = s.programs := rfl
@[simp] theorem State.noticeTo_runners (s : State) (p : Port) (k : NoticeKind) (subject : Option Nat) : (s.noticeTo p k subject).runners = s.runners := rfl
@[simp] theorem State.noticeTo_links (s : State) (p : Port) (k : NoticeKind) (subject : Option Nat) : (s.noticeTo p k subject).links = s.links := rfl
@[simp] theorem State.noticeTo_trigs (s : State) (p : Port) (k : NoticeKind) (subject : Option Nat) : (s.noticeTo p k subject).trigs = s.trigs := rfl
@[simp] theorem State.noticeTo_outputs (s : State) (p : Port) (k : NoticeKind) (subject : Option Nat) : (s.noticeTo p k subject).outputs = s.outputs := rfl
@[simp] theorem State.noticeTo_captures (s : State) (p : Port) (k : NoticeKind) (subject : Option Nat) : (s.noticeTo p k subject).captures = s.captures := rfl
@[simp] theorem State.noticeTo_power (s : State) (p : Port) (k : NoticeKind) (subject : Option Nat) : (s.noticeTo p k subject).power = s.power := rfl
@[simp] theorem State.noticeTo_routing (s : State) (p : Port) (k : NoticeKind) (subject : Option Nat) : (s.noticeTo p k subject).routing = s.routing := rfl
@[simp] theorem State.noticeTo_signals (s : State) (p : Port) (k : NoticeKind) (subject : Option Nat) : (s.noticeTo p k subject).signals = s.signals := rfl
@[simp] theorem State.noticeTo_serial (s : State) (p : Port) (k : NoticeKind) (subject : Option Nat) : (s.noticeTo p k subject).serial = s.serial := rfl
@[simp] theorem State.noticeTo_freeCount (s : State) (p : Port) (k : NoticeKind) (subject : Option Nat) : (s.noticeTo p k subject).freeCount = s.freeCount := rfl
@[simp] theorem State.noticeTo_pending (s : State) (p : Port) (k : NoticeKind) (subject : Option Nat) : (s.noticeTo p k subject).pending = s.pending := rfl

/-! ### Items of the per-port and indexed fields -/

@[simp] theorem PerPort.get_set_self {α : Type} (x : PerPort α) (p : Port) (v : α) : (x.set p v).get p = v := by
  cases p <;> rfl

theorem PerPort.get_set_of_ne {α : Type} (x : PerPort α) {p q : Port} (v : α) (h : q ≠ p) :
    (x.set p v).get q = x.get q := by
  cases p <;> cases q <;> first | rfl | exact absurd rfl h

@[simp] theorem PerPort.set_get_self {α : Type} (x : PerPort α) (p : Port) : x.set p (x.get p) = x := by
  cases p <;> rfl

@[simp] theorem PerPort.set_set_self {α : Type} (x : PerPort α) (p : Port) (v w : α) :
    (x.set p v).set p w = x.set p w := by
  cases p <;> rfl

@[simp] theorem State.setPort_port_self (s : State) (p : Port) (q : PortState) : (s.setPort p q).port p = q :=
  PerPort.get_set_self _ _ _

theorem State.setPort_port_of_ne (s : State) {p r : Port} (q : PortState) (h : r ≠ p) :
    (s.setPort p q).port r = s.port r :=
  PerPort.get_set_of_ne _ _ h

@[simp] theorem State.modPort_port_self (s : State) (p : Port) (f : PortState → PortState) :
    (s.modPort p f).port p = f (s.port p) :=
  PerPort.get_set_self _ _ _

theorem State.modPort_port_of_ne (s : State) {p r : Port} (f : PortState → PortState) (h : r ≠ p) :
    (s.modPort p f).port r = s.port r :=
  PerPort.get_set_of_ne _ _ h

@[simp] theorem State.modPort_modPort (s : State) (p : Port) (f g : PortState → PortState) :
    (s.modPort p f).modPort p g = s.modPort p fun q => g (f q) := by
  cases p <;> rfl

@[simp] theorem State.setRunner_runner_self (s : State) (r : Port) (x : Runner) : (s.setRunner r x).runner r = x :=
  PerPort.get_set_self _ _ _

theorem State.setRunner_runner_of_ne (s : State) {r t : Port} (x : Runner) (h : t ≠ r) :
    (s.setRunner r x).runner t = s.runner t :=
  PerPort.get_set_of_ne _ _ h

@[simp] theorem State.modRunner_runner_self (s : State) (r : Port) (f : Runner → Runner) :
    (s.modRunner r f).runner r = f (s.runner r) :=
  PerPort.get_set_self _ _ _

theorem State.modRunner_runner_of_ne (s : State) {r t : Port} (f : Runner → Runner) (h : t ≠ r) :
    (s.modRunner r f).runner t = s.runner t :=
  PerPort.get_set_of_ne _ _ h

@[simp] theorem State.setAxis_axis_self (s : State) (a : AxisId) (x : Axis) : (s.setAxis a x).axis a = x := by
  simp [State.setAxis, State.axis]

theorem State.setAxis_axis_of_ne (s : State) {a b : AxisId} (x : Axis) (h : b ≠ a) : (s.setAxis a x).axis b = s.axis b := by
  have : a.val ≠ b.val := fun e => h (Fin.ext e.symm)
  simp [State.setAxis, State.axis, this]

@[simp] theorem State.modAxis_axis_self (s : State) (a : AxisId) (f : Axis → Axis) :
    (s.modAxis a f).axis a = f (s.axis a) :=
  State.setAxis_axis_self _ _ _

theorem State.modAxis_axis_of_ne (s : State) {a b : AxisId} (f : Axis → Axis) (h : b ≠ a) :
    (s.modAxis a f).axis b = s.axis b :=
  State.setAxis_axis_of_ne _ _ h

theorem State.setAxis_axis (s : State) (a b : AxisId) (x : Axis) :
    (s.setAxis a x).axis b = if b = a then x else s.axis b := by
  by_cases h : b = a
  · subst h; simp
  · simp [h, State.setAxis_axis_of_ne]

theorem State.modAxis_axis (s : State) (a b : AxisId) (f : Axis → Axis) :
    (s.modAxis a f).axis b = if b = a then f (s.axis a) else s.axis b :=
  State.setAxis_axis _ _ _ _

@[simp] theorem State.setAxis_setAxis (s : State) (a : AxisId) (x y : Axis) :
    (s.setAxis a x).setAxis a y = s.setAxis a y := by
  simp [State.setAxis]

@[simp] theorem State.modAxis_modAxis (s : State) (a : AxisId) (f g : Axis → Axis) :
    (s.modAxis a f).modAxis a g = s.modAxis a fun x => g (f x) := by
  simp [State.modAxis]

@[simp] theorem State.setProgram_program_self (s : State) (i : ProgramId) (x : Program) :
    (s.setProgram i x).program i = x := by
  simp [State.setProgram, State.program]

theorem State.setProgram_program (s : State) (i j : ProgramId) (x : Program) :
    (s.setProgram i x).program j = if j = i then x else s.program j := by
  by_cases h : j = i
  · subst h; simp
  · have : i.val ≠ j.val := fun e => h (Fin.ext e.symm)
    simp [State.setProgram, State.program, this, h]

@[simp] theorem State.setChannel_channel_self (s : State) (c : ChannelId) (x : Channel) :
    (s.setChannel c x).channel c = x := by
  simp [State.setChannel, State.channel]

theorem State.setChannel_channel (s : State) (c d : ChannelId) (x : Channel) :
    (s.setChannel c x).channel d = if d = c then x else s.channel d := by
  by_cases h : d = c
  · subst h; simp
  · have : c.val ≠ d.val := fun e => h (Fin.ext e.symm)
    simp [State.setChannel, State.channel, this, h]

@[simp] theorem State.setLink_link_self (s : State) (l : LinkId) (x : Link) : (s.setLink l x).link l = x := by
  simp [State.setLink, State.link]

theorem resourceIdx_inj {r t : Resource} (h : resourceIdx r = resourceIdx t) : r = t := by
  cases r with
  | sky => cases t with
    | sky => rfl
    | group g => have := congrArg Fin.val h; simp [resourceIdx] at this
  | group g => cases t with
    | sky => have := congrArg Fin.val h; simp [resourceIdx] at this
    | group f =>
      have e := congrArg Fin.val h
      simp only [resourceIdx] at e
      exact congrArg Resource.group (Fin.ext (by omega))

@[simp] theorem State.setClaim_claim_self (s : State) (r : Resource) (x : ClaimEntry) : (s.setClaim r x).claim r = x := by
  simp [State.setClaim, State.claim]

theorem State.setClaim_claim (s : State) (r t : Resource) (x : ClaimEntry) :
    (s.setClaim r x).claim t = if t = r then x else s.claim t := by
  by_cases h : t = r
  · subst h; simp
  · have : (resourceIdx r).val ≠ (resourceIdx t).val := fun e => h (resourceIdx_inj (Fin.ext e.symm))
    simp [State.setClaim, State.claim, this, h]

end Sys2Proof.Machine
end

