-- ==== Sys2Proof/Laws/Requests.lean ====
section
/-! SUPPORT. What a request and an event leave, said once: the drain of a quiet part is nothing (log 5, log 10), and a request
taken in READY leaves its effect with the reply in the reply slot (R194, R197). -/

set_option Elab.async false

namespace Sys2Proof.Machine

/-! ## Quiet parts -/

theorem settledRunners_congr {s t : State} (hr : t.runners = s.runners) (hp : t.programs = s.programs) (ha : t.axes = s.axes)
    (hc : (t.clock.state = .settling ↔ s.clock.state = .settling)) : t.settledRunners = s.settledRunners := by
  unfold State.settledRunners State.waitingOn State.cuesOf State.runner State.program State.settledMet State.groupSettled
    State.membersOf State.axis
  have e : (t.clock.state != .settling) = (s.clock.state != .settling) := by
    cases hx : t.clock.state <;> cases hy : s.clock.state <;> simp_all <;> rfl
  rw [hr, hp, ha, e]

/-- A change that leaves runners, programs, axes and signals alone, and neither enters nor leaves SETTLING. -/
theorem State.Quiet.congrState {s t : State} (h : s.Quiet) (hs : t.signals = s.signals) (hr : t.runners = s.runners)
    (hp : t.programs = s.programs) (ha : t.axes = s.axes) (hc : t.clock.state = .settling ↔ s.clock.state = .settling) :
    t.Quiet := by
  obtain ⟨h1, h2, h3⟩ := h
  refine ⟨hs.trans h1, (settledRunners_congr hr hp ha hc).trans h2, fun a hm => ?_⟩
  have e : t.axis a = s.axis a := by unfold State.axis; rw [ha]
  rw [e] at hm ⊢
  exact h3 a hm

theorem State.Quiet.congr {s t : State} (h : s.Quiet) (hs : t.signals = s.signals) (hr : t.runners = s.runners)
    (hp : t.programs = s.programs) (ha : t.axes = s.axes) (hc : t.clock.state = s.clock.state) : t.Quiet :=
  h.congrState hs hr hp ha (by rw [hc])

theorem startMotion_of_quiet {s : State} {a : AxisId} (h : (s.axis a).state.moving = true → 0 < (s.axis a).speedSq) :
    ∀ n, s.startMotion a n = s
  | 0 => rfl
  | n + 1 => by
    unfold State.startMotion
    dsimp only
    split
    · rename_i c
      have := h c.1
      omega
    · rfl

theorem startMotions_of_quiet {s : State} (h : ∀ a, (s.axis a).state.moving = true → 0 < (s.axis a).speedSq) :
    s.startMotions = s := by
  unfold State.startMotions
  have : ∀ l : List AxisId, l.foldl (fun s a => s.startMotion a 3) s = s := by
    intro l
    induction l with
    | nil => rfl
    | cons a l ih => rw [List.foldl_cons, startMotion_of_quiet (h a)]; exact ih
  exact this allAxes

/-- Nothing follows in a quiet part. -/
theorem drainFor_of_quiet {s : State} (h : s.Quiet) : ∀ n, State.drainFor n s = s
  | 0 => rfl
  | n + 1 => by
    obtain ⟨h1, h2, h3⟩ := h
    unfold State.drainFor
    rw [h1, h2]
    simp only [State.freeOrder]
    rw [startMotions_of_quiet h3, h1]
    rfl

theorem drain_of_quiet {s : State} (h : s.Quiet) : s.drain = s := drainFor_of_quiet h _

/-! ## Requests -/

theorem outstand_port_request (s : State) (p : Port) (t c : Byte) :
    ((s.outstand p t c).port p).request = .outstanding t c := by
  simp [State.outstand]

/-- A request taken in READY and answered at once. -/
theorem onRequest_answered {s u : State} {p : Port} {tag : Byte} {q : Request} {r : Reply} (h : s.ready p)
    (e : serve p q (s.outstand p tag (requestByte q)) = (u, some r)) :
    onRequest p tag q s = .next (u.enterReply p tag (requestByte q) r).drain := by
  unfold onRequest State.accept State.take State.running
  rw [h.1, h.2, e]
  rfl

/-- An event of a running part. -/
theorem onEvent_running {s : State} {f : State → State} (h : s.phase = .running) : onEvent f s = .next (f s).drain := by
  unfold onEvent State.running
  rw [h]
  rfl

/-- The reply of a request whose effect leaves the ports alone. -/
theorem enterReply_outstand (s : State) (p : Port) (tag code : Byte) (r : Reply) :
    (s.outstand p tag code).enterReply p tag code r =
      s.modPort p fun q => { q with request := .outstanding tag code, reply := some (r.frame tag code) } := by
  simp [State.outstand, State.enterReply]

theorem replied_eq (s : State) (p : Port) (tag : Byte) (q : Request) (r : Reply) :
    (s.outstand p tag (requestByte q)).enterReply p tag (requestByte q) r = s.replied p tag (requestCode q) r :=
  enterReply_outstand _ _ _ _ _

theorem State.Quiet.replied {s : State} (h : s.Quiet) (p : Port) (tag : Byte) (code : Nat) (r : Reply) :
    (s.replied p tag code r).Quiet :=
  h.congr rfl rfl rfl rfl rfl

end Sys2Proof.Machine
end

