-- ==== Sys2Proof/Laws/Commands.lean ====
section
/-! SUPPORT. Every command is a request of a port, an event of the part, or one of the three that start it; and what each of
the three kinds does, said once. -/

set_option Elab.async false

namespace Sys2Proof.Machine

/-- What an event command does to the running part, before what it set off is taken. -/
def eventOf : Instr → Option (State → State)
  | .frameReceived p tag code payload crc => some (fun s => s.frameReceived p tag code payload crc)
  | .framingError p => some (fun s => s.breakFrame p)
  | .frameGapTimeout p => some (fun s => s.breakFrame p)
  | .replyStart p => some (fun s => s.replyStart p)
  | .frameTransmissionEnd p => some (fun s => s.transmissionEnd p)
  | .epochUpdate => some (fun s => s.epochUpdate)
  | .settleTimerExpiry => some (fun s => s.settleExpiry)
  | .quietTimerExpiry => some (fun s => s.quietExpiry)
  | .syncPulse crystal => some (fun s => s.syncPulse crystal)
  | .syncTimeout => some (fun s => s.syncTimeout)
  | .evaluationStart => some (fun s => s.startEvaluation)
  | .evaluationComplete => some (fun s => s.completeEvaluation)
  | .stepPulse a => some (fun s => s.stepPulse a)
  | .stepPulseEnd a => some (fun s => s.stepPulseEnd a)
  | .reversalPauseEnd a => some (fun s => s.reversalPauseEnd a)
  | .axisArrived a => some (fun s => s.axisArrived a)
  | .stoppingRest a => some (fun s => s.stoppingRest a)
  | .homeInputChange a level => some (fun s => s.homeChanged a level)
  | .clearPhaseRest a => some (fun s => s.clearRest a)
  | .axisHomed a => some (fun s => s.axisHomed a)
  | .homingSearchExhausted a late => some (fun s => s.searchExhausted a late)
  | .limitInputChange a side level late => some (fun s => s.limitChanged a side level late)
  | .fltInputChange a level => some (fun s => s.fltChanged a level)
  | .autoClearExpiry a => some (fun s => s.autoClearExpiry a)
  | .haltLineAsserted => some (fun s => s.assertHalt)
  | .haltLineDeasserted => some (fun s => s.haltDeasserted)
  | .drivePowerOkActive => some (fun s => s.drivePowerActive)
  | .drivePowerOkInactive => some (fun s => s.drivePowerInactive)
  | .drivePowerReturn => some (fun s => s.powerReturn)
  | .leaseExpiry r => some (fun s => s.leaseExpiry r)
  | .delayExpiry r => some (fun s => s.delayExpiry r)
  | .loopPauseEnd r => some (fun s => s.loopPauseEnd r)
  | .trigInputChange t level => some (fun s => s.trigChanged t level)
  | .pulseTimerExpiry o => some (fun s => s.pulseExpiry o)
  | .inputSample line level => if line = .reset then none else some (fun s => s.inputSample line level)
  | .byteReceived p byte => some (fun s => s.byteReceived p byte)
  | .velocityReachesZero a => some (fun s => s.velocityZero a)
  | _ => none

theorem exec_request {i : Instr} {q : Request} {p : Port} {tag : Byte} (h : i.request = some q)
    (h' : i.sender = some (p, tag)) (s : State) : exec i s = onRequest p tag q s := by
  cases i <;> first
    | (cases h; cases h'; rfl)
    | cases h

theorem exec_event {i : Instr} {f : State → State} (h : eventOf i = some f) (s : State) : exec i s = onEvent f s := by
  cases i
  case inputSample line level =>
    simp only [eventOf] at h
    split at h
    · cases h
    · rename_i n
      cases h
      simp only [exec, execInputSample, if_neg n]
  all_goals
    first
      | (cases h; rfl)
      | cases h

theorem command_cases (i : Instr) :
    (∃ q p tag, i.request = some q ∧ i.sender = some (p, tag)) ∨ (∃ f, eventOf i = some f) ∨ i.startsPart = true := by
  cases i
  case inputSample line level => cases line <;> first | exact .inr (.inl ⟨_, rfl⟩) | exact .inr (.inr rfl)
  all_goals
    first
      | exact .inl ⟨_, _, _, rfl, rfl⟩
      | exact .inr (.inl ⟨_, rfl⟩)
      | exact .inr (.inr rfl)

/-- Held in reset, a request or an event does nothing (R211). -/
theorem onRequest_held {s : State} (h : s.phase ≠ .running) (p : Port) (tag : Byte) (q : Request) :
    onRequest p tag q s = .next s := by
  have : s.running = false := by unfold State.running; cases hp : s.phase <;> simp_all
  unfold onRequest
  rw [this]
  rfl

theorem onEvent_held {s : State} (h : s.phase ≠ .running) (f : State → State) : onEvent f s = .next s := by
  have : s.running = false := by unfold State.running; cases hp : s.phase <;> simp_all
  unfold onEvent
  rw [this]
  rfl

/-- An answer in its two parts: the next state, and that a quiet part stays quiet. -/
theorem answers_of {i : Instr} {s t : State} (e : exec i s = .next t.drain) (h : s.Quiet → t.Quiet) : Answers i s t :=
  ⟨e, fun q => by rw [e, drain_of_quiet (h q)]⟩

/-- An event of a running part. -/
theorem exec_event_running {i : Instr} {f : State → State} (h : eventOf i = some f) {s : State} (hr : s.phase = .running) :
    exec i s = .next (f s).drain := by
  rw [exec_event h, onEvent_running hr]

/-- A request that a READY port takes and answers at once. -/
theorem exec_answered {i : Instr} {q : Request} {p : Port} {tag : Byte} {s u : State} {r : Reply} (h : i.request = some q)
    (h' : i.sender = some (p, tag)) (hr : s.ready p) (e : serve p q (s.outstand p tag (requestByte q)) = (u, some r)) :
    exec i s = .next (u.enterReply p tag (requestByte q) r).drain := by
  rw [exec_request h h', onRequest_answered hr e]

/-- A request whose effect leaves the ports alone: it is served as if the port's new state were not there yet, and the
reply is entered behind it. -/
theorem answers_request {i : Instr} {q : Request} {p : Port} {tag : Byte} {s t : State} {r : Reply} (h : i.request = some q)
    (h' : i.sender = some (p, tag)) (hr : s.ready p)
    (e : serve p q (s.outstand p tag (requestByte q)) = (t.outstand p tag (requestByte q), some r)) (hq : s.Quiet → t.Quiet) :
    Answers i s (t.replied p tag (requestCode q) r) := by
  refine answers_of ?_ fun k => (hq k).replied p tag _ _
  rw [exec_answered h h' hr e, replied_eq]

/-- Quietness looks at signals, runners, programs, axes and the clock's state alone. -/
theorem quiet_of_same {s t : State} (a : t.signals = s.signals) (b : t.runners = s.runners) (hp : t.programs = s.programs)
    (ha : t.axes = s.axes) (hc : t.clock.state = s.clock.state) : s.Quiet → t.Quiet :=
  fun k => k.congr a b hp ha hc

/-- The claim check of a holder, as its request meets it. -/
theorem holds_outstand {s : State} {p : Port} {r : Resource} (h : s.holderOf r = some p) (tag c : Byte) :
    (s.outstand p tag c).holds p r = true := by
  unfold State.holds
  rw [show (s.outstand p tag c).holderOf r = some p from h]
  exact beq_self_eq_true _

theorem not_holds_outstand {s : State} {p : Port} {r : Resource} (h : s.holderOf r ≠ some p) (tag c : Byte) :
    (s.outstand p tag c).holds p r = false := by
  unfold State.holds
  rw [show (s.outstand p tag c).holderOf r = s.holderOf r from rfl]
  exact beq_eq_false_iff_ne.mpr h

/-- The HALTED condition as a request meets it (R7, R68). -/
theorem held_outstand {s : State} (p : Port) (tag c : Byte) (h : s.power.halt.accepted = true ∨ s.power.state ≠ .present) :
    (s.outstand p tag c).held = true := by
  rcases h with h | h <;> simp [State.held, State.haltAsserted, State.drivePresent, State.outstand, h]

theorem not_held_outstand {s : State} (p : Port) (tag c : Byte) (h : s.power.halt.accepted = false)
    (h' : s.power.state = .present) : (s.outstand p tag c).held = false := by
  simp [State.held, State.haltAsserted, State.drivePresent, State.outstand, h, h']

end Sys2Proof.Machine
end

