-- ==== Sys2Proof/Laws/Kept.lean ====
section
/-! SUPPORT. What a change inside a step may be, said once: a property of the state that every primitive change keeps is kept
by every operation. `Kept P` lists the primitive changes; the sky position, the claim entries, the captures, the cue store and
the segment store change only under the conditions named there. -/

namespace Sys2Proof.Machine

/-- The items of the clock that no axis moves: the sky position, the rates, the marks and the settings. -/
def Clock.sameSky (c d : Clock) : Prop :=
  c.epoch = d.epoch ∧ c.residue = d.residue ∧ c.commanded = d.commanded ∧ c.scheduled = d.scheduled ∧ c.ramp = d.ramp ∧
    c.settleTime = d.settleTime ∧ c.governor = d.governor ∧ c.settleSerial = d.settleSerial ∧ c.marks = d.marks

/-- The second axis keeps the lock of the first, and a locked one its safety part (R59). -/
def Axis.keepsLock (x y : Axis) : Prop := x.locked = true → y.locked = true ∧ y.record.safety = x.record.safety

theorem Axis.keepsLock_refl (x : Axis) : x.keepsLock x := fun h => ⟨h, rfl⟩

theorem Axis.keepsLock_trans {x y z : Axis} (h : x.keepsLock y) (k : y.keepsLock z) : x.keepsLock z :=
  fun l => ⟨(k (h l).1).1, (k (h l).1).2.trans (h l).2⟩

/-- The second axis keeps the lock of the first and its lawfulness. -/
def Axis.follows (x y : Axis) : Prop := x.keepsLock y ∧ (x.lawful → y.lawful)

theorem Axis.follows_refl (x : Axis) : x.follows x := ⟨x.keepsLock_refl, id⟩

theorem Axis.follows_trans {x y z : Axis} (h : x.follows y) (k : y.follows z) : x.follows z :=
  ⟨Axis.keepsLock_trans h.1 k.1, k.2 ∘ h.2⟩

/-- What the laws of an axis rest on. -/
def Axis.core (x : Axis) : Bool × AxisRecord × AxisState × Bool × Option Target × Option Stopping × Option Tracking :=
  (x.locked, x.record, x.state, x.known, x.target, x.stopping, x.tracking)

theorem Axis.follows_of_core {x y : Axis} (h : y.core = x.core) : x.follows y := by
  unfold Axis.core at h
  injection h with h1 h
  injection h with h2 h
  injection h with h3 h
  injection h with h4 h
  injection h with h5 h
  injection h with h6 h7
  refine ⟨fun l => ⟨h1.trans l, by rw [h2]⟩, fun l => ?_⟩
  unfold Axis.lawful Axis.mayBeUnknown at *
  rw [h2, h3, h4, h5, h6, h7]
  exact l

theorem AxisRecord.allows_of_continuous {r : AxisRecord} (l : r.limitsLawful) (c : r.kind = .continuous) (t : Int) : r.allows t := by
  unfold AxisRecord.limitsLawful at l
  rw [c] at l
  intro a b e
  rw [l] at e
  cases e

/-- An axis that drops its target and records, in a state that calls for none. -/
theorem Axis.lawful_rest {x y : Axis} (l : x.lawful) (r : y.record = x.record) (g : y.target = none) (t : y.tracking = none)
    (u : y.known = false → y.mayBeUnknown) : y.lawful := by
  refine ⟨r ▸ l.1, u, fun _ => g, fun _ => t, ?_, ?_⟩
  · intro a e; rw [g] at e; cases e
  · intro a e; rw [t] at e; cases e

/-- An axis whose position is known in a state where it must be. -/
theorem Axis.lawful_known {x : Axis} (l : x.lawful) (h : ¬ x.mayBeUnknown) : x.known = true := by
  cases e : x.known
  · exact absurd (l.2.1 e) h
  · rfl

theorem Axis.known_of_moving {x : Axis} (l : x.lawful) (h : x.state = .slewing ∨ x.state = .tracking ∨ x.state = .standing) :
    x.known = true := by
  refine Axis.lawful_known l ?_
  unfold Axis.mayBeUnknown
  rcases h with h | h | h <;> simp [h]

theorem Axis.follows_losePosition {x : Axis} (h : x.state ∈ [.unconfigured, .disabled, .unreferenced, .homing, .faulted]) :
    x.follows x.losePosition := by
  unfold Axis.losePosition
  split
  · exact ⟨fun h => ⟨h, rfl⟩, fun l => ⟨l.1, fun _ => .inl h, l.2.2.1, l.2.2.2.1, l.2.2.2.2.1, l.2.2.2.2.2⟩⟩
  · split
    · exact x.follows_refl
    · exact Axis.follows_of_core rfl

theorem Axis.losePosition_safe (x : Axis) : x.losePosition.record = x.record ∧ x.losePosition.locked = x.locked ∧
    x.losePosition.state = x.state := by
  unfold Axis.losePosition
  split
  · exact ⟨rfl, rfl, rfl⟩
  · split <;> exact ⟨rfl, rfl, rfl⟩

theorem Axis.faultPosition_safe (x : Axis) : x.faultPosition.record = x.record ∧ x.faultPosition.locked = x.locked ∧
    x.faultPosition.state = x.state := by
  unfold Axis.faultPosition
  split
  · exact ⟨rfl, rfl, rfl⟩
  · exact x.losePosition_safe

theorem Axis.follows_faultPosition {x : Axis} (h : x.state = .faulted) : x.follows x.faultPosition := by
  unfold Axis.faultPosition
  split
  · exact x.follows_refl
  · exact Axis.follows_losePosition (by simp [h])

/-- Nothing stands in the way of FAULTED. -/
theorem Axis.follows_faulted {x y : Axis} (c : FaultCause) (n : Option Nat) (r : y.record = x.record) (k : y.locked = x.locked) :
    x.follows (y.faulted c n) :=
  ⟨fun h => ⟨k.trans h, by show y.record.safety = _; rw [r]⟩,
    fun l => Axis.lawful_rest l r rfl rfl fun _ => .inl (by simp [Axis.faulted])⟩

/-- Dropping target and records keeps an axis lawful. -/
theorem Axis.follows_drop {x y : Axis} (k : y.locked = x.locked) (r : y.record = x.record) (s : y.state = x.state) (n : y.known = x.known)
    (g : y.target = none ∨ y.target = x.target) (t : y.tracking = none ∨ y.tracking = x.tracking)
    (p : y.stopping = none ∨ y.stopping = x.stopping) : x.follows y := by
  refine ⟨fun h => ⟨k.trans h, by rw [r]⟩, fun ⟨l1, l2, l3, l4, l5, l6⟩ => ⟨r ▸ l1, fun h => ?_, fun h => ?_, fun h => ?_, ?_, ?_⟩⟩
  · rw [n] at h
    rcases l2 h with c | ⟨c, d⟩
    · exact .inl (s ▸ c)
    · refine .inr ⟨s.trans c, fun z e => ?_⟩
      rcases p with p | p
      · rw [p] at e; cases e
      · exact d z (p ▸ e)
  · rcases g with g | g
    · exact g
    · rw [g]; exact l3 (s ▸ h)
  · rcases t with t | t
    · exact t
    · rw [t]; exact l4 (s ▸ h)
  · intro z e
    rcases g with g | g
    · rw [g] at e; cases e
    · exact r ▸ l5 z (g ▸ e)
  · intro z e
    rcases t with t | t
    · rw [t] at e; cases e
    · exact r ▸ l6 z (t ▸ e)

/-- A tracking record with the target it had or one within the limits. -/
theorem Axis.follows_tracking {x y : Axis} (k : y.locked = x.locked) (r : y.record = x.record) (s : y.state = x.state) (n : y.known = x.known)
    (g : y.target = x.target) (p : y.stopping = x.stopping) (t : x.tracking = none → y.tracking = none)
    (a : x.lawful → ∀ z, y.tracking = some z → x.record.allows z.target) : x.follows y := by
  refine ⟨fun h => ⟨k.trans h, by rw [r]⟩, fun l => ?_⟩
  have ⟨l1, l2, l3, l4, l5, _⟩ := l
  refine ⟨r ▸ l1, fun h => ?_, fun h => ?_, fun h => t (l4 (s ▸ h)), ?_, fun z e => r ▸ a l z e⟩
  · have c := l2 (n ▸ h)
    unfold Axis.mayBeUnknown at *
    rw [s, p]
    exact c
  · rw [g]; exact l3 (s ▸ h)
  · rw [g, r]; exact l5

/-- A target held within the soft limits lies within them (R71, R83). -/
theorem Axis.allows_held {x : Axis} (l : x.record.limitsLawful) (t : Int) : x.record.allows (x.held t).1 := by
  intro a b e
  unfold Axis.held
  rw [e]
  unfold AxisRecord.limitsLawful at l
  cases h : x.record.kind with
  | continuous => rw [h] at l; rw [l] at e; cases e
  | limited =>
    rw [h] at l
    obtain ⟨c, d, e', lt⟩ := l
    rw [e] at e'
    cases e'
    dsimp only
    split
    · exact ⟨Int.le_refl _, Int.le_of_lt lt⟩
    · split
      · exact ⟨Int.le_of_lt lt, Int.le_refl _⟩
      · exact ⟨by omega, by omega⟩

/-- A slew that may be taken has its target within the limits. -/
theorem Axis.allows_of_mayTake {x : Axis} (l : x.record.limitsLawful) {t : Int} (h : x.mayTake t = true) : x.record.allows t := by
  cases c : x.record.kind with
  | continuous => exact AxisRecord.allows_of_continuous l c t
  | limited =>
    intro a b e
    simp only [Axis.mayTake, Axis.outsideSoft, c, e] at h
    simp at h
    omega

theorem Axis.follows_unpowered {x : Axis} (g : x.target = none) (t : x.tracking = none) : x.follows x.unpowered := by
  have lose {y : Axis} (r : y.record = x.losePosition.record) (k : y.locked = x.losePosition.locked) (gy : y.target = none)
      (ty : y.tracking = none) (s : y.state ∈ [.unconfigured, .disabled, .unreferenced, .homing, .faulted]) : x.follows y :=
    ⟨fun h => ⟨k.trans (x.losePosition_safe.2.1.trans h), by rw [r, x.losePosition_safe.1]⟩,
      fun l => Axis.lawful_rest l (r.trans x.losePosition_safe.1) gy ty fun _ => .inl s⟩
  have lg : x.losePosition.target = none ∧ x.losePosition.tracking = none := by
    unfold Axis.losePosition
    split
    · exact ⟨g, t⟩
    · split <;> exact ⟨g, t⟩
  unfold Axis.unpowered
  split
  · exact x.follows_refl
  · exact x.follows_refl
  all_goals rename_i h
  all_goals
    first
      | exact lose rfl rfl lg.1 lg.2 (by show x.losePosition.state ∈ _; rw [x.losePosition_safe.2.2, h]; decide)
      | exact lose rfl rfl lg.1 lg.2 (by simp)

theorem Axis.follows_begin (x : Axis) (d : Dir) : x.follows (x.begin d) := by
  unfold Axis.begin
  dsimp only
  split <;> exact Axis.follows_of_core rfl

theorem Axis.follows_setLimit (x : Axis) (d : LimitSide) (f : Filter) : x.follows (x.setLimit d f) := by
  cases d <;> exact Axis.follows_of_core rfl

theorem Axis.follows_homeEdge (x : Axis) (h : Homing) : x.follows (x.homeEdge h) := by
  unfold Axis.homeEdge
  dsimp only
  split <;> split <;> exact Axis.follows_of_core rfl

theorem Axis.follows_homeAccepted (x : Axis) (l : Bool) : x.follows (x.homeAccepted l) := by
  unfold Axis.homeAccepted
  dsimp only
  split
  · split
    · refine Axis.follows_trans ?_ (Axis.follows_homeEdge _ _)
      exact Axis.follows_of_core rfl
    · exact Axis.follows_of_core rfl
  · exact Axis.follows_of_core rfl

theorem Axis.follows_rebound (x : Axis) (b : Option ChannelId) : x.follows (x.rebound b) := by
  unfold Axis.rebound
  split
  · exact x.follows_refl
  · refine ⟨fun h => ⟨h, rfl⟩, fun ⟨l1, l2, l3, l4, l5, l6⟩ => ⟨l1, l2, fun h => ?_, l4, fun z e => ?_, l6⟩⟩
    · show x.target.map _ = none
      rw [l3 h]; rfl
    · cases c : x.target with
      | none => simp [c] at e
      | some w =>
        simp [c] at e
        subst e
        exact l5 w c

/-- A record that passes R50 has lawful limits. -/
theorem limitsLawful_recordOf {r : RawRecord} (h : firstBadField r = none) : (recordOf r).limitsLawful := by
  unfold firstBadField at h
  rw [Option.map_eq_none_iff, List.find?_eq_none] at h
  have k := h (1, decide (r.kind ≤ 1)) (by simp [rangeChecks])
  have m := h (3, (r.softPresence == 1) == (r.kind == 1) && (!(r.kind == 1) || decide (r.softMin < r.softMax)))
    (by simp [agreementChecks])
  simp at k m
  unfold AxisRecord.limitsLawful recordOf
  by_cases c : r.kind = 1
  · simp [c] at m ⊢
    simp [m.1, m.2]
  · simp [c] at m ⊢
    exact m

/-- A locked axis is configured with the safety part it has (R51, R59), every axis with a record that passes R50. -/
theorem Axis.follows_configured {x : Axis} {r : AxisRecord} (c : x.state.configurable = true) (lr : r.limitsLawful)
    (e : (if x.locked then firstSafetyChange x.record r else none) = none) : x.follows (x.configured r) := by
  have lose (y : Axis) : y.losePosition.locked = y.locked ∧ y.losePosition.record = y.record ∧ y.losePosition.target = y.target ∧
      y.losePosition.tracking = y.tracking ∧ y.losePosition.stopping = y.stopping := by
    unfold Axis.losePosition
    split
    · exact ⟨rfl, rfl, rfl, rfl, rfl⟩
    · split <;> exact ⟨rfl, rfl, rfl, rfl, rfl⟩
  constructor
  · intro h
    rw [if_pos h] at e
    have safe : r.safety = x.record.safety := by
      unfold firstSafetyChange at e
      simp only [Option.map_eq_none_iff, List.find?_eq_none, List.mem_cons, List.not_mem_nil, or_false, forall_eq_or_imp,
        forall_eq, Bool.not_eq_true, Bool.not_eq_false', beq_iff_eq] at e
      obtain ⟨e1, e2, e3, e4, e5, e6⟩ := e
      unfold AxisRecord.safety
      rw [e1, e2, e3, e4, e5, e6]
    unfold Axis.configured
    dsimp only
    split <;> split <;> split <;> exact ⟨by simp [lose, h], by simp [lose, safe]⟩
  · intro l
    obtain ⟨_, l2, l3, l4, _, _⟩ := l
    have g : x.target = none := l3 (by intro h; rw [h] at c; cases c)
    have t : x.tracking = none := l4 (by intro h; rw [h] at c; cases c)
    have same : (x.configured r).record = r := by
      unfold Axis.configured
      dsimp only
      split <;> split <;> split <;> simp [lose]
    have gt : (x.configured r).target = none ∧ (x.configured r).tracking = none := by
      unfold Axis.configured
      dsimp only
      split <;> split <;> split <;> simp [lose, g, t]
    have at_ : (x.configured r).state = (if x.record.kind ≠ r.kind ∨ x.record.stepsPerTurn ≠ r.stepsPerTurn then
          (if x.state = .unconfigured then .disabled else if x.state = .standing then .unreferenced else x.state)
        else if x.state = .unconfigured then .disabled else x.state) ∧
        ((x.record.kind ≠ r.kind ∨ x.record.stepsPerTurn ≠ r.stepsPerTurn) ∨ (x.configured r).known = x.known) := by
      by_cases n : x.record.kind ≠ r.kind ∨ x.record.stepsPerTurn ≠ r.stepsPerTurn
      · refine ⟨?_, .inl n⟩
        unfold Axis.configured
        dsimp only
        simp only [if_pos n]
        by_cases h : x.state = .unconfigured <;> split <;> split <;> simp
      · unfold Axis.configured
        dsimp only
        simp only [if_neg n]
        constructor
        · split <;> split <;> rfl
        · right
          split <;> split <;> rfl
    refine ⟨by rw [same]; exact lr, fun u => .inl ?_, fun _ => gt.1, fun _ => gt.2, ?_, ?_⟩
    · rw [at_.1]
      cases s : x.state <;> rw [s] at c <;> try cases c
      all_goals
        split
        · simp
        · rename_i n
          rcases at_.2 with m | m
          · exact absurd m n
          · have := l2 (m ▸ u)
            simp [Axis.mayBeUnknown, s] at this ⊢
    · intro z e; rw [gt.1] at e; cases e
    · intro z e; rw [gt.2] at e; cases e

theorem AxisRecord.limitsLawful_keptSafety {r : AxisRecord} (h : r.limitsLawful) : r.keptSafety.limitsLawful := h

theorem Axis.follows_lineReset (x : Axis) : x.follows x.lineReset := by
  unfold Axis.lineReset
  split
  · exact ⟨fun h => ⟨rfl, rfl⟩, fun l => ⟨AxisRecord.limitsLawful_keptSafety l.1, fun _ => .inl (by simp), fun _ => rfl, fun _ => rfl,
      fun _ e => (by cases e), fun _ e => (by cases e)⟩⟩
  · rename_i h
    exact ⟨fun l => absurd l h, fun _ => ⟨rfl, fun _ => .inl (by simp [Axis.powerReset, Axis.reset]), fun _ => rfl, fun _ => rfl,
      fun _ e => (by cases e), fun _ e => (by cases e)⟩⟩

/-- An axis after a power-on reset is lawful, whatever it was. -/
theorem Axis.lawful_powerReset (x : Axis) : x.powerReset.lawful :=
  ⟨rfl, fun _ => .inl (by simp [Axis.powerReset, Axis.reset]), fun _ => rfl, fun _ => rfl, fun _ e => (by cases e),
    fun _ e => (by cases e)⟩

/-! ## Loop stacks (R152) -/

theorem Runner.lawful_openLoop (x : Runner) (i n : Nat) : (x.openLoop i n).lawful := by
  unfold Runner.lawful Runner.openLoop
  simp

theorem Runner.lawful_closeLoop {x : Runner} (i : Nat) (h : x.lawful) : (x.closeLoop i).1.lawful := by
  unfold Runner.closeLoop
  unfold Runner.lawful at h
  split
  · exact h
  · rename_i e es c
    rw [c] at h
    simp at h
    split
    · simp only [Runner.lawful]; omega
    · simp only [Runner.lawful, List.length_cons]; omega

theorem Runner.lawful_markLeave {x : Runner} (h : x.lawful) : x.markLeave.lawful := by
  unfold Runner.markLeave
  unfold Runner.lawful at h
  split
  · exact h
  · rename_i e es c
    rw [c] at h
    exact h

/-- P is kept by every change an axis brings about: the axes and group motions, notices, the drive-power record, evaluation
requests, signals, the model's counters, a restarted lease, and the clock's state but not its sky position. -/
structure KeptAxis (P : State → Prop) : Prop where
  axes : ∀ s v, (∀ a : AxisId, (s.axis a).follows v[a]) → P s → P { s with axes := v }
  motions : ∀ s v, P s → P { s with motions := v }
  notice : ∀ s p n j b, P s → P (s.modPort p fun q => q.deliver n j b)
  power : ∀ s v, v.state = s.power.state → (s.power.lawful → v.lawful) → P s → P { s with power := v }
  evals : ∀ s v, P s → P { s with evals := v }
  signals : ∀ s v, P s → P { s with signals := v }
  serial : ∀ s v, P s → P { s with serial := v }
  freeCount : ∀ s v, P s → P { s with freeCount := v }
  sky : ∀ s c, Clock.sameSky c s.clock → P s → P { s with clock := c }
  lease : ∀ s r, P s → P (s.restartLease r)

/-- P is kept by every change a cue action or a link brings about besides. -/
structure KeptWork (P : State → Prop) : Prop extends KeptAxis P where
  drive : ∀ s v, (s.power.lawful → v.lawful) → P s → P { s with power := v }
  links : ∀ s v, P s → P { s with links := v }
  outputs : ∀ s v, P s → P { s with outputs := v }
  clock : ∀ s c, (s.clock.inRange → c.inRange) → P s → P { s with clock := c }
  captures : ∀ s q, (s.captures.lawful → q.lawful) → P s → P { s with captures := q }

/-- P is kept by every change of the runners, the claim table and the programs besides; each keeps R136 and R137. -/
structure KeptRun (P : State → Prop) : Prop extends KeptWork P where
  runners : ∀ s v, (∀ r : Port, (s.runner r).lawful → (v.get r).lawful) →
    (s.runnersLawful → ({ s with runners := v } : State).runnersLawful) → P s → P { s with runners := v }
  claim : ∀ s r c, ((s.claim r).lawful → c.lawful) → (s.runnersLawful → (s.setClaim r c).runnersLawful) → P s → P (s.setClaim r c)
  program : ∀ s i x, x.cues.length ≤ (s.program i).cues.length → (s.runnersLawful → (s.setProgram i x).runnersLawful) → P s →
    P (s.setProgram i x)

/-- P is kept by every primitive change of any command. -/
structure Kept (P : State → Prop) : Prop extends KeptRun P where
  ports : ∀ s v, P s → P { s with ports := v }
  trigs : ∀ s v, P s → P { s with trigs := v }
  routing : ∀ s v, P s → P { s with routing := v }
  timebase : ∀ s v, P s → P { s with timebase := v }
  inFlight : ∀ s v, P s → P { s with inFlight := v }
  stampCounter : ∀ s v, P s → P { s with stampCounter := v }
  resetLine : ∀ s v, P s → P { s with resetLine := v }
  begun : ∀ s ph st rec, P s → P { s with phase := ph, straps := st, startRecord := rec }
  moreCues : ∀ s i x, x.cues.length ≤ 128 → x.cues.length ≤ (s.program i).cues.length + s.freeCues →
    (s.runnersLawful → (s.setProgram i x).runnersLawful) → P s → P (s.setProgram i x)
  channel : ∀ s c ch,
    ((s.channel c).ordered → ch.ordered) →
    (ch.segments.length ≤ (s.channel c).segments.length ∨
      (ch.segments.length = (s.channel c).segments.length + 1 ∧ ch.segments.length ≤ 255 ∧ 0 < s.freeSegments)) →
    P s → P (s.setChannel c ch)
  held : ∀ s ph f, (∀ x : Axis, x.follows (f x)) → P s → P (s.holdReset ph f)

/-! ## Runners, claims and programs (R136, R137) -/

/-- A runner in the same program that is in it, or waits, only where it was. -/
def Runner.leadsTo (x y : Runner) : Prop :=
  y.program = x.program ∧ (y.state.inProgram = true → x.state.inProgram = true) ∧ (y.state.waiting = true → x.state.waiting = true)

/-- The runner's program is in use by it, and its port holds what the program requires. -/
def State.entitled (s : State) (r : Port) : Prop :=
  ∃ i, (s.runner r).program = some i ∧ (s.program i).inUse = some r ∧
    ∀ x : Resource, (s.program i).requirement.getLsbD (resourceIdx x).val = true → s.holderOf x = some r

/-- A runner in program `i` finds it in use and with the requirement set it had. -/
def State.replaceable (s : State) (i : ProgramId) (x : Program) : Prop :=
  ∀ r, (s.program i).inUse = some r → (s.runner r).state.inProgram = true → (s.runner r).program = some i →
    x.inUse = some r ∧ x.requirement = (s.program i).requirement

theorem RunnerState.inProgram_of_waiting {x : RunnerState} (h : x.waiting = true) : x.inProgram = true := by
  cases x <;> first | rfl | cases h

theorem State.requirement_of_program {s : State} {r : Port} {i : ProgramId} (h : (s.runner r).program = some i) :
    s.requirement r = (s.program i).requirement := by
  unfold State.requirement; rw [h]; rfl

theorem State.entitled_of_waiting {s : State} {r : Port} (h : s.runnersLawful) (w : (s.runner r).state.waiting = true) : s.entitled r := by
  obtain ⟨i, e, u⟩ := (h r).1 (RunnerState.inProgram_of_waiting w)
  exact ⟨i, e, u, fun x b => (h r).2 w x (by rw [State.requirement_of_program e]; exact b)⟩

theorem State.setRunner_runner (s : State) (r q : Port) (x : Runner) : (s.setRunner r x).runner q = if q = r then x else s.runner q := by
  cases r <;> cases q <;> rfl

theorem State.runnersLawful_setRunner {s : State} {r : Port} {x : Runner} (w : (s.runner r).leadsTo x) (h : s.runnersLawful) :
    (s.setRunner r x).runnersLawful := by
  intro q
  have hq := h q
  unfold State.runnerLawful State.requirement at *
  rw [State.setRunner_runner]
  by_cases c : q = r
  · subst c
    rw [if_pos rfl, w.1]
    exact ⟨fun e => hq.1 (w.2.1 e), fun e => hq.2 (w.2.2 e)⟩
  · rw [if_neg c]
    exact hq

theorem Runner.lawful_suspend {x : Runner} (c : SuspendCause) (h : x.lawful) : (x.suspend c).lawful := by
  unfold Runner.suspend
  split <;> exact h

theorem Runner.leadsTo_suspend (x : Runner) (c : SuspendCause) : x.leadsTo (x.suspend c) := by
  unfold Runner.leadsTo Runner.suspend
  split
  · rename_i h
    exact ⟨rfl, fun _ => RunnerState.inProgram_of_waiting h, fun e => by cases e⟩
  · exact ⟨rfl, id, id⟩

/-- A runner that is in no program. -/
theorem Runner.leadsTo_out {x y : Runner} (p : y.program = x.program) (h : y.state.inProgram = false) : x.leadsTo y := by
  refine ⟨p, fun e => ?_, fun e => ?_⟩
  · rw [h] at e; cases e
  rw [RunnerState.inProgram_of_waiting e] at h
  cases h

/-- An entitled runner may wait. -/
theorem State.runnersLawful_enter {s : State} {r : Port} {x : Runner} (p : x.program = (s.runner r).program)
    (w : s.runnersLawful → s.entitled r) (h : s.runnersLawful) : (s.setRunner r x).runnersLawful := by
  obtain ⟨i, e, u, k⟩ := w h
  intro q
  by_cases c : q = r
  · subst c
    have e' : ((s.setRunner q x).runner q).program = some i := by rw [State.setRunner_runner, if_pos rfl, p, e]
    refine ⟨fun _ => ⟨i, e', u⟩, fun _ y b => ?_⟩
    rw [State.requirement_of_program e'] at b
    exact k y b
  · have hq := h q
    unfold State.runnerLawful State.requirement at *
    rw [State.setRunner_runner, if_neg c]
    exact hq

/-- A program no runner uses may be replaced. -/
theorem State.replaceable_idle {s : State} {i : ProgramId} {x : Program} (h : (s.program i).inUse = none) : s.replaceable i x := by
  intro r u
  rw [h] at u
  cases u

/-- A runner may leave what it was in. -/
theorem State.runnersLawful_out {s : State} {r : Port} {x : Runner} (o : x.state.inProgram = false) (h : s.runnersLawful) :
    (s.setRunner r x).runnersLawful := by
  intro q
  have hq := h q
  unfold State.runnerLawful State.requirement at *
  rw [State.setRunner_runner]
  by_cases c : q = r
  · rw [if_pos c]
    refine ⟨fun e => ?_, fun e => ?_⟩
    · rw [o] at e; cases e
    rw [RunnerState.inProgram_of_waiting e] at o
    cases o
  · rw [if_neg c]
    exact hq

theorem State.runnersLawful_setProgram {s : State} {i : ProgramId} {x : Program} (w : s.replaceable i x) (h : s.runnersLawful) :
    (s.setProgram i x).runnersLawful := by
  have same : ∀ j, (s.setProgram i x).program j = if j = i then x else s.program j := by
    intro j
    by_cases c : j = i
    · subst c; simp [State.program, State.setProgram]
    · have : j.val ≠ i.val := fun h => c (Fin.ext h)
      simp [State.program, State.setProgram, Ne.symm this, c]
  intro r
  have hr := h r
  refine ⟨fun e => ?_, fun e y b => ?_⟩
  · obtain ⟨j, p, u⟩ := hr.1 e
    refine ⟨j, p, ?_⟩
    rw [same]
    by_cases c : j = i
    · subst c
      rw [if_pos rfl]
      exact (w r u e p).1
    · rw [if_neg c]; exact u
  · obtain ⟨j, p, u⟩ := hr.1 (RunnerState.inProgram_of_waiting e)
    refine hr.2 e y ?_
    rw [State.requirement_of_program p]
    rw [State.requirement_of_program (s := s.setProgram i x) p, same] at b
    by_cases c : j = i
    · subst c
      rw [if_pos rfl, (w r u (RunnerState.inProgram_of_waiting e) p).2] at b
      exact b
    · rw [if_neg c] at b; exact b

theorem State.runnersLawful_setClaim {s : State} {r : Resource} {c : ClaimEntry}
    (w : ∀ q, s.holderOf r = some q → s.runnerNeeds q r = true → c.holder.map Holder.port = some q) (h : s.runnersLawful) :
    (s.setClaim r c).runnersLawful := by
  intro q
  refine ⟨(h q).1, fun e x b => ?_⟩
  have hx := (h q).2 e x b
  unfold State.holderOf at *
  rw [State.setClaim_claim]
  by_cases d : x = r
  · subst d
    rw [if_pos rfl]
    refine w q hx ?_
    unfold State.runnerNeeds
    rw [show (s.runner q).state.waiting = true from e, show (s.requirement q).getLsbD (resourceIdx x).val = true from b]
    rfl
  · rw [if_neg d]; exact hx

theorem State.restartLease_holderOf (s : State) (r x : Resource) : (s.restartLease r).holderOf x = s.holderOf x := by
  unfold State.holderOf State.restartLease
  rw [State.setClaim_claim]
  split
  · rename_i e
    subst e
    simp [Holder.restart, Function.comp_def]
  · rfl

theorem State.runnersLawful_restartLease {s : State} (r : Resource) (h : s.runnersLawful) : (s.restartLease r).runnersLawful := by
  intro q
  refine ⟨(h q).1, fun e x b => ?_⟩
  rw [State.restartLease_holderOf]
  exact (h q).2 e x b

/-! ## Folds -/

theorem foldl_keeps {α σ : Type} {P : σ → Prop} {f : σ → α → σ} (hf : ∀ s a, P s → P (f s a)) :
    ∀ (l : List α) (s : σ), P s → P (l.foldl f s)
  | [], _, h => h
  | a :: l, s, h => foldl_keeps hf l (f s a) (hf s a h)

variable {P : State → Prop}

/-! ## Updates -/

theorem KeptAxis.setAxis (k : KeptAxis P) {s : State} (a : AxisId) (x : Axis) (h : P s)
    (e : (s.axis a).follows x := by exact Axis.follows_of_core rfl) : P (s.setAxis a x) := by
  refine k.axes _ _ (fun b => ?_) h
  by_cases c : b = a
  · subst c
    simpa using e
  · have : b.val ≠ a.val := fun h => c (Fin.ext h)
    rw [show (s.axes.set a x)[b] = s.axis b by simp [State.axis, Ne.symm this]]
    exact Axis.follows_refl _

theorem KeptAxis.modAxis (k : KeptAxis P) {s : State} (a : AxisId) (f : Axis → Axis) (h : P s)
    (e : (s.axis a).follows (f (s.axis a)) := by exact Axis.follows_of_core rfl) : P (s.modAxis a f) := k.setAxis _ _ h e
theorem Kept.setPort (k : Kept P) {s : State} (p : Port) (q : PortState) (h : P s) : P (s.setPort p q) := k.ports _ _ h
theorem Kept.modPort (k : Kept P) {s : State} (p : Port) (f : PortState → PortState) (h : P s) : P (s.modPort p f) :=
  k.ports _ _ h
theorem KeptRun.putRunner (k : KeptRun P) {s : State} (r : Port) (x : Runner) (h : P s) (e : (s.runner r).lawful → x.lawful)
    (w : s.runnersLawful → (s.setRunner r x).runnersLawful) : P (s.setRunner r x) := by
  refine k.runners _ _ (fun q => ?_) w h
  cases r <;> cases q <;> first | exact e | exact id
theorem KeptRun.setRunner (k : KeptRun P) {s : State} (r : Port) (x : Runner) (h : P s)
    (e : (s.runner r).lawful → x.lawful := by exact id) (w : (s.runner r).leadsTo x := by exact ⟨rfl, id, id⟩) :
    P (s.setRunner r x) :=
  k.putRunner _ _ h e (State.runnersLawful_setRunner w)
theorem KeptRun.modRunner (k : KeptRun P) {s : State} (r : Port) (f : Runner → Runner) (h : P s)
    (e : (s.runner r).lawful → (f (s.runner r)).lawful := by exact id)
    (w : (s.runner r).leadsTo (f (s.runner r)) := by exact ⟨rfl, id, id⟩) : P (s.modRunner r f) :=
  k.setRunner _ _ h e w
theorem KeptAxis.setMotion (k : KeptAxis P) {s : State} (g : GroupId) (m : Option GroupMotion) (h : P s) : P (s.setMotion g m) :=
  k.motions _ _ h
theorem KeptWork.setLink (k : KeptWork P) {s : State} (l : LinkId) (x : Link) (h : P s) : P (s.setLink l x) := k.links _ _ h
theorem KeptWork.setOutput (k : KeptWork P) {s : State} (o : OutputId) (x : OutputState) (h : P s) : P (s.setOutput o x) :=
  k.outputs _ _ h
theorem Kept.setRouting (k : Kept P) {s : State} (n : NoticeKind) (x : Routing) (h : P s) : P (s.setRouting n x) :=
  k.routing _ _ h
theorem Kept.withTimebase (k : Kept P) {s : State} (t : Timebase) (h : P s) : P (s.withTimebase t) := k.timebase _ _ h
theorem KeptAxis.withPower (k : KeptAxis P) {s : State} (d : DrivePower) (h : P s)
    (c : d.state = s.power.state := by rfl)
    (e : s.power.lawful → d.lawful := by first | exact id | exact fun _ h => absurd rfl h) : P (s.withPower d) :=
  k.power _ _ c e h
theorem KeptWork.withDrive (k : KeptWork P) {s : State} (d : DrivePower) (e : s.power.lawful → d.lawful) (h : P s) :
    P (s.withPower d) := k.drive _ _ e h
theorem KeptAxis.raise (k : KeptAxis P) {s : State} (x : Signal) (h : P s) : P (s.raise x) := k.signals _ _ h
theorem KeptAxis.event (k : KeptAxis P) {s : State} (e : Source) (h : P s) : P (s.event e) := k.signals _ _ h
theorem KeptAxis.fresh (k : KeptAxis P) {s : State} (h : P s) : P s.fresh.1 := k.serial _ _ h

theorem KeptAxis.withClock (k : KeptAxis P) {s : State} (c : Clock) (e : Clock.sameSky c s.clock) (h : P s) :
    P (s.withClock c) :=
  k.sky _ _ e h

/-- A clock with the sky position it had. -/
theorem KeptWork.setClock (k : KeptWork P) {s : State} (c : Clock) (e : c.epoch = s.clock.epoch)
    (r : c.residue = s.clock.residue) (h : P s) : P (s.withClock c) :=
  k.clock _ _ (by unfold Clock.inRange; rw [e, r]; exact id) h

theorem KeptWork.withClockInRange (k : KeptWork P) {s : State} (c : Clock) (e : s.clock.inRange → c.inRange) (h : P s) :
    P (s.withClock c) :=
  k.clock _ _ e h

theorem KeptRun.setClaim (k : KeptRun P) {s : State} (r : Resource) (c : ClaimEntry) (e : (s.claim r).lawful → c.lawful)
    (w : ∀ q, s.holderOf r = some q → s.runnerNeeds q r = true → c.holder.map Holder.port = some q) (h : P s) : P (s.setClaim r c) :=
  k.claim _ _ _ e (State.runnersLawful_setClaim w) h

/-- A program with no more cues than it had, as a runner in it needs it. -/
theorem KeptRun.setProgram (k : KeptRun P) {s : State} (i : ProgramId) (x : Program)
    (e : x.cues.length ≤ (s.program i).cues.length) (w : s.replaceable i x) (h : P s) : P (s.setProgram i x) :=
  k.program _ _ _ e (State.runnersLawful_setProgram w) h

/-- A new holder in the same place as the old one, and the list as it stands. -/
theorem ClaimEntry.lawful_of_holder {c d : ClaimEntry} (w : d.waiting = c.waiting)
    (e : d.holder.map Holder.port = c.holder.map Holder.port) (h : c.lawful) : d.lawful := by
  obtain ⟨h1, h2, h3, h4, h5⟩ := h
  refine ⟨by rw [w]; exact h1, by rw [w]; exact h2, ?_, by rw [w]; exact h4, ?_⟩
  · intro y hy x hx
    rw [w] at hx
    rw [hy] at e
    cases hc : c.holder with
    | none => rw [hc] at e; cases e
    | some z =>
      rw [hc] at e
      have : y.port = z.port := by simpa using e
      rw [this]; exact h3 z hc x hx
  · intro hd
    rw [hd] at e
    cases hc : c.holder with
    | none => rw [w]; exact h5 hc
    | some z => rw [hc] at e; cases e

theorem KeptAxis.restartLease (k : KeptAxis P) {s : State} (r : Resource) (h : P s) : P (s.restartLease r) := k.lease _ _ h

/-- Restarting a lease keeps what every lawful change of an entry keeps. -/
theorem lease_of_claim (k : ∀ s r c, ((s.claim r).lawful → c.lawful) → (s.runnersLawful → (s.setClaim r c).runnersLawful) → P s →
    P (s.setClaim r c)) (s : State) (r : Resource) (h : P s) : P (s.restartLease r) :=
  k _ _ _ (ClaimEntry.lawful_of_holder rfl (by simp [Holder.restart, Function.comp_def])) (State.runnersLawful_restartLease r) h

theorem KeptAxis.freeOrder (k : KeptAxis P) {s : State} {α : Type} (key : α → Nat) (l : List α) (h : P s) : P (s.freeOrder key l).1 := by
  unfold State.freeOrder
  split
  · exact h
  · exact h
  · exact k.freeCount _ _ h

theorem KeptAxis.noticeTo (k : KeptAxis P) {s : State} (p : Port) (n : NoticeKind) (j : Option Nat) (h : P s) : P (s.noticeTo p n j) :=
  k.notice _ _ _ _ _ h

theorem KeptAxis.notify (k : KeptAxis P) {s : State} (n : NoticeKind) (c : Resource) (j : Option Nat) (t : Bool) (h : P s) :
    P (s.notify n c j t) :=
  foldl_keeps (fun _ _ h => k.notice _ _ _ _ _ h) _ _ h

theorem KeptAxis.notifyAxis (k : KeptAxis P) {s : State} (n : NoticeKind) (a : AxisId) (h : P s) : P (s.notifyAxis n a) :=
  k.notify _ _ _ _ h

end Sys2Proof.Machine
end

