-- ==== Sys2Proof/Laws/KeptClock.lean ====
section
/-! SUPPORT. `Kept` over the clock, the timebase and the channels (01, 02). -/

namespace Sys2Proof.Machine

variable {P : State → Prop}

/-! ## Clock -/

theorem KeptAxis.requestAngle (k : KeptAxis P) {s : State} (a : AxisId) (e : Int) (u : Purpose) (n : Bool) (h : P s) :
    P (s.requestAngle a e u n) := by
  unfold State.requestAngle
  split
  · exact h
  · dsimp only
    split
    · exact k.evals _ _ (k.modAxis _ _ h)
    · exact k.evals _ _ h

theorem KeptAxis.settleTest (k : KeptAxis P) {s : State} (h : P s) : P s.settleTest := by
  unfold State.settleTest
  split
  · exact k.raise _ (k.event _ (k.notify _ _ _ _ (k.withClock _ ⟨rfl, rfl, rfl, rfl, rfl, rfl, rfl, rfl, rfl⟩ h)))
  · exact h

theorem KeptAxis.rollLeave (k : KeptAxis P) {s : State} (a : AxisId) (h : P s) : P (s.rollLeave a) := by
  unfold State.rollLeave
  split
  · exact k.settleTest (k.withClock _ ⟨rfl, rfl, rfl, rfl, rfl, rfl, rfl, rfl, rfl⟩ h)
  · exact h

theorem KeptAxis.rollJoin (k : KeptAxis P) {s : State} (a : AxisId) (h : P s) : P (s.rollJoin a) := by
  unfold State.rollJoin
  split
  · exact k.withClock _ ⟨rfl, rfl, rfl, rfl, rfl, rfl, rfl, rfl, rfl⟩ h
  · exact h

theorem KeptAxis.settledReport (k : KeptAxis P) {s : State} (a : AxisId) (e : Int) (h : P s) : P (s.settledReport a e) := by
  unfold State.settledReport
  split
  · exact k.rollLeave _ h
  · exact h

theorem KeptAxis.haltClock (k : KeptAxis P) {s : State} (r : HaltReason) (h : P s) : P (s.haltClock r) := by
  unfold State.haltClock
  dsimp only
  split
  · exact k.raise _ (k.withClock _ ⟨rfl, rfl, rfl, rfl, rfl, rfl, rfl, rfl, rfl⟩ h)
  · exact k.withClock _ ⟨rfl, rfl, rfl, rfl, rfl, rfl, rfl, rfl, rfl⟩ h

theorem Clock.setRate_epoch (c : Clock) (g : Int) (m : Nat) : (c.setRate g m).epoch = c.epoch := by
  unfold Clock.setRate; split <;> rfl
theorem Clock.setRate_residue (c : Clock) (g : Int) (m : Nat) : (c.setRate g m).residue = c.residue := by
  unfold Clock.setRate; split <;> rfl

theorem KeptWork.setRate (k : KeptWork P) {s : State} (p : Port) (g : Int) (m : Nat) (h : P s) : P (Machine.setRate p g m s).1 := by
  unfold Machine.setRate
  split
  · exact h
  · split
    · exact h
    · exact k.restartLease _ (k.setClock _ (Clock.setRate_epoch _ _ _) (Clock.setRate_residue _ _ _) h)

theorem KeptAxis.runClock (k : KeptAxis P) {s : State} (h : P s) : P s.runClock := by
  unfold State.runClock
  split
  · exact k.withClock _ ⟨rfl, rfl, rfl, rfl, rfl, rfl, rfl, rfl, rfl⟩ h
  · exact h
  · exact k.withClock _ ⟨rfl, rfl, rfl, rfl, rfl, rfl, rfl, rfl, rfl⟩ h

theorem KeptWork.run (k : KeptWork P) {s : State} (p : Port) (h : P s) : P (Machine.run p s).1 := by
  unfold Machine.run
  split
  · exact h
  · split
    · exact h
    · exact k.restartLease _ (k.runClock h)

theorem KeptWork.halt (k : KeptWork P) {s : State} (p : Port) (h : P s) : P (Machine.halt p s).1 := by
  unfold Machine.halt
  split
  · exact h
  · exact k.restartLease _ (k.withClock _ ⟨rfl, rfl, rfl, rfl, rfl, rfl, rfl, rfl, rfl⟩ (k.haltClock _ h))

/-- Other flags in the tracking record an axis has, where it has one. -/
theorem Axis.follows_mapped {x : Axis} (f : Tracking → Tracking) (hf : ∀ t, (f t).target = t.target) :
    x.follows { x with tracking := x.tracking.map f } :=
  Axis.follows_tracking rfl rfl rfl rfl rfl rfl (fun e => by simp [e]) fun l z e => by
    cases c : x.tracking with
    | none => simp [c] at e
    | some w =>
      simp [c] at e
      rw [← e, hf]
      exact l.2.2.2.2.2 w c

theorem KeptAxis.hearReplaced (k : KeptAxis P) {s : State} (e : Int) (a : AxisId) (h : P s) : P (s.hearReplaced e a) :=
  k.requestAngle _ _ _ _ (k.modAxis _ _ h (Axis.follows_mapped _ fun _ => rfl))

theorem KeptAxis.announceReplaced (k : KeptAxis P) {s : State} (e : Int) (h : P s) : P (s.announceReplaced e) := by
  unfold State.announceReplaced
  exact k.raise _ (foldl_keeps (fun _ _ h => k.hearReplaced _ _ h) _ _ (k.freeOrder _ _ h))

/-- An epoch of the range with residue 0 is in range. -/
theorem Clock.inRange_of_epoch {c : Clock} {e : Int} (h1 : Config.epochMin ≤ e) (h2 : e ≤ Config.epochMax) (h3 : c.epoch = e)
    (h4 : c.residue = 0) : c.inRange := by
  unfold Clock.inRange
  rw [h3, h4]
  exact ⟨h1, h2, by decide, by decide⟩

theorem KeptWork.blindJump (k : KeptWork P) {s : State} (e : Int) (h1 : Config.epochMin ≤ e) (h2 : e ≤ Config.epochMax) (h : P s) :
    P (s.blindJump e) := by
  unfold State.blindJump
  refine k.settleTest (k.announceReplaced _ (k.withClockInRange _ (fun _ => ?_) h))
  dsimp only
  split <;> exact Clock.inRange_of_epoch h1 h2 rfl rfl

theorem KeptWork.settleJump (k : KeptWork P) {s : State} (e : Int) (h1 : Config.epochMin ≤ e) (h2 : e ≤ Config.epochMax) (h : P s) :
    P (s.settleJump e) := by
  unfold State.settleJump
  by_cases hc : s.clock.state = .settling
  · simp only [if_pos hc]
    exact k.settleTest (k.announceReplaced _ (k.withClockInRange _ (fun _ => Clock.inRange_of_epoch h1 h2 rfl rfl) h))
  · simp only [if_neg hc]
    exact k.settleTest (k.announceReplaced _ (k.withClockInRange _ (fun _ => Clock.inRange_of_epoch h1 h2 rfl rfl) (k.fresh h)))

theorem KeptWork.setEpoch (k : KeptWork P) {s : State} (p : Port) (e : Int) (m : Nat) (h : P s) : P (Machine.setEpoch p e m s).1 := by
  unfold Machine.setEpoch
  split
  · exact h
  · split
    · exact h
    · split
      · exact h
      · rename_i hr
        have h1 : Config.epochMin ≤ e := Int.not_lt.mp fun x => hr (.inl x)
        have h2 : e ≤ Config.epochMax := Int.not_lt.mp fun x => hr (.inr x)
        split
        · split
          · exact h
          · exact k.restartLease _ (k.settleJump _ h1 h2 h)
        · exact k.restartLease _ (k.blindJump _ h1 h2 h)

theorem KeptWork.setSettleTime (k : KeptWork P) {s : State} (p : Port) (n : Nat) (h : P s) : P (Machine.setSettleTime p n s).1 := by
  unfold Machine.setSettleTime
  split
  · exact h
  · split
    · exact h
    · exact k.restartLease _ (k.setClock _ rfl rfl h)

/-- Another flag in the tracking record an axis has. -/
theorem Axis.follows_flagged {x y : Axis} {t u : Tracking} (e : x.tracking = some t)
    (y_ : y = { x with tracking := some u }) (v : u.target = t.target) : x.follows y := by
  subst y_
  refine Axis.follows_tracking rfl rfl rfl rfl rfl rfl (fun c => by rw [e] at c; cases c) fun l z h => ?_
  cases h
  rw [v]
  exact l.2.2.2.2.2 t e

theorem KeptAxis.tellLagging (k : KeptAxis P) {s : State} (a : AxisId) (h : P s) : P (s.tellLagging a) := by
  unfold State.tellLagging
  split
  · rename_i t e
    split
    · exact h
    · exact k.notifyAxis _ _ (k.modAxis _ _ h (Axis.follows_flagged e rfl rfl))
  · exact h

theorem KeptAxis.settleExpiry (k : KeptAxis P) {s : State} (h : P s) : P s.settleExpiry := by
  unfold State.settleExpiry
  split
  · refine k.raise _ (k.event _ (k.notify _ _ _ _ (k.withClock _ ⟨rfl, rfl, rfl, rfl, rfl, rfl, rfl, rfl, rfl⟩ ?_)))
    exact foldl_keeps (fun _ a h => k.tellLagging a h) _ _ (k.freeOrder _ _ h)
  · exact h

theorem KeptAxis.lagExcess (k : KeptAxis P) {s : State} (a : AxisId) (h : P s) : P (s.lagExcess a) := by
  unfold State.lagExcess
  split
  · split
    · exact k.notify _ _ _ _ (k.withClock _ ⟨rfl, rfl, rfl, rfl, rfl, rfl, rfl, rfl, rfl⟩ h)
    · exact k.withClock _ ⟨rfl, rfl, rfl, rfl, rfl, rfl, rfl, rfl, rfl⟩ h
  · exact h

theorem KeptAxis.quietExpiry (k : KeptAxis P) {s : State} (h : P s) : P s.quietExpiry := by
  unfold State.quietExpiry
  split
  · split
    · exact k.notify _ _ _ _ (k.withClock _ ⟨rfl, rfl, rfl, rfl, rfl, rfl, rfl, rfl, rfl⟩ h)
    · exact k.withClock _ ⟨rfl, rfl, rfl, rfl, rfl, rfl, rfl, rfl, rfl⟩ h
  · exact h

theorem KeptWork.setGovernor (k : KeptWork P) {s : State} (p : Port) (n : Nat) (h : P s) : P (Machine.setGovernor p n s).1 := by
  unfold Machine.setGovernor
  split
  · exact h
  · split
    · exact k.restartLease _ (k.setClock _ rfl rfl h)
    · split
      · dsimp only
        refine k.restartLease _ ?_
        split
        · exact k.notify _ _ _ _ (k.setClock _ rfl rfl h)
        · exact k.setClock _ rfl rfl h
      · exact h

theorem KeptWork.hearMark (k : KeptWork P) {s : State} (e0 e1 : Int) (m : MarkId) (h : P s) : P (s.hearMark e0 e1 m) := by
  unfold State.hearMark
  split
  · exact k.event _ (k.notify _ _ _ _ (k.setClock _ rfl rfl h))
  · exact h

theorem KeptWork.setMark (k : KeptWork P) {s : State} (p : Port) (m n w : Nat) (f : Int) (d : Nat) (h : P s) :
    P (Machine.setMark p m n w f d s).1 := by
  unfold Machine.setMark
  split
  · exact h
  · split
    · exact h
    · split
      · exact h
      · split
        · exact h
        · split
          · exact h
          · split
            · exact h
            · exact k.restartLease _ (k.setClock _ rfl rfl h)

theorem KeptWork.readMark (k : KeptWork P) {s : State} (m : Nat) (h : P s) : P (Machine.readMark m s).1 := by
  unfold Machine.readMark
  split
  · exact h
  · exact k.setClock _ rfl rfl h

theorem KeptWork.announceAdvanced (k : KeptWork P) {s : State} (e0 e1 : Int) (h : P s) : P (s.announceAdvanced e0 e1) := by
  unfold State.announceAdvanced
  exact k.raise _ (foldl_keeps (fun _ _ h => k.requestAngle _ _ _ _ h) _ _
    (k.freeOrder _ _ (foldl_keeps (fun _ _ h => k.hearMark _ _ _ h) _ _ (k.freeOrder _ _ h))))

theorem Clock.progress_epoch (c : Clock) : c.progress.epoch = c.epoch := by
  unfold Clock.progress
  split
  · rfl
  · dsimp only; split <;> rfl
theorem Clock.progress_residue (c : Clock) : c.progress.residue = c.residue := by
  unfold Clock.progress
  split
  · rfl
  · dsimp only; split <;> rfl

/-- R4: the advance leaves the epoch in its range, and the residue below 125. -/
theorem Clock.advance_inRange (c : Clock) : c.advance.1.inRange := by
  unfold Clock.advance Clock.inRange
  dsimp only
  split
  · rename_i h
    simp only [Clock.atLimit, decide_eq_true_eq] at h
    rcases h with ⟨h, _⟩ | ⟨h, _⟩
    · exact ⟨by rw [h]; decide, by rw [h], (by decide : (0 : Int) ≤ 0), (by decide : (0 : Int) < 125)⟩
    · exact ⟨by rw [h], by rw [h]; decide, (by decide : (0 : Int) ≤ 0), (by decide : (0 : Int) < 125)⟩
  split
  · exact ⟨(by decide : Config.epochMin ≤ Config.epochMax), Int.le_refl _, (by decide : (0 : Int) ≤ 0), (by decide : (0 : Int) < 125)⟩
  · split
    · exact ⟨Int.le_refl _, (by decide : Config.epochMin ≤ Config.epochMax), (by decide : (0 : Int) ≤ 0), (by decide : (0 : Int) < 125)⟩
    · rename_i h1 h2
      exact ⟨Int.not_lt.mp h2, Int.not_lt.mp h1, Int.emod_nonneg _ (by decide), Int.emod_lt_of_pos _ (by decide)⟩

theorem KeptWork.advanceClock (k : KeptWork P) {s : State} (h : P s) : P s.advanceClock := by
  unfold State.advanceClock
  have hc := s.clock.advance_inRange
  generalize s.clock.advance = r at hc
  obtain ⟨c, limit⟩ := r
  have h1 : P (s.withClock (if limit then c else c.progress)) := by
    refine k.withClockInRange _ (fun _ => ?_) h
    split
    · exact hc
    · unfold Clock.inRange; rw [Clock.progress_epoch, Clock.progress_residue]; exact hc
  cases limit
  · dsimp only [Bool.false_eq_true, if_false] at h1 ⊢
    by_cases e : c.epoch = s.clock.epoch
    · simp only [e, if_true]; exact h1
    · simp only [e, if_false]
      exact k.announceAdvanced _ _ h1
  · dsimp only [if_true] at h1 ⊢
    refine k.raise _ (k.notify .clockRange .sky none false (k.haltClock .range ?_))
    by_cases e : c.epoch = s.clock.epoch
    · simp only [e, if_true]; exact h1
    · simp only [e, if_false]
      exact k.announceAdvanced _ _ h1

/-! ## Timebase -/

theorem Kept.setTimebase (k : Kept P) {s : State} (p : Port) (m : Nat) (h : P s) : P (Machine.setTimebase p m s).1 := by
  unfold Machine.setTimebase
  split
  · exact h
  · split
    · exact k.restartLease _ (k.withTimebase _ h)
    · split
      · exact k.restartLease _ (k.withTimebase _ h)
      · exact h

theorem Kept.setSyncPeriod (k : Kept P) {s : State} (p : Port) (m : Nat) (h : P s) : P (Machine.setSyncPeriod p m s).1 := by
  unfold Machine.setSyncPeriod
  split
  · exact h
  · split
    · exact h
    · split
      · exact k.restartLease _ (k.withTimebase _ h)
      · exact h
      · exact h

theorem Kept.timebaseLost (k : Kept P) {s : State} (r : Option Nat) (h : P s) : P (s.timebaseLost r) :=
  k.event _ (k.notify _ _ _ _ (k.withTimebase _ h))

theorem Kept.syncPulse (k : Kept P) {s : State} (n : Nat) (h : P s) : P (s.syncPulse n) := by
  unfold State.syncPulse
  dsimp only
  split
  · exact h
  · exact k.withTimebase _ h
  · split
    · split
      · exact k.notify _ _ _ _ (k.withTimebase _ h)
      · exact k.withTimebase _ h
    · exact k.withTimebase _ h
  · split
    · exact k.withTimebase _ h
    · split
      · exact k.timebaseLost _ h
      · exact k.withTimebase _ h

theorem Kept.syncTimeout (k : Kept P) {s : State} (h : P s) : P s.syncTimeout := by
  unfold State.syncTimeout
  dsimp only
  split
  · exact k.withTimebase _ h
  · exact k.timebaseLost _ h
  · exact h

end Sys2Proof.Machine
end

