-- ==== Sys2Proof/Laws/KeptChannels.lean ====
section
/-! SUPPORT. `Kept` over the channel store and the evaluator's start (02); the order and the capacity of the store (R27). -/

namespace Sys2Proof.Machine

variable {P : State → Prop}

/-! ## Totals -/

theorem State.segmentTotal_setChannel (s : State) (c : ChannelId) (ch : Channel) :
    (s.setChannel c ch).segmentTotal + (s.channel c).segments.length = s.segmentTotal + ch.segments.length := by
  unfold State.segmentTotal allChannels
  simp only [List.map_cons, List.map_nil, List.sum_cons, List.sum_nil, State.setChannel_channel]
  fin_cases c <;> simp <;> omega

theorem State.freeSegments_eq (s : State) : s.freeSegments = 1024 - s.segmentTotal := rfl

/-! ## Order -/

theorem Segment.stop_eq (g : Segment) : g.stop = g.start + g.span := rfl

theorem insertOrdered_mem {g x : Segment} : ∀ {l : List Segment}, x ∈ insertOrdered g l → x = g ∨ x ∈ l
  | [], h => by simp [insertOrdered] at h; exact .inl h
  | y :: ys, h => by
    unfold insertOrdered at h
    split at h
    · rcases List.mem_cons.mp h with h | h
      · exact .inr (h ▸ List.mem_cons_self)
      · rcases insertOrdered_mem h with h | h
        · exact .inl h
        · exact .inr (List.mem_cons_of_mem _ h)
    · rcases List.mem_cons.mp h with h | h
      · exact .inl h
      · exact .inr h

theorem insertOrdered_length (g : Segment) : ∀ l : List Segment, (insertOrdered g l).length = l.length + 1
  | [] => rfl
  | y :: ys => by
    unfold insertOrdered
    split
    · simp [insertOrdered_length g ys]
    · simp

theorem insertOrdered_pairwise {g : Segment} (hg : 0 < g.span) :
    ∀ {l : List Segment}, l.Pairwise (fun x y => x.stop ≤ y.start) → (∀ x ∈ l, 0 < x.span) →
      (∀ x ∈ l, x.stop ≤ g.start ∨ g.stop ≤ x.start) → (insertOrdered g l).Pairwise (fun x y => x.stop ≤ y.start)
  | [], _, _, _ => by simp [insertOrdered]
  | y :: ys, hp, hs, ho => by
    have hy := hs y List.mem_cons_self
    have oy := ho y List.mem_cons_self
    obtain ⟨h1, h2⟩ := List.pairwise_cons.mp hp
    unfold insertOrdered
    simp only [Segment.stop_eq] at *
    split
    · refine List.pairwise_cons.mpr ⟨fun z hz => ?_, insertOrdered_pairwise hg h2 (fun x hx => hs x (List.mem_cons_of_mem _ hx))
        (fun x hx => ho x (List.mem_cons_of_mem _ hx))⟩
      rcases insertOrdered_mem hz with e | e
      · subst e; omega
      · exact h1 z e
    · refine List.pairwise_cons.mpr ⟨fun z hz => ?_, hp⟩
      rcases List.mem_cons.mp hz with e | e
      · subst e; omega
      · have := h1 z e; omega

/-- No segment ends after the last one. -/
theorem Channel.stop_le_lastEnd {c : Channel} (h : c.ordered) {e : Int} (he : c.lastEnd = some e) :
    ∀ x ∈ c.segments, x.stop ≤ e := by
  obtain ⟨hp, hs⟩ := h
  intro x hx
  unfold Channel.lastEnd at he
  cases hl : c.segments.getLast? with
  | none => rw [hl] at he; cases he
  | some z =>
    rw [hl] at he
    have hz : z.stop = e := by simpa using he
    obtain ⟨ys, hys⟩ := List.getLast?_eq_some_iff.mp hl
    rw [hys] at hx hp hs
    rcases List.mem_append.mp hx with h | h
    · have h1 := (List.pairwise_append.mp hp).2.2 x h z (by simp)
      have h2 := hs z (by simp)
      simp only [Segment.stop_eq] at *
      omega
    · have : x = z := by simpa using h
      subst this; omega

theorem Channel.ordered_append {c : Channel} {g : Segment} (hg : 0 < g.span) (hl : ∀ e, c.lastEnd = some e → e ≤ g.start)
    (h : c.ordered) : ({ c with segments := c.segments ++ [g] } : Channel).ordered := by
  refine ⟨List.pairwise_append.mpr ⟨h.1, by simp, fun x hx y hy => ?_⟩, fun x hx => ?_⟩
  · have hy : y = g := by simpa using hy
    subst hy
    cases he : c.lastEnd with
    | none =>
      unfold Channel.lastEnd at he
      simp only [Option.map_eq_none_iff, List.getLast?_eq_none_iff] at he
      rw [he] at hx; cases hx
    | some e => exact Int.le_trans (Channel.stop_le_lastEnd h he x hx) (hl e he)
  · rcases List.mem_append.mp hx with h' | h'
    · exact h.2 x h'
    · have : x = g := by simpa using h'
      subst this; exact hg

theorem Channel.ordered_insert {c : Channel} {g : Segment} (hg : 0 < g.span)
    (ho : ∀ x ∈ c.segments, x.stop ≤ g.start ∨ g.stop ≤ x.start) (h : c.ordered) :
    ({ c with segments := insertOrdered g c.segments } : Channel).ordered := by
  refine ⟨insertOrdered_pairwise hg h.1 h.2 ho, fun x hx => ?_⟩
  rcases insertOrdered_mem hx with e | e
  · subst e; exact hg
  · exact h.2 x e

theorem Channel.ordered_filter {c : Channel} (p : Segment → Bool) (h : c.ordered) :
    ({ c with segments := c.segments.filter p } : Channel).ordered :=
  ⟨h.1.sublist List.filter_sublist, fun x hx => h.2 x (List.mem_filter.mp hx).1⟩

/-! ## Edits -/

theorem segmentFault_span {r : RawSegment} (h : segmentFault r = none) : 0 < r.span := by
  unfold segmentFault at h
  dsimp only at h
  split at h
  · cases h
  · rename_i h'
    omega

theorem firstFault_none : ∀ {i : Nat} {rs : List RawSegment}, firstFault i rs = none → ∀ r ∈ rs, segmentFault r = none
  | _, [], _, _, hr => by cases hr
  | i, x :: xs, h, r, hr => by
    unfold firstFault at h
    split at h
    · cases h
    · rename_i hx
      rcases List.mem_cons.mp hr with e | e
      · subst e; exact hx
      · exact firstFault_none h r e

theorem Kept.appendFold (k : Kept P) (c : ChannelId) :
    ∀ (rs : List RawSegment) (s : State) (i : Nat), firstMisplaced i (s.channel c).lastEnd rs = none →
      (∀ r ∈ rs, segmentFault r = none) → (s.channel c).segments.length + rs.length ≤ 255 → rs.length ≤ s.freeSegments → P s →
      P (rs.foldl (fun s r => s.storeSegment c r fun g l => l ++ [g]) s)
  | [], _, _, _, _, _, _, h => h
  | r :: rs, s, i, hm, hf, hl, hfree, h => by
    have hr := hf r List.mem_cons_self
    have hspan := segmentFault_span hr
    simp only [List.length_cons] at hl hfree
    have hlast : ∀ e, (s.channel c).lastEnd = some e → e ≤ r.start := by
      intro e he
      unfold firstMisplaced at hm
      rw [he] at hm
      simp only at hm
      split at hm
      · cases hm
      · omega
    have hm' : firstMisplaced (i + 1) (some (r.start + r.span)) rs = none := by
      unfold firstMisplaced at hm
      split at hm
      · split at hm
        · cases hm
        · exact hm
      · exact hm
    obtain ⟨ch, hc⟩ : ∃ ch : Channel, ch =
        { s.channel c with segments := (s.channel c).segments ++ [storedSegment r (s.freeStamp 1024 s.stampCounter)] } := ⟨_, rfl⟩
    have hlen : ch.segments.length = (s.channel c).segments.length + 1 := by subst hc; simp
    have hend : ch.lastEnd = some (r.start + r.span) := by subst hc; simp [Channel.lastEnd, storedSegment, Segment.stop]
    have hord : (s.channel c).ordered → ch.ordered := by subst hc; exact Channel.ordered_append hspan hlast
    obtain ⟨u, hu⟩ : ∃ u : State, u = s.storeSegment c r fun g l => l ++ [g] := ⟨_, rfl⟩
    have hu' : u = { s.setChannel c ch with stampCounter := (s.freeStamp 1024 s.stampCounter + 1) % 2 ^ 32 } := by
      subst hu hc; rfl
    have hch : u.channel c = ch := by subst hu'; exact State.setChannel_channel_self _ _ _
    have htot := State.segmentTotal_setChannel s c ch
    have hfree' : u.freeSegments = 1024 - (s.setChannel c ch).segmentTotal := by subst hu'; rfl
    rw [State.freeSegments_eq] at hfree
    have hP : P u := by
      rw [hu']
      exact k.stampCounter _ _ (k.channel s c ch hord (.inr ⟨hlen, by omega, by rw [State.freeSegments_eq]; omega⟩) h)
    show P (rs.foldl _ (s.storeSegment c r fun g l => l ++ [g]))
    rw [← hu]
    refine Kept.appendFold k c rs u (i + 1) ?_ (fun x hx => hf x (List.mem_cons_of_mem _ hx)) ?_ ?_ hP
    · rw [hch, hend]; exact hm'
    · rw [hch]; omega
    · rw [hfree']; omega

theorem Kept.appendSegments (k : Kept P) {s : State} (p : Port) (n : Nat) (rs : List RawSegment) (h : P s) :
    P (Machine.appendSegments p n rs s).1 := by
  unfold Machine.appendSegments
  split
  · exact h
  · split
    · exact h
    · split
      · exact h
      · split
        · exact h
        · split
          · exact h
          · split
            · exact h
            · rename_i c _ _ _ hf _ hm hroom
              simp only [Config.channelMax, not_or, Nat.not_lt] at hroom
              exact k.restartLease _ (k.appendFold c rs s 0 hm (firstFault_none hf) hroom.1 hroom.2 h)

theorem Kept.insertSegment (k : Kept P) {s : State} (p : Port) (n : Nat) (r : RawSegment) (h : P s) :
    P (Machine.insertSegment p n r s).1 := by
  unfold Machine.insertSegment
  split
  · exact h
  · split
    · exact h
    · split
      · exact h
      · exact h
      · dsimp only
        split
        · exact h
        · split
          · exact h
          · rename_i c _ _ hf hov hroom
            simp only [Config.channelMax, not_or, Nat.not_le] at hroom
            have hspan := segmentFault_span hf
            refine k.restartLease _ (k.stampCounter _ _ (k.channel s c _ (Channel.ordered_insert hspan ?_) (.inr ⟨?_, ?_, ?_⟩) h))
            · intro x hx
              have := mt (List.any_eq_true.mpr) hov
              have hx' : overlaps r x = false := by
                cases e : overlaps r x with
                | false => rfl
                | true => exact absurd ⟨x, hx, e⟩ this
              simp only [overlaps, decide_eq_false_iff_not, not_and, Int.not_lt] at hx'
              simp only [storedSegment, Segment.stop_eq] at *
              by_cases e : r.start < x.start + x.span
              · exact .inr (hx' e)
              · exact .inl (by omega)
            · exact insertOrdered_length _ _
            · have := insertOrdered_length (storedSegment r (s.freeStamp 1024 s.stampCounter)) (s.channel c).segments
              dsimp only
              omega
            · omega

theorem Kept.keepSegments (k : Kept P) {s : State} (c : ChannelId) (f : Segment → Bool) (h : P s) : P (s.keepSegments c f).1 :=
  k.restartLease _ (k.channel s c _ (Channel.ordered_filter f) (.inl (List.length_filter_le _ _)) h)

theorem Kept.deleteSpan (k : Kept P) {s : State} (p : Port) (n : Nat) (x y : Int) (h : P s) :
    P (Machine.deleteSpan p n x y s).1 := by
  unfold Machine.deleteSpan
  split
  · exact h
  · split
    · exact h
    · split
      · exact h
      · split
        · exact h
        · exact k.keepSegments _ _ h

theorem Kept.clearChannel (k : Kept P) {s : State} (p : Port) (n : Nat) (h : P s) : P (Machine.clearChannel p n s).1 := by
  unfold Machine.clearChannel
  split
  · exact h
  · split
    · exact h
    · exact k.keepSegments _ _ h

/-- A channel with the segments it had. -/
theorem Kept.sameSegments (k : Kept P) {s : State} (c : ChannelId) (ch : Channel) (e : ch.segments = (s.channel c).segments)
    (h : P s) : P (s.setChannel c ch) :=
  k.channel s c ch (by unfold Channel.ordered; rw [e]; exact id) (.inl (Nat.le_of_eq (congrArg _ e))) h

theorem Kept.setChannelKind (k : Kept P) {s : State} (p : Port) (n m : Nat) (h : P s) :
    P (Machine.setChannelKind p n m s).1 := by
  unfold Machine.setChannelKind
  split
  · exact h
  · split
    · split
      · exact k.restartLease _ h
      · split
        · exact h
        · exact k.restartLease _ (k.sameSegments _ _ rfl h)
    · exact h

theorem Kept.setChannelEnable (k : Kept P) {s : State} (p : Port) (n m : Nat) (h : P s) :
    P (Machine.setChannelEnable p n m s).1 := by
  unfold Machine.setChannelEnable
  split
  · exact h
  · split
    · exact h
    · split
      · exact h
      · exact k.restartLease _ (k.sameSegments _ _ rfl h)

/-! ## Evaluator -/

theorem Channel.noteGiven_segments (c : Channel) (l : Lookup) : (c.noteGiven l).segments = c.segments := by
  unfold Channel.noteGiven
  split <;> rfl

theorem Kept.startEvaluation (k : Kept P) {s : State} (h : P s) : P s.startEvaluation := by
  unfold State.startEvaluation
  split
  · rename_i e rest _ _
    have h1 := k.sameSegments e.channel _ (Channel.noteGiven_segments _ ((s.channel e.channel).lookup (e.epoch.getD s.clock.epoch))) h
    exact k.inFlight _ _ (k.evals _ rest h1)
  · exact h

theorem Kept.queryAngle (k : Kept P) {s : State} (p : Port) (n m : Nat) (e : Int) (h : P s) :
    P (Machine.queryAngle p n m e s).1 := by
  unfold Machine.queryAngle
  split
  · exact h
  · split
    · exact h
    · split
      · exact h
      · exact k.evals _ _ h

/-! ## Stamps -/

/-- The search for a stamp ends at the one the counter gives (R27), where its bound let it end at one not in use. -/
theorem State.freeStamp_givesStamp (s : State) (n k : Nat) (h : s.stampUsed (s.freeStamp n k) = false) :
    s.givesStamp k (s.freeStamp n k) := by
  induction n generalizing k with
  | zero => exact ⟨0, rfl, h, fun _ hi => absurd hi (Nat.not_lt_zero _)⟩
  | succ n ih =>
    rw [State.freeStamp] at h ⊢
    split at h
    next hu =>
      rw [if_pos hu]
      obtain ⟨j, e, hj, hl⟩ := ih _ h
      refine ⟨j + 1, e, hj, fun i hi => ?_⟩
      cases i with
      | zero => exact hu
      | succ i => exact hl i (Nat.lt_of_succ_lt_succ hi)
    next hu => rw [if_neg hu]; exact ⟨0, rfl, h, fun _ hi => absurd hi (Nat.not_lt_zero _)⟩

end Sys2Proof.Machine
end

