-- ==== Sys2Proof/Laws/KeptMotion.lean ====
section
/-! SUPPORT. `Kept` over the axes: records, motion, groups, homing, faults and drive power (03, 04, 05, 09). -/

set_option Elab.async false

namespace Sys2Proof.Machine

variable {P : State → Prop}

/-! ## Records -/

theorem KeptAxis.configureAxis (k : KeptAxis P) {s : State} (p : Port) (n : Nat) (r : RawRecord) (h : P s) :
    P (Machine.configureAxis p n r s).1 := by
  unfold Machine.configureAxis
  split
  · exact h
  · dsimp only
    split
    · exact h
    · split
      · exact h
      · split
        · exact h
        · rename_i c
          split
          · exact h
          · split
            · exact h
            · rename_i f _ e
              simp only [Bool.or_eq_true, not_or, Bool.not_eq_true', Bool.not_eq_false] at c
              exact k.restartLease _ (k.restartLease _ (k.setAxis _ _ h
                (Axis.follows_configured (by simpa using c.1.1) (limitsLawful_recordOf f) e)))

theorem KeptAxis.bind (k : KeptAxis P) {s : State} (p : Port) (n m : Nat) (h : P s) : P (Machine.bind p n m s).1 := by
  unfold Machine.bind
  split
  · split
    · exact h
    · split
      · exact h
      · exact k.restartLease _ (k.modAxis _ _ h (Axis.follows_rebound _ _))
  · exact h

theorem KeptAxis.unbind (k : KeptAxis P) {s : State} (p : Port) (n : Nat) (h : P s) : P (Machine.unbind p n s).1 := by
  unfold Machine.unbind
  split
  · exact h
  · split
    · exact h
    · split
      · exact h
      · exact k.restartLease _ (k.modAxis _ _ h (Axis.follows_rebound _ _))

theorem KeptAxis.lockSafety (k : KeptAxis P) {s : State} (p : Port) (n : Nat) (h : P s) : P (Machine.lockSafety p n s).1 := by
  unfold Machine.lockSafety
  split
  · exact h
  · split
    · exact h
    · split
      · exact h
      · refine k.restartLease _ (k.modAxis _ _ h ?_)
        split
        · exact Axis.follows_refl _
        · exact ⟨fun _ => ⟨rfl, rfl⟩, id⟩

/-! ## The end of work -/

theorem State.axis_modAxis_core (s : State) (a b : AxisId) (f : Axis → Axis) (h : (f (s.axis a)).core = (s.axis a).core) :
    ((s.modAxis a f).axis b).core = (s.axis b).core := by
  by_cases c : b = a
  · subst c; simpa [State.modAxis] using h
  · have : b.val ≠ a.val := fun h => c (Fin.ext h)
    simp [State.modAxis, State.setAxis, State.axis, Ne.symm this]

/-- The end of a stage touches no law of an axis. -/
theorem State.endStage_core (s : State) (a : AxisId) (o : StageOutcome) (q : Bool) (b : AxisId) :
    ((s.endStage a o q).axis b).core = (s.axis b).core := by
  unfold State.endStage
  split
  · rfl
  · have h := s.axis_modAxis_core a b (fun x => { x with stage := none, lastStage := o }) rfl
    dsimp only
    split
    · exact h
    · exact h
    · exact h
    · split <;> exact h

theorem State.failMotion_core (s : State) (g : GroupId) (m : GroupMotion) (c : EndCause) (q : Bool) (b : AxisId) :
    ((s.failMotion g m c q).axis b).core = (s.axis b).core := by
  have step (v : Option GroupMotion) : (((m.members.foldl (fun s x =>
        match (s.axis x.axis).stage with
        | some st => if st.owner = .group g then s.endStage x.axis .ended q else s
        | none => s) (s.setMotion g v))).axis b).core = (s.axis b).core := by
    refine foldl_keeps (P := fun t : State => (t.axis b).core = (s.axis b).core) (fun t x h => ?_) m.members _ rfl
    split
    · split
      · exact (State.endStage_core _ _ _ _ _).trans h
      · exact h
    · exact h
  unfold State.failMotion
  dsimp only
  split <;> split <;> first | exact step _ | rfl

theorem State.endMember_core (s : State) (a : AxisId) (o : MemberOutcome) (c : EndCause) (q : Bool) (b : AxisId) :
    ((s.endMember a o c q).axis b).core = (s.axis b).core := by
  unfold State.endMember
  split
  · rfl
  · exact State.failMotion_core _ _ _ _ _ _

theorem State.endPart_core (s : State) (a b : AxisId) : ((s.endPart a).axis b).core = (s.axis b).core :=
  (State.endStage_core _ _ _ _ _).trans (State.endMember_core _ _ _ _ _ _)

theorem State.settleTest_axis (s : State) (b : AxisId) : s.settleTest.axis b = s.axis b := by
  have n (t : State) (k : NoticeKind) (c : Resource) (j : Option Nat) (u : Bool) : (t.notify k c j u).axis b = t.axis b :=
    foldl_keeps (P := fun v : State => v.axis b = t.axis b) (f := fun v p => v.modPort p fun q => q.deliver k j u)
      (fun _ _ h => h) _ t rfl
  unfold State.settleTest
  split
  · exact n _ _ _ _ _
  · rfl

/-- Leaving the roll touches no axis. -/
theorem State.rollLeave_axis (s : State) (a b : AxisId) : (s.rollLeave a).axis b = s.axis b := by
  unfold State.rollLeave
  split
  · exact State.settleTest_axis _ _
  · rfl

/-- The end of a slew takes the target alone. -/
theorem State.endSlew_axis (s : State) (a : AxisId) (q : Bool) :
    ((s.endSlew a q).axis a).target = none ∧ ((s.endSlew a q).axis a).record = (s.axis a).record ∧
      ((s.endSlew a q).axis a).known = (s.axis a).known ∧ ((s.endSlew a q).axis a).state = (s.axis a).state := by
  unfold State.endSlew
  split
  · dsimp only
    split
    · simp [State.modAxis]
    · have h : ((s.modAxis a fun x => { x with target := none }).axis a).target = none ∧
          ((s.modAxis a fun x => { x with target := none }).axis a).record = (s.axis a).record ∧
          ((s.modAxis a fun x => { x with target := none }).axis a).known = (s.axis a).known ∧
          ((s.modAxis a fun x => { x with target := none }).axis a).state = (s.axis a).state := by simp
      exact h
  · rename_i h
    exact ⟨h, rfl, rfl, rfl⟩

theorem Axis.core_parts {x y : Axis} (h : y.core = x.core) : y.locked = x.locked ∧ y.record = x.record ∧ y.state = x.state ∧
    y.known = x.known ∧ y.target = x.target ∧ y.stopping = x.stopping ∧ y.tracking = x.tracking := by
  unfold Axis.core at h
  simpa using h

/-- What leaving work leaves of an axis: no target and no record of a motion. -/
theorem State.leaveWork_axis (s : State) (a : AxisId) (q : Bool) :
    ((s.leaveWork a q).axis a).state = (s.axis a).state ∧ ((s.leaveWork a q).axis a).known = (s.axis a).known ∧
      ((s.leaveWork a q).axis a).target = none ∧ ((s.leaveWork a q).axis a).tracking = none := by
  have c := (State.endStage_core (s.endMember a .ended .memberEnded q) a .ended q a).trans (State.endMember_core s a .ended .memberEnded q a)
  obtain ⟨_, _, c3, c4, _, _, _⟩ := Axis.core_parts c
  obtain ⟨e1, _, e3, e4⟩ := State.endSlew_axis ((s.endMember a .ended .memberEnded q).endStage a .ended q) a q
  unfold State.leaveWork
  rw [State.rollLeave_axis]
  simp [State.modAxis, e1, e3, e4, c3, c4]

theorem KeptAxis.endStage (k : KeptAxis P) {s : State} (a : AxisId) (o : StageOutcome) (q : Bool) (h : P s) : P (s.endStage a o q) := by
  unfold State.endStage
  split
  · exact h
  · dsimp only
    split
    · exact k.modAxis _ _ h
    · exact k.raise _ (k.modAxis _ _ h)
    · exact k.raise _ (k.modAxis _ _ h)
    · split
      · exact k.modAxis _ _ h
      · exact k.raise _ (k.modAxis _ _ h)

theorem KeptAxis.failMotion (k : KeptAxis P) {s : State} (g : GroupId) (m : GroupMotion) (c : EndCause) (q : Bool) (h : P s) :
    P (s.failMotion g m c q) := by
  unfold State.failMotion
  have h1 (v : Option GroupMotion) : P (s.setMotion g v) := k.setMotion _ _ h
  have step : ∀ (t : State) (x : Member), P t → P (match (t.axis x.axis).stage with
      | some st => if st.owner = .group g then t.endStage x.axis .ended q else t
      | none => t) := by
    intro t x ht
    split
    · split
      · exact k.endStage _ _ _ ht
      · exact ht
    · exact ht
  dsimp only
  split
  · split
    · exact foldl_keeps step _ _ (h1 _)
    · exact h1 _
  · split
    · exact k.raise _ (foldl_keeps step _ _ (h1 _))
    · exact k.raise _ (h1 _)

theorem KeptAxis.endMember (k : KeptAxis P) {s : State} (a : AxisId) (o : MemberOutcome) (c : EndCause) (q : Bool) (h : P s) :
    P (s.endMember a o c q) := by
  unfold State.endMember
  split
  · exact h
  · exact k.failMotion _ _ _ _ h

theorem KeptAxis.endMembers (k : KeptAxis P) {s : State} (f : AxisId → Bool) (q : Bool) (h : P s) : P (s.endMembers f q) := by
  unfold State.endMembers
  refine foldl_keeps (fun t g ht => ?_) _ _ h
  split
  · split
    · exact k.failMotion _ _ _ _ ht
    · exact ht
  · exact ht

theorem KeptAxis.clearMarks (k : KeptAxis P) {s : State} (h : P s) : P s.clearMarks :=
  foldl_keeps (fun _ _ h => k.modAxis _ _ h) _ _ h

theorem KeptAxis.abandonReturn (k : KeptAxis P) {s : State} (j : Option AxisId) (h : P s) : P (s.abandonReturn j) := by
  unfold State.abandonReturn
  split
  · exact h
  · exact k.notify _ _ _ _ (k.withPower _ (k.withClock _ ⟨rfl, rfl, rfl, rfl, rfl, rfl, rfl, rfl, rfl⟩ (k.clearMarks h)))

theorem KeptAxis.homingLost (k : KeptAxis P) {s : State} (a : AxisId) (h : P s) : P (s.homingLost a) := by
  unfold State.homingLost
  split
  · split
    · exact k.abandonReturn _ h
    · exact h
  · exact h

theorem KeptAxis.endSlew (k : KeptAxis P) {s : State} (a : AxisId) (q : Bool) (h : P s) : P (s.endSlew a q) := by
  unfold State.endSlew
  split
  · dsimp only
    have e : (s.axis a).follows { s.axis a with target := none } :=
      Axis.follows_drop rfl rfl rfl rfl (.inl rfl) (.inr rfl) (.inr rfl)
    split
    · exact k.modAxis _ _ h e
    · exact k.raise _ (k.modAxis _ _ h e)
  · exact h

theorem KeptAxis.leaveWork (k : KeptAxis P) {s : State} (a : AxisId) (q : Bool) (h : P s) : P (s.leaveWork a q) :=
  k.rollLeave _ (k.modAxis _ _ (k.endSlew _ _ (k.endStage _ _ _ (k.endMember _ _ _ _ h)))
    (Axis.follows_drop rfl rfl rfl rfl (.inr rfl) (.inl rfl) (.inl rfl)))

/-- Coming to rest in STANDING calls for a known position. -/
theorem Axis.follows_atRest {x : Axis} {r : RestState} (h : x.lawful → r = .standing → x.known = true) : x.follows (x.atRest r) := by
  refine ⟨fun h => ⟨h, rfl⟩, fun l => Axis.lawful_rest l rfl rfl rfl fun u => .inl ?_⟩
  cases r with
  | standing => exact absurd (h l rfl) (by simpa [Axis.atRest, Axis.still] using u)
  | unreferenced => simp [Axis.atRest]

theorem KeptAxis.enterStopping (k : KeptAxis P) {s : State} (a : AxisId) (d : Option Nat) (q : Bool) (m : (s.axis a).state.stops = true)
    (h : P s) : P (s.enterStopping a d q) := by
  unfold State.enterStopping
  obtain ⟨e1, e2, e3, e4⟩ := s.leaveWork_axis a q
  refine k.modAxis _ _ (k.leaveWork _ _ h) ?_
  have known (l : ((s.leaveWork a q).axis a).lawful) (n : (s.axis a).state ≠ .homing) :
      ((s.leaveWork a q).axis a).known = true := by
    refine Axis.known_of_moving l ?_
    rw [e1]
    cases c : (s.axis a).state <;> rw [c] at m n <;> simp_all [AxisState.stops]
  split
  · refine Axis.follows_atRest fun l r => known l fun n => ?_
    rw [if_pos n] at r
    cases r
  · refine ⟨fun h => ⟨h, rfl⟩, fun l => Axis.lawful_rest l rfl rfl rfl fun u => .inr ⟨rfl, fun z c => ?_⟩⟩
    cases c
    by_cases n : (s.axis a).state = .homing
    · rw [if_pos n]
    · exact absurd (known l n) (by simpa using u)

/-! ## Faults and limits -/

theorem KeptAxis.faultNotice (k : KeptAxis P) {s : State} (a : AxisId) (h : P s) : P (s.faultNotice a) :=
  k.notifyAxis _ _ (k.event _ h)

theorem KeptAxis.enterFaulted (k : KeptAxis P) {s : State} (a : AxisId) (c : FaultCause) (r : Option Nat) (h : P s) :
    P (s.enterFaulted a c r) :=
  k.faultNotice _ (k.modAxis _ _ h (Axis.follows_faulted _ _ rfl rfl))

theorem KeptAxis.driveFault (k : KeptAxis P) {s : State} (a : AxisId) (h : P s) : P (s.driveFault a) := by
  have h1 := k.faultNotice a (k.modAxis a (fun x => x.faultPosition.faulted .driveFault none) (k.leaveWork a false h)
    (Axis.follows_faulted _ _ (Axis.faultPosition_safe _).1 (Axis.faultPosition_safe _).2.1))
  unfold State.driveFault
  dsimp only
  split
  · exact k.homingLost _ h1
  · exact h1

theorem KeptAxis.furtherCause (k : KeptAxis P) {s : State} (a : AxisId) (c : FaultCause)
    (m : c = .driveFault → (s.axis a).state = .faulted) (h : P s) : P (s.furtherCause a c) :=
  k.faultNotice _ (k.modAxis _ _ h (by
    dsimp only
    split
    · refine Axis.follows_trans ?_ (Axis.follows_faultPosition (m ‹_›))
      exact Axis.follows_of_core rfl
    · exact Axis.follows_of_core rfl))

theorem KeptAxis.lateHoming (k : KeptAxis P) {s : State} (a : AxisId) (r : Bool) (h : P s) : P (s.lateHoming a r) := by
  unfold State.lateHoming
  split
  · exact k.furtherCause _ _ (fun e => by cases e) (k.modAxis _ _ h (by split <;> exact Axis.follows_of_core rfl))
  · exact h

theorem KeptAxis.lateLimit (k : KeptAxis P) {s : State} (a : AxisId) (d : LimitSide) (c : Option LateCause) (h : P s) :
    P (s.lateLimit a d c) := by
  unfold State.lateLimit
  split
  · split
    · exact k.furtherCause _ _ (fun e => by cases e) (k.modAxis _ _ h (by split <;> exact Axis.follows_of_core rfl))
    · exact h
  · exact k.lateHoming _ _ h
  · exact h

theorem KeptAxis.checkDrive (k : KeptAxis P) {s : State} (a : AxisId) (h : P s) : P (s.checkDrive a) := by
  unfold State.checkDrive
  split
  · exact k.driveFault _ h
  · exact h

theorem KeptAxis.failHoming (k : KeptAxis P) {s : State} (a : AxisId) (h : P s) : P (s.failHoming a) :=
  k.homingLost _ (k.enterFaulted _ _ _ (k.leaveWork _ _ h))

theorem KeptAxis.hardLimitStop (k : KeptAxis P) {s : State} (a : AxisId) (d : LimitSide) (h : P s) : P (s.hardLimitStop a d) :=
  k.enterFaulted _ _ _ (k.modAxis _ _ (k.leaveWork _ _ h) (by split <;> exact Axis.follows_of_core rfl))

theorem KeptAxis.homingLimit (k : KeptAxis P) {s : State} (a : AxisId) (x : Homing) (d : LimitSide) (h : P s) :
    P (s.homingLimit a x d) := by
  unfold State.homingLimit
  split
  · exact k.failHoming _ h
  · exact k.homingLost _ (k.enterFaulted _ _ _ (k.modAxis _ _ (k.leaveWork _ _ h)
      ⟨fun h => ⟨h, rfl⟩, fun ⟨l1, _, l3, l4, l5, l6⟩ => ⟨l1, fun e => (by cases e), l3, l4, l5, l6⟩⟩))
  · split
    · exact k.modAxis _ _ h
    · exact k.failHoming _ h

theorem KeptAxis.limitMet (k : KeptAxis P) {s : State} (a : AxisId) (d : LimitSide) (h : P s) : P (s.limitMet a d) := by
  unfold State.limitMet
  split
  · exact k.homingLimit _ _ _ h
  · exact k.hardLimitStop _ _ h
  · exact k.hardLimitStop _ _ h
  · exact k.hardLimitStop _ _ h
  · exact h

/-! ## Motion -/

theorem KeptAxis.startMotion (k : KeptAxis P) (a : AxisId) : ∀ (n : Nat) (s : State), P s → P (s.startMotion a n)
  | 0, _, h => h
  | n + 1, s, h => by
    unfold State.startMotion
    dsimp only
    split
    · split
      · split
        · exact h
        · exact k.modAxis _ _ h
      · split
        · exact h
        · split
          · exact KeptAxis.startMotion k a n _ (k.limitMet _ _ (k.modAxis _ _ h (Axis.follows_begin _ _)))
          · exact k.modAxis _ _ h (Axis.follows_begin _ _)
    · exact h

theorem KeptAxis.startMotions (k : KeptAxis P) {s : State} (h : P s) : P s.startMotions :=
  foldl_keeps (fun s a h => k.startMotion a 3 s h) _ _ h

theorem KeptAxis.testLagging (k : KeptAxis P) {s : State} (a : AxisId) (t : Tracking) (n : Nat)
    (e : (s.axis a).tracking = some t) (h : P s) : P (s.testLagging a t n) := by
  unfold State.testLagging
  dsimp only
  split
  · exact k.notifyAxis _ _ (k.lagExcess _ (k.modAxis _ _ h (Axis.follows_flagged e rfl rfl)))
  · split
    · exact k.modAxis _ _ h (Axis.follows_flagged e rfl rfl)
    · exact h

theorem KeptAxis.testSettled (k : KeptAxis P) {s : State} (a : AxisId) (t : Tracking) (n : Nat) (r : Bool) (h : P s) :
    P (s.testSettled a t n r) := by
  unfold State.testSettled
  dsimp only
  have h1 (b : Bool) : P (s.modAxis a fun x => { x with tracking := x.tracking.map fun t => { t with settled := b } }) :=
    k.modAxis _ _ h (Axis.follows_mapped _ (fun _ => rfl))
  split
  · split
    · exact k.settledReport _ _ (h1 _)
    · exact h1 _
  · exact h1 _

theorem KeptAxis.testTracking (k : KeptAxis P) {s : State} (a : AxisId) (r : Bool) (h : P s) : P (s.testTracking a r) := by
  unfold State.testTracking
  split
  · rename_i e _
    exact k.testSettled _ _ _ _ (k.testLagging _ _ _ e h)
  · exact h

theorem KeptAxis.testSearch (k : KeptAxis P) {s : State} (a : AxisId) (h : P s) : P (s.testSearch a) := by
  unfold State.testSearch
  split
  · split
    · exact k.failHoming _ h
    · exact h
  · exact h

theorem KeptAxis.stepPulse (k : KeptAxis P) {s : State} (a : AxisId) (h : P s) : P (s.stepPulse a) := by
  unfold State.stepPulse
  split
  · exact h
  · split
    · exact k.testSearch _ (k.testTracking _ _ (k.modAxis _ _ h))
    · exact h

theorem KeptAxis.velocityZero (k : KeptAxis P) {s : State} (a : AxisId) (h : P s) : P (s.velocityZero a) := by
  unfold State.velocityZero
  split
  · exact k.modAxis _ _ h
  · exact h

theorem KeptAxis.memberArrived (k : KeptAxis P) {s : State} (a : AxisId) (h : P s) : P (s.memberArrived a) := by
  unfold State.memberArrived
  split
  · exact h
  · dsimp only
    split
    · exact k.raise _ (k.event _ (k.setMotion _ _ h))
    · exact k.setMotion _ _ h

/-- A change of state out of SLEWING and TRACKING, with target and tracking record as they are. -/
theorem Axis.follows_state {x y : Axis} (k : y.locked = x.locked) (r : y.record = x.record) (g : y.target = x.target)
    (t : y.tracking = x.tracking) (m : x.state ≠ .slewing ∧ x.state ≠ .tracking)
    (u : x.lawful → y.known = false → y.mayBeUnknown) : x.follows y :=
  ⟨fun h => ⟨k.trans h, by rw [r]⟩,
    fun l => Axis.lawful_rest l r (g.trans (l.2.2.1 m.1)) (t.trans (l.2.2.2.1 m.2)) (u l)⟩

theorem KeptAxis.arrive (k : KeptAxis P) {s : State} (a : AxisId) (t : Target) (m : (s.axis a).state = .slewing) (h : P s) :
    P (s.arrive a t) := by
  have h1 : P (s.modAxis a fun x => { x.still with state := .standing, target := none }) :=
    k.modAxis _ _ h ⟨fun h => ⟨h, rfl⟩, fun l => Axis.lawful_rest l rfl rfl (l.2.2.2.1 (by rw [m]; simp)) fun u =>
      absurd (Axis.known_of_moving l (.inl m)) (by simpa [Axis.still] using u)⟩
  unfold State.arrive
  refine k.memberArrived _ (k.raise _ (k.event _ ?_))
  dsimp only
  split
  · split
    · exact k.modAxis _ _ (k.endStage _ _ _ h1)
    · exact k.modAxis _ _ h1
  · exact h1

theorem KeptAxis.axisArrived (k : KeptAxis P) {s : State} (a : AxisId) (h : P s) : P (s.axisArrived a) := by
  unfold State.axisArrived
  split
  · rename_i m _
    split
    · exact k.arrive _ _ m h
    · exact h
  · exact h

theorem KeptAxis.stoppingRest (k : KeptAxis P) {s : State} (a : AxisId) (h : P s) : P (s.stoppingRest a) := by
  unfold State.stoppingRest
  split
  · rename_i st m e
    refine k.modAxis _ _ h (Axis.follows_atRest fun l r => Axis.lawful_known l fun n => ?_)
    rcases n with n | ⟨_, n⟩
    · rw [m] at n; simp at n
    · rw [n st e] at r; cases r
  · exact h

/-! ## Motion requests -/

/-- What an accepted request does decides for all three outcomes of the first checks. -/
theorem onAxis_keeps {s : State} {p : Port} {n : Nat} {f : AxisId → State × Reply} (h : P s) (hf : ∀ a, P (f a).1) :
    P (onAxis p n s f).1 := by
  unfold onAxis
  split
  · exact h
  · split
    · exact h
    · split
      · exact h
      · exact hf _

theorem onGroup_keeps {s : State} {p : Port} {n : Nat} {f : GroupId → State × Reply} (h : P s) (hf : ∀ g, P (f g).1) :
    P (onGroup p n s f).1 := by
  unfold onGroup
  split
  · exact h
  · split
    · exact h
    · split
      · exact h
      · exact hf _

theorem KeptAxis.axisOk (k : KeptAxis P) {s : State} (a : AxisId) (h : P s) : P (Machine.axisOk a s).1 := k.restartLease _ h

theorem KeptAxis.endPart (k : KeptAxis P) {s : State} (a : AxisId) (h : P s) : P (s.endPart a) :=
  k.endStage _ _ _ (k.endMember _ _ _ _ h)

theorem KeptAxis.enable (k : KeptAxis P) {s : State} (p : Port) (n : Nat) (h : P s) : P (Machine.enable p n s).1 := by
  unfold Machine.enable
  refine onAxis_keeps h fun a => ?_
  split
  · rename_i m
    refine k.axisOk _ (k.checkDrive _ (k.modAxis _ _ h (Axis.follows_state rfl rfl rfl rfl (by rw [m]; simp) fun _ u => .inl ?_)))
    dsimp only at u ⊢
    simp [u]
  · exact k.axisOk _ h
  · exact k.axisOk _ h
  · exact h

theorem KeptAxis.disable (k : KeptAxis P) {s : State} (p : Port) (n : Nat) (h : P s) : P (Machine.disable p n s).1 := by
  unfold Machine.disable
  refine onAxis_keeps h fun a => ?_
  split
  · rename_i m
    exact k.axisOk _ (k.modAxis _ _ h (Axis.follows_state rfl rfl rfl rfl (by rw [m]; simp) fun _ _ => .inl (by simp)))
  · rename_i m
    exact k.axisOk _ (k.modAxis _ _ (k.endPart _ h) (Axis.follows_state rfl rfl rfl rfl
      (by rw [(Axis.core_parts (s.endPart_core a a)).2.2.1, m]; simp) fun _ _ => .inl (by simp)))
  · exact k.axisOk _ h
  · exact h

theorem KeptAxis.declareReference (k : KeptAxis P) {s : State} (p : Port) (n : Nat) (x y : BitVec 32) (h : P s) :
    P (Machine.declareReference p n x y s).1 := by
  unfold Machine.declareReference
  refine onAxis_keeps h fun a => ?_
  split
  · rename_i m
    split
    · exact h
    · refine k.axisOk _ (k.modAxis _ _ (k.endPart _ h) (Axis.follows_state rfl rfl rfl rfl ?_ fun _ u => by cases u))
      rw [(Axis.core_parts (s.endPart_core a a)).2.2.1]
      rcases m with m | m <;> rw [m] <;> simp
  · exact h

theorem KeptAxis.slewTo (k : KeptAxis P) {s : State} (a : AxisId) (t : Int) (sa : Option StagedAt) (l c : Nat) (h : P s) :
    P (s.slewTo a t sa l c) := by
  unfold State.slewTo
  split
  · exact h
  rename_i m
  have m : (s.axis a).mayTake t = true := by simpa using m
  have known : (s.axis a).known = true := by
    unfold Axis.mayTake at m
    exact (Bool.and_eq_true _ _ ▸ m).1
  obtain ⟨_, e2, e3, _⟩ := s.endSlew_axis a false
  have h1 (g : Target) (e : g.position = t) : P (((s.endSlew a false).fresh.1.modAxis a fun x =>
      { x with state := .slewing, target := some g, stopping := none, tracking := none, stagedAt := none }).rollLeave a) := by
    refine k.rollLeave _ (k.modAxis _ _ (k.fresh (k.endSlew _ _ h)) ⟨fun h => ⟨h, rfl⟩, fun l => ?_⟩)
    refine ⟨l.1, fun u => absurd (e3.trans known) (by simpa [State.fresh, State.axis] using u), fun c => absurd rfl c, fun _ => rfl,
      fun z c => ?_, fun _ c => by cases c⟩
    cases c
    rw [e]
    exact e2 ▸ Axis.allows_of_mayTake (e2 ▸ l.1) m
  dsimp only
  split
  · refine k.arrive _ _ ?_ (h1 _ rfl)
    rw [State.rollLeave_axis]
    simp [State.modAxis]
  · exact h1 _ rfl

theorem KeptAxis.slewSingle (k : KeptAxis P) {s : State} (a : AxisId) (t : Int) (sa : Option StagedAt) (h : P s) :
    P (s.slewSingle a t sa) :=
  k.slewTo _ _ _ _ _ h

theorem KeptAxis.replaceStage (k : KeptAxis P) {s : State} (a : AxisId) (h : P s) : P (s.replaceStage a) := by
  unfold State.replaceStage
  split
  · exact h
  · split
    · exact k.endStage _ _ _ h
    · exact k.endPart _ h

theorem KeptAxis.stageSingle (k : KeptAxis P) {s : State} (a : AxisId) (e : Int) (h : P s) : P (s.stageSingle a e) := by
  unfold State.stageSingle
  refine k.requestAngle _ _ _ _ (k.modAxis _ _ (k.fresh ?_))
  have h1 := k.replaceStage a h
  split
  · exact k.slewSingle _ _ _ h1
  · exact h1

theorem KeptAxis.slew (k : KeptAxis P) {s : State} (p : Port) (n f : Nat) (v : BitVec 56) (h : P s) : P (Machine.slew p n f v s).1 := by
  unfold Machine.slew
  refine onAxis_keeps h fun a => ?_
  dsimp only
  split
  · exact h
  · split
    · exact h
    · split
      · split
        · exact h
        · split
          · exact h
          · exact k.axisOk _ (k.stageSingle _ _ h)
      · split
        · split
          · exact h
          · exact k.axisOk _ (k.slewSingle _ _ _ (k.endPart _ h))
        · exact h

theorem Axis.newTracking_target (x : Axis) (e : Int) : (x.newTracking e).target = (x.held x.extended).1 := by
  unfold Axis.newTracking
  split
  · split <;> rfl
  · rfl

theorem KeptAxis.trackAxis (k : KeptAxis P) {s : State} (a : AxisId) (h : P s) : P (s.trackAxis a) := by
  unfold State.trackAxis
  split
  · exact h
  rename_i m
  have m : (s.axis a).known = true := by simpa using m
  obtain ⟨e1, _, e3, _⟩ := (s.endPart a).endSlew_axis a false
  have h1 : P (((s.endPart a).endSlew a false).modAxis a fun x =>
      { x with state := .tracking,
               tracking := some ((((s.endPart a).endSlew a false).axis a).newTracking ((s.endPart a).endSlew a false).clock.epoch),
               stopping := none, stagedAt := none }) := by
    refine k.modAxis _ _ (k.endSlew _ _ (k.endPart _ h)) ⟨fun h => ⟨h, rfl⟩, fun l => ?_⟩
    refine ⟨l.1, fun u => absurd (e3.trans ((Axis.core_parts (s.endPart_core a a)).2.2.2.1.trans m)) (by simpa using u),
      fun _ => e1, fun c => absurd rfl c, fun z c => absurd (e1.symm.trans c) (by simp), fun z c => ?_⟩
    cases c
    rw [Axis.newTracking_target]
    exact Axis.allows_held l.1 _
  refine k.requestAngle _ _ _ _ ?_
  split
  · exact k.settledReport _ _ (k.rollJoin _ h1)
  · exact k.rollJoin _ h1

theorem KeptAxis.track (k : KeptAxis P) {s : State} (p : Port) (n : Nat) (h : P s) : P (Machine.track p n s).1 := by
  unfold Machine.track
  refine onAxis_keeps h fun a => ?_
  split
  · exact h
  · split
    · exact k.axisOk _ h
    · exact k.axisOk _ (k.trackAxis _ h)

theorem KeptAxis.stopAxis (k : KeptAxis P) {s : State} (a : AxisId) (h : P s) : P (s.stopAxis a) := by
  unfold State.stopAxis
  split
  · exact h
  rename_i m
  have m : (s.axis a).state.stops = true := by simpa using m
  dsimp only
  split
  · exact k.homingLost _ (k.enterStopping _ _ _ m h)
  · exact k.enterStopping _ _ _ m h

theorem KeptAxis.stop (k : KeptAxis P) {s : State} (p : Port) (n : Nat) (h : P s) : P (Machine.stop p n s).1 := by
  unfold Machine.stop
  refine onAxis_keeps h fun a => ?_
  split
  · exact k.axisOk _ (k.stopAxis _ h)
  · exact k.axisOk _ (k.stopAxis _ h)
  · exact k.axisOk _ (k.stopAxis _ h)
  · exact k.axisOk _ h
  · exact k.axisOk _ h
  · exact k.axisOk _ h
  · exact k.axisOk _ h
  · exact h
  · exact h

/-! ## Evaluation results -/

theorem Axis.trackCovered_target (x : Axis) (t : Tracking) (c : Covered) : ∃ n, (x.trackCovered t c).target = (x.held n).1 :=
  ⟨_, rfl⟩

theorem KeptAxis.takeTrack (k : KeptAxis P) {s : State} (a : AxisId) (t : Tracking) (f : InFlight)
    (e : (s.axis a).tracking = some t) (h : P s) : P (s.takeTrack a t f) := by
  unfold State.takeTrack
  split
  · rename_i c _
    have h1 : P (s.modAxis a fun x => { x with tracking := some ((s.axis a).trackCovered t c) }) := by
      refine k.modAxis _ _ h (Axis.follows_tracking rfl rfl rfl rfl rfl rfl (fun n => by rw [e] at n; cases n) fun l z n => ?_)
      cases n
      obtain ⟨m, hm⟩ := (s.axis a).trackCovered_target t c
      rw [hm]
      exact Axis.allows_held l.1 _
    refine k.testTracking _ _ ?_
    split
    · exact k.notifyAxis _ _ h1
    · exact h1
  · refine k.testTracking _ _ ?_
    have h1 := k.modAxis (s := s) a
      (fun x => { x with tracking := some { t with uncovered := true, settled := false, lastEpoch := some f.epoch } }) h
      (Axis.follows_flagged e rfl rfl)
    split
    · exact h1
    · exact k.notify _ _ _ _ h1

theorem KeptAxis.takeStageSingle (k : KeptAxis P) {s : State} (a : AxisId) (t : StagePending) (f : InFlight) (h : P s) :
    P (s.takeStageSingle a t f) := by
  unfold State.takeStageSingle
  split
  · exact k.notify _ _ _ _ (k.endStage _ _ _ h)
  · dsimp only
    split
    · exact k.notifyAxis _ _ (k.endStage _ _ _ h)
    · exact k.slewSingle _ _ _ (k.endMember _ _ _ _ h)

theorem KeptAxis.startTogether (k : KeptAxis P) {s : State} (l : List (AxisId × Int × Option StagedAt)) (n : Nat) (h : P s) :
    P (s.startTogether l n) := by
  unfold State.startTogether
  refine foldl_keeps (fun t x ht => ?_) _ _ h
  obtain ⟨a, g, sa⟩ := x
  dsimp only
  split
  · exact k.slewTo _ _ _ _ _ ht
  · exact k.slewTo _ _ _ _ _ ht

theorem KeptAxis.arriveEmpty (k : KeptAxis P) {s : State} (g : GroupId) (m : GroupMotion) (h : P s) : P (s.arriveEmpty g m) :=
  k.raise _ (k.event _ (k.setMotion _ _ h))

theorem KeptAxis.startStage (k : KeptAxis P) {s : State} (g : GroupId) (m : GroupMotion) (h : P s) : P (s.startStage g m) := by
  unfold State.startStage
  have step : ∀ (t : State) (x : Member), P t → P (match (t.axis x.axis).stage with
      | some st =>
        if st.owner = .group g then
          t.modAxis x.axis (·.stageStarted x.outcome)
        else t
      | none => t) := by
    intro t x ht
    split
    · split
      · exact k.modAxis _ _ ht
      · exact ht
    · exact ht
  have h1 := foldl_keeps step m.members s h
  dsimp only
  split
  · exact k.arriveEmpty _ _ h1
  · exact k.startTogether _ _ (k.setMotion _ _ h1)

theorem KeptAxis.stageTest (k : KeptAxis P) {s : State} (g : GroupId) (h : P s) : P (s.stageTest g) := by
  unfold State.stageTest
  split
  · split
    · exact k.startStage _ _ h
    · exact h
  · exact h

theorem KeptAxis.takeStageGroup (k : KeptAxis P) {s : State} (a : AxisId) (g : GroupId) (t : StagePending) (f : InFlight) (h : P s) :
    P (s.takeStageGroup a g t f) := by
  unfold State.takeStageGroup
  split
  · exact h
  · split
    · exact k.stageTest _ (k.notify _ _ _ _ (k.setMotion _ _ h))
    · dsimp only
      split
      · exact k.notifyAxis _ _ (k.endMember _ _ _ _ h)
      · exact k.stageTest _ (k.setMotion _ _ h)

theorem KeptAxis.deliverAxis (k : KeptAxis P) {s : State} (a : AxisId) (u : Purpose) (f : InFlight) (h : P s) :
    P (s.deliverAxis a u f) := by
  unfold State.deliverAxis
  dsimp only
  split
  · exact k.modAxis _ _ h
  · split
    · split
      · exact k.takeTrack _ _ _ (by assumption) h
      · exact h
    · split
      · exact k.takeStageSingle _ _ _ h
      · exact k.takeStageGroup _ _ _ _ h
    · exact h

theorem Kept.deliverPort (k : Kept P) {s : State} (p : Port) (f : InFlight) (h : P s) : P (s.deliverPort p f) := by
  unfold State.deliverPort
  split
  · exact k.modPort _ _ h
  · exact h

theorem Kept.completeEvaluation (k : Kept P) {s : State} (h : P s) : P s.completeEvaluation := by
  unfold State.completeEvaluation
  split
  · exact h
  · dsimp only
    split
    · exact k.deliverAxis _ _ _ (k.inFlight _ _ h)
    · exact k.deliverPort _ _ (k.inFlight _ _ h)

/-! ## Group requests -/

theorem KeptAxis.supersede (k : KeptAxis P) {s : State} (g : GroupId) (h : P s) : P (s.supersede g) := by
  unfold State.supersede
  split
  · split
    · exact k.failMotion _ _ _ _ h
    · exact h
  · exact h

theorem KeptAxis.coordinatedSlew (k : KeptAxis P) {s : State} (p : Port) (n : Nat) (l : List (Nat × BitVec 32)) (h : P s) :
    P (Machine.coordinatedSlew p n l s).1 := by
  unfold Machine.coordinatedSlew
  refine onGroup_keeps h fun g => ?_
  split
  · exact h
  · exact h
  · exact k.restartLease _ (k.startTogether _ _ (k.setMotion _ _ (k.fresh
      (foldl_keeps (fun _ _ h => k.endPart _ h) _ _ (k.endMembers _ _ (k.supersede _ h))))))

theorem KeptAxis.stageGroup (k : KeptAxis P) {s : State} (p : Port) (n : Nat) (e : Int) (h : P s) :
    P (Machine.stageGroup p n e s).1 := by
  unfold Machine.stageGroup
  refine onGroup_keeps h fun g => ?_
  split
  · exact h
  · exact k.restartLease _ (k.stageTest _ (foldl_keeps (fun _ _ h => k.requestAngle _ _ _ _ (k.modAxis _ _ h)) _ _
      (k.setMotion _ _ (k.fresh (foldl_keeps (fun _ _ h => k.endPart _ h) _ _ (k.supersede _ h))))))

theorem KeptAxis.trackGroup (k : KeptAxis P) {s : State} (p : Port) (n : Nat) (h : P s) : P (Machine.trackGroup p n s).1 := by
  unfold Machine.trackGroup
  refine onGroup_keeps h fun g => ?_
  dsimp only
  generalize (((s.membersOf g).filter fun a => (s.axis a).state != .tracking).filter fun a => (s.axis a).trackPass.isNone) = l
  exact k.restartLease _ (foldl_keeps (fun _ _ h => k.trackAxis _ h) l _ (k.endMembers _ _ h))

theorem KeptAxis.endEvaluating (k : KeptAxis P) {s : State} (g : GroupId) (f : AxisId → Bool) (h : P s) : P (s.endEvaluating g f) := by
  unfold State.endEvaluating
  split
  · split
    · exact k.failMotion _ _ _ _ h
    · exact h
  · exact h

theorem KeptAxis.stopGroup (k : KeptAxis P) {s : State} (p : Port) (n : Nat) (h : P s) : P (Machine.stopGroup p n s).1 := by
  unfold Machine.stopGroup
  exact onGroup_keeps h fun g => k.restartLease _ (foldl_keeps (fun _ _ h => k.stopAxis _ h) _ _
    (k.endMembers _ _ (k.endEvaluating _ _ h)))

/-! ## Homing -/

theorem KeptAxis.endMemberships (k : KeptAxis P) {s : State} (a : AxisId) (h : P s) : P (s.endMemberships a) := by
  unfold State.endMemberships
  refine foldl_keeps (fun t g ht => ?_) _ _ h
  split
  · split
    · exact k.failMotion _ _ _ _ ht
    · exact ht
  · exact ht

theorem KeptAxis.beginHoming (k : KeptAxis P) {s : State} (a : AxisId) (x : HomingStarter) (h : P s) : P (s.beginHoming a x) := by
  have h1 := k.endStage a .ended false (k.endMemberships a h)
  unfold State.beginHoming
  generalize (s.endMemberships a).endStage a .ended false = t at h1 ⊢
  refine k.modAxis a _ h1 ?_
  generalize t.axis a = y
  obtain ⟨e1, e2, _⟩ := y.losePosition_safe
  dsimp only
  generalize y.losePosition = z at e1 e2 ⊢
  exact ⟨fun h => ⟨e2.trans h, congrArg AxisRecord.safety e1⟩, fun l => Axis.lawful_rest l e1 rfl rfl fun _ => .inl (by simp)⟩

theorem KeptAxis.home (k : KeptAxis P) {s : State} (p : Port) (n : Nat) (h : P s) : P (Machine.home p n s).1 := by
  unfold Machine.home
  refine onAxis_keeps h fun a => ?_
  split
  · exact h
  · split
    · exact h
    · exact k.axisOk _ (k.beginHoming _ _ h)

theorem KeptAxis.homeChanged (k : KeptAxis P) {s : State} (a : AxisId) (l : Bool) (h : P s) : P (s.homeChanged a l) := by
  unfold State.homeChanged
  split
  · exact h
  · exact k.modAxis _ _ h (Axis.follows_homeAccepted _ _)

theorem KeptAxis.clearRest (k : KeptAxis P) {s : State} (a : AxisId) (h : P s) : P (s.clearRest a) := by
  unfold State.clearRest
  split
  · split
    · exact k.modAxis _ _ h
    · exact h
  · exact h

theorem KeptAxis.searchExhausted (k : KeptAxis P) {s : State} (a : AxisId) (l : Option Bool) (h : P s) :
    P (s.searchExhausted a l) := by
  unfold State.searchExhausted
  split
  · split
    · exact k.failHoming _ h
    · split
      · exact k.stepPulse _ h
      · exact h
  · split
    · exact k.lateHoming _ _ h
    · exact h

theorem KeptAxis.resumeAxis (k : KeptAxis P) {s : State} (a : AxisId) (h : P s) : P (s.resumeAxis a) := by
  unfold State.resumeAxis
  split
  · exact k.trackAxis _ h
  · exact h

theorem KeptAxis.resumeReturn (k : KeptAxis P) {s : State} (q : ReturnRecord) (h : P s) : P (s.resumeReturn q) := by
  have h1 := foldl_keeps (f := State.resumeAxis) (fun _ _ h => k.resumeAxis _ h) q.resume _
    (k.endMembers (fun a => q.resume.contains a && (s.axis a).resumable) false h)
  unfold State.resumeReturn
  refine k.withPower _ (k.withClock _ ⟨rfl, rfl, rfl, rfl, rfl, rfl, rfl, rfl, rfl⟩ (k.clearMarks ?_))
  split
  · exact k.runClock h1
  · exact h1

theorem KeptAxis.memberHomed (k : KeptAxis P) {s : State} (a : AxisId) (h : P s) : P (s.memberHomed a) := by
  unfold State.memberHomed
  split
  · exact h
  · rename_i q hq
    split
    · have e {x : ReturnRecord} (l : s.power.lawful) : ({ s.power with sequence := some x } : DrivePower).lawful :=
        fun _ => l (by rw [hq]; simp)
      dsimp only
      split
      · exact k.resumeReturn _ (k.withPower _ h rfl e)
      · exact k.withPower _ h rfl e
    · exact h

theorem KeptAxis.axisHomed (k : KeptAxis P) {s : State} (a : AxisId) (h : P s) : P (s.axisHomed a) := by
  unfold State.axisHomed
  split
  · rename_i m _
    split
    · exact k.memberHomed _ (k.notifyAxis _ _ (k.event _ (k.modAxis _ _ h
        (Axis.follows_state rfl rfl rfl rfl (by rw [m]; simp) fun _ u => by cases u))))
    · exact h
  · exact h

/-! ## Faults -/

theorem KeptAxis.clearAxis (k : KeptAxis P) {s : State} (a : AxisId) (m : (s.axis a).state = .faulted) (h : P s) :
    P (s.clearAxis a) := by
  refine k.checkDrive _ (k.modAxis _ _ h (Axis.follows_state rfl rfl rfl rfl (by rw [m]; simp) fun _ u => .inl ?_))
  dsimp only at u ⊢
  simp [u]

theorem KeptAxis.clearFault (k : KeptAxis P) {s : State} (p : Port) (n : Nat) (h : P s) : P (Machine.clearFault p n s).1 := by
  unfold Machine.clearFault
  split
  · exact h
  · dsimp only
    split
    · exact h
    · split
      · exact h
      · split
        · exact h
        · rename_i m
          split
          · exact h
          · exact k.axisOk _ (k.clearAxis _ (by simpa using m) h)

theorem KeptAxis.autoTimer (k : KeptAxis P) {s : State} (a : AxisId) (h : P s) : P (s.autoTimer a) := by
  unfold State.autoTimer
  dsimp only
  split
  · split
    · exact k.modAxis _ _ h
    · exact h
  · split
    · exact h
    · exact k.modAxis _ _ h

theorem KeptAxis.autoClearExpiry (k : KeptAxis P) {s : State} (a : AxisId) (h : P s) : P (s.autoClearExpiry a) := by
  unfold State.autoClearExpiry
  split
  · rename_i m
    exact k.clearAxis _ m.1 h
  · exact h

theorem KeptAxis.driveTrouble (k : KeptAxis P) {s : State} (a : AxisId) (h : P s) : P (s.driveTrouble a) := by
  unfold State.driveTrouble
  split
  · rename_i m
    exact k.furtherCause _ _ (fun _ => m.2.2) h
  · exact k.checkDrive _ h

theorem KeptAxis.fltChanged (k : KeptAxis P) {s : State} (a : AxisId) (l : Bool) (h : P s) : P (s.fltChanged a l) := by
  unfold State.fltChanged
  split
  · exact h
  · exact k.autoTimer _ (k.driveTrouble _ (k.modAxis _ _ h))

theorem KeptAxis.limitChanged (k : KeptAxis P) {s : State} (a : AxisId) (d : LimitSide) (l : Bool)
    (c : Option LateCause) (h : P s) : P (s.limitChanged a d l c) := by
  unfold State.limitChanged
  split
  · exact h
  · dsimp only
    split
    · split
      · exact k.limitMet _ _ (k.modAxis _ _ h (Axis.follows_setLimit _ _ _))
      · exact k.lateLimit _ _ _ (k.modAxis _ _ h (Axis.follows_setLimit _ _ _))
    · split
      · exact k.modAxis _ _ (k.modAxis _ _ h (Axis.follows_setLimit _ _ _))
      · exact k.modAxis _ _ h (Axis.follows_setLimit _ _ _)

theorem KeptRun.suspendAll (k : KeptRun P) {s : State} (h : P s) : P s.suspendAll :=
  foldl_keeps (fun _ _ h => k.modRunner _ _ h (Runner.lawful_suspend _) (Runner.leadsTo_suspend _ _)) _ _ h

theorem KeptAxis.haltAxis (k : KeptAxis P) {s : State} (a : AxisId) (h : P s) : P (s.haltAxis a) := by
  have h1 := k.endStage a .ended true (k.endMember a .ended .memberEnded true h)
  unfold State.haltAxis
  dsimp only
  split
  · rename_i m; exact k.enterStopping _ _ _ (by rw [m]; rfl) h
  · rename_i m; exact k.enterStopping _ _ _ (by rw [m]; rfl) h
  · rename_i m; exact k.enterStopping _ _ _ (by rw [m]; rfl) h
  · rename_i m
    split
    · rename_i st e
      obtain ⟨_, _, c3, _, _, c6, _⟩ := Axis.core_parts ((State.endStage_core (s.endMember a .ended .memberEnded true) a .ended true a).trans
        (State.endMember_core s a .ended .memberEnded true a))
      refine k.modAxis _ _ h1 ?_
      have rest (l : (((s.endMember a .ended .memberEnded true).endStage a .ended true).axis a).lawful) (u : (((s.endMember a .ended
          .memberEnded true).endStage a .ended true).axis a).known = false) : st.rest = .unreferenced := by
        rcases l.2.1 u with n | ⟨_, n⟩
        · rw [c3, m] at n; simp at n
        · exact n st (c6.trans e)
      split
      · refine Axis.follows_atRest fun l r => ?_
        cases u : (((s.endMember a .ended .memberEnded true).endStage a .ended true).axis a).known
        · rw [rest l u] at r; cases r
        · rfl
      · exact Axis.follows_state rfl rfl rfl rfl (by rw [c3, m]; simp) fun l u =>
          .inr ⟨c3.trans m, fun z c => by cases c; exact rest l u⟩
    · exact h1
  · exact h1
  · exact h

theorem KeptRun.performHalt (k : KeptRun P) {s : State} (h : P s) : P s.performHalt := by
  unfold State.performHalt
  dsimp only
  exact k.abandonReturn _ (k.suspendAll (foldl_keeps (fun _ _ h => k.haltAxis _ h) _ _ (k.endMembers _ _ (k.haltClock _ h))))

theorem KeptRun.assertHalt (k : KeptRun P) {s : State} (h : P s) : P s.assertHalt := by
  unfold State.assertHalt
  split
  · exact h
  · exact k.performHalt (k.withPower _ h)

theorem KeptAxis.haltDeasserted (k : KeptAxis P) {s : State} (h : P s) : P s.haltDeasserted := by
  unfold State.haltDeasserted
  split
  · exact k.withPower _ h
  · exact h

/-! ## Drive power -/

theorem KeptAxis.unpowerAxis (k : KeptAxis P) {s : State} (a : AxisId) (h : P s) : P (s.unpowerAxis a) :=
  k.modAxis _ _ (k.leaveWork _ _ h) (Axis.follows_unpowered (s.leaveWork_axis a true).2.2.1 (s.leaveWork_axis a true).2.2.2)

theorem KeptRun.powerLoss (k : KeptRun P) {s : State} (h : P s) : P s.powerLoss :=
  k.notify _ _ _ _ (k.suspendAll (foldl_keeps (fun _ _ h => k.unpowerAxis _ h) _ _ (k.endMembers _ _ (k.haltClock _
    (k.withDrive _ (fun _ h => absurd rfl h) h)))))

theorem KeptRun.drivePowerInactive (k : KeptRun P) {s : State} (h : P s) : P s.drivePowerInactive := by
  unfold State.drivePowerInactive
  split
  · dsimp only
    split
    · exact k.powerLoss (k.withPower _ h)
    · rename_i n e
      exact k.withDrive _ (fun l c => absurd ((l c).symm.trans e) (by simp)) (k.withPower _ h)
    · exact k.withPower _ h
  · exact h

theorem KeptRun.drivePowerActive (k : KeptRun P) {s : State} (h : P s) : P s.drivePowerActive := by
  unfold State.drivePowerActive
  split
  · exact h
  · dsimp only
    split
    · rename_i e
      exact k.withDrive _ (fun l c => absurd ((l c).symm.trans e) (by simp)) (k.withPower _ h)
    · exact k.withPower _ h
    · exact k.withPower _ h

theorem KeptAxis.rehome (k : KeptAxis P) {s : State} (l : List AxisId) (h : P s) : P (s.rehome l) :=
  foldl_keeps (fun _ _ h => k.beginHoming _ _ h) _ _ h

theorem KeptAxis.dropResume (k : KeptAxis P) {s : State} (o : ReturnOutcome) (h : P s) : P (s.dropResume o) :=
  k.withPower _ (k.withClock _ ⟨rfl, rfl, rfl, rfl, rfl, rfl, rfl, rfl, rfl⟩ (k.clearMarks h))

theorem KeptAxis.formSequence (k : KeptAxis P) {s : State} (e : s.power.state = .present) (h : P s) : P s.formSequence := by
  unfold State.formSequence
  dsimp only
  split
  · exact k.abandonReturn _ (k.withPower _ h rfl fun _ _ => e)
  · split
    · exact k.resumeReturn _ (k.withPower _ h rfl fun _ _ => e)
    · exact k.rehome _ (k.withPower _ h rfl fun _ _ => e)

theorem KeptAxis.returnAxis (k : KeptAxis P) {s : State} (a : AxisId) (h : P s) : P (s.returnAxis a) :=
  k.autoTimer _ (k.driveTrouble _ h)

/-- What an axis brings about leaves the state of drive power as it is. -/
theorem keptAxis_driveState (d : DriveState) : KeptAxis fun s => s.power.state = d where
  axes _ _ _ h := h
  motions _ _ h := h
  notice _ _ _ _ _ h := h
  power _ _ e _ h := e.trans h
  evals _ _ h := h
  signals _ _ h := h
  serial _ _ h := h
  freeCount _ _ h := h
  sky _ _ _ h := h
  lease _ _ h := h

theorem KeptRun.powerReturn (k : KeptRun P) {s : State} (h : P s) : P s.powerReturn := by
  unfold State.powerReturn
  split
  · have h1 := k.notify .drivePowerReturned .sky none false (foldl_keeps (f := State.returnAxis)
      (fun _ _ h => k.returnAxis _ h) allAxes _ (k.withDrive { s.power with state := .present } (fun _ _ => rfl) h))
    have d := keptAxis_driveState .present
    have h2 := d.notify .drivePowerReturned .sky none false (foldl_keeps (P := fun s => s.power.state = .present)
      (f := State.returnAxis)
      (fun _ _ h => d.returnAxis _ h) allAxes (s.withPower { s.power with state := .present }) rfl)
    dsimp only
    generalize State.notify _ _ _ _ _ = u at h1 h2 ⊢
    split
    · exact k.dropResume _ (k.withPower _ h1)
    · exact k.rehome _ (k.dropResume _ (k.withPower _ h1))
    · exact k.formSequence h2 (k.withPower _ h1)
  · exact h
  · exact h

theorem KeptAxis.setReturnPolicy (k : KeptAxis P) {s : State} (p : Port) (n : Nat) (h : P s) : P (Machine.setReturnPolicy p n s).1 := by
  have h1 (x : ReturnPolicy) : P ((s.withPower { s.power with policy := x }).restartLease .sky) :=
    k.restartLease _ (k.withPower _ h)
  unfold Machine.setReturnPolicy
  dsimp only
  split
  · exact h
  · split
    · exact h1 _
    · exact h1 _
    · exact h1 _
    · exact h

end Sys2Proof.Machine
end

