-- ==== Sys2Proof/Laws/KeptStep.lean ====
section
/-! SUPPORT. `Kept` over the claims, links, programs, runners, ports and resets (06, 07, 08, 10, 11), and so over every
command and every step. -/

set_option Elab.async false

namespace Sys2Proof.Machine

variable {P : State → Prop}

/-! ## Claim entries (R113) -/

theorem ClaimEntry.lawful_grant {c : ClaimEntry} (p : Port) (n : Nat) (l : Option Lease) (h : c.lawful) :
    (c.grant p n l).lawful := by
  obtain ⟨h1, h2, _, h4, _⟩ := h
  refine ⟨Nat.le_trans (List.length_filter_le _ _) h1, h2.sublist (List.filter_sublist.map _), ?_,
    h4.sublist List.filter_sublist, by intro e; cases e⟩
  intro x hx w hw
  have e : x.port = p := by cases hx; rfl
  rw [e]
  simpa using (List.mem_filter.mp hw).2

theorem joinWaiting_mem {w x : Waiter} : ∀ {l : List Waiter}, x ∈ joinWaiting w l → x = w ∨ x ∈ l
  | [], h => by simp [joinWaiting] at h; exact .inl h
  | y :: ys, h => by
    unfold joinWaiting at h
    split at h
    · rcases List.mem_cons.mp h with h | h
      · exact .inl h
      · exact .inr h
    · rcases List.mem_cons.mp h with h | h
      · exact .inr (h ▸ List.mem_cons_self)
      · rcases joinWaiting_mem h with h | h
        · exact .inl h
        · exact .inr (List.mem_cons_of_mem _ h)

theorem joinWaiting_nodup {w : Waiter} : ∀ {l : List Waiter}, (l.map Waiter.port).Nodup → (∀ x ∈ l, x.port ≠ w.port) →
    ((joinWaiting w l).map Waiter.port).Nodup
  | [], _, _ => by simp [joinWaiting]
  | y :: ys, h, hw => by
    simp only [List.map_cons, List.nodup_cons] at h
    unfold joinWaiting
    split
    · simp only [List.map_cons, List.nodup_cons]
      refine ⟨fun hm => ?_, h.1, h.2⟩
      rcases List.mem_cons.mp hm with e | e
      · exact hw y List.mem_cons_self e.symm
      · obtain ⟨x, hx, e⟩ := List.mem_map.mp e
        exact hw x (List.mem_cons_of_mem _ hx) e
    · simp only [List.map_cons, List.nodup_cons]
      refine ⟨fun hm => ?_, joinWaiting_nodup h.2 fun x hx => hw x (List.mem_cons_of_mem _ hx)⟩
      obtain ⟨x, hx, e⟩ := List.mem_map.mp hm
      rcases joinWaiting_mem hx with e' | e'
      · subst e'; exact hw y List.mem_cons_self e.symm
      · exact h.1 (List.mem_map.mpr ⟨x, e', e⟩)

theorem joinWaiting_sorted {w : Waiter} : ∀ {l : List Waiter}, l.Pairwise (fun x y => y.standing ≤ x.standing) →
    (joinWaiting w l).Pairwise (fun x y => y.standing ≤ x.standing)
  | [], _ => by simp [joinWaiting]
  | y :: ys, h => by
    obtain ⟨h1, h2⟩ := List.pairwise_cons.mp h
    unfold joinWaiting
    split
    · refine List.pairwise_cons.mpr ⟨fun x hx => ?_, h⟩
      rcases List.mem_cons.mp hx with e | e
      · subst e; omega
      · have := h1 x e; omega
    · refine List.pairwise_cons.mpr ⟨fun x hx => ?_, joinWaiting_sorted h2⟩
      rcases joinWaiting_mem hx with e | e
      · subst e; omega
      · exact h1 x e

/-- Two ports at most are other than a given one. -/
theorem ports_but_one {q : Port} {l : List Port} (h : l.Nodup) (hq : ∀ x ∈ l, x ≠ q) : l.length ≤ 2 := by
  have sub : l ⊆ allPorts.filter fun x => x ≠ q := by
    intro x hx
    have := hq x hx
    refine List.mem_filter.mpr ⟨by cases x <;> decide, by simpa using this⟩
  have := (List.subperm_of_subset h sub).length_le
  have e : (allPorts.filter fun x => x ≠ q).length = 2 := by cases q <;> decide
  omega

theorem ClaimEntry.lawful_queue {c : ClaimEntry} {x : Holder} (p : Port) (n : Nat) (hx : c.holder = some x) (hp : x.port ≠ p)
    (h : c.lawful) : (c.queue p n).lawful := by
  unfold ClaimEntry.queue
  split
  · exact h
  · rename_i hn
    obtain ⟨_, h2, h3, h4, _⟩ := h
    have hw : ∀ y ∈ c.waiting, y.port ≠ p := by
      intro y hy e
      exact hn (List.any_eq_true.mpr ⟨y, hy, by simpa using e⟩)
    have hnot : ∀ y ∈ joinWaiting { port := p, standing := n } c.waiting, y.port ≠ x.port := by
      intro y hy
      rcases joinWaiting_mem hy with e | e
      · subst e; exact fun e => hp e.symm
      · exact h3 x hx y e
    have hnd := joinWaiting_nodup (w := { port := p, standing := n }) h2 hw
    refine ⟨?_, hnd, ?_, joinWaiting_sorted h4, ?_⟩
    · have := ports_but_one hnd (q := x.port) (by
        intro q hq
        obtain ⟨y, hy, e⟩ := List.mem_map.mp hq
        exact e ▸ hnot y hy)
      simpa using this
    · intro z hz
      have : z = x := by rw [hx] at hz; cases hz; rfl
      subst this; exact hnot
    · intro e; rw [hx] at e; cases e

theorem ClaimEntry.lawful_next {c : ClaimEntry} {w : Waiter} {ws : List Waiter} (e : c.waiting = w :: ws) (n : Option Lease)
    (h : c.lawful) :
    ({ holder := some { port := w.port, standing := w.standing, lease := n }, waiting := ws } : ClaimEntry).lawful := by
  obtain ⟨h1, h2, _, h4, _⟩ := h
  rw [e] at h1 h2 h4
  simp only [List.map_cons, List.nodup_cons] at h2
  refine ⟨by simp at h1; dsimp only; omega, h2.2, ?_, (List.pairwise_cons.mp h4).2, by intro e; cases e⟩
  intro x hx y hy e
  have : x.port = w.port := by cases hx; rfl
  exact h2.1 (List.mem_map.mpr ⟨y, hy, e.trans this⟩)

theorem ClaimEntry.lawful_free : ({ holder := none, waiting := [] } : ClaimEntry).lawful :=
  ⟨by simp, by simp, (fun _ h => by cases h), by simp, fun _ => rfl⟩

theorem ClaimEntry.lawful_withdraw {c : ClaimEntry} (p : Port) (h : c.lawful) :
    ({ c with waiting := c.waiting.filter fun w => w.port ≠ p } : ClaimEntry).lawful := by
  obtain ⟨h1, h2, h3, h4, h5⟩ := h
  refine ⟨Nat.le_trans (List.length_filter_le _ _) h1, h2.sublist (List.filter_sublist.map _), ?_,
    h4.sublist List.filter_sublist, ?_⟩
  · intro x hx w hw
    exact h3 x hx w (List.mem_filter.mp hw).1
  · intro e
    show c.waiting.filter _ = []
    rw [h5 e]; rfl

/-! ## Claim requests -/

theorem KeptRun.tellLoss (k : KeptRun P) {s : State} (p : Port) (r : Resource) (h : P s) : P (s.tellLoss p r) := by
  unfold State.tellLoss
  split
  · exact k.modRunner _ _ h (Runner.lawful_suspend _) (Runner.leadsTo_suspend _ _)
  · exact h

/-- The holder told of its loss needs the resource no more (R126). -/
theorem State.tellLoss_needs (s : State) (p : Port) (r : Resource) : (s.tellLoss p r).runnerNeeds p r = false := by
  unfold State.tellLoss
  split
  · rename_i h
    unfold State.runnerNeeds at *
    have w : (s.runner p).state.waiting = true := by
      rw [Bool.and_eq_true] at h; exact h.1
    have e : (((s.modRunner p (·.suspend .claim)).runner p).state.waiting) = false := by
      unfold State.modRunner
      rw [State.setRunner_runner, if_pos rfl]
      show (Runner.suspend _ _).state.waiting = false
      unfold Runner.suspend
      rw [if_pos w]
      rfl
    rw [e]; rfl
  · rename_i h
    cases e : s.runnerNeeds p r
    · rfl
    · exact absurd e h

/-- No port but `p` holds the resource and needs it. -/
def State.free (s : State) (p : Port) (r : Resource) : Prop := ∀ q, s.holderOf r = some q → s.runnerNeeds q r = true → q = p

theorem State.free_of_holder {s : State} {r : Resource} {x : Holder} (p : Port) (e : (s.claim r).holder = some x)
    (n : x.port = p ∨ s.runnerNeeds x.port r = false) : s.free p r := by
  intro q hq hn
  unfold State.holderOf at hq
  rw [e] at hq
  have : x.port = q := by simpa using hq
  rcases n with n | n
  · exact this.symm.trans n
  · rw [this, hn] at n; cases n

theorem State.tellLoss_claim (s : State) (p : Port) (r x : Resource) : (s.tellLoss p r).claim x = s.claim x := by
  unfold State.tellLoss; split <;> rfl

theorem KeptRun.claimGranted (k : KeptRun P) {s : State} (p : Port) (r : Resource) (n : Nat) (o : Option Port) (w : s.free p r)
    (h : P s) : P (s.claimGranted p r n o).1 :=
  k.setClaim _ _ (ClaimEntry.lawful_grant _ _ _) (fun q hq hn => by rw [w q hq hn]; rfl) h

theorem KeptRun.claim' (k : KeptRun P) {s : State} (p : Port) (n w e l : Nat) (h : P s) : P (Machine.claim p n w e l s).1 := by
  unfold Machine.claim
  split
  · exact h
  · split
    · exact h
    · unfold State.claimOutcome
      split
      · rename_i hx
        exact k.claimGranted _ _ _ _ (fun q hq _ => by unfold State.holderOf at hq; rw [hx] at hq; cases hq) h
      · rename_i x hx
        split
        · rename_i hp
          exact k.claimGranted _ _ _ _ (State.free_of_holder p hx (.inl hp)) h
        · rename_i hp
          split
          · refine k.claimGranted _ _ _ _ ?_ (k.noticeTo _ _ _ (k.tellLoss _ _ h))
            exact State.free_of_holder p ((congrArg ClaimEntry.holder (State.tellLoss_claim s x.port _ _)).trans hx)
              (.inr (State.tellLoss_needs s x.port _))
          · split
            · refine k.setClaim _ _ (ClaimEntry.lawful_queue _ _ hx hp) (fun q hq _ => ?_) h
              rw [← hq]
              unfold ClaimEntry.queue State.holderOf
              split <;> rfl
            · exact h

theorem KeptRun.renew (k : KeptRun P) {s : State} (p : Port) (n : Nat) (h : P s) : P (Machine.renew p n s).1 := by
  unfold Machine.renew
  split
  · exact h
  · split
    · exact h
    · exact k.restartLease _ h

theorem KeptRun.passOn (k : KeptRun P) {s : State} (r : Resource) (n : ∀ q, s.holderOf r = some q → s.runnerNeeds q r = false)
    (h : P s) : P (s.passOn r) := by
  have no {c : ClaimEntry} : ∀ q, s.holderOf r = some q → s.runnerNeeds q r = true → c.holder.map Holder.port = some q :=
    fun q hq hn => by rw [n q hq] at hn; cases hn
  unfold State.passOn
  split
  · exact k.setClaim _ _ (fun _ => ClaimEntry.lawful_free) no h
  · rename_i w ws e
    exact k.noticeTo _ _ _ (k.setClaim _ _ (ClaimEntry.lawful_next e none) no h)

theorem KeptRun.release (k : KeptRun P) {s : State} (p : Port) (n : Nat) (h : P s) : P (Machine.release p n s).1 := by
  unfold Machine.release
  split
  · exact h
  · split
    · exact h
    · rename_i hp
      split
      · exact h
      · rename_i hn
        refine k.passOn _ (fun q hq => ?_) h
        have e := (by simpa [State.holds] using hp)
        rw [hq] at e
        cases e
        simpa using hn

theorem KeptRun.withdraw (k : KeptRun P) {s : State} (p : Port) (n : Nat) (h : P s) : P (Machine.withdraw p n s).1 := by
  unfold Machine.withdraw
  split
  · exact h
  · exact k.setClaim _ _ (ClaimEntry.lawful_withdraw _) (fun _ hq _ => hq) h

theorem KeptRun.leaseExpiry (k : KeptRun P) {s : State} (r : Resource) (h : P s) : P (s.leaseExpiry r) := by
  unfold State.leaseExpiry
  split
  · rename_i x hx
    split
    · refine k.passOn _ (fun q hq => ?_) (k.noticeTo _ _ _ (k.tellLoss _ _ h))
      have e : (s.claim r).holder.map Holder.port = some q := by rw [← State.tellLoss_claim s x.port r]; exact hq
      rw [hx] at e
      cases e
      exact State.tellLoss_needs s x.port r
    · exact h
  · exact h

/-! ## Links and lines -/

theorem KeptRun.pulseExpiry (k : KeptRun P) {s : State} (o : OutputId) (h : P s) : P (s.pulseExpiry o) := by
  unfold State.pulseExpiry
  split
  · exact k.setOutput _ _ h
  · exact h
  · exact h

theorem KeptRun.capture (k : KeptRun P) {s : State} (l : LinkId) (e : Source) (x : SkySnap) (h : P s) : P (s.capture l e x) := by
  unfold State.capture
  dsimp only
  split
  · rename_i hl
    refine k.captures _ _ (fun _ => ?_) h
    simp only [Config.captureMax] at hl
    simp only [CaptureQueue.lawful, List.length_append, List.length_cons, List.length_nil]
    omega
  · exact k.notify _ _ _ _ (k.captures s _ id h)

theorem KeptRun.arrival (k : KeptRun P) {s : State} (l : LinkId) (d : Dest) (e : Source) (x : Option SkySnap) (h : P s) :
    P (s.arrival l d e x) := by
  unfold State.arrival
  split
  · exact k.raise _ h
  · exact k.raise _ h
  · exact k.setOutput _ _ h
  · exact k.setOutput _ _ h
  · exact k.setOutput _ _ h
  · exact k.capture _ _ _ h
  · exact k.haltClock _ h

theorem KeptRun.deliverOver (k : KeptRun P) {s : State} (e : Source) (x : Option SkySnap) (l : LinkId) (h : P s) :
    P (s.deliverOver e x l) := by
  unfold State.deliverOver
  dsimp only
  split
  · exact k.arrival _ _ _ _ (k.setLink _ _ h)
  · exact h

theorem KeptRun.deliverEvent (k : KeptRun P) {s : State} (e : Source) (x : Option SkySnap) (h : P s) : P (s.deliverEvent e x) := by
  unfold State.deliverEvent
  exact foldl_keeps (fun _ _ h => k.deliverOver _ _ _ h) _ _ (k.freeOrder _ _ h)

theorem KeptRun.setLink' (k : KeptRun P) {s : State} (p : Port) (n m : Nat) (x : RawSource) (y : RawDest) (h : P s) :
    P (Machine.setLink p n m x y s).1 := by
  unfold Machine.setLink
  split
  · exact h
  · split
    · exact h
    · split
      · exact h
      · split
        · exact h
        · exact h
        · exact k.restartLease _ (k.setLink _ _ h)

theorem KeptRun.setLinkEnable (k : KeptRun P) {s : State} (p : Port) (n m : Nat) (h : P s) : P (Machine.setLinkEnable p n m s).1 := by
  unfold Machine.setLinkEnable
  split
  · exact h
  · split
    · exact h
    · dsimp only
      split
      · exact h
      · split
        · exact h
        · exact k.restartLease _ (k.setLink _ _ h)

theorem KeptRun.readLink (k : KeptRun P) {s : State} (n : Nat) (h : P s) : P (Machine.readLink n s).1 := by
  unfold Machine.readLink
  split
  · exact h
  · exact k.setLink _ _ h

theorem Kept.setTriggerFilter (k : Kept P) {s : State} (p : Port) (n m : Nat) (h : P s) :
    P (Machine.setTriggerFilter p n m s).1 := by
  unfold Machine.setTriggerFilter
  split
  · exact h
  · split
    · exact h
    · split
      · exact k.restartLease _ (k.trigs _ _ h)
      · exact h

theorem KeptRun.readCapture (k : KeptRun P) {s : State} (h : P s) : P (Machine.readCapture s).1 := by
  unfold Machine.readCapture
  refine k.captures s _ (fun e => ?_) h
  simp only [CaptureQueue.lawful, List.length_tail] at *
  omega

theorem Kept.acceptTrig (k : Kept P) {s : State} (t : TrigId) (l : Bool) (x : SkySnap) (h : P s) : P (s.acceptTrig t l x) :=
  k.raise _ (k.trigs _ _ h)

theorem Kept.trigChanged (k : Kept P) {s : State} (t : TrigId) (l : Bool) (h : P s) : P (s.trigChanged t l) := by
  unfold State.trigChanged
  split
  · exact h
  · exact k.acceptTrig _ _ _ h

theorem Kept.trigSample (k : Kept P) {s : State} (t : TrigId) (l : Bool) (h : P s) : P (s.trigSample t l) := by
  unfold State.trigSample
  dsimp only
  split
  · exact k.trigs _ _ h
  · split
    · exact k.acceptTrig _ _ _ h
    · exact k.trigs _ _ h

/-! ## Programs -/

theorem KeptRun.openProgram (k : KeptRun P) {s : State} (p : Port) (n : Nat) (b : BitVec 16) (h : P s) :
    P (Machine.openProgram p n b s).1 := by
  unfold Machine.openProgram
  split
  · exact h
  · dsimp only
    split
    · exact h
    · split
      · exact h
      · split
        · exact h
        · rename_i _ _ hu
          exact k.setProgram _ _ (Nat.zero_le _) (State.replaceable_idle (by simpa using hu)) h

theorem Kept.appendCues (k : Kept P) {s : State} (p : Port) (n : Nat) (l : List RawCue) (h : P s) :
    P (Machine.appendCues p n l s).1 := by
  unfold Machine.appendCues
  split
  · exact h
  · dsimp only
    split
    · exact h
    · split
      · exact h
      · split
        · exact h
        · split
          · exact h
          · rename_i i _ _ _ _ cues _ hroom
            simp only [Config.programMax, not_or, Nat.not_lt] at hroom
            refine k.moreCues s i _ ?_ ?_ (State.runnersLawful_setProgram fun _ u _ _ => ⟨u, rfl⟩) h
            · simp only [List.length_append]; exact hroom.1
            · simp only [List.length_append]; omega

theorem KeptRun.eraseProgram (k : KeptRun P) {s : State} (p : Port) (n : Nat) (h : P s) : P (Machine.eraseProgram p n s).1 := by
  unfold Machine.eraseProgram
  split
  · exact h
  · dsimp only
    split
    · exact h
    · split
      · exact h
      · rename_i hu
        exact k.setProgram _ _ (Nat.zero_le _) (State.replaceable_idle (by simpa using hu)) h

theorem KeptRun.closeProgram (k : KeptRun P) {s : State} (p : Port) (n : Nat) (h : P s) : P (Machine.closeProgram p n s).1 := by
  unfold Machine.closeProgram
  split
  · exact h
  · dsimp only
    split
    · exact h
    · split
      · exact h
      · exact k.setProgram _ _ (Nat.le_refl _) (fun _ u _ _ => ⟨u, rfl⟩) h

/-! ## Runners -/

theorem KeptRun.freeProgram (k : KeptRun P) {s : State} (r : Port) (o : (s.runner r).state.inProgram = false) (h : P s) :
    P (s.freeProgram r) := by
  unfold State.freeProgram
  split
  · split
    · rename_i u
      refine k.setProgram _ _ (Nat.le_refl _) (fun q v e _ => ?_) h
      rw [u] at v
      cases v
      rw [o] at e
      cases e
    · exact h
  · exact h

/-- The runner leaves its program, which is freed (R137). -/
theorem KeptRun.leaveProgram (k : KeptRun P) {s : State} (r : Port) (f : Runner → Runner) (p : (f (s.runner r)).program = (s.runner r).program)
    (o : (f (s.runner r)).state.inProgram = false) (e : (s.runner r).lawful → (f (s.runner r)).lawful) (h : P s) :
    P ((s.modRunner r f).freeProgram r) :=
  k.freeProgram _ (by unfold State.modRunner; rw [State.setRunner_runner, if_pos rfl]; exact o)
    (k.modRunner _ _ h e (Runner.leadsTo_out p o))

theorem KeptRun.endProgram (k : KeptRun P) {s : State} (r : Port) (h : P s) : P (s.endProgram r) :=
  k.noticeTo _ _ _ (k.leaveProgram _ _ rfl rfl (fun _ => Nat.zero_le 2) h)

theorem KeptRun.faultRunner (k : KeptRun P) {s : State} (r : Port) (c : RunnerCause) (i : Nat) (h : P s) : P (s.faultRunner r c i) :=
  k.noticeTo _ _ _ (k.leaveProgram _ _ rfl rfl id h)

theorem KeptWork.perform (k : KeptWork P) {s : State} (r : Port) (c : Cue) (h : P s) : P (s.perform r c).state := by
  unfold State.perform
  split
  · exact k.setRate _ _ _ h
  · exact k.setEpoch _ _ _ h
  · exact k.run _ h
  · exact k.halt _ h
  · unfold performedBy
    split
    · exact k.unbind _ _ h
    · exact k.bind _ _ _ h
  · exact k.trackGroup _ _ h
  · exact k.stopGroup _ _ h
  · exact k.slew _ _ _ _ h
  · exact k.coordinatedSlew _ _ _ h
  · exact k.stageGroup _ _ _ h
  · unfold State.performOutput
    dsimp only
    split
    · exact k.setOutput _ _ h
    · exact h
  · exact k.noticeTo _ _ _ (k.event _ h)
  · exact h
  · exact h
  · exact h

theorem KeptWork.performChained (k : KeptWork P) (r : Port) : ∀ (l : List Cue) (i : Nat) (s : State) (acc : List Completion),
    P s → P (State.performChained r i l s acc).state
  | [], _, _, _, h => h
  | c :: cs, i, s, acc, h => by
    unfold State.performChained
    split
    · dsimp only
      split
      · exact KeptWork.performChained k r cs _ _ _ (k.perform r c h)
      · exact k.perform r c h
    · exact h

theorem KeptWork.performChain (k : KeptWork P) {s : State} (r : Port) (i : Nat) (c : Cue) (l : List Cue) (h : P s) :
    P (s.performChain r i c l).state := by
  unfold State.performChain
  dsimp only
  split
  · exact k.performChained r _ _ _ _ (k.perform r c h)
  · exact k.perform r c h

/-- No cue action reaches a runner. -/
theorem keptRunners (v : PerPort Runner) : KeptWork (fun s => s.runners = v) where
  axes _ _ _ h := h
  motions _ _ h := h
  notice _ _ _ _ _ h := h
  power _ _ _ _ h := h
  evals _ _ h := h
  signals _ _ h := h
  serial _ _ h := h
  freeCount _ _ h := h
  sky _ _ _ h := h
  lease _ _ h := h
  drive _ _ _ h := h
  links _ _ h := h
  outputs _ _ h := h
  clock _ _ _ h := h
  captures _ _ _ h := h

theorem State.performChain_runner (s : State) (r q : Port) (i : Nat) (c : Cue) (l : List Cue) :
    (s.performChain r i c l).state.runner q = s.runner q :=
  congrArg (fun v : PerPort Runner => v.get q) ((keptRunners s.runners).performChain r i c l rfl)

/-- The runner waits. -/
def State.waits (s : State) (r : Port) : Prop := (s.runner r).state.waiting = true

theorem State.modRunner_waits {s : State} {r : Port} {f : Runner → Runner} (h : (f (s.runner r)).state.waiting = true) :
    (s.modRunner r f).waits r := by
  unfold State.waits State.modRunner
  rw [State.setRunner_runner, if_pos rfl]
  exact h

theorem KeptRun.afterPerformed (k : KeptRun P) (r : Port) (i n : Nat) (x : ChainEnd) (w : x.state.waits r) (h : P x.state) :
    P (State.afterPerformed r i n x).1 := by
  unfold State.afterPerformed
  split
  · exact k.faultRunner _ _ _ h
  · split
    · exact k.faultRunner _ _ _ h
    · dsimp only
      split
      · exact h
      · dsimp only; exact k.modRunner _ _ h id ⟨rfl, fun _ => RunnerState.inProgram_of_waiting w, fun _ => w⟩

theorem Runner.closeLoop_leadsTo {x : Runner} (i : Nat) (w : x.state.waiting = true) : x.leadsTo (x.closeLoop i).1 := by
  unfold Runner.closeLoop
  split
  · exact ⟨rfl, id, id⟩
  · split
    · exact ⟨rfl, id, id⟩
    · exact ⟨rfl, fun _ => RunnerState.inProgram_of_waiting w, fun _ => w⟩

theorem Runner.closeLoop_waiting {x : Runner} (i : Nat) (w : x.state.waiting = true) : (x.closeLoop i).1.state.waiting = true := by
  unfold Runner.closeLoop
  split
  · exact w
  · split
    · exact w
    · rfl

theorem KeptRun.performCue (k : KeptRun P) {s : State} (r : Port) (i : Nat) (c : Cue) (l : List Cue) (w : s.waits r) (h : P s) :
    P (s.performCue r i c l).1 := by
  unfold State.performCue
  split
  · dsimp only; exact k.modRunner _ _ h fun _ => Runner.lawful_openLoop _ _ _
  · exact k.setRunner _ _ h (Runner.lawful_closeLoop _) (Runner.closeLoop_leadsTo _ w)
  · exact k.endProgram _ h
  · exact k.afterPerformed _ _ _ _ (by unfold State.waits; rw [State.performChain_runner]; exact w) (k.performChain _ _ _ _ h)

/-- A runner that goes on to a next cue still waits. -/
theorem State.performCue_waits {s t : State} {r : Port} {i j : Nat} {c : Cue} {l : List Cue} (w : s.waits r)
    (e : s.performCue r i c l = (t, some j)) : t.waits r := by
  unfold State.performCue at e
  split at e
  · cases e; exact State.modRunner_waits w
  · injection e with e _
    subst e
    unfold State.waits
    rw [State.setRunner_runner, if_pos rfl]
    exact Runner.closeLoop_waiting _ w
  · cases e
  · unfold State.afterPerformed at e
    split at e
    · cases e
    · split at e
      · cases e
      · dsimp only at e
        split at e
        · cases e
          unfold State.waits
          rw [State.performChain_runner]
          exact w
        · cases e

theorem KeptRun.testEntry (k : KeptRun P) {s : State} (r : Port) (c : Cue) (h : P s) : P (s.testEntry r c).1 := by
  unfold State.testEntry
  split
  · exact h
  · exact h
  · exact h
  · dsimp only; exact k.modRunner _ _ h
  · dsimp only; exact k.modRunner _ _ h
  · exact h

theorem State.testEntry_waits {s : State} {r : Port} (c : Cue) (w : s.waits r) : (s.testEntry r c).1.waits r := by
  unfold State.testEntry
  split
  · exact w
  · exact w
  · exact w
  · exact State.modRunner_waits w
  · exact State.modRunner_waits w
  · exact w

/-- A runner that may wait enters a trigger. -/
theorem KeptRun.enterCue (k : KeptRun P) (r : Port) : ∀ (n i : Nat) (s : State), (s.runnersLawful → s.entitled r) → P s →
    P (State.enterCue r n i s)
  | 0, _, _, _, h => h
  | n + 1, i, s, w, h => by
    have h0 : P ((s.modRunner r (·.atTrigger i)).forgetEpochs r) :=
      k.signals _ _ (k.putRunner _ _ h id (State.runnersLawful_enter rfl w))
    have w0 : ((s.modRunner r (·.atTrigger i)).forgetEpochs r).waits r :=
      State.modRunner_waits (s := s) (f := (·.atTrigger i)) rfl
    unfold State.enterCue
    dsimp only
    split
    · exact k.endProgram _ h0
    · rename_i c rest _
      have h1 := k.testEntry r c h0
      have w1 := State.testEntry_waits c w0
      split
      · have h2 := k.performCue r i c rest w1 h1
        split
        · rename_i t j e
          rw [e] at h2
          exact KeptRun.enterCue k r n j t (fun l => State.entitled_of_waiting l (State.performCue_waits w1 e)) h2
        · rename_i t e
          rw [e] at h2
          exact h2
      · exact h1

theorem KeptRun.enter (k : KeptRun P) {s : State} (r : Port) (i : Nat) (w : s.runnersLawful → s.entitled r) (h : P s) :
    P (s.enter r i) := k.enterCue _ _ _ _ w h

theorem KeptRun.satisfy (k : KeptRun P) {s : State} (r : Port) (w : s.waits r) (h : P s) : P (s.satisfy r) := by
  have h0 := k.modRunner r (fun x => { x with delay := none }) h
  have w0 : (s.modRunner r (fun x => { x with delay := none })).waits r := State.modRunner_waits w
  unfold State.satisfy
  dsimp only
  split
  · exact k.endProgram _ h0
  · rename_i c rest _
    have h2 := k.performCue r (s.runner r).cue c rest w0 h0
    split
    · rename_i t j e
      rw [e] at h2
      exact k.enter _ _ (fun l => State.entitled_of_waiting l (State.performCue_waits w0 e)) h2
    · rename_i t e
      rw [e] at h2
      exact h2

theorem State.waits_of_waitingOn {s : State} {r : Port} {c : Cue} (e : s.waitingOn r = some c) : s.waits r := by
  unfold State.waitingOn at e
  dsimp only at e
  split at e
  · rename_i h
    unfold State.waits
    rw [h.1]
    rfl
  · cases e

theorem State.waits_of_waitsFor {s : State} {r : Port} {x : TriggerKind} (e : s.waitsFor r x = true) : s.waits r := by
  unfold State.waitsFor at e
  split at e
  · rename_i c h
    exact State.waits_of_waitingOn h
  · cases e

theorem KeptRun.delayExpiry (k : KeptRun P) {s : State} (r : Port) (h : P s) : P (s.delayExpiry r) := by
  unfold State.delayExpiry
  split
  · rename_i e
    rw [Bool.and_eq_true] at e
    exact k.satisfy _ (State.waits_of_waitsFor e.1) h
  · exact h

theorem KeptRun.loopPauseEnd (k : KeptRun P) {s : State} (r : Port) (h : P s) : P (s.loopPauseEnd r) := by
  unfold State.loopPauseEnd
  split
  · rename_i e
    exact k.enter _ _ (fun l => State.entitled_of_waiting l (by rw [e.1]; rfl)) h
  · exact h

theorem KeptRun.linkArrival (k : KeptRun P) {s : State} (r : Port) (l : LinkId) (h : P s) : P (s.linkArrival r l) := by
  unfold State.linkArrival
  split
  · rename_i e
    exact k.satisfy _ (State.modRunner_waits (State.waits_of_waitsFor e)) (k.modRunner _ _ h)
  · split
    · exact k.noticeTo _ _ _ (k.modRunner _ _ h)
    · exact k.modRunner _ _ h

theorem KeptRun.epochAt (k : KeptRun P) {s : State} (e : Int) (r : Port) (h : P s) : P (s.epochAt e r) := by
  unfold State.epochAt
  split
  · rename_i e
    split
    · exact k.satisfy _ (State.waits_of_waitingOn e) h
    · exact h
  · exact h

theorem KeptRun.epochHeard (k : KeptRun P) {s : State} (e : Int) (l : List Port) (h : P s) : P (s.epochHeard e l) := by
  unfold State.epochHeard
  exact foldl_keeps (fun _ _ h => k.epochAt _ _ h) _ _ (k.freeOrder _ _ h)

theorem KeptRun.doneAt (k : KeptRun P) {s : State} (w : Awaited) (r : Port) (h : P s) : P (s.doneAt w r) := by
  unfold State.doneAt
  dsimp only
  split
  · rename_i e
    split
    · refine k.enter _ _ (fun l => State.entitled_of_waiting l ?_) h
      unfold Runner.awaits at e
      rw [Bool.and_eq_true] at e
      rw [show (s.runner r).state = .waitingCompletion by simpa using e.1]
      rfl
    · exact k.setRunner _ _ h
  · exact h

theorem KeptRun.failedAt (k : KeptRun P) {s : State} (w : Awaited) (r : Port) (h : P s) : P (s.failedAt w r) := by
  unfold State.failedAt
  dsimp only
  split
  · split
    · exact k.faultRunner _ _ _ h
    · exact h
  · exact h

theorem KeptRun.eachAwaiting (k : KeptRun P) {s : State} (w : Awaited) {f : State → Port → State} (hf : ∀ t r, P t → P (f t r))
    (h : P s) : P (s.eachAwaiting w f) := by
  unfold State.eachAwaiting
  exact foldl_keeps hf _ _ (k.freeOrder _ _ h)

theorem KeptRun.restartLeases (k : KeptRun P) {s : State} (b : BitVec 16) (h : P s) : P (s.restartLeases b) :=
  foldl_keeps (fun _ _ h => k.restartLease _ h) _ _ h

theorem State.restartLeases_same (b : BitVec 16) (s : State) :
    (s.restartLeases b).programs = s.programs ∧ (s.restartLeases b).runners = s.runners ∧
      ∀ x, (s.restartLeases b).holderOf x = s.holderOf x :=
  foldl_keeps (P := fun t : State => t.programs = s.programs ∧ t.runners = s.runners ∧ ∀ x, t.holderOf x = s.holderOf x)
    (f := fun t r => t.restartLease r)
    (fun t r h => ⟨h.1, h.2.1, fun x => (State.restartLease_holderOf t r x).trans (h.2.2 x)⟩) _ s ⟨rfl, rfl, fun _ => rfl⟩

theorem mem_allResources (x : Resource) : x ∈ allResources := by
  have all : ∀ g : GroupId, Resource.group g ∈ allResources := by decide
  cases x with
  | sky => decide
  | group g => exact all g

/-- The port holds every resource of a set where none is missing. -/
theorem State.holds_of_missing {s : State} {p : Port} {b : BitVec 16} (m : s.missing p b = none) (x : Resource)
    (e : b.getLsbD (resourceIdx x).val = true) : s.holderOf x = some p := by
  unfold State.missing at m
  rw [List.find?_eq_none] at m
  have mem : x ∈ requirementList b := List.mem_filter.mpr ⟨mem_allResources x, e⟩
  have := m x mem
  simpa [State.holds] using this

theorem KeptRun.startRunner (k : KeptRun P) {s : State} (p : Port) (i : ProgramId) (u : (s.program i).inUse = none)
    (h : P s) : P (s.startRunner p i) :=
  k.putRunner _ _ (k.restartLeases _ (k.setProgram i { s.program i with inUse := some p } (Nat.le_refl _) (State.replaceable_idle u) h))
    (fun _ => Nat.zero_le 2) (State.runnersLawful_out rfl)

theorem State.startRunner_entitled {s : State} {p : Port} {i : ProgramId} (m : s.missing p (s.program i).requirement = none) :
    (s.startRunner p i).entitled p := by
  have e := State.restartLeases_same (s.program i).requirement (s.setProgram i { s.program i with inUse := some p })
  have q : (s.startRunner p i).program i = { s.program i with inUse := some p } := by
    show (State.restartLeases _ _).programs[i] = _
    rw [e.1]
    simp [State.setProgram]
  refine ⟨i, by unfold State.startRunner; rw [State.setRunner_runner, if_pos rfl], by rw [q], fun x b => ?_⟩
  rw [q] at b
  show (State.restartLeases _ _).holderOf x = _
  rw [e.2.2]
  exact State.holds_of_missing m x b

theorem KeptRun.runProgram (k : KeptRun P) {s : State} (p : Port) (n : Nat) (h : P s) : P (Machine.runProgram p n s).1 := by
  unfold Machine.runProgram
  split
  · exact h
  · split
    · exact h
    · split
      · exact h
      · split
        · exact h
        · rename_i u
          split
          · exact h
          · rename_i m
            split
            · exact h
            · exact k.enter _ _ (fun _ => State.startRunner_entitled m) (k.startRunner _ _ (by simpa using u) h)

theorem KeptRun.stopRunner (k : KeptRun P) {s : State} (p : Port) (h : P s) : P (Machine.stopRunner p s).1 := by
  unfold Machine.stopRunner
  split
  · exact h
  · dsimp only [answerOk]; exact k.leaveProgram _ _ rfl rfl (fun _ => Nat.zero_le 2) h

theorem KeptRun.resume (k : KeptRun P) {s : State} (p : Port) (h : P s) : P (Machine.resume p s).1 := by
  unfold Machine.resume
  split
  · rename_i c e
    split
    · exact h
    · rename_i m
      split
      · exact h
      · have q := State.restartLeases_same (s.requirement p) s
        refine k.enter _ _ (fun l => ?_) (k.restartLeases _ h)
        have en : ((s.restartLeases (s.requirement p)).runner p) = s.runner p := congrArg (fun v : PerPort Runner => v.get p) q.2.1
        obtain ⟨i, h1, h2⟩ := (l p).1 (by rw [en, e]; rfl)
        refine ⟨i, h1, h2, fun x b => ?_⟩
        rw [q.2.2]
        refine State.holds_of_missing m x ?_
        rw [State.requirement_of_program (by rw [← en]; exact h1)]
        have : (s.restartLeases (s.requirement p)).program i = s.program i := congrArg (fun v => v[i]) q.1
        rw [← this]
        exact b
  · exact h

theorem KeptRun.leaveLoop (k : KeptRun P) {s : State} (p : Port) (h : P s) : P (Machine.leaveLoop p s).1 := by
  unfold Machine.leaveLoop
  dsimp only
  split
  · exact k.setRunner _ _ h Runner.lawful_markLeave (by unfold Runner.markLeave; split <;> exact ⟨rfl, id, id⟩)
  · exact h

theorem KeptRun.startArrival (k : KeptRun P) {s : State} (r : Port) (l : LinkId) (i : ProgramId) (h : P s) :
    P (s.startArrival r l i) := by
  unfold State.startArrival
  dsimp only
  split
  · exact k.setLink _ _ (k.runProgram _ _ h)
  · exact k.noticeTo _ _ _ (k.setLink _ _ h)

/-! ## Signals -/

theorem KeptRun.takeSignal (k : KeptRun P) {s : State} (x : Signal) (h : P s) : P (s.takeSignal x) := by
  unfold State.takeSignal
  split
  · exact k.deliverEvent _ _ h
  · exact k.linkArrival _ _ h
  · exact k.startArrival _ _ _ h
  · exact k.epochHeard _ _ h
  · exact k.eachAwaiting _ (fun _ _ h => k.doneAt _ _ h) h
  · exact k.eachAwaiting _ (fun _ _ h => k.failedAt _ _ h) h

theorem mem_insertByRank {α : Type} {key : α → Nat} {x y : α} : ∀ {l : List α}, y ∈ insertByRank key x l → y = x ∨ y ∈ l
  | [], h => .inl (by simpa [insertByRank] using h)
  | z :: zs, h => by
    unfold insertByRank at h
    split at h
    · exact List.mem_cons.mp h
    · rcases List.mem_cons.mp h with h | h
      · exact .inr (h ▸ List.mem_cons_self)
      · rcases mem_insertByRank h with h | h
        · exact .inl h
        · exact .inr (List.mem_cons_of_mem _ h)

/-- A free order lists the items it was given. -/
theorem State.mem_of_freeOrder {s : State} {α : Type} {key : α → Nat} {l : List α} {x : α} (h : x ∈ (s.freeOrder key l).2) : x ∈ l := by
  have sorted : ∀ l : List α, x ∈ l.foldr (insertByRank fun x => Config.rank s.freeCount (key x)) [] → x ∈ l := by
    intro l
    induction l with
    | nil => exact id
    | cons y ys ih =>
      intro h
      rcases mem_insertByRank h with h | h
      · exact h ▸ List.mem_cons_self
      · exact List.mem_cons_of_mem _ (ih h)
  unfold State.freeOrder at h
  split at h
  · exact h
  · exact h
  · exact sorted _ h

theorem State.freeOrder_runners (s : State) {α : Type} (key : α → Nat) (l : List α) : (s.freeOrder key l).1.runners = s.runners := by
  unfold State.freeOrder
  split <;> rfl

theorem KeptRun.drainFor (k : KeptRun P) : ∀ (n : Nat) (s : State), P s → P (State.drainFor n s)
  | 0, _, h => h
  | n + 1, s, h => by
    unfold State.drainFor
    split
    · exact KeptRun.drainFor k n _ (k.takeSignal _ (k.signals _ _ h))
    · have h1 := k.freeOrder encPort s.settledRunners h
      split
      · rename_i t r l e
        rw [e] at h1
        have m : r ∈ s.settledRunners := State.mem_of_freeOrder (s := s) (key := encPort) (by rw [e]; exact List.mem_cons_self)
        have w : t.waits r := by
          have same : t.runners = s.runners := by
            have := State.freeOrder_runners s encPort s.settledRunners
            rw [e] at this
            exact this
          have := (List.mem_filter.mp m).2
          unfold State.waits
          rw [show t.runner r = s.runner r from congrArg (fun v : PerPort Runner => v.get r) same]
          split at this
          · rename_i c e
            exact State.waits_of_waitingOn e
          · cases this
        exact KeptRun.drainFor k n _ (k.satisfy _ w h1)
      · rename_i t e
        rw [e] at h1
        split
        · exact k.startMotions h1
        · exact KeptRun.drainFor k n _ (k.startMotions h1)

theorem KeptRun.drain (k : KeptRun P) {s : State} (h : P s) : P s.drain := k.drainFor _ _ h

/-! ## Ports -/

theorem Kept.readPortStatus (k : Kept P) {s : State} (n : Nat) (h : P s) : P (Machine.readPortStatus n s).1 := by
  unfold Machine.readPortStatus
  split
  · exact h
  · exact k.modPort _ _ h

theorem Kept.setNoticeMask (k : Kept P) {s : State} (p : Port) (b : BitVec 32) (h : P s) : P (Machine.setNoticeMask p b s).1 := by
  unfold Machine.setNoticeMask
  split
  · exact h
  · dsimp only [answerOk]; exact k.modPort _ _ h

theorem Kept.setNoticeRouting (k : Kept P) {s : State} (p : Port) (n m l : Nat) (h : P s) :
    P (Machine.setNoticeRouting p n m l s).1 := by
  unfold Machine.setNoticeRouting
  split
  · exact h
  · split
    · split
      · exact k.restartLease _ (k.setRouting _ _ h)
      · exact h
    · exact h

theorem Kept.setReportRate (k : Kept P) {s : State} (p : Port) (n : Nat) (h : P s) : P (Machine.setReportRate p n s).1 := by
  unfold Machine.setReportRate
  split
  · exact h
  · dsimp only [answerOk]; exact k.modPort _ _ h

/-- A reading request leaves the state as it was. -/
theorem readChannel_state (n : Nat) (s : State) : (readChannel n s).1 = s := by unfold readChannel; split <;> rfl
theorem readSegment_state (n m : Nat) (s : State) : (readSegment n m s).1 = s := by
  unfold readSegment
  split
  · rfl
  · split <;> rfl
theorem readAxisRecord_state (n : Nat) (s : State) : (readAxisRecord n s).1 = s := by unfold readAxisRecord; split <;> rfl
theorem readAxisState_state (n : Nat) (s : State) : (readAxisState n s).1 = s := by unfold readAxisState; split <;> rfl
theorem readGroup_state (n : Nat) (s : State) : (readGroup n s).1 = s := by unfold readGroup; split <;> rfl
theorem readGroupMotion_state (n : Nat) (s : State) : (readGroupMotion n s).1 = s := by unfold readGroupMotion; split <;> rfl
theorem readProgram_state (n m : Nat) (s : State) : (readProgram n m s).1 = s := by
  unfold readProgram
  split
  · rfl
  · dsimp only; split <;> rfl
theorem readRunner_state (n : Nat) (s : State) : (readRunner n s).1 = s := by unfold readRunner; split <;> rfl

theorem KeptRun.haltAll (k : KeptRun P) {s : State} (h : P s) : P (Machine.haltAll s).1 := by
  unfold Machine.haltAll answerOk
  dsimp only
  exact k.performHalt h

theorem Kept.serve (k : Kept P) {s : State} (p : Port) (q : Request) (h : P s) : P (Machine.serve p q s).1 := by
  cases q <;> simp only [Machine.serve, now]
  case identify => exact h
  case readStartRecord => exact h
  case readSnapshot => exact k.ports _ _ h
  case readPortStatus => exact k.readPortStatus _ h
  case haltAll => exact k.haltAll h
  case readClock => exact h
  case setRate => exact k.setRate _ _ _ h
  case run => exact k.run _ h
  case halt => exact k.halt _ h
  case setEpoch => exact k.setEpoch _ _ _ h
  case setSettleTime => exact k.setSettleTime _ _ h
  case setGovernor => exact k.setGovernor _ _ h
  case setTimebase => exact k.setTimebase _ _ h
  case setSyncPeriod => exact k.setSyncPeriod _ _ h
  case setMark => exact k.setMark _ _ _ _ _ _ h
  case readMark => exact k.readMark _ h
  case appendSegments => exact k.appendSegments _ _ _ h
  case insertSegment => exact k.insertSegment _ _ _ h
  case deleteSpan => exact k.deleteSpan _ _ _ _ h
  case clearChannel => exact k.clearChannel _ _ h
  case setChannelKind => exact k.setChannelKind _ _ _ h
  case setChannelEnable => exact k.setChannelEnable _ _ _ h
  case readChannel => rw [readChannel_state]; exact h
  case readSegment => rw [readSegment_state]; exact h
  case readStore => exact h
  case queryAngle => exact k.queryAngle _ _ _ _ h
  case readAxisRecord => rw [readAxisRecord_state]; exact h
  case configureAxis => exact k.configureAxis _ _ _ h
  case bind => exact k.bind _ _ _ h
  case unbind => exact k.unbind _ _ h
  case lockSafety => exact k.lockSafety _ _ h
  case readAxisState => rw [readAxisState_state]; exact h
  case enable => exact k.enable _ _ h
  case disable => exact k.disable _ _ h
  case declareReference => exact k.declareReference _ _ _ _ h
  case slew => exact k.slew _ _ _ _ h
  case track => exact k.track _ _ h
  case stop => exact k.stop _ _ h
  case home => exact k.home _ _ h
  case clearFault => exact k.clearFault _ _ h
  case readGroup => rw [readGroup_state]; exact h
  case coordinatedSlew => exact k.coordinatedSlew _ _ _ h
  case stageGroup => exact k.stageGroup _ _ _ h
  case trackGroup => exact k.trackGroup _ _ h
  case stopGroup => exact k.stopGroup _ _ h
  case readGroupMotion => rw [readGroupMotion_state]; exact h
  case readClaims => exact h
  case claim => exact k.claim' _ _ _ _ _ h
  case renew => exact k.renew _ _ h
  case release => exact k.release _ _ h
  case withdraw => exact k.withdraw _ _ h
  case openProgram => exact k.openProgram _ _ _ h
  case appendCues => exact k.appendCues _ _ _ h
  case closeProgram => exact k.closeProgram _ _ h
  case eraseProgram => exact k.eraseProgram _ _ h
  case readProgram => rw [readProgram_state]; exact h
  case runProgram => exact k.runProgram _ _ h
  case stopRunner => exact k.stopRunner _ h
  case resume => exact k.resume _ h
  case leaveLoop => exact k.leaveLoop _ h
  case readRunner => rw [readRunner_state]; exact h
  case setLink => exact k.setLink' _ _ _ _ _ h
  case setLinkEnable => exact k.setLinkEnable _ _ _ h
  case readLink => exact k.readLink _ h
  case setTriggerFilter => exact k.setTriggerFilter _ _ _ h
  case readLines => exact h
  case readCapture => exact k.readCapture h
  case readDrivePower => exact h
  case setReturnPolicy => exact k.setReturnPolicy _ _ h
  case fetchNotices => exact k.ports _ _ h
  case setNoticeMask => exact k.setNoticeMask _ _ h
  case setNoticeRouting => exact k.setNoticeRouting _ _ _ _ h
  case readNoticeRouting => exact h
  case setReportRate => exact k.setReportRate _ _ h

theorem Kept.take (k : Kept P) {s : State} (p : Port) (t : Byte) (q : Request) (h : P s) : P (s.take p t q) := by
  have h1 := k.serve p q (k.modPort p (fun x => { x with request := .outstanding t (requestByte q) }) h)
  unfold State.take
  dsimp only
  split
  · exact k.modPort _ _ h1
  · exact h1

theorem Kept.takeBusy (k : Kept P) {s : State} (p : Port) (t : Byte) (q : Request) (h : P s) : P (s.takeBusy p t q) := by
  unfold State.takeBusy
  split
  · exact k.modPort _ _ (k.performHalt h)
  · exact k.modPort _ _ h

theorem Kept.accept (k : Kept P) {s : State} (p : Port) (t : Byte) (q : Request) (h : P s) : P (s.accept p t q) := by
  unfold State.accept
  split
  · exact k.take _ _ _ h
  · exact k.takeBusy _ _ _ h

theorem Kept.acceptBad (k : Kept P) {s : State} (p : Port) (t c : Byte) (r : Reply) (h : P s) : P (s.acceptBad p t c r) := by
  unfold State.acceptBad
  split
  · exact k.modPort _ _ (k.modPort _ _ h)
  · exact k.modPort _ _ h

theorem Kept.breakFrame (k : Kept P) {s : State} (p : Port) (h : P s) : P (s.breakFrame p) := by
  unfold State.breakFrame
  split
  · exact h
  · exact k.modPort _ _ h

theorem Kept.passFrame (k : Kept P) {s : State} (p : Port) (t c : Byte) (b : List Byte) (h : P s) : P (s.passFrame p t c b) := by
  unfold State.passFrame
  split
  · exact k.acceptBad _ _ _ _ h
  · exact k.acceptBad _ _ _ _ h
  · exact k.accept _ _ _ h

theorem Kept.frameReceived (k : Kept P) {s : State} (p : Port) (t c : Byte) (b : List Byte) (x : BitVec 16) (h : P s) :
    P (s.frameReceived p t c b x) := by
  unfold State.frameReceived
  split
  · exact k.modPort _ _ h
  · exact k.passFrame _ _ _ _ (k.modPort _ _ h)

theorem Kept.byteReceived (k : Kept P) {s : State} (p : Port) (b : Byte) (h : P s) : P (s.byteReceived p b) := by
  unfold State.byteReceived
  split
  · split
    · exact k.modPort _ _ h
    · exact h
  · split
    · exact k.modPort _ _ h
    · exact k.modPort _ _ h
  · exact k.modPort _ _ h
  · exact k.modPort _ _ h
  · split
    · exact k.modPort _ _ h
    · exact k.modPort _ _ h
  · exact k.modPort _ _ h
  · exact k.frameReceived _ _ _ _ _ h

theorem Kept.replyStart (k : Kept P) {s : State} (p : Port) (h : P s) : P (s.replyStart p) := by
  unfold State.replyStart
  dsimp only
  split
  · exact h
  · exact k.setPort _ _ h
  · exact k.setPort _ _ h
  · exact h

theorem KeptRun.tick (k : KeptRun P) {s : State} (h : P s) : P s.tick := by
  unfold State.tick
  refine k.withDrive _ (fun l => ?_) (foldl_keeps (fun _ _ h => k.modAxis _ _ h) _ _ (foldl_keeps (fun _ _ h => k.setOutput _ _ h) _ _
    (foldl_keeps (fun _ _ h => k.modRunner _ _ h) _ _ (foldl_keeps (fun t r h => ?_) _ _ (k.withClock _ ⟨rfl, rfl, rfl, rfl, rfl, rfl, rfl, rfl, rfl⟩ h)))))
  · unfold DrivePower.tick
    split
    · rename_i n e
      exact fun c => absurd ((l c).symm.trans e) (by simp)
    · exact l
    · exact l
  · have e : ((t.claim r).holder.map Holder.tick).map Holder.port = (t.claim r).holder.map Holder.port := by
      simp [Holder.tick, Function.comp_def]
    exact k.setClaim _ _ (ClaimEntry.lawful_of_holder rfl e) (fun _ hq _ => e.trans hq) h

theorem Kept.reportAt (k : Kept P) {s : State} (p : Port) (h : P s) : P (s.reportAt p) := by
  unfold State.reportAt
  dsimp only
  split
  · exact h
  · split
    · exact k.setPort _ _ h
    · split
      · exact k.setPort _ _ h
      · exact k.setPort _ _ h

theorem Kept.epochUpdate (k : Kept P) {s : State} (h : P s) : P s.epochUpdate := by
  unfold State.epochUpdate
  refine foldl_keeps (fun _ _ h => k.reportAt _ h) _ _ ?_
  split
  · exact k.advanceClock (k.tick h)
  · exact k.tick h

/-! ## Starts and samples -/

/-- A change of each axis in turn, each following the axis it was. -/
theorem foldAxes_follows (x : AxisId → Axis) (f : Axis → AxisId → Axis) (hf : ∀ (y : Axis) a, y.follows (f y a))
    (v : Vector Axis 16) (h : ∀ a : AxisId, (x a).follows v[a]) (b : AxisId) :
    (x b).follows (allAxes.foldl (fun (v : Vector Axis 16) (a : AxisId) => v.set a (f v[a] a)) v)[b] := by
  refine foldl_keeps (P := fun v : Vector Axis 16 => ∀ b : AxisId, (x b).follows v[b]) ?_ allAxes v h b
  intro v a h b
  by_cases c : b = a
  · subst c
    simpa using Axis.follows_trans (h b) (hf _ b)
  · have : b.val ≠ a.val := fun h => c (Fin.ext h)
    rw [show (v.set a (f v[a] a))[b] = v[b] by simp [Ne.symm this]]
    exact h b

theorem Kept.start (k : Kept P) {s : State} (x : Straps) (y : FirstSamples) (h : P s) : P (s.start x y) := by
  unfold State.start
  split
  · exact h
  · refine k.ports _ _ (k.drive _ _ (fun _ h => absurd rfl h) (k.trigs _ _ (k.axes _ _ ?_ (k.timebase _ _
      (k.begun s .running x (s.formStart x y) h)))))
    exact foldAxes_follows s.axis (fun v a => v.sampled (y.home.getLsbD a.val) (y.limP.getLsbD a.val)
      (y.limN.getLsbD a.val) (y.flt.getLsbD a.val)) (fun _ _ => Axis.follows_of_core rfl) _ fun _ => Axis.follows_refl _

theorem KeptAxis.homeSample (k : KeptAxis P) {s : State} (a : AxisId) (l : Bool) (h : P s) : P (s.homeSample a l) := by
  unfold State.homeSample
  dsimp only
  split
  · exact k.modAxis _ _ h
  · split
    · exact k.homeChanged _ _ h
    · refine k.modAxis _ _ h ?_
      unfold Axis.homeRun
      split <;> exact Axis.follows_of_core rfl

theorem KeptAxis.limitSample (k : KeptAxis P) {s : State} (a : AxisId) (d : LimitSide) (l : Bool) (h : P s) :
    P (s.limitSample a d l) := by
  unfold State.limitSample
  cases d <;> dsimp only <;> split
  · exact k.limitChanged _ _ _ _ h
  · exact k.modAxis _ _ h
  · exact k.limitChanged _ _ _ _ h
  · exact k.modAxis _ _ h

theorem KeptAxis.fltSample (k : KeptAxis P) {s : State} (a : AxisId) (l : Bool) (h : P s) : P (s.fltSample a l) := by
  unfold State.fltSample
  split
  · exact k.fltChanged _ _ h
  · exact k.modAxis _ _ h

theorem KeptRun.haltSample (k : KeptRun P) {s : State} (l : Bool) (h : P s) : P (s.haltSample l) := by
  unfold State.haltSample
  split
  · split
    · exact k.assertHalt h
    · exact k.haltDeasserted h
  · exact k.withPower _ h

theorem KeptRun.okSample (k : KeptRun P) {s : State} (l : Bool) (h : P s) : P (s.okSample l) := by
  unfold State.okSample
  split
  · split
    · exact k.drivePowerActive h
    · exact k.drivePowerInactive h
  · exact k.withPower _ h

theorem Kept.resetSample (k : Kept P) {s : State} (l : Bool) (h : P s) : P (s.resetSample l) := by
  unfold State.resetSample
  split
  · dsimp only
    split
    · exact k.held _ _ _ Axis.follows_lineReset (k.resetLine _ _ h)
    · exact k.resetLine _ _ h
  · exact k.resetLine _ _ h

theorem Kept.inputSample (k : Kept P) {s : State} (i : InputLine) (l : Bool) (h : P s) : P (s.inputSample i l) := by
  unfold State.inputSample
  split
  · exact k.resetSample _ h
  · exact k.trigSample _ _ h
  · exact k.homeSample _ _ h
  · exact k.limitSample _ _ _ h
  · exact k.limitSample _ _ _ h
  · exact k.fltSample _ _ h
  · exact k.haltSample _ h
  · exact k.okSample _ h

/-! ## Commands -/

theorem Kept.onRequest (k : Kept P) {s t : State} (p : Port) (g : Byte) (q : Request) (h : P s)
    (e : Machine.onRequest p g q s = .next t) : P t := by
  unfold Machine.onRequest at e
  split at e
  · cases e; exact k.drain (k.accept _ _ _ h)
  · cases e; exact h

theorem Kept.onEvent (k : Kept P) {s t : State} {f : State → State} (hf : P s → P (f s)) (h : P s)
    (e : Machine.onEvent f s = .next t) : P t := by
  unfold Machine.onEvent at e
  split at e
  · cases e; exact k.drain (hf h)
  · cases e; exact h

/-- What every command keeps; a power-on reset, which lifts the locks, as `kr` says. -/
theorem Kept.exec (k : Kept P) (i : Instr) {s t : State} (kr : i = .powerOnReset → P s.powerOnReset) (h : P s)
    (e : Machine.exec i s = .next t) : P t := by
  cases i
  case frameReceived p tag code payload crc => exact k.onEvent (f := fun s => s.frameReceived p tag code payload crc) (k.frameReceived _ _ _ _ _) h e
  case framingError p => exact k.onEvent (f := fun s => s.breakFrame p) (k.breakFrame _) h e
  case frameGapTimeout p => exact k.onEvent (f := fun s => s.breakFrame p) (k.breakFrame _) h e
  case replyStart p => exact k.onEvent (f := fun s => s.replyStart p) (k.replyStart _) h e
  case frameTransmissionEnd p => exact k.onEvent (f := fun s => s.transmissionEnd p) (k.modPort _ _) h e
  case epochUpdate => exact k.onEvent (f := fun s => s.epochUpdate) k.epochUpdate h e
  case settleTimerExpiry => exact k.onEvent (f := fun s => s.settleExpiry) k.settleExpiry h e
  case quietTimerExpiry => exact k.onEvent (f := fun s => s.quietExpiry) k.quietExpiry h e
  case syncPulse crystal => exact k.onEvent (f := fun s => s.syncPulse crystal) (k.syncPulse _) h e
  case syncTimeout => exact k.onEvent (f := fun s => s.syncTimeout) k.syncTimeout h e
  case evaluationStart => exact k.onEvent (f := fun s => s.startEvaluation) k.startEvaluation h e
  case evaluationComplete => exact k.onEvent (f := fun s => s.completeEvaluation) k.completeEvaluation h e
  case stepPulse a => exact k.onEvent (f := fun s => s.stepPulse a) (k.stepPulse _) h e
  case stepPulseEnd a => exact k.onEvent (f := fun s => s.stepPulseEnd a) (k.modAxis _ _) h e
  case reversalPauseEnd a => exact k.onEvent (f := fun s => s.reversalPauseEnd a) (k.modAxis _ _) h e
  case axisArrived a => exact k.onEvent (f := fun s => s.axisArrived a) (k.axisArrived _) h e
  case stoppingRest a => exact k.onEvent (f := fun s => s.stoppingRest a) (k.stoppingRest _) h e
  case homeInputChange a level => exact k.onEvent (f := fun s => s.homeChanged a level) (k.homeChanged _ _) h e
  case clearPhaseRest a => exact k.onEvent (f := fun s => s.clearRest a) (k.clearRest _) h e
  case axisHomed a => exact k.onEvent (f := fun s => s.axisHomed a) (k.axisHomed _) h e
  case homingSearchExhausted a late =>
    exact k.onEvent (f := fun s => s.searchExhausted a late) (k.searchExhausted _ _) h e
  case limitInputChange a side level late =>
    exact k.onEvent (f := fun s => s.limitChanged a side level late) (k.limitChanged _ _ _ _) h e
  case fltInputChange a level => exact k.onEvent (f := fun s => s.fltChanged a level) (k.fltChanged _ _) h e
  case autoClearExpiry a => exact k.onEvent (f := fun s => s.autoClearExpiry a) (k.autoClearExpiry _) h e
  case haltLineAsserted => exact k.onEvent (f := fun s => s.assertHalt) k.assertHalt h e
  case haltLineDeasserted => exact k.onEvent (f := fun s => s.haltDeasserted) k.haltDeasserted h e
  case drivePowerOkActive => exact k.onEvent (f := fun s => s.drivePowerActive) k.drivePowerActive h e
  case drivePowerOkInactive => exact k.onEvent (f := fun s => s.drivePowerInactive) k.drivePowerInactive h e
  case drivePowerReturn => exact k.onEvent (f := fun s => s.powerReturn) k.powerReturn h e
  case leaseExpiry r => exact k.onEvent (f := fun s => s.leaseExpiry r) (k.leaseExpiry _) h e
  case delayExpiry r => exact k.onEvent (f := fun s => s.delayExpiry r) (k.delayExpiry _) h e
  case loopPauseEnd r => exact k.onEvent (f := fun s => s.loopPauseEnd r) (k.loopPauseEnd _) h e
  case trigInputChange t level => exact k.onEvent (f := fun s => s.trigChanged t level) (k.trigChanged _ _) h e
  case pulseTimerExpiry o => exact k.onEvent (f := fun s => s.pulseExpiry o) (k.pulseExpiry _) h e
  case powerOnReset => cases e; exact kr rfl
  case lineReset => cases e; exact k.held _ _ _ Axis.follows_lineReset h
  case start => cases e; exact k.start _ _ h
  case inputSample line level =>
    simp only [Machine.exec, Machine.execInputSample] at e
    split at e
    · cases e; exact k.resetSample _ h
    · exact k.onEvent (f := fun s => s.inputSample line level) (k.inputSample _ _) h e
  case byteReceived p byte => exact k.onEvent (f := fun s => s.byteReceived p byte) (k.byteReceived _ _) h e
  case velocityReachesZero a => exact k.onEvent (f := fun s => s.velocityZero a) (k.velocityZero _) h e
  all_goals exact k.onRequest _ _ _ h e

/-- What every step keeps, where taking a command from the queue keeps it. -/
theorem Kept.step (k : Kept P) (kr : ∀ s, P s → P s.powerOnReset) (kp : ∀ s v, P s → P { s with pending := v })
    {s t : State} (h : P s) (e : Machine.step s = .next t) : P t := by
  unfold Machine.step at e
  split at e
  · cases e; exact h
  · exact k.exec _ (fun _ => kr _ (kp _ _ h)) (kp _ _ h) e

end Sys2Proof.Machine
end

