-- ==== Sys2Proof/Laws/Cues.lean ====
section
/-! SUPPORT. What the performance of a cue leaves of the runners and their programs (07 R147): nothing of it changes them, so a
chain runs to its end from the list it began with. -/

namespace Sys2Proof.Machine

/-- Whatever a cue action or a link brings about, the runners and the programs stand. -/
theorem keptWork_runners (s : State) : KeptWork fun t => t.runners = s.runners ∧ t.programs = s.programs where
  axes := fun _ _ _ h => h
  motions := fun _ _ h => h
  notice := fun t p n j b h => by cases p <;> exact h
  power := fun _ _ _ _ h => h
  evals := fun _ _ h => h
  signals := fun _ _ h => h
  serial := fun _ _ h => h
  freeCount := fun _ _ h => h
  sky := fun _ _ _ h => h
  lease := fun _ _ h => h
  drive := fun _ _ _ h => h
  links := fun _ _ h => h
  outputs := fun _ _ h => h
  clock := fun _ _ _ h => h
  captures := fun _ _ _ h => h

theorem perform_stands (s : State) (r : Port) (c : Cue) :
    (s.perform r c).state.runners = s.runners ∧ (s.perform r c).state.programs = s.programs :=
  (keptWork_runners s).perform r c ⟨rfl, rfl⟩

@[simp] theorem perform_runner (s : State) (r q : Port) (c : Cue) : (s.perform r c).state.runner q = s.runner q := by
  unfold State.runner
  rw [(perform_stands s r c).1]

@[simp] theorem perform_program (s : State) (r : Port) (i : ProgramId) (c : Cue) :
    (s.perform r c).state.program i = s.program i := by
  unfold State.program
  rw [(perform_stands s r c).2]

/-- A cue's list is the one its runner began with. -/
theorem perform_cuesOf (s : State) (r q : Port) (c : Cue) : (s.perform r c).state.cuesOf q = s.cuesOf q := by
  unfold State.cuesOf
  rw [perform_runner]
  cases (s.runner q).program with
  | none => rfl
  | some i => exact congrArg Program.cues (perform_program s r i c)

/-- A run of CHAINED cues with none refused, from the states `v` before each of them (R147): the state behind the last, and the
entries of the awaited ones in list order (R150). -/
theorem performChained_all (r : Port) (tail : List Cue) (ht : ∀ d, tail.head? = some d → d.chained = false) :
  ∀ (cs : List Cue) (i : Nat) (s : State) (acc : List Completion) (v : Nat → State),
   (∀ d ∈ cs, d.chained = true) → v 0 = s →
   (∀ k d, cs[k]? = some d → v (k + 1) = ((v k).perform r d).state) →
   (∀ k d, cs[k]? = some d → ((v k).perform r d).status = .ok) →
   State.performChained r i (cs ++ tail) s acc =
     { state := v cs.length, refused := none,
       entries := acc ++ cs.zipIdx.flatMap fun d => newEntries d.1 (i + d.2) ((v d.2).perform r d.1).awaited } := by
  intro cs
  induction cs with
  | nil =>
    intro i s acc v _ h0 _ _
    subst h0
    cases tail with
    | nil => simp [State.performChained]
    | cons t ts => simp [State.performChained, ht t rfl]
  | cons c cs ih =>
    intro i s acc v hc h0 hv hok
    subst h0
    have e1 := hv 0 c rfl
    have o1 := hok 0 c rfl
    rw [List.cons_append, State.performChained]
    simp only [hc c (List.mem_cons_self), if_true, o1]
    rw [ih (i + 1) _ _ (fun k => v (k + 1)) (fun d h => hc d (List.mem_cons_of_mem _ h)) e1
      (fun k d h => hv (k + 1) d (by simpa using h)) (fun k d h => hok (k + 1) d (by simpa using h))]
    simp only [List.length_cons, List.append_assoc, List.zipIdx_cons, List.flatMap_cons, Nat.add_zero, Nat.zero_add]
    congr 2
    rw [show cs.zipIdx 1 = cs.zipIdx.map (fun d => (d.1, d.2 + 1)) from by
      rw [List.zipIdx_succ]]
    rw [List.flatMap_map]
    refine congrArg (fun f => _ ++ List.flatMap f cs.zipIdx) (funext fun d => ?_)
    simp only [show i + 1 + d.2 = i + (d.2 + 1) from by omega]

/-- A run of CHAINED cues ends at the first that is refused, behind the effects of those before it (R147, R149). -/
theorem performChained_refused (r : Port) (tail : List Cue) :
  ∀ (cs : List Cue) (k : Nat) (d : Cue) (i : Nat) (s : State) (acc : List Completion) (v : Nat → State),
   (∀ d ∈ cs, d.chained = true) → v 0 = s →
   (∀ k d, cs[k]? = some d → v (k + 1) = ((v k).perform r d).state) →
   cs[k]? = some d → (∀ j e, j < k → cs[j]? = some e → ((v j).perform r e).status = .ok) →
   ((v k).perform r d).status ≠ .ok →
   ∃ es, State.performChained r i (cs ++ tail) s acc =
     { state := v (k + 1), refused := some (i + k, ((v k).perform r d).status), entries := es } := by
  intro cs
  induction cs with
  | nil => intro k d i s acc v _ _ _ h; simp at h
  | cons c cs ih =>
    intro k d i s acc v hc h0 hv hk hok hbad
    subst h0
    rw [List.cons_append, State.performChained]
    simp only [hc c (List.mem_cons_self), if_true]
    cases k with
    | zero =>
      simp at hk; subst hk
      simp only [hbad, if_false]
      exact ⟨acc, by rw [hv 0 c rfl]; simp⟩
    | succ k =>
      have o1 := hok 0 c (by omega) rfl
      simp only [o1, if_true]
      obtain ⟨es, e⟩ := ih k d (i + 1) ((v 0).perform r c).state (acc ++ newEntries c i ((v 0).perform r c).awaited)
        (fun k => v (k + 1)) (fun d h => hc d (List.mem_cons_of_mem _ h)) (hv 0 c rfl)
        (fun k d h => hv (k + 1) d (by simpa using h)) (by simpa using hk)
        (fun j e h h' => hok (j + 1) e (by omega) (by simpa using h')) hbad
      exact ⟨es, by rw [e]; simp [Nat.add_assoc, Nat.add_comm 1]⟩

end Sys2Proof.Machine
end

