-- ==== Sys2Proof/Laws/Layouts.lean ====
section
/-! SUPPORT. The layouts of the replies (Safety.lean), item by item: what is laid splits where its list does. -/

set_option Elab.async false

namespace Sys2Proof.Machine

@[simp] theorem laid_nil : laid [] = [] := rfl

theorem laid_append (l m : List (Nat × Int)) : laid (l ++ m) = laid l ++ laid m := List.flatMap_append

theorem laid_cons (x : Nat × Int) (l : List (Nat × Int)) : laid (x :: l) = laid [x] ++ laid l := laid_append [x] l

theorem laid_flatMap {α : Type} (f : α → List (Nat × Int)) (l : List α) : laid (l.flatMap f) = l.flatMap fun x => laid (f x) := by
  induction l with
  | nil => rfl
  | cons x l ih => rw [List.flatMap_cons, laid_append, ih, List.flatMap_cons]

/-- So many bytes as the items say. -/
theorem laid_length (l : List (Nat × Int)) : (laid l).length = (l.map Prod.fst).sum := by
  induction l with
  | nil => rfl
  | cons x l ih => rw [laid_cons, List.length_append, ih]; simp [laid]

theorem laid_optItems_some {α : Type} (k : Nat) (f : α → List (Nat × Int)) (x : α) :
    laid (optItems k f (some x)) = laid [natItem 1 1] ++ laid (f x) := laid_cons _ _

theorem laid_optItems_none {α : Type} (k : Nat) (f : α → List (Nat × Int)) :
    laid (optItems k f none) = laid [natItem 1 0] ++ laid [(k, 0)] := laid_cons _ _

theorem laid_listItems {α : Type} (f : α → List (Nat × Int)) (l : List α) :
    laid (listItems f l) = laid [natItem 1 l.length] ++ l.flatMap fun x => laid (f x) := by
  rw [listItems, laid_cons, laid_flatMap]

end Sys2Proof.Machine
end

