-- ==== Sys2Proof/Laws/Notices.lean ====
section
/-! SUPPORT. Notices (R204, R206): a notice changes the pending entries of ports and nothing else, so it passes by any change of
a port's other items. -/

set_option Elab.async false

namespace Sys2Proof.Machine

theorem modPort_comm {f g : PortState → PortState} (h : ∀ x, f (g x) = g (f x)) (s : State) (p q : Port) :
    (s.modPort p f).modPort q g = (s.modPort q g).modPort p f := by
  by_cases e : p = q
  · subst e
    unfold State.modPort
    rw [State.setPort_port_self, State.setPort_port_self, h]
    cases p <;> rfl
  · unfold State.modPort
    rw [State.setPort_port_of_ne _ _ (Ne.symm e), State.setPort_port_of_ne _ _ e]
    cases p <;> cases q <;> first | rfl | exact absurd rfl e

/-- A change of a port that leaves its pending entries alone. -/
def PortState.Passes (f : PortState → PortState) : Prop :=
  ∀ x k n b, f (PortState.deliver x k n b) = (f x).deliver k n b

theorem notify_modPort {f : PortState → PortState} (h : PortState.Passes f) (s : State) (p : Port) (k : NoticeKind)
    (r : Resource) (n : Option Nat) (b : Bool) : (s.modPort p f).notify k r n b = (s.notify k r n b).modPort p f := by
  unfold State.notify
  rw [show (s.modPort p f).routedPorts k r = s.routedPorts k r from rfl]
  generalize s.routedPorts k r = l
  induction l generalizing s with
  | nil => rfl
  | cons q l ih =>
    rw [List.foldl_cons, List.foldl_cons, modPort_comm (fun x => h x k n b)]
    exact ih _

theorem noticeTo_modPort {f : PortState → PortState} (h : PortState.Passes f) (s : State) (p q : Port) (k : NoticeKind)
    (n : Option Nat) : (s.modPort p f).noticeTo q k n = (s.noticeTo q k n).modPort p f :=
  modPort_comm (fun x => h x k n false) s p q

theorem passes_outstanding (tag code : Byte) : PortState.Passes fun q => { q with request := .outstanding tag code } :=
  fun _ _ _ _ => rfl

/-- A notice changes the ports alone. -/
theorem notify_ports (s : State) (k : NoticeKind) (r : Resource) (n : Option Nat) (b : Bool) :
    s.notify k r n b = { s with ports := (s.notify k r n b).ports } := by
  unfold State.notify
  generalize s.routedPorts k r = l
  induction l generalizing s with
  | nil => rfl
  | cons q l ih =>
    rw [List.foldl_cons, ih]
    rfl

theorem State.Quiet.notify {s : State} (h : s.Quiet) (k : NoticeKind) (r : Resource) (n : Option Nat) (b : Bool) :
    (s.notify k r n b).Quiet := by
  rw [notify_ports]
  exact h.congr rfl rfl rfl rfl rfl

theorem notify_outstand (s : State) (p : Port) (tag code : Byte) (k : NoticeKind) (r : Resource) (n : Option Nat) (b : Bool) :
    (s.outstand p tag code).notify k r n b = (s.notify k r n b).outstand p tag code :=
  notify_modPort (passes_outstanding tag code) _ _ _ _ _ _

theorem noticeTo_outstand (s : State) (p q : Port) (tag code : Byte) (k : NoticeKind) (n : Option Nat) :
    (s.outstand p tag code).noticeTo q k n = (s.noticeTo q k n).outstand p tag code :=
  noticeTo_modPort (passes_outstanding tag code) _ _ _ _ _

end Sys2Proof.Machine
end

