-- ==== Sys2Proof/Laws/Operands.lean ====
section
/-! SUPPORT. The numbers of a request and the indices they name (00 Table 0-3): a number in range names its index, one out of
range names none. -/

namespace Sys2Proof.Machine

@[simp] theorem axisOf_val (a : AxisId) : axisOf a.val = some a := by simp [axisOf]
@[simp] theorem groupIdOf_val (g : GroupId) : groupIdOf g.val = some g := by simp [groupIdOf]
@[simp] theorem channelOf_val (c : ChannelId) : channelOf c.val = some c := by simp [channelOf]
@[simp] theorem markOf_val (m : MarkId) : markOf m.val = some m := by simp [markOf]
@[simp] theorem linkOf_val (l : LinkId) : linkOf l.val = some l := by simp [linkOf]
@[simp] theorem trigOf_val (t : TrigId) : trigOf t.val = some t := by simp [trigOf]
@[simp] theorem outputOf_val (o : OutputId) : outputOf o.val = some o := by simp [outputOf]
@[simp] theorem programOf_val (i : ProgramId) : programOf i.val = some i := by simp [programOf]
@[simp] theorem portOf_encPort (p : Port) : portOf (encPort p) = some p := by cases p <;> rfl

@[simp] theorem resourceOf_code (r : Resource) : resourceOf (resourceCode r) = some r := by
  cases r with
  | sky => rfl
  | group g => simp [resourceOf, resourceCode]

theorem axisOf_none {n : Nat} (h : 16 ≤ n) : axisOf n = none := by simp [axisOf]; omega
theorem groupIdOf_none {n : Nat} (h : 8 ≤ n) : groupIdOf n = none := by simp [groupIdOf]; omega
theorem channelOf_none {n : Nat} (h : 12 ≤ n) : channelOf n = none := by simp [channelOf]; omega
theorem markOf_none {n : Nat} (h : 4 ≤ n) : markOf n = none := by simp [markOf]; omega
theorem linkOf_none {n : Nat} (h : 24 ≤ n) : linkOf n = none := by simp [linkOf]; omega
theorem trigOf_none {n : Nat} (h : 4 ≤ n) : trigOf n = none := by simp [trigOf]; omega
theorem outputOf_none {n : Nat} (h : 4 ≤ n) : outputOf n = none := by simp [outputOf]; omega
theorem programOf_none {n : Nat} (h : 16 ≤ n) : programOf n = none := by simp [programOf]; omega

theorem portOf_none {n : Nat} (h : 3 ≤ n) : portOf n = none := by
  match n, h with
  | n + 3, _ => rfl

theorem resourceOf_none {n : Nat} (h : 9 ≤ n) : resourceOf n = none := by
  unfold resourceOf
  rw [if_neg (by omega), groupIdOf_none (by omega)]
  rfl

/-! ## Fields (10 R193) -/

@[simp] theorem beNat_length : ∀ k n, (beNat k n).length = k
  | 0, _ => rfl
  | k + 1, n => by simp [beNat, beNat_length k n]

@[simp] theorem beInt_length (k : Nat) (i : Int) : (beInt k i).length = k := beNat_length _ _

theorem natOf_append_byte (bs : List Byte) (b : Byte) : natOf (bs ++ [b]) = natOf bs * 256 + b.toNat := by
  simp [natOf]

theorem natOf_cons (b : Byte) (bs : List Byte) : natOf (b :: bs) = b.toNat * 256 ^ bs.length + natOf bs := by
  have h : ∀ (l : List Byte) (n : Nat), l.foldl (fun n b => n * 256 + b.toNat) n = n * 256 ^ l.length + natOf l := by
    intro l
    induction l with
    | nil => intro n; simp [natOf]
    | cons x xs ih =>
      intro n
      rw [List.foldl_cons, ih, show natOf (x :: xs) = xs.foldl (fun n b => n * 256 + b.toNat) (0 * 256 + x.toNat) from rfl, ih,
        List.length_cons, Nat.pow_succ]
      simp only [Nat.add_mul, Nat.zero_mul, Nat.zero_add]
      rw [Nat.mul_assoc, Nat.mul_comm 256, Nat.add_assoc]
  show bs.foldl _ (0 * 256 + b.toNat) = _
  rw [h]
  simp

/-- A number that fits its bytes is read back from them. -/
theorem natOf_beNat : ∀ k n, n < 256 ^ k → natOf (beNat k n) = n
  | 0, n, h => by
    have : n = 0 := by simpa using h
    subst this; rfl
  | k + 1, n, h => by
    have low : ∀ k n, natOf (beNat k n) = n % 256 ^ k := by
      intro k
      induction k with
      | zero => intro n; simp [beNat, natOf, Nat.mod_one]
      | succ k ih =>
        intro n
        rw [beNat, natOf_cons, ih, beNat_length, BitVec.toNat_ofNat, show (2 : Nat) ^ 8 = 256 from rfl, Nat.pow_succ,
          Nat.mod_mul]
        rw [Nat.mul_comm, Nat.add_comm]
    rw [low, Nat.mod_eq_of_lt h]

/-- A signed number that fits its bytes is read back from them. -/
theorem intOf_beInt (k : Nat) (i : Int) (h : -(256 ^ k : Nat) ≤ 2 * i) (h' : 2 * i < (256 ^ k : Nat)) :
    intOf (beInt k i) = i := by
  have pos : 0 < 256 ^ k := Nat.pow_pos (by omega)
  unfold intOf beInt
  generalize hm : (256 ^ k : Nat) = m at *
  have hb : (i.emod (m : Int)).toNat < 256 ^ k := by
    have a : 0 ≤ i.emod (m : Int) := Int.emod_nonneg i (b := (m : Int)) (by omega)
    have b : i.emod (m : Int) < m := Int.emod_lt_of_pos i (b := (m : Int)) (by omega)
    omega
  rw [natOf_beNat _ _ hb, beNat_length, hm]
  dsimp only
  by_cases hi : 0 ≤ i
  · have e : i.emod (m : Int) = i := Int.emod_eq_of_lt hi (by omega)
    rw [e]
    rw [if_pos (by omega)]
    omega
  · have e : i.emod (m : Int) = i + m := by
      have := Int.add_mul_emod_self_right i 1 (m : Int)
      rw [Int.one_mul] at this
      exact (this.symm.trans (Int.emod_eq_of_lt (by omega) (by omega)))
    rw [e]
    rw [if_neg (by omega)]
    omega

end Sys2Proof.Machine
end

