-- ==== Sys2Proof/Laws/Roots.lean ====
section
/-! SUPPORT. The whole part of a square root (log 9): what `isqrt` answers, said once. -/

namespace Sys2Proof.Machine

/-- Found bit by bit, the root stays the greatest whose square is at most `v`. -/
theorem rootFrom_spec (n : Nat) : ∀ v r : Nat, r * r ≤ v → v < (r + 2 ^ (n + 1)) * (r + 2 ^ (n + 1)) →
    rootFrom n v r * rootFrom n v r ≤ v ∧ v < (rootFrom n v r + 1) * (rootFrom n v r + 1) := by
  induction n with
  | zero =>
    intro v r low high
    unfold rootFrom
    split
    · exact ⟨‹_›, by simpa [Nat.add_assoc] using high⟩
    · exact ⟨low, by omega⟩
  | succ n ih =>
    intro v r low high
    unfold rootFrom
    split
    · refine ih v _ ‹_› ?_
      have e : r + 2 ^ (n + 1) + 2 ^ (n + 1) = r + 2 ^ (n + 1 + 1) := by rw [Nat.pow_succ 2 (n + 1)]; omega
      rwa [e]
    · exact ih v r low (by omega)

theorem isqrt_spec (v : Nat) : isqrt v * isqrt v ≤ v ∧ v < (isqrt v + 1) * (isqrt v + 1) := by
  refine rootFrom_spec _ v 0 (by omega) ?_
  have h : v < 2 ^ (v.log2 + 1) := Nat.lt_log2_self
  have e : (0 + 2 ^ (v.log2 / 2 + 1)) * (0 + 2 ^ (v.log2 / 2 + 1)) = 2 ^ (v.log2 / 2 + 1 + (v.log2 / 2 + 1)) := by
    rw [Nat.zero_add, ← Nat.pow_add]
  rw [e]
  exact Nat.lt_of_lt_of_le h (Nat.pow_le_pow_right (by omega) (by omega))

end Sys2Proof.Machine
end

