-- ==== Sys2Proof/Laws/Motion.lean ====
section
/-! SUPPORT. What the operations of a motion do, said once: its start (04 R67, R93), one step of position, speed and counts (04 R66,
R72, R80; 05 R102), the goal and the tests of a tracking axis (04 R80, R82, R85), angles in steps (04 R79), the record an encoding
names (03 R49, R51, R52), and the runners that stand settled (07 R144). -/

set_option Elab.async false

namespace Sys2Proof.Machine

/-! ## Angles in steps (R79) -/

/-- The nearest whole quotient, a half to the greater. -/
theorem roundDiv_spec (n d : Int) (h : 0 < d) : 2 * d * roundDiv n d ≤ 2 * n + d ∧ 2 * n + d < 2 * d * (roundDiv n d + 1) := by
  unfold roundDiv
  rw [Int.fdiv_eq_ediv_of_nonneg _ (by omega)]
  have h1 := Int.emod_add_mul_ediv (2 * n + d) (2 * d)
  have h2 := Int.emod_nonneg (2 * n + d) (b := 2 * d) (by omega)
  have h3 := Int.emod_lt_of_pos (2 * n + d) (b := 2 * d) (by omega)
  rw [Int.mul_add, Int.mul_one]
  omega

theorem stepsOf_spec (x : Axis) (n m : Int) (h : m = n * x.record.stepsPerTurn * x.record.sense.sign) :
    2 * 2 ^ 32 * (x.stepsOf n - x.record.zeroOffset) ≤ 2 * m + 2 ^ 32 ∧
      2 * m + 2 ^ 32 < 2 * 2 ^ 32 * (x.stepsOf n - x.record.zeroOffset + 1) := by
  have e : x.stepsOf n - x.record.zeroOffset = roundDiv m (2 ^ 32) := by unfold Axis.stepsOf; rw [h]; omega
  rw [e]
  exact roundDiv_spec m (2 ^ 32) (by decide)

theorem shortest_spec (n : Int) : -(2 ^ 31) < shortest n ∧ shortest n ≤ 2 ^ 31 ∧ ∃ j : Int, shortest n = n + j * 2 ^ 32 := by
  unfold shortest
  have h1 := Int.emod_add_mul_ediv n (2 ^ 32)
  have h2 := Int.emod_nonneg n (b := 2 ^ 32) (by decide)
  have h3 := Int.emod_lt_of_pos n (b := 2 ^ 32) (by decide)
  dsimp only
  change 0 ≤ n.emod (2 ^ 32) at h2
  change n.emod (2 ^ 32) < _ at h3
  change n.emod (2 ^ 32) + _ = n at h1
  split
  · exact ⟨by omega, by omega, -(n / 2 ^ 32) - 1, by omega⟩
  · exact ⟨by omega, by omega, -(n / 2 ^ 32), by omega⟩

/-! ## The start of a motion (R67) -/

@[simp] theorem Dir.flip_ne (d : Dir) : d.flip ≠ d := by cases d <;> exact nofun
theorem Dir.sign_pos {d : Dir} {n : Int} : 0 < d.sign * n ↔ (d = .plus ∧ 0 < n) ∨ (d = .minus ∧ n < 0) := by
  cases d <;> simp [Dir.sign]

theorem dirOf_iff (n : Int) (d : Dir) : dirOf n = some d ↔ 0 < d.sign * n := by
  rw [Dir.sign_pos]
  unfold dirOf
  split
  · subst n; simp
  · split <;> cases d <;> simp <;> omega

/-- The direction an axis would begin in is the one it wishes. -/
theorem desired_iff (x : Axis) (ra : Int) (d : Dir) : x.desired ra = some d ↔ x.wishes ra d := by
  unfold Axis.desired Axis.wishes
  cases hs : x.state <;> simp only [reduceCtorEq, false_and, exists_false, false_or, or_false, true_and]
  · cases x.homing with
    | none => simp
    | some h =>
      cases hb : h.braking <;> cases he : h.edge <;> cases hp : h.phase <;>
        simp [hb, he, hp, @eq_comm _ d h.direction, @eq_comm _ d h.direction.flip]
  · cases x.target with
    | none => simp
    | some t => simp [dirOf_iff]
  · exact dirOf_iff _ _

theorem desired_none (x : Axis) (ra : Int) : x.desired ra = none ↔ ∀ d, ¬ x.wishes ra d := by
  rw [Option.eq_none_iff_forall_ne_some]
  exact forall_congr' fun d => not_congr (desired_iff x ra d)

/-- The start of a motion is one axis, the direction given (R67). -/
theorem starts_iff (x : Axis) (d : Dir) (y : Axis) : x.starts d y ↔ y = x.begin d := by
  unfold Axis.starts Axis.begin
  dsimp only
  have lv : ((d == .plus) != x.record.inverted) = true ↔ (d = .plus ↔ x.record.inverted = false) := by
    cases d <;> cases x.record.inverted <;> decide
  generalize hg : ((d == .plus) != x.record.inverted) = level at lv
  constructor
  · rintro ⟨h, hl, hs, hd⟩
    have e : y.dirHigh = level := by rw [Bool.eq_iff_iff, hl, lv]
    rw [← e]
    split
    · rw [h, hs ‹_›, ‹y.dirHigh = x.dirHigh›]
    · rw [h, hd ‹_›]
  · rintro rfl
    split
    · exact ⟨rfl, by rw [← ‹level = x.dirHigh›]; exact lv, fun _ => rfl, fun h => absurd rfl h⟩
    · exact ⟨rfl, lv, fun h => absurd h ‹_›, fun _ => rfl⟩

/-- One turn of an axis at the start of motions: it stays as it is, drops its direction, or begins and meets a limit active
already. -/
theorem startMotion_succ (s : State) (a : AxisId) (n : Nat) (h : (s.axis a).state.moving = true) (h0 : (s.axis a).speedSq = 0)
    (hp : s.power.state = .present) :
    ((∀ d, ¬ (s.axis a).wishes s.clock.ra d) → s.startMotion a (n + 1) =
      if (s.axis a).direction = none then s else s.setAxis a (s.axis a).still) ∧
    ∀ d, (s.axis a).wishes s.clock.ra d → s.startMotion a (n + 1) =
      if (s.axis a).direction = some d then s
      else if (s.axis a).limitLevel d.side then
        ((s.setAxis a ((s.axis a).begin d)).limitMet a d.side).startMotion a n
      else s.setAxis a ((s.axis a).begin d) := by
  have hd : s.drivePresent = true := by unfold State.drivePresent; rw [hp]; rfl
  constructor
  · intro hw
    rw [State.startMotion]
    dsimp only
    rw [if_pos ⟨h, h0, hd⟩, (desired_none _ _).2 hw]
    rfl
  · intro d hw
    rw [State.startMotion]
    dsimp only
    rw [if_pos ⟨h, h0, hd⟩, (desired_iff _ _ _).2 hw]
    rfl

/-- An axis that is not in a moving state does not start. -/
theorem startMotion_still (s : State) (a : AxisId) (n : Nat) (h : (s.axis a).state.moving = false) : s.startMotion a n = s := by
  cases n with
  | zero => rfl
  | succ n =>
    rw [State.startMotion]
    dsimp only
    rw [if_neg fun hc => by rw [h] at hc; exact absurd hc.1 (by decide)]

/-! ## One step (R66, R72, R80, R102) -/

theorem stepped_oneStepOn (x : Axis) (d : Dir) : x.oneStepOn d (x.stepped d) := by
  unfold Axis.oneStepOn Axis.stepped limitedCount
  cases x.record.kind with
  | limited =>
    dsimp only
    split
    · exact ⟨rfl, by omega, by omega, fun _ _ => rfl⟩
    · have l := (Config.limitedOverflow (x.position.within + d.sign)).le_toInt
      have u := (Config.limitedOverflow (x.position.within + d.sign)).toInt_lt
      simp only [Nat.add_one_sub_one] at l u
      exact ⟨rfl, by omega, by omega, fun _ _ => by omega⟩
  | continuous =>
    dsimp only
    refine ⟨fun h1 h2 => ?_, fun h1 => ?_, fun h1 h2 => ?_⟩
    · rw [if_neg (by omega), if_pos h2]
    · rw [if_pos h1]
    · rw [if_neg (by omega), if_neg (by omega)]

theorem count_steppedTo (f : HomeFilter) (d : Dir) : f.steppedTo d (f.count d) := by
  unfold HomeFilter.steppedTo HomeFilter.count
  refine ⟨fun h => if_pos h, fun h e => ?_, fun h e => ?_⟩ <;> rw [if_neg h, e]

theorem approach_goesToward (v goal most : Nat) : goesToward v goal most (approach v goal most) := by
  unfold goesToward approach
  constructor <;> intro h <;> split <;> omega

theorem slewSpeed_spec (v limit most : Nat) (left : Int) :
    slewSpeed v limit most left ≤ v + most ∧ (0 ≤ left → slewSpeed v limit most left ≤ v + most) ∧
    (v ≤ limit → slewSpeed v limit most left ≤ limit) ∧ (left < 0 → slewSpeed v limit most left = v - most) ∧
    ∀ n : Nat, left = n →
      (v ≤ most * (n + 1) → slewSpeed v limit most left ≤ most * n) ∧
      (most * n < v - most → slewSpeed v limit most left = v - most) ∧
      (v - most ≤ most * n → slewSpeed v limit most left = min (approach v limit most) (most * n)) := by
  have ha := approach_goesToward v limit most
  unfold goesToward at ha
  unfold slewSpeed
  have hm : ∀ n : Nat, most * (n + 1) = most * n + most := fun n => Nat.mul_succ most n
  refine ⟨?_, fun _ => ?_, fun _ => ?_, fun h => if_pos h, fun n hn => ?_⟩
  · split
    · omega
    · split <;> omega
  · split
    · omega
    · split <;> omega
  · split
    · omega
    · split <;> omega
  · subst hn
    rw [if_neg (by omega), Int.toNat_natCast]
    refine ⟨fun h => ?_, fun h => if_pos h, fun h => if_neg (by omega)⟩
    rw [hm] at h
    split <;> omega

/-- A slew loses no more than its acceleration gives over one step. -/
theorem slewSpeed_ge (v limit most : Nat) (left : Int) : v ≤ slewSpeed v limit most left + most := by
  have ha := approach_goesToward v limit most
  unfold goesToward at ha
  unfold slewSpeed
  split
  · omega
  · split <;> omega

theorem trackSpeed_spec (v most : Nat) (goal : Int) :
    (goal ≤ 0 → trackSpeed v most goal = v - most) ∧
      ∀ g : Nat, goal = g → 0 < g → goesToward v (g * g) most (trackSpeed v most goal) := by
  unfold trackSpeed
  refine ⟨fun h => if_pos h, fun g e h => ?_⟩
  rw [if_neg (by omega), e, Int.toNat_natCast]
  exact approach_goesToward v _ most

/-! ## The tests of a tracking axis (R82, R85) and when a pulse may start (R66, R104) -/

theorem notify_axis (s : State) (k : NoticeKind) (r : Resource) (n : Option Nat) (b : Bool) (c : AxisId) :
    (s.notify k r n b).axis c = s.axis c := by
  rw [notify_ports]
  rfl

theorem lagExcess_axis (s : State) (a c : AxisId) : (s.lagExcess a).axis c = s.axis c := by
  unfold State.lagExcess
  split
  · split
    · rw [notify_axis]
      rfl
    · rfl
  · rfl

theorem testLagging_axis (s : State) (a : AxisId) (t : Tracking) (lag : Nat) (h : (s.axis a).tracking = some t) :
    (∃ g, (s.testLagging a t lag).axis a = { s.axis a with tracking := some { t with lagging := g } }) ∧
      ∀ b, b ≠ a → (s.testLagging a t lag).axis b = s.axis b := by
  unfold State.testLagging State.notifyAxis
  dsimp only
  split
  · exact ⟨⟨true, by rw [notify_axis, lagExcess_axis]; simp⟩, fun b hb => by
      rw [notify_axis, lagExcess_axis]; exact State.modAxis_axis_of_ne _ _ hb⟩
  · split
    · exact ⟨⟨false, by simp⟩, fun b hb => State.modAxis_axis_of_ne _ _ hb⟩
    · exact ⟨⟨t.lagging, by rw [show ({ t with lagging := t.lagging } : Tracking) = t from rfl, ← h]⟩, fun _ _ => rfl⟩

theorem testSettled_axis (s : State) (a : AxisId) (t : Tracking) (lag : Nat) (r : Bool) :
    (∃ g, (s.testSettled a t lag r).axis a =
      { s.axis a with tracking := (s.axis a).tracking.map fun t => { t with settled := g } }) ∧
      ∀ b, b ≠ a → (s.testSettled a t lag r).axis b = s.axis b := by
  unfold State.testSettled State.settledReport
  dsimp only
  refine ⟨⟨!t.uncovered && decide (lag ≤ (s.axis a).record.settleTolerance), ?_⟩, fun b hb => ?_⟩
  · split
    · split
      · split
        · rw [State.rollLeave_axis]; simp
        · simp
      · simp
    · simp
  · split
    · split
      · split
        · rw [State.rollLeave_axis]; exact State.modAxis_axis_of_ne _ _ hb
        · exact State.modAxis_axis_of_ne _ _ hb
      · exact State.modAxis_axis_of_ne _ _ hb
    · exact State.modAxis_axis_of_ne _ _ hb

theorem Axis.tracking_eta (x : Axis) {t : Option Tracking} (h : x.tracking = t) : x = { x with tracking := t } := by
  subst h
  rfl

/-- The tests change the flags LAGGING and SETTLED of that axis alone; without a tracking record they do nothing. -/
theorem testTracking_axis (s : State) (a : AxisId) (r : Bool) :
    ((s.axis a).tracking = none → s.testTracking a r = s) ∧ (∀ b, b ≠ a → (s.testTracking a r).axis b = s.axis b) ∧
      ∃ w, (s.testTracking a r).axis a = { s.axis a with tracking := w } ∧
        ∀ t, (s.axis a).tracking = some t → ∃ v, w = some v ∧ v = { t with lagging := v.lagging, settled := v.settled } := by
  unfold State.testTracking
  split
  · rename_i t lag ht _
    obtain ⟨⟨g, e1⟩, e2⟩ := testLagging_axis s a t lag ht
    obtain ⟨⟨k, f1⟩, f2⟩ := testSettled_axis (s.testLagging a t lag) a t lag r
    refine ⟨fun h => absurd (ht.symm.trans h) nofun, fun b hb => (f2 b hb).trans (e2 b hb), some { t with lagging := g, settled := k },
      ?_, fun t' e => ⟨_, rfl, by cases ht.symm.trans e; rfl⟩⟩
    rw [f1, e1]
    rfl
  · exact ⟨fun _ => rfl, fun _ _ => rfl, (s.axis a).tracking, Axis.tracking_eta _ rfl, fun t h => ⟨t, h, rfl⟩⟩

theorem exhausted_iff (h : Homing) : h.exhausted = true ↔ h.braking = false ∧ h.edge = none ∧ h.distance ≤ h.travel := by
  unfold Homing.exhausted Homing.counting
  simp [and_assoc]

theorem mayStep_iff (x : Axis) (ra : Int) (d : Dir) :
    x.mayStep ra d = true ↔ x.state.moving = true ∧ x.pulse = none ∧ x.pause = none ∧ (0 < x.speedSq ∨ x.wishes ra d) ∧
      ∀ h, x.homing = some h → h.exhausted = false := by
  unfold Axis.mayStep
  rw [← desired_iff]
  cases x.homing <;> simp [and_assoc]

/-! ## The goal of a tracking axis (R80) -/

theorem root_unique {n r k : Nat} (h1 : r * r ≤ n) (h2 : n < (r + 1) * (r + 1)) (h3 : k * k ≤ n) (h4 : n < (k + 1) * (k + 1)) :
    r = k := by
  rcases Nat.lt_trichotomy r k with h | h | h
  · exact absurd (Nat.le_trans (Nat.mul_le_mul h h) h3) (Nat.not_le.2 h2)
  · exact h
  · exact absurd (Nat.le_trans (Nat.mul_le_mul h h) h1) (Nat.not_le.2 h4)

theorem isqrt_eq {n r : Nat} (h1 : r * r ≤ n) (h2 : n < (r + 1) * (r + 1)) : isqrt n = r :=
  root_unique (isqrt_spec n).1 (isqrt_spec n).2 h1 h2

theorem goal_acquiring {x : Axis} {r : Tracking} (h : x.tracking = some r) (ha : r.acquire = true) (ra : Int) : x.goal ra = 0 := by
  unfold Axis.goal
  rw [h]
  exact if_pos ha

theorem goal_spec {x : Axis} {r : Tracking} (h : x.tracking = some r) (ha : r.acquire = false) (ra e forward top : Int) (root : Nat)
    (he : e = x.difference r.target x.extended) (hz : r.uncovered = true ∨ r.clamped = true ∨ r.last = none → forward = 0)
    (hf : ∀ c, r.uncovered = false → r.clamped = false → r.last = some c →
      forward = (c.rate * ra * x.record.stepsPerTurn * x.record.sense.sign).tdiv (86400 * 2 ^ 24))
    (h1 : root * root ≤ 2 * x.record.acceleration * e.natAbs * 2 ^ 32)
    (h2 : 2 * x.record.acceleration * e.natAbs * 2 ^ 32 < (root + 1) * (root + 1)) (ht : top = x.record.velocity * 2 ^ 16) :
    x.goal ra = max (-top) (min top (forward + e.sign * (min (25 * e.natAbs * 2 ^ 16) root : Nat))) := by
  unfold Axis.goal
  rw [h]
  dsimp only
  rw [if_neg (by simp [ha]), ← he, isqrt_eq h1 h2, ht]
  push_cast
  refine congrArg _ (congrArg _ (congrArg (· + _) ?_))
  cases hu : r.uncovered with
  | true => simp [hz (.inl hu)]
  | false =>
    cases hk : r.clamped with
    | true => simp [hz (.inr (.inl hk))]
    | false =>
      cases hl : r.last with
      | none => simp [hz (.inr (.inr hl))]
      | some c => simp [hf c hu hk hl]

/-! ## The record an encoding names (R49, R51, R52) -/

theorem recordOf_written (raw : RawRecord) (h : ∀ f, raw.inRange f) : (recordOf raw).written raw := by
  have hk := h 1
  have hs := h 3
  have hd := h 11
  have hg := h 22
  have hw := h 23
  have hb := h 24
  have hn := h 26
  simp only [RawRecord.inRange] at hk hs hd hg hw hb hn
  unfold AxisRecord.written recordOf positionField
  dsimp only
  refine ⟨fun e => ?_, fun e => ?_, rfl, fun e => ?_, fun e => ?_, rfl, rfl, rfl, rfl, rfl, rfl, ?_, ?_, rfl, ?_, rfl, rfl, ?_, ?_,
    rfl, rfl, ?_, ?_, fun e => ?_, fun e => ?_, fun e => ?_, fun e => ?_, ?_, ?_⟩
  · simp [e]
  · simp [e]
  · simp [e]
  · simp [e]
  · simp
  · split <;> simp [Dir.code] <;> omega
  · simp
  · simp
  · simp
  · simp
  · simp [groupIdOf, show raw.group < 8 by omega]
  · simp [e]
  · simp [e]
  · simp [e]
  · simp [e]
  · unfold channelOf
    split <;> (simp; try omega)
  · split <;> simp [Dir.code] <;> omega

theorem firstSafetyChange_spec (old new : AxisRecord) :
    (∀ f, 1 ≤ f → f ≤ 6 → (∀ g, g < f → old.keeps new g) → ¬ old.keeps new f → firstSafetyChange old new = some f) ∧
      ((∀ g, old.keeps new g) → firstSafetyChange old new = none) := by
  constructor
  · intro f h1 h6 hg hf
    have k : ∀ g, g < f → old.keeps new g := hg
    unfold firstSafetyChange
    have k1 := k 1
    have k2 := k 2
    have k3 := k 3
    have k4 := k 4
    have k5 := k 5
    simp only [AxisRecord.keeps] at k1 k2 k3 k4 k5
    match f, h1, h6 with
    | 1, _, _ => simp only [AxisRecord.keeps] at hf; simp [Ne.symm hf]
    | 2, _, _ => simp only [AxisRecord.keeps] at hf; simp [Ne.symm hf, k1 (by omega)]
    | 3, _, _ => simp only [AxisRecord.keeps] at hf; simp [Ne.symm hf, k1 (by omega), k2 (by omega)]
    | 4, _, _ => simp only [AxisRecord.keeps] at hf; simp [Ne.symm hf, k1 (by omega), k2 (by omega), k3 (by omega)]
    | 5, _, _ =>
      simp only [AxisRecord.keeps] at hf; simp [Ne.symm hf, k1 (by omega), k2 (by omega), k3 (by omega), k4 (by omega)]
    | 6, _, _ =>
      simp only [AxisRecord.keeps] at hf
      simp [Ne.symm hf, k1 (by omega), k2 (by omega), k3 (by omega), k4 (by omega), k5 (by omega)]
  · intro h
    have k1 := h 1
    have k2 := h 2
    have k3 := h 3
    have k4 := h 4
    have k5 := h 5
    have k6 := h 6
    simp only [AxisRecord.keeps] at k1 k2 k3 k4 k5 k6
    simp [firstSafetyChange, k1, k2, k3, k4, k5, k6]

theorem outsideLimits_iff (y : Axis) : y.outsideLimits = true ↔
    y.known = true ∧ ∃ lo hi, y.record.soft = some (lo, hi) ∧ (y.position.within < lo ∨ hi < y.position.within) := by
  unfold Axis.outsideLimits
  cases h : y.record.soft with
  | none => simp
  | some p => obtain ⟨lo, hi⟩ := p; simp

/-- The place within the turn as the wrap policy picks it (R71), from the extended position `e`. -/
theorem wrapTarget_spec (p : WrapPolicy) (n : Nat) (q : Position) (w e k : Int) (hn : 0 < n) (he : q.turn * n + q.within = e)
    (hk : k = wrapTarget p n q w) :
    (k - w).emod n = 0 ∧ (p = .shortest → 2 * (k - e) ≤ n ∧ -(n : Int) < 2 * (k - e)) ∧ (p = .positive → e ≤ k ∧ k < e + n) ∧
      (p = .negative → e - n < k ∧ k ≤ e) := by
  have hp : (0 : Int) < n := by exact_mod_cast hn
  obtain ⟨d, hd⟩ : ∃ d, d = (w - q.within).emod n := ⟨_, rfl⟩
  have h1 : 0 ≤ d := hd ▸ Int.emod_nonneg _ (ne_of_gt hp)
  have h2 : d < n := hd ▸ Int.emod_lt_of_pos _ hp
  have h3 : d + n * ((w - q.within) / n) = w - q.within := hd ▸ Int.emod_add_mul_ediv (w - q.within) n
  have hm : ∀ j : Int, k = e + d + j * n → (k - w).emod n = 0 := fun j hj =>
    Int.emod_eq_zero_of_dvd ⟨q.turn - (w - q.within) / n + j, by rw [hj, ← he]; linear_combination h3⟩
  unfold wrapTarget at hk
  dsimp only at hk
  rw [he, ← hd] at hk
  cases p <;> dsimp only at hk
  · split at hk
    · exact ⟨hm 0 (by omega), fun _ => by omega, nofun, nofun⟩
    · exact ⟨hm (-1) (by omega), fun _ => by omega, nofun, nofun⟩
  · exact ⟨hm 0 (by omega), nofun, fun _ => by omega, nofun⟩
  · split at hk
    · exact ⟨hm 0 (by omega), nofun, nofun, fun _ => by omega⟩
    · exact ⟨hm (-1) (by omega), nofun, nofun, fun _ => by omega⟩

/-- The extended target of a CONTINUOUS axis is its wrap policy's. -/
theorem extendedTarget_wrap (x : Axis) (n : Int) (hc : x.record.kind = .continuous) :
    x.extendedTarget n = wrapTarget (x.record.wrap.getD .shortest) x.record.stepsPerTurn x.position n ∧
      x.position.turn * x.record.stepsPerTurn + x.position.within = x.extended := by
  unfold Axis.extendedTarget Axis.extended
  rw [hc]
  exact ⟨rfl, rfl⟩

/-! ## Runners that stand settled (R144) -/

theorem waitingOn_iff (s : State) (r : Port) (c : Cue) : s.waitingOn r = some c ↔
    (s.runner r).state = .waitingTrigger ∧ (s.runner r).loopPause = none ∧ (s.cuesOf r)[(s.runner r).cue]? = some c := by
  unfold State.waitingOn
  dsimp only
  split <;> simp_all

theorem mem_allAxes (a : AxisId) : a ∈ allAxes := (by decide : ∀ a : AxisId, a ∈ allAxes) a

theorem settledMet_iff (s : State) (c : Cue) (h : c.trigger = .onSettled) : s.settledMet c = true ↔ s.metAtEntry c := by
  unfold State.metAtEntry State.settledMet
  rw [h]
  dsimp only
  unfold State.groupSettled State.membersOf
  cases hg : groupIdOf c.settledGroup with
  | none =>
    simp only [Bool.false_eq_true, false_iff]
    rintro ⟨g, e, _⟩
    rw [e, groupIdOf_val] at hg
    cases hg
  | some g =>
    have e : c.settledGroup = g.val := by
      unfold groupIdOf at hg
      split at hg
      · cases hg
        rfl
      · cases hg
    simp only [Bool.and_eq_true, bne_iff_ne, ne_eq, List.all_eq_true, List.mem_filter, beq_iff_eq, Bool.or_eq_true]
    constructor
    · rintro ⟨h1, h2⟩
      refine ⟨g, e, h1, fun a ha ht => ?_⟩
      rcases h2 a ⟨mem_allAxes a, ha⟩ with k | k
      · exact absurd ht k
      · cases hx : (s.axis a).tracking with
        | none => rw [hx] at k; cases k
        | some y => rw [hx] at k; exact ⟨y, rfl, k⟩
    · rintro ⟨g', e', h1, h2⟩
      obtain rfl : g' = g := Fin.ext (e'.symm.trans e)
      refine ⟨h1, fun a ha => ?_⟩
      by_cases ht : (s.axis a).state = .tracking
      · obtain ⟨y, hy, hs⟩ := h2 a ha.2 ht
        rw [hy]
        exact .inr hs
      · exact .inl ht

/-- The runners whose waiting ON_SETTLED trigger is satisfied. -/
theorem mem_settledRunners (s : State) (r : Port) : r ∈ s.settledRunners ↔ ∃ c, s.waitsSettled r c ∧ s.metAtEntry c := by
  unfold State.settledRunners
  rw [List.mem_filter]
  constructor
  · rintro ⟨_, h⟩
    split at h
    · rename_i c hw
      simp only [Bool.and_eq_true, beq_iff_eq] at h
      obtain ⟨a, b, d⟩ := (waitingOn_iff s r c).1 hw
      exact ⟨c, ⟨a, b, d, h.1⟩, (settledMet_iff s c h.1).1 h.2⟩
    · cases h
  · rintro ⟨c, ⟨a, b, d, t⟩, m⟩
    refine ⟨by cases r <;> decide, ?_⟩
    rw [(waitingOn_iff s r c).2 ⟨a, b, d⟩]
    simp [t, (settledMet_iff s c t).2 m]

end Sys2Proof.Machine
end

