-- ==== Sys2Proof/Tests/Slice0.lean ====
section
/-! SUPPORT. Tests on small states: an ill-formed command for each check of WellFormed, and for each statement a state and
operands that meet its hypotheses, its clauses at the ends of their ranges. -/

set_option Elab.async false

namespace Sys2Proof.Tests

open Sys2Proof Sys2Proof.Machine

/-! ## Small states -/

/-- After reset, with SKY and G0 held by port A. -/
def held : State :=
  (State.reset.setClaim .sky { holder := some ⟨.A, 0, none⟩, waiting := [] }).setClaim (.group 0)
    { holder := some ⟨.A, 0, none⟩, waiting := [] }

/-- The state a command leaves. -/
def after (i : Instr) (s : State) : State :=
  match exec i s with
  | .next t => t
  | .fault _ => s
  | .refused _ => s

/-- Status and detail of the reply of port A to a command. -/
def answer (i : Instr) (s : State) : List Byte := ((((after i s).port .A).reply.map Frame.payload).getD []).take 2

/-- A port takes its next frame (`State.ready`, decidable). -/
def readyA (s : State) : Bool := s.phase == .running && (s.port .A).request == .ready

/-- A quiet part (`State.Quiet`, decidable). -/
def quiet (s : State) : Bool :=
  s.signals.isEmpty && s.settledRunners.isEmpty && allAxes.all fun a => !(s.axis a).state.moving || decide (0 < (s.axis a).speedSq)

/-- A standing LIMITED axis at 50 of 0 to 100. -/
def standingL : Axis :=
  { Axis.reset false false false false with
      record := { AxisRecord.default with kind := .limited, soft := some (0, 100), wrap := none, binding := some 0 }
      state := .standing, known := true, position := ⟨0, 50⟩ }

/-- A standing CONTINUOUS axis at 3 of 51,200. -/
def standingC : Axis :=
  { Axis.reset false false false false with
      record := { AxisRecord.default with binding := some 0 }, state := .standing, known := true, position := ⟨0, 3⟩ }

/-- An axis in slewing motion, 10 steps before its target. -/
def slewingL : Axis :=
  { standingL with
      state := .slewing, speedSq := sqScale, direction := some .plus
      target := some { position := 60, limitSq := standingL.record.limitSq, accel2 := standingL.record.accel2, staged := none,
                       serial := 0 } }

def track0 : Tracking :=
  { acquire := false, angle := 0, last := none, lastEpoch := none, target := 60, lagging := false, clamped := false,
    uncovered := false, settled := false }

def staged0 : StagedAt := { epoch := 0, angle := 0, result := ⟨0, 0, 0, 0, 0, .bounded, 0⟩ }

def trackingL : Axis := { standingL with state := .tracking, tracking := some track0, speedSq := sqScale, direction := some .plus }

def seek0 : Homing :=
  { phase := .seek, braking := false, direction := .plus, speed := 1000, activeHigh := true, filter := 4, offset := 0,
    distance := 100, travel := 0, reversals := 0, edge := none, starter := .request }

def homingL : Axis :=
  { standingL with state := .homing, known := false, homing := some seek0, speedSq := sqScale, direction := some .plus }

def faultedL : Axis :=
  { standingL with state := .faulted, fault := { FaultRecord.reset with first := some .driveFault } }

/-- `held` with axis 0 replaced. -/
def put (x : Axis) : State := held.setAxis 0 x

/-! ## Well-formedness: each check refuses an ill-formed command -/

theorem test_wf_accepts :
    (Instr.setRate .A 1 (-549755813888) 4294967295).wf = true ∧ (Instr.setMark .A 1 255 255 (256 ^ 7 - 1) 0 255).wf = true ∧
      (Instr.frameReceived .A 1 1 (List.replicate 255 0) 0).wf = true := by decide +kernel

def seg0 : RawSegment := { start := 0, span := 1, a0 := 0, a1 := 0, flag := 0, a2 := 0 }

theorem test_wf_one_byte :
    ([.readPortStatus .A 1 256, .setEpoch .A 1 0 256, .setGovernor .A 1 256, .setTimebase .A 1 256,
        .setMark .A 1 256 0 0 0 0, .setMark .A 1 0 256 0 0 0, .setMark .A 1 0 0 0 0 256, .readMark .A 1 256,
        .appendSegments .A 1 256 [], .insertSegment .A 1 256 seg0, .deleteSpan .A 1 256 0 0,
        .clearChannel .A 1 256, .setChannelKind .A 1 256 0, .setChannelKind .A 1 0 256,
        .setChannelEnable .A 1 256 0, .setChannelEnable .A 1 0 256, .readChannel .A 1 256,
        .readSegment .A 1 256 0, .readSegment .A 1 0 256, .queryAngle .A 1 256 0 0, .queryAngle .A 1 0 256 0,
        .readAxisRecord .A 1 256, .bind .A 1 256 0, .bind .A 1 0 256, .unbind .A 1 256, .lockSafety .A 1 256,
        .readAxisState .A 1 256, .enable .A 1 256, .disable .A 1 256, .declareReference .A 1 256 0 0,
        .slew .A 1 256 0 0, .slew .A 1 0 256 0, .track .A 1 256, .stop .A 1 256, .home .A 1 256,
        .clearFault .A 1 256, .readGroup .A 1 256, .coordinatedSlew .A 1 256 [],
        .coordinatedSlew .A 1 0 [(256, 0)], .stageGroup .A 1 256 0, .trackGroup .A 1 256,
        .stopGroup .A 1 256, .readGroupMotion .A 1 256, .claim .A 1 256 0 0 0, .claim .A 1 0 256 0 0,
        .claim .A 1 0 0 256 0, .renew .A 1 256, .release .A 1 256, .withdraw .A 1 256,
        .openProgram .A 1 256 0, .appendCues .A 1 256 [], .closeProgram .A 1 256, .eraseProgram .A 1 256,
        .readProgram .A 1 256 0, .readProgram .A 1 0 256, .runProgram .A 1 256, .readRunner .A 1 256,
        .setLink .A 1 256 0 ⟨0, 0, 0⟩ ⟨0, 0, 0⟩, .setLink .A 1 0 256 ⟨0, 0, 0⟩ ⟨0, 0, 0⟩,
        .setLinkEnable .A 1 256 0, .setLinkEnable .A 1 0 256, .readLink .A 1 256,
        .setTriggerFilter .A 1 256 0, .setTriggerFilter .A 1 0 256, .setReturnPolicy .A 1 256,
        .setNoticeRouting .A 1 256 0 0, .setNoticeRouting .A 1 0 256 0, .setNoticeRouting .A 1 0 0 256] : List Instr).all (fun i => !i.wf) = true := by decide +kernel

theorem test_wf_more_bytes :
    ([.setRate .A 1 549755813888 0, .setRate .A 1 0 4294967296, .setEpoch .A 1 (2 ^ 55) 0,
        .setSettleTime .A 1 65536, .setSyncPeriod .A 1 4294967296, .setMark .A 1 0 0 (256 ^ 7) 0 0,
        .setMark .A 1 0 0 0 (2 ^ 55) 0, .insertSegment .A 1 0 { seg0 with span := 256 ^ 6 },
        .appendSegments .A 1 0 [{ seg0 with span := 256 ^ 6 }],
        .appendSegments .A 1 0 (List.replicate 8 seg0), .deleteSpan .A 1 0 (-(2 ^ 55) - 1) 0,
        .deleteSpan .A 1 0 0 (2 ^ 55), .queryAngle .A 1 0 0 (2 ^ 55), .stageGroup .A 1 0 (2 ^ 55),
        .claim .A 1 0 0 0 65536, .setLink .A 1 0 0 ⟨256, 0, 0⟩ ⟨0, 0, 0⟩,
        .setLink .A 1 0 0 ⟨0, 0, 0⟩ ⟨256, 0, 0⟩, .setReportRate .A 1 65536] : List Instr).all (fun i => !i.wf) = true := by decide +kernel

theorem test_wf_segment :
    seg0.wf = true ∧ ({ seg0 with start := 2 ^ 55 } : RawSegment).wf = false ∧ ({ seg0 with span := 256 ^ 6 } : RawSegment).wf = false ∧
      ({ seg0 with a0 := 256 ^ 4 } : RawSegment).wf = false ∧ ({ seg0 with a1 := 2 ^ 47 } : RawSegment).wf = false ∧
      ({ seg0 with flag := 256 } : RawSegment).wf = false ∧ ({ seg0 with a2 := 2 ^ 63 } : RawSegment).wf = false ∧
      (Instr.appendSegments .A 1 0 (List.replicate 8 seg0)).wf = false := by decide +kernel

/-- The default record of Table 3-1 as it is sent. -/
def raw0 : RawRecord :=
  { kind := 0, stepsPerTurn := 51200, softPresence := 0, softMin := 0, softMax := 0, velocity := 10000, acceleration := 50000,
    haltDecel := 200000, stopDecel := 50000, lagLimit := 1000, settleTolerance := 4, homeMethod := 0, homeDirection := 1,
    homeSpeed := 1000, homeEdge := 0, homeFilter := 4, homeOffset := 0, searchDistance := 102400, clearPolicy := 1,
    keepPosition := 0, pulseWidth := 5, reversalPause := 50, dirPolarity := 0, group := 0, wrapPolicy := 0, binding := 255,
    zeroOffset := 0, sense := 0 }

theorem test_wf_record :
    raw0.wf = true ∧ (Instr.configureAxis .A 1 256 raw0).wf = false ∧
      ([{ raw0 with kind := 256 },
        { raw0 with stepsPerTurn := 256 ^ 4 },
        { raw0 with softPresence := 256 },
        { raw0 with softMin := -(2 ^ 31) - 1 },
        { raw0 with softMax := 2 ^ 31 },
        { raw0 with velocity := 256 ^ 4 },
        { raw0 with acceleration := 256 ^ 4 },
        { raw0 with haltDecel := 256 ^ 4 },
        { raw0 with stopDecel := 256 ^ 4 },
        { raw0 with lagLimit := 256 ^ 4 },
        { raw0 with settleTolerance := 65536 },
        { raw0 with homeMethod := 256 },
        { raw0 with homeDirection := 256 },
        { raw0 with homeSpeed := 256 ^ 4 },
        { raw0 with homeEdge := 256 },
        { raw0 with homeFilter := 256 },
        { raw0 with searchDistance := 256 ^ 4 },
        { raw0 with clearPolicy := 256 },
        { raw0 with keepPosition := 256 },
        { raw0 with pulseWidth := 256 },
        { raw0 with reversalPause := 65536 },
        { raw0 with dirPolarity := 256 },
        { raw0 with group := 256 },
        { raw0 with wrapPolicy := 256 },
        { raw0 with binding := 256 },
        { raw0 with sense := 256 }] : List RawRecord).all (fun r => !r.wf) = true := by decide +kernel

/-- A NOTE after the one before it. -/
def note0 : RawCue := { length := 13, kind := 10, trigger := 0, flags := 0, value := 0, targetKind := 0, target := 0, params := [] }

theorem test_wf_cue :
    note0.wf = true ∧ ({ note0 with length := 14 } : RawCue).wf = false ∧ ({ note0 with kind := 256 } : RawCue).wf = false ∧
      (Instr.appendCues .A 1 0 (List.replicate 19 note0)).wf = false ∧
      (Instr.coordinatedSlew .A 1 0 [(256, 0)]).wf = false ∧ (Instr.coordinatedSlew .A 1 0 (List.replicate 48 (0, 0))).wf = false := by
  decide +kernel

theorem test_wf_link_and_frame :
    (RawSource.mk 0 65535 0).wf = true ∧ (RawSource.mk 0 65536 0).wf = false ∧ (RawSource.mk 0 0 1).wf = false ∧
      (RawSource.mk 1 256 0).wf = false ∧ (RawSource.mk 256 0 0).wf = false ∧ (RawDest.mk 0 (256 ^ 5) 0).wf = false ∧
      (RawDest.mk 1 0 256).wf = false ∧ (RawDest.mk 2 0 (256 ^ 4)).wf = false ∧ (RawDest.mk 3 0 1).wf = false ∧
      (Instr.frameReceived .A 1 1 (List.replicate 256 0) 0).wf = false := by decide +kernel

/-- No row of the table gives bits, so no word spells a command. -/
theorem test_no_word_spells_a_command : decodeTableWord 8 5 = none ∧ State.reset.withFetchWord 8 5 = State.reset := by
  decide +kernel

/-! ## The queue and the ports -/

theorem test_step_hypotheses :
    ({ held with pending := [.epochUpdate, .evaluationStart] } : State).pending = .epochUpdate :: [.evaluationStart] ∧
      held.pending = [] := by decide +kernel

theorem test_held_in_reset :
    (after .powerOnReset held).phase ≠ .running ∧ (Instr.epochUpdate).startsPart = false ∧
      after .epochUpdate (after .powerOnReset held) = after .powerOnReset held := by decide +kernel

def busyA : State := held.modPort .A fun q => { q with request := .outstanding 9 17 }
def fullA : State := busyA.modPort .A fun q => { q with short := some ⟨1, 1, []⟩ }

theorem test_outstanding_port :
    busyA.phase = .running ∧ (busyA.port .A).request = .outstanding 9 17 ∧ (busyA.port .A).short = none ∧
      ((after (.run .A 1) busyA).port .A).short = some ⟨1, 18, [3, 255]⟩ ∧
      ((after (.run .A 1) busyA).port .A).busyCount = 1 ∧ ((after (.run .A 1) fullA).port .A).shortDiscards = 1 ∧
      (busyA.performHalt.port .A).short = none ∧ (fullA.performHalt.port .A).short = some ⟨1, 1, []⟩ ∧
      ((after (.haltAll .A 1) busyA).port .A).short = some ⟨1, 5, [0, 255]⟩ ∧
      (after (.haltAll .A 1) fullA).clock.reason = .haltLine := by decide +kernel

/-- A frame with its right CRC. -/
def goodFrame (code : Byte) (payload : List Byte) : Instr :=
  .frameReceived .A 7 code payload (crcOf (BitVec.ofNat 8 payload.length :: 7 :: code :: payload))

theorem test_bad_frames :
    readyA held = true ∧ ((after (goodFrame 1 (List.replicate 241 0)) held).port .A).discarded = 1 ∧
      ((after (.frameReceived .A 7 1 [] 0) held).port .A).discarded = 1 ∧
      answer (goodFrame 0 []) held = [4, 255] ∧ answer (goodFrame 165 (List.replicate 9 0)) held = [4, 255] ∧
      answer (goodFrame 1 [0]) held = [5, 254] ∧ answer (goodFrame 163 [0]) held = [5, 254] ∧
      answer (goodFrame 20 [0]) held = [5, 254] := by decide +kernel

theorem test_frame_of_a_request :
    (Instr.setRate .A 7 1000 0).request = some (.setRate 1000 0) ∧ (Instr.setRate .A 7 1000 0).sender = some (.A, 7) ∧
      (Request.setRate 1000 0).wf = true ∧ (held.port .A).receiver = .hunt ∧
      after (goodFrame 17 (encodeRequest (.setRate 1000 0))) held = after (.setRate .A 7 1000 0) held ∧
      answer (.setRate .A 7 1000 0) held = [0, 255] := by decide +kernel

theorem test_frame_completes_or_is_busy :
    (Request.run).wf = true ∧ after (Request.asFrame .run .A 7) held = after (.run .A 7) held ∧
      ((after (Request.asFrame .run .A 7) (held.setReceiver .A (.header []))).port .A).receiver = .hunt ∧
      ((after (Request.asFrame .run .A 7) busyA).port .A).short = some ⟨7, 18, [3, 255]⟩ ∧
      (after (Request.asFrame .haltAll .A 7) busyA).clock.reason = .haltLine := by decide +kernel

/-- Lengths a code does not allow, fixed and counted. -/
theorem test_wrong_lengths :
    answer (goodFrame 17 (List.replicate 8 0)) held = [5, 254] ∧ answer (goodFrame 49 [0]) held = [5, 254] ∧
      answer (goodFrame 164 [0]) held = [5, 254] ∧ answer (goodFrame 32 [0, 1]) held = [5, 254] ∧ answer (goodFrame 32 [0]) held = [5, 254] ∧
      answer (goodFrame 65 [0, 1, 0]) held = [5, 254] ∧ answer (goodFrame 97 [0, 1, 13]) held = [5, 254] ∧
      answer (goodFrame 97 [0]) held = [5, 254] ∧ answer (goodFrame 32 [0, 0]) held = [5, 255] ∧
      ((after (goodFrame 0 []) busyA).port .A).short = some ⟨7, 0, [3, 255]⟩ ∧
      ((after (goodFrame 17 []) busyA).port .A).busyCount = 1 := by decide +kernel

theorem test_requests_survive :
    (Request.setRate (-549755813888) 4294967295).wf = true ∧
      decodeRequest 17 (encodeRequest (.setRate (-549755813888) 4294967295)) = .request (.setRate (-549755813888) 4294967295) ∧
      decodeRequest 97 (encodeRequest (.appendCues 3 [note0, note0])) = .request (.appendCues 3 [note0, note0]) := by
  decide +kernel

/-- The CRC of R193 over 123456789, the check value of its generator and start. -/
theorem test_crc : crcOf [49, 50, 51, 52, 53, 54, 55, 56, 57] = 0x29B1#16 := by decide +kernel

def hears (r : Receiver) : State := held.setReceiver .A r
def heard (b : Byte) (r : Receiver) : Receiver := ((after (.byteReceived .A b) (hears r)).port .A).receiver

theorem test_receiver :
    heard 197 .hunt = .header [] ∧ heard 196 .hunt = .hunt ∧ heard 240 (.header []) = .header [240] ∧
      heard 241 (.header []) = .hunt ∧ heard 7 (.header [1]) = .header [1, 7] ∧
      heard 17 (.header [0, 7]) = .check 7 17 [] none ∧ heard 17 (.header [1, 7]) = .body 7 17 1 [] ∧
      heard 5 (.body 7 17 1 []) = .check 7 17 [5] none ∧ heard 5 (.body 7 17 2 []) = .body 7 17 1 [5] ∧
      heard 5 (.check 7 17 [] none) = .check 7 17 [] (some 5) ∧ heard 5 (.check 7 17 [] (some 5)) = .hunt := by
  decide +kernel

theorem test_bytes_of_a_frame_and_line_errors :
    ((⟨7, 1, []⟩ : Frame).bytes.foldl (fun s b => s.byteReceived .A b) held) = held.passFrame .A 7 1 [] ∧
      after (.framingError .A) held = held ∧ after (.frameGapTimeout .A) held = held ∧
      ((after (.framingError .A) (hears (.header []))).port .A).discarded = 1 ∧
      ((after (.frameGapTimeout .A) (hears (.header []))).port .A).receiver = .hunt := by decide +kernel

def sends (tx : Option (List Byte)) (reply short : Option Frame) : State :=
  held.modPort .A fun q => { q with tx := tx, reply := reply, short := short, request := .outstanding 7 1 }

theorem test_transmitter :
    ((after (.replyStart .A) (sends (some [1]) (some ⟨7, 1, []⟩) none)).port .A).reply = some ⟨7, 1, []⟩ ∧
      ((after (.replyStart .A) (sends none (some ⟨7, 1, []⟩) (some ⟨8, 1, []⟩))).port .A).request = .ready ∧
      ((after (.replyStart .A) (sends none none (some ⟨8, 1, []⟩))).port .A).tx = some (⟨8, 1, []⟩ : Frame).bytes ∧
      ((after (.replyStart .A) (sends none none none)).port .A).tx = none ∧
      ((after (.frameTransmissionEnd .A) (sends (some [1]) none none)).port .A).tx = none := by decide +kernel

/-! ## Reads, claims and HALTED -/

theorem test_reads_complete :
    readyA held = true ∧
      ([.identify .A 1, .readStartRecord .A 1, .readClock .A 1, .readChannel .A 1 11, .readStore .A 1, .readAxisRecord .A 1 15,
        .readAxisState .A 1 15, .readGroup .A 1 7, .readGroupMotion .A 1 7, .readClaims .A 1, .readProgram .A 1 15 0,
        .readRunner .A 1 2, .readLines .A 1, .readDrivePower .A 1, .readNoticeRouting .A 1, .readMark .A 1 3, .readLink .A 1 23,
        .readCapture .A 1, .readPortStatus .A 1 2, .fetchNotices .A 1, .readSnapshot .A 1] : List Instr).all
        (fun i => answer i held == [0, 255]) = true := by decide +kernel

theorem test_reads_of_absent_items :
    ([.readPortStatus .A 1 3, .readRunner .A 1 3, .readMark .A 1 4, .readGroup .A 1 8, .readGroupMotion .A 1 8,
        .readChannel .A 1 12, .readSegment .A 1 12 0, .readAxisRecord .A 1 16, .readAxisState .A 1 16, .readProgram .A 1 16 0,
        .readLink .A 1 24] : List Instr).all (fun i => answer i held == [5, 255]) = true ∧
      answer (.readSegment .A 1 0 0) held = [10, 255] ∧ answer (.readProgram .A 1 0 1) held = [10, 255] ∧
      (held.channel 0).segments.length ≤ 0 ∧ (held.program 0).cues.length ≤ 1 := by decide +kernel

/-- The longest replies fit the 240 bytes of a payload (R192). -/
theorem test_long_replies_fit :
    (((after (.readSnapshot .A 1) held).port .A).reply.map fun f => f.payload.length) = some 190 ∧
      (encCapture ⟨0, 0, .mark 0, held.skySnap⟩).length = 163 := by decide +kernel

theorem test_claims_and_halt :
    answer (.run .A 1) { held with claims := State.reset.claims } = [6, 0] ∧
      answer (.enable .A 1 15) (held.setClaim (.group 0) ClaimEntry.reset) = [6, 1] ∧
      answer (.bind .A 1 0 11) (held.setClaim (.group 0) ClaimEntry.reset) = [6, 1] ∧
      answer (.stopGroup .A 1 7) held = [6, 8] ∧
      (Request.run).needsSky = true ∧ (Request.enable 15).ofAxis = some 15 ∧ (Request.stopGroup 7).ofGroup = some 7 := by
  decide +kernel

/-- HALT asserted. -/
def halted : State := held.withPower { held.power with halt := ⟨true, 0⟩ }
/-- Drive power absent. -/
def unpowered : State := held.withPower { held.power with state := .absent, ok := ⟨false, 0⟩ }

theorem test_held_part_refuses :
    ([halted, unpowered] : List State).all (fun s =>
      ([.run .A 1, .setEpoch .A 1 (-(2 ^ 50)) 0, .setEpoch .A 1 (2 ^ 50 - 1) 0, .enable .A 1 0, .slew .A 1 0 0 0, .home .A 1 0,
        .stopGroup .A 1 0, .trackGroup .A 1 0] : List Instr).all fun i => answer i s == [12, 255]) = true := by decide +kernel

/-! ## The sky clock -/

def withClock (f : Clock → Clock) : State := held.withClock (f held.clock)

theorem test_set_rate :
    readyA held = true ∧ held.holderOf .sky = some .A ∧ answer (.setRate .A 1 (-17179869185) 0) held = [5, 255] ∧
      answer (.setRate .A 1 17179869185 0) held = [5, 255] ∧ answer (.setRate .A 1 0 600001) held = [5, 255] ∧
      (after (.setRate .A 1 (-17179869184) 0) held).clock.scheduled = -17179869184 ∧
      (after (.setRate .A 1 17179869184 1) held).clock.ramp = some ⟨0, 17179869184, 2, 2⟩ ∧
      (after (.setRate .A 1 17179869184 600000) held).clock.ramp = some ⟨0, 17179869184, 600000, 600000⟩ := by decide +kernel

theorem test_run_and_halt :
    held.clock.state = .halted ∧ (after (.run .A 1) held).clock.state = .running ∧
      (after (.run .A 1) (withClock fun c => { c with state := .running })).clock.state = .running ∧
      (after (.run .A 1) (withClock fun c => { c with state := .settling, roll := [0] })).clock.resumeTo = .running ∧
      answer (.run .A 1) halted = [12, 255] ∧ answer (.run .A 1) unpowered = [12, 255] ∧
      (after (.halt .A 1) held).clock.reason = .command ∧
      (after (.halt .A 1) (withClock fun c => { c with state := .settling, roll := [0] })).clock.state = .halted := by
  decide +kernel

/-- Axis 0 tracking, with its channel. -/
def tracks : State := put trackingL

theorem test_jumps :
    answer (.setEpoch .A 1 0 2) held = [5, 255] ∧ answer (.setEpoch .A 1 (2 ^ 50) 1) held = [10, 255] ∧
      answer (.setEpoch .A 1 (-(2 ^ 50) - 1) 0) held = [10, 255] ∧
      (after (.setEpoch .A 1 (2 ^ 50 - 1) 1) held).clock.epoch = 2 ^ 50 - 1 ∧
      (after (.setEpoch .A 1 (-(2 ^ 50)) 0) held).clock.state = .halted ∧
      tracks.trackingAxes = [0] ∧ (after (.setEpoch .A 1 5 0) tracks).clock.state = .settling ∧
      (after (.setEpoch .A 1 5 0) tracks).clock.settleTimer = some 10000 ∧
      (after (.setEpoch .A 1 6 1) (tracks.withClock { tracks.clock with state := .settling, roll := [0] })).clock.roll = [0] ∧
      (after (.setEpoch .A 1 6 1) (withClock fun c => { c with state := .settling, roll := [0] })).clock.state = .halted := by
  decide +kernel

theorem test_settle_time :
    answer (.setSettleTime .A 1 0) held = [5, 255] ∧ answer (.setSettleTime .A 1 61) held = [5, 255] ∧
      (after (.setSettleTime .A 1 1) held).clock.settleTime = 1 ∧ (after (.setSettleTime .A 1 60) held).clock.settleTime = 60 ∧
      tracks.trackingAxes ≠ [] := by decide +kernel

def governed : State := withClock fun c => { c with ceiling := some 3, quiet := some 2, scheduled := 7, governor := true }

theorem test_governor :
    held.clock.ceiling = none ∧ (after (.setGovernor .A 1 1) held).clock.governor = true ∧
      (after (.setGovernor .A 1 0) held).clock.governor = false ∧ governed.clock.ceiling = some 3 ∧
      (after (.setGovernor .A 1 0) governed).clock.ceiling = none ∧
      ((after (.setGovernor .A 1 0) governed).port .B).notices[4] = some ⟨1, none, false⟩ := by decide +kernel

theorem test_clock_timers :
    after .settleTimerExpiry held = held ∧ after .quietTimerExpiry held = held ∧
      (after .quietTimerExpiry governed).clock.ceiling = some 6 ∧
      (after .quietTimerExpiry (after .quietTimerExpiry governed)).clock.ceiling = none ∧
      (after .settleTimerExpiry
        (tracks.withClock { tracks.clock with state := .settling, roll := [0], settleTimer := some 0 })).clock.state = .halted := by
  decide +kernel

def base (f : Timebase → Timebase) : State := held.withTimebase (f held.timebase)
def holdover (good : Nat) : State := base fun t => { t with sync := true, state := .holdover, good := good, reference := some 0 }
def lockedIn (bad : Nat) : State := base fun t => { t with sync := true, state := .locked, bad := bad, reference := some 0 }

theorem test_timebase :
    held.timebase.state = .internal ∧ (after (.setTimebase .A 1 1) held).timebase.state = .holdover ∧
      (after (.setTimebase .A 1 0) (holdover 1)).timebase.state = .internal ∧
      (after (.setTimebase .A 1 1) (lockedIn 0)).timebase.state = .locked ∧ answer (.setTimebase .A 1 2) held = [5, 255] ∧
      answer (.setSyncPeriod .A 1 9) held = [5, 255] ∧ answer (.setSyncPeriod .A 1 101) held = [5, 255] ∧
      (after (.setSyncPeriod .A 1 10) held).timebase.nominal = 10 ∧ (after (.setSyncPeriod .A 1 100) held).timebase.nominal = 100 ∧
      answer (.setSyncPeriod .A 1 40) (holdover 0) = [9, 255] ∧
      after (.syncPulse 5) held = held ∧ after .syncTimeout held = held := by decide +kernel

theorem test_sync :
    (after (.syncPulse 5) (base fun t => { t with state := .holdover })).timebase.reference = some 5 ∧
      (after .syncTimeout (holdover 3)).timebase.good = 0 ∧ (after (.syncPulse 37999999) (holdover 3)).timebase.good = 0 ∧
      (after (.syncPulse 38000000) (holdover 6)).timebase.good = 7 ∧
      (after (.syncPulse 42000000) (holdover 7)).timebase.state = .locked ∧
      (after (.syncPulse 42000001) (lockedIn 1)).timebase.bad = 2 ∧
      (after (.syncPulse 42000001) (lockedIn 2)).timebase.state = .holdover ∧
      (after (.syncPulse 40000000) (lockedIn 2)).timebase.bad = 0 ∧
      (after .syncTimeout (lockedIn 0)).timebase.state = .holdover := by decide +kernel

theorem test_window_of_intervals :
    ({ held.timebase with nominal := 10 } : Timebase).goodInterval 9500000 = true ∧
      ({ held.timebase with nominal := 10 } : Timebase).goodInterval 9499999 = false ∧
      ({ held.timebase with nominal := 10 } : Timebase).goodInterval 10500000 = true ∧
      pushWindow [1, 2, 3, 4, 5, 6, 7] 8 = [1, 2, 3, 4, 5, 6, 7, 8] ∧
      pushWindow [1, 2, 3, 4, 5, 6, 7, 8] 9 = [2, 3, 4, 5, 6, 7, 8, 9] := by decide +kernel

theorem test_marks :
    ([.setMark .A 1 4 0 1 0 0, .setMark .A 1 0 2 1 0 0, .setMark .A 1 0 0 0 0 0, .setMark .A 1 0 0 (2 ^ 50 + 1) 0 0,
        .setMark .A 1 0 0 1 0 3, .readMark .A 1 4] : List Instr).all (fun i => answer i held == [5, 255]) = true ∧
      answer (.setMark .A 1 0 0 1 (2 ^ 50) 0) held = [10, 255] ∧ answer (.setMark .A 1 0 0 1 (-(2 ^ 50) - 1) 0) held = [10, 255] ∧
      (after (.setMark .A 1 3 1 (2 ^ 50) (2 ^ 50 - 1) 2) held).clock.marks[3] =
        { enabled := true, period := 2 ^ 50, phase := 2 ^ 50 - 1, direction := .both, crossings := 0, last := none } ∧
      answer (.setMark .A 1 3 0 1 (-(2 ^ 50)) 0) held = [0, 255] ∧ answer (.readMark .A 1 3) held = [0, 255] := by decide +kernel

def axis0u (s : State) : Axis := s.axis 0

def runs (rate epoch : Int) : State := withClock fun c => { c with state := .running, scheduled := rate, epoch := epoch }
def reports (tx : Option (List Byte)) : State :=
  held.modPort .A fun q => { q with reportRate := 1, tx := tx }

theorem test_epoch_update :
    after .epochUpdate held = held ∧ (after .epochUpdate (runs 250 0)).clock.epoch = 2 ∧
      (after .epochUpdate (runs (-1) 0)).clock.residue = 124 ∧
      (after .epochUpdate (runs 250 (2 ^ 50 - 2))).clock.reason = .range ∧
      (after .epochUpdate (runs (-250) (-(2 ^ 50)))).clock.epoch = -(2 ^ 50) ∧
      (after .epochUpdate (withClock fun c => { c with state := .running, ramp := some ⟨0, 100, 4, 4⟩ })).clock.scheduled = 50 ∧
      (after .epochUpdate (withClock fun c => { c with state := .running, ramp := some ⟨0, 100, 4, 2⟩ })).clock.ramp = none ∧
      ((after .epochUpdate (reports none)).port .A).snapNumber = 1 ∧
      ((after .epochUpdate (reports (some [1]))).port .A).skipped = 1 ∧
      ((after .epochUpdate (held.modPort .A fun q => { q with reportRate := 2 })).port .A).updates = 1 := by decide +kernel

/-- RUNNING at 2 units an update, mark 3 with a boundary at 2 in this direction, axis 0 tracking, every timer at 5 ms. -/
def timed (d : MarkDirection) : State :=
  { ((((runs 250 0).setAxis 0 { trackingL with fault := { FaultRecord.reset with autoClear := some 5 } }).setOutput 0 (.pulsing 5)).setRunner .A
      { Runner.reset with delay := some 5, loopPause := some 5 }).setClaim (.group 1) { holder := some ⟨.A, 0, some ⟨1, 5⟩⟩, waiting := [] } with
    clock := { (runs 250 0).clock with
      quiet := some 5, marks := (runs 250 0).clock.marks.set 3 { Mark.reset with enabled := true, period := 2, direction := d } } }

theorem test_marks_and_timers_of_an_update :
    (after .epochUpdate (timed .both)).clock.marks[3] =
        { enabled := true, period := 2, phase := 0, direction := .both, crossings := 1, last := some 2 } ∧
      ((after .epochUpdate (timed .forward)).port .B).notices[7] = some ⟨1, some 3, false⟩ ∧
      (after .epochUpdate (timed .backward)).clock.marks = (timed .backward).clock.marks ∧
      (after .epochUpdate (timed .both)).evals = [⟨.axis 0 .track, 0, some 2⟩] ∧
      (after .epochUpdate (timed .both)).clock.quiet = some 3 ∧ (axis0u (after .epochUpdate (timed .both))).fault.autoClear = some 3 ∧
      (after .epochUpdate (timed .both)).outputs[0] = .pulsing 3 ∧ ((after .epochUpdate (timed .both)).runner .A).delay = some 3 ∧
      ((after .epochUpdate (timed .both)).runner .A).loopPause = some 3 ∧
      ((after .epochUpdate (timed .both)).claim (.group 1)).holder = some ⟨.A, 0, some ⟨1, 3⟩⟩ ∧
      (after .epochUpdate (runs 1 (2 ^ 50 - 1))).clock.reason = .range ∧ (after .epochUpdate (runs 1 (2 ^ 50 - 1))).clock.residue = 0 ∧
      (after .epochUpdate (runs 1 (2 ^ 50 - 2))).clock.state = .running := by decide +kernel

/-! ## Channels -/

/-- Channel 0 with two segments and a gap between. -/
def stored : State :=
  held.setChannel 0
    { kind := .bounded, enabled := true, cursor := none
      segments := [⟨0, 10, 0, 0, none, 0⟩, ⟨20, 10, 2 ^ 31, 2 ^ 32, some 5, 1⟩] }

theorem test_read_of_a_stored_segment :
    answer (.readSegment .A 1 0 1) stored = [0, 255] ∧ answer (.readSegment .A 1 0 2) stored = [10, 255] := by decide +kernel

theorem test_offered_segments :
    answer (.insertSegment .A 1 0 { seg0 with span := 0 }) held = [5, 0] ∧
      answer (.insertSegment .A 1 0 { seg0 with span := 2 ^ 42 + 1 }) held = [5, 0] ∧
      answer (.insertSegment .A 1 0 { seg0 with flag := 2 }) held = [5, 0] ∧
      answer (.insertSegment .A 1 0 { seg0 with start := 2 ^ 50 }) held = [10, 255] ∧
      answer (.insertSegment .A 1 0 { seg0 with start := 2 ^ 50 - 1, span := 2 }) held = [10, 255] ∧
      answer (.insertSegment .A 1 0 { seg0 with start := 2 ^ 50 - 1 }) held = [0, 255] ∧
      answer (.insertSegment .A 1 12 seg0) held = [5, 255] ∧ answer (.appendSegments .A 1 12 [seg0]) held = [5, 255] ∧
      answer (.appendSegments .A 1 0 []) held = [5, 255] ∧ answer (.appendSegments .A 1 0 (List.replicate 7 seg0)) held = [5, 255] ∧
      answer (.appendSegments .A 1 0 [seg0, { seg0 with span := 0 }]) held = [5, 1] ∧
      answer (.appendSegments .A 1 0 [seg0, { seg0 with start := 2 ^ 50 }]) held = [10, 1] := by decide +kernel

theorem test_segment_bounds :
    formedSegment { seg0 with span := 2 ^ 42 } ∧ boundedSegment { seg0 with start := -(2 ^ 50) } ∧
      ¬ boundedSegment { seg0 with a1 := 2 ^ 63 } ∧ (stored.channel 0).ordered := by
  unfold formedSegment boundedSegment Channel.ordered
  decide +kernel

theorem test_append :
    answer (.appendSegments .A 1 0 [{ seg0 with start := 29 }]) stored = [10, 0] ∧
      answer (.appendSegments .A 1 0 [{ seg0 with start := 30 }, { seg0 with start := 30 }]) stored = [10, 1] ∧
      ((after (.appendSegments .A 1 0 [{ seg0 with start := 30 }]) stored).channel 0).segments.length = 3 ∧
      ((after (.appendSegments .A 1 1 (([0, 1, 2, 3, 4, 5] : List Int).map fun i => { seg0 with start := i })) held).channel 1).segments.map
        Segment.stamp = [0, 1, 2, 3, 4, 5] := by decide +kernel

/-- Stamps in order, past those in use. -/
theorem test_stamps :
    ((after (.appendSegments .A 1 0 [{ seg0 with start := 30 }, { seg0 with start := 40 }]) stored).channel 0).segments.map
        Segment.stamp = [0, 1, 2, 3] ∧
      (after (.appendSegments .A 1 0 [{ seg0 with start := 30 }, { seg0 with start := 40 }]) stored).stampCounter = 4 ∧
      (after (.insertSegment .A 1 0 { seg0 with start := 30 }) { stored with stampCounter := 2 ^ 32 - 1 }).stampCounter = 0 ∧
      ((after (.appendSegments .A 1 0 [{ seg0 with start := 30 }, { seg0 with start := 40 }])
        { stored with stampCounter := 2 ^ 32 - 1 }).channel 0).segments.map Segment.stamp = [0, 1, 2 ^ 32 - 1, 2] := by decide +kernel

/-- A channel at its 255 segments. -/
def crowded : State :=
  held.setChannel 0 { Channel.reset with segments := (List.range 255).map fun (i : Nat) => (⟨(i : Int), 1, 0, 0, none, i⟩ : Segment) }

theorem test_full_channel :
    (crowded.channel 0).segments.length = 255 ∧ answer (.appendSegments .A 1 0 [{ seg0 with start := 300 }]) crowded = [11, 255] ∧
      answer (.insertSegment .A 1 0 { seg0 with start := 300 }) crowded = [11, 255] := by decide +kernel

theorem test_insert_and_delete :
    answer (.insertSegment .A 1 0 { seg0 with start := 9 }) stored = [10, 255] ∧
      ((after (.insertSegment .A 1 0 { seg0 with start := 10, span := 10 }) stored).channel 0).segments.map Segment.stamp = [0, 2, 1] ∧
      answer (.deleteSpan .A 1 12 0 1) stored = [5, 255] ∧ answer (.deleteSpan .A 1 0 1 1) stored = [5, 255] ∧
      answer (.deleteSpan .A 1 0 (-(2 ^ 50) - 1) 1) stored = [10, 255] ∧ answer (.deleteSpan .A 1 0 0 (2 ^ 50 + 1)) stored = [10, 255] ∧
      answer (.deleteSpan .A 1 0 (-(2 ^ 50)) (2 ^ 50)) stored = [0, 255] ∧
      ((after (.deleteSpan .A 1 0 9 20) stored).channel 0).segments.map Segment.stamp = [1] := by decide +kernel

theorem test_clear_and_settings :
    answer (.clearChannel .A 1 12) stored = [5, 255] ∧ ((after (.clearChannel .A 1 0) stored).channel 0).segments = [] ∧
      answer (.setChannelKind .A 1 12 0) stored = [5, 255] ∧ answer (.setChannelKind .A 1 0 2) stored = [5, 255] ∧
      answer (.setChannelEnable .A 1 0 2) stored = [5, 255] ∧ answer (.setChannelKind .A 1 0 1) stored = [0, 255] ∧
      ((after (.setChannelKind .A 1 0 0) stored).channel 0).kind = .cyclic ∧
      answer (.setChannelKind .A 1 0 0) (stored.setAxis 0 standingL) = [9, 255] ∧
      ((after (.setChannelEnable .A 1 0 0) stored).channel 0).enabled = false := by decide +kernel

theorem test_lookup :
    (stored.channel 0).lookup 9 = .covered 0 ⟨0, 10, 0, 0, none, 0⟩ .bounded ∧ (stored.channel 0).lookup 10 = .uncovered .gap ∧
      (stored.channel 0).lookup 19 = .uncovered .gap ∧ (stored.channel 0).lookup 30 = .uncovered .outside ∧
      (stored.channel 0).lookup (-1) = .uncovered .outside ∧ (held.channel 0).lookup 0 = .uncovered .empty ∧
      ({ stored.channel 0 with enabled := false } : Channel).lookup 0 = .uncovered .disabled ∧
      (⟨0, 10, 7, 44236800, none, 0⟩ : Segment).angle 1 = 8 ∧ reduce .bounded (2 ^ 31) = 2 ^ 31 ∧
      reduce .bounded (2 ^ 31 + 1) = 1 - 2 ^ 31 ∧ reduce .cyclic (-1) = 2 ^ 32 - 1 := by decide +kernel

def inFlight0 (who : Requester) (e : Int) : State :=
  { stored with inFlight := some { who := who, channel := 0, epoch := e, found := (stored.channel 0).lookup e } }

theorem test_evaluator :
    answer (.queryAngle .A 1 12 0 0) stored = [5, 255] ∧ answer (.queryAngle .A 1 0 2 0) stored = [5, 255] ∧
      answer (.queryAngle .A 1 0 0 (2 ^ 50)) stored = [10, 255] ∧
      (after (.queryAngle .A 1 0 0 (2 ^ 50 - 1)) stored).evals = [⟨.port .A, 0, some (2 ^ 50 - 1)⟩] ∧
      (after (.queryAngle .A 1 0 1 0) stored).evals = [⟨.port .A, 0, none⟩] ∧
      (after .evaluationStart (after (.queryAngle .A 1 0 1 0) stored)).inFlight.map InFlight.epoch = some 0 ∧
      after .evaluationStart stored = stored ∧ after .evaluationComplete stored = stored ∧
      answer .evaluationComplete
        ((inFlight0 (.port .A) 25).modPort .A fun q => { q with request := .outstanding 1 41 }) = [0, 255] ∧
      ((after .evaluationComplete ((inFlight0 (.axis 0 .track) 25).setAxis 0 { trackingL with discard := true })).axis 0).discard =
        false := by decide +kernel

theorem test_track_results :
    ((inFlight0 (.axis 0 .track) 10).setAxis 0 trackingL).phase = .running ∧ trackingL.tracking = some track0 ∧
      (((after .evaluationComplete ((inFlight0 (.axis 0 .track) 10).setAxis 0 trackingL)).axis 0).tracking.map Tracking.uncovered) =
        some true ∧
      (((after .evaluationComplete ((inFlight0 (.axis 0 .track) 20).setAxis 0 trackingL)).axis 0).tracking.map Tracking.clamped) =
        some true ∧
      (((after .evaluationComplete ((inFlight0 (.axis 0 .track) 20).setAxis 0
        { trackingL with tracking := some { track0 with acquire := true } })).axis 0).tracking.map Tracking.target) = some 100 := by
  decide +kernel

def axis0 (i : Instr) (s : State) : Axis := (after i s).axis 0

/-- A CONTINUOUS axis tracking, to acquire. -/
def acquiringC : Axis := { standingC with state := .tracking, tracking := some { track0 with acquire := true }, speedSq := sqScale }

theorem test_acquire_and_test :
    (axis0 .evaluationComplete ((inFlight0 (.axis 0 .track) 20).setAxis 0 acquiringC)).tracking.map Tracking.target = some 25600 ∧
      (axis0 .evaluationComplete ((inFlight0 (.axis 0 .track) 20).setAxis 0 { acquiringC with position := ⟨1, 3⟩ })).tracking.map
        Tracking.target = some 76800 ∧
      (axis0 .evaluationComplete ((inFlight0 (.axis 0 .track) 20).setAxis 0 acquiringC)).tracking.map Tracking.lagging = some true ∧
      (axis0 .evaluationComplete ((inFlight0 (.axis 0 .track) 20).setAxis 0 { trackingL with position := ⟨0, 96⟩ })).tracking.map
        Tracking.settled = some true ∧
      (axis0 .evaluationComplete ((inFlight0 (.axis 0 .track) 20).setAxis 0 { trackingL with position := ⟨0, 95⟩ })).tracking.map
        Tracking.settled = some false := by decide +kernel

/-- An evaluation of axis 0 at the epoch, pending for this owner's stage; a record of G0 EVALUATING with the axis alone. -/
def staging (o : StageOwner) (e : Int) : State :=
  ((inFlight0 (.axis 0 .stage) e).setAxis 0 { standingL with stage := some ⟨e, o, 0⟩ }).setMotion 0
    (some { stageEpoch := some e, state := .evaluating, cause := none, duration := none, serial := 1, members := [⟨0, none, .evaluating, none⟩] })

theorem test_stage_results :
    (axis0 .evaluationComplete (staging .single 10)).lastStage = .uncovered ∧
      ((after .evaluationComplete (staging .single 10)).port .A).notices[8] = some ⟨1, some 0, false⟩ ∧
      (axis0 .evaluationComplete (staging .single 25)).lastStage = .outOfRange ∧
      ((after .evaluationComplete (staging .single 25)).port .A).notices[10] = some ⟨1, some 0, false⟩ ∧
      (axis0 .evaluationComplete (staging .single 5)).target.map Target.position = some 0 ∧
      (axis0 .evaluationComplete (staging .single 5)).stage.map StagePending.epoch = some 5 ∧
      ((after .evaluationComplete (staging (.group 0) 10)).motions[0].map GroupMotion.state) = some .arrived ∧
      ((after .evaluationComplete (staging (.group 0) 25)).motions[0].map GroupMotion.state) = some .failed ∧
      ((after .evaluationComplete (staging (.group 0) 5)).motions[0].map GroupMotion.state) = some .moving ∧
      (axis0 .evaluationComplete (staging (.group 0) 5)).target.map Target.position = some 0 := by decide +kernel

/-! ## Axes -/

theorem test_configure :
    answer (.configureAxis .A 1 16 raw0) held = [5, 255] ∧ (axis0 (.configureAxis .A 1 0 raw0) held).state = .disabled ∧
      (axis0 (.configureAxis .A 1 0 raw0) held).record = AxisRecord.default ∧
      answer (.configureAxis .A 1 0 { raw0 with group := 7 }) held = [6, 8] ∧
      answer (.configureAxis .A 1 0 { raw0 with group := 8 }) held = [5, 22] ∧
      answer (.configureAxis .A 1 0 raw0) (put slewingL) = [9, 255] ∧
      answer (.configureAxis .A 1 0 raw0) (put { standingL with stage := some ⟨0, .single, 0⟩ }) = [9, 255] ∧
      answer (.configureAxis .A 1 0 { raw0 with homeSpeed := 10001 }) held = [5, 12] ∧
      answer (.configureAxis .A 1 0 { raw0 with velocity := 10001 }) (put { standingC with locked := true }) = [8, 4] ∧
      (axis0 (.configureAxis .A 1 0 raw0) (put { standingC with locked := true })).locked = true ∧
      (axis0 (.configureAxis .A 1 0 raw0) (put standingC)).state = .standing ∧
      (axis0 (.configureAxis .A 1 0 { raw0 with stepsPerTurn := 200 }) (put standingC)).state = .unreferenced := by decide +kernel

/-- A LIMITED record with every field other than the default's. -/
theorem test_record_written :
    recordOf { raw0 with kind := 1, softPresence := 1, softMin := -5, softMax := 7, haltDecel := 0, homeMethod := 1, homeDirection := 0,
                         homeEdge := 1, homeOffset := -1, clearPolicy := 0, keepPosition := 1, dirPolarity := 1, group := 3,
                         wrapPolicy := 255, binding := 11, zeroOffset := -2, sense := 1 } =
        { AxisRecord.default with
          kind := .limited, soft := some (-5, 7), haltDecel := none, sensor := true, homeDirection := .plus, homeRising := false,
          homeOffset := -1, auto := true, keepPosition := true, inverted := true, group := 3, wrap := none, binding := some 11,
          zeroOffset := -2, sense := .minus } ∧
      firstSafetyChange AxisRecord.default { AxisRecord.default with haltDecel := none, velocity := 1 } = some 4 ∧
      ({ standingL with position := ⟨0, 101⟩ } : Axis).outsideLimits = true ∧ standingL.outsideLimits = false := by decide +kernel

/-- What rests on kind and steps per turn goes with them, the staged-at epoch with its own fields alone. -/
theorem test_configure_clears :
    (axis0 (.configureAxis .A 1 0 { raw0 with stepsPerTurn := 200 }) (put { standingC with position := ⟨1, 3⟩ })).position = ⟨0, 0⟩ ∧
      (axis0 (.configureAxis .A 1 0 { raw0 with binding := 0 }) (put { standingC with stagedAt := some staged0 })).stagedAt =
        some staged0 ∧
      (axis0 (.configureAxis .A 1 0 raw0) (put { standingC with stagedAt := some staged0 })).stagedAt = none ∧
      (axis0 (.configureAxis .A 1 0 { raw0 with binding := 0, sense := 1 })
        (put { standingC with stagedAt := some staged0 })).stagedAt = none := by decide +kernel

/-- Record fields at the ends of their ranges (Table 3-1). -/
theorem test_record_ranges :
    ([{ raw0 with stepsPerTurn := 200 }, { raw0 with stepsPerTurn := 16777216 }, { raw0 with velocity := 100000 },
        { raw0 with acceleration := 5000000, haltDecel := 0 }, { raw0 with haltDecel := 50000 }, { raw0 with stopDecel := 10 },
        { raw0 with lagLimit := 1000000 }, { raw0 with homeFilter := 16 }, { raw0 with searchDistance := 2 ^ 31 },
        { raw0 with pulseWidth := 20 }, { raw0 with reversalPause := 1000 }, { raw0 with binding := 11 }] : List RawRecord).all
        (fun r => firstBadField r == none) = true ∧
      firstBadField { raw0 with stepsPerTurn := 199 } = some 2 ∧ firstBadField { raw0 with velocity := 250001 } = some 4 ∧
      firstBadField { raw0 with haltDecel := 49999 } = some 6 ∧ firstBadField { raw0 with homeFilter := 5 } = some 14 ∧
      firstBadField { raw0 with pulseWidth := 21 } = some 19 ∧ firstBadField { raw0 with wrapPolicy := 3 } = some 23 ∧
      firstBadField { raw0 with zeroOffset := 51200 } = some 25 := by decide +kernel

theorem test_ranges_and_agreements :
    ({ raw0 with velocity := 250000 } : RawRecord).inRange 4 ∧ ¬ ({ raw0 with velocity := 250001 } : RawRecord).inRange 4 ∧
      ({ raw0 with binding := 11 } : RawRecord).inRange 24 ∧ ¬ ({ raw0 with binding := 12 } : RawRecord).inRange 24 ∧
      raw0.agrees 1 ∧ ¬ ({ raw0 with softPresence := 1 } : RawRecord).agrees 1 ∧ ({ raw0 with haltDecel := 50000 } : RawRecord).agrees 2 ∧
      ¬ ({ raw0 with homeSpeed := 10001 } : RawRecord).agrees 3 ∧ ¬ ({ raw0 with homeOffset := 51200 } : RawRecord).agrees 4 ∧
      ({ raw0 with velocity := 100000 } : RawRecord).agrees 5 ∧ ¬ ({ raw0 with velocity := 100001 } : RawRecord).agrees 5 ∧
      ¬ ({ raw0 with wrapPolicy := 255 } : RawRecord).agrees 6 ∧ ({ raw0 with zeroOffset := 51199 } : RawRecord).agrees 7 := by
  simp only [RawRecord.inRange, RawRecord.agrees]
  decide +kernel

theorem test_bind_and_lock :
    answer (.bind .A 1 16 0) held = [5, 255] ∧ answer (.bind .A 1 0 12) held = [5, 255] ∧ answer (.unbind .A 1 16) held = [5, 255] ∧
      answer (.bind .A 1 0 1) tracks = [9, 255] ∧ answer (.unbind .A 1 0) tracks = [9, 255] ∧
      (axis0 (.bind .A 1 0 11) (put standingL)).record.binding = some 11 ∧ axis0 (.bind .A 1 0 0) (put standingL) = standingL ∧
      (axis0 (.unbind .A 1 0) (put standingL)).record.binding = none ∧ answer (.unbind .A 1 0) held = [0, 255] ∧
      answer (.lockSafety .A 1 16) held = [5, 255] ∧ answer (.lockSafety .A 1 0) held = [9, 255] ∧
      (axis0 (.lockSafety .A 1 0) (put standingL)).lockOrigin = some .byRequest ∧
      axis0 (.lockSafety .A 1 0) (put { standingL with locked := true }) = { standingL with locked := true } := by decide +kernel

/-- A slew on a staged target; a tracking axis is lawful. -/
theorem test_bind_drops_a_staged_target :
    ((axis0 (.bind .A 1 0 1) (put { slewingL with target := slewingL.target.map fun t => { t with staged := some staged0 } })).target.map
        Target.staged) = some none ∧
      ((axis0 (.bind .A 1 0 0) (put { slewingL with target := slewingL.target.map fun t => { t with staged := some staged0 } })).target.map
        Target.staged) = some (some staged0) ∧
      ((axis0 (.unbind .A 1 0) (put { slewingL with target := slewingL.target.map fun t => { t with staged := some staged0 } })).target.map
        Target.staged) = some none := by decide +kernel

theorem test_tracking_axis_is_lawful : trackingL.lawful := by
  refine ⟨⟨0, 100, rfl, by decide⟩, fun h => Bool.noConfusion h, fun _ => rfl, fun h => absurd rfl h, fun _ h => (by cases h), fun t h l u e => ?_⟩
  cases h; cases e; decide

def disabledL : Axis := { standingL with state := .disabled }

theorem test_enable_disable_declare :
    (axis0 (.enable .A 1 0) (put disabledL)).state = .standing ∧
      (axis0 (.enable .A 1 0) (put { disabledL with known := false })).state = .unreferenced ∧
      (axis0 (.enable .A 1 0) (put { disabledL with flt := ⟨true, 0⟩ })).state = .faulted ∧
      answer (.enable .A 1 0) (put standingL) = [0, 255] ∧ answer (.enable .A 1 0) tracks = [9, 255] ∧
      answer (.disable .A 1 0) tracks = [9, 255] ∧ (axis0 (.disable .A 1 0) (put standingL)).state = .disabled ∧
      answer (.disable .A 1 0) (put disabledL) = [0, 255] ∧
      (axis0 (.disable .A 1 0) (put { standingL with state := .unreferenced })).state = .disabled ∧
      answer (.declareReference .A 1 0 0 0) (put disabledL) = [9, 255] ∧
      answer (.declareReference .A 1 0 101 0) (put standingL) = [10, 255] ∧
      (axis0 (.declareReference .A 1 0 100 0) (put standingL)).position = ⟨0, 100⟩ ∧
      answer (.declareReference .A 1 0 0 51200) (put standingC) = [5, 255] ∧
      (axis0 (.declareReference .A 1 0 (-1) 51199) (put { standingC with state := .unreferenced, known := false })).position =
        ⟨-1, 51199⟩ := by decide +kernel

theorem test_slew_checks :
    answer (.slew .A 1 0 0 0) (put disabledL) = [9, 255] ∧ answer (.slew .A 1 0 0 0) (put { standingL with known := false }) = [14, 255] ∧
      answer (.slew .A 1 0 2 0) (put standingL) = [5, 255] ∧
      answer (.slew .A 1 0 1 0) (put { standingL with record := { standingL.record with binding := none } }) = [9, 255] ∧
      answer (.slew .A 1 0 1 (2 ^ 50)) (put standingL) = [10, 255] ∧ answer (.slew .A 1 0 1 (2 ^ 50 - 1)) (put standingL) = [0, 255] ∧
      answer (.slew .A 1 0 0 51200) (put standingC) = [5, 255] ∧ answer (.slew .A 1 0 0 101) (put standingL) = [10, 255] ∧
      answer (.slew .A 1 0 0 51) (put { standingL with limitMemory := some .plus, limP := ⟨true, 0⟩ }) = [10, 255] ∧
      answer (.slew .A 1 0 0 49) (put { standingL with limitMemory := some .minus, limN := ⟨true, 0⟩ }) = [10, 255] ∧
      answer (.slew .A 1 0 0 50) (put { standingL with limitMemory := some .plus, limP := ⟨true, 0⟩ }) = [0, 255] := by
  decide +kernel

theorem test_slew_targets :
    (axis0 (.slew .A 1 0 0 100) (put standingL)).target.map Target.position = some 100 ∧
      (axis0 (.slew .A 1 0 0 50) (put standingL)).state = .standing ∧
      (axis0 (.slew .A 1 0 0 25603) (put standingC)).target.map Target.position = some 25603 ∧
      (axis0 (.slew .A 1 0 0 25604) (put standingC)).target.map Target.position = some (-25596) ∧
      (axis0 (.slew .A 1 0 0 4) (put { standingC with record := { standingC.record with wrap := some .negative } })).target.map
        Target.position = some (-51196) ∧
      (axis0 (.slew .A 1 0 0 2) (put { standingC with record := { standingC.record with wrap := some .positive } })).target.map
        Target.position = some 51202 ∧
      (axis0 (.slew .A 1 0 1 7) (put trackingL)).target.map Target.position = some 60 ∧
      (axis0 (.slew .A 1 0 1 7) (put standingL)).stage.map StagePending.epoch = some 7 ∧
      (after (.slew .A 1 0 1 7) (put standingL)).evals = [⟨.axis 0 .stage, 0, some 7⟩] := by decide +kernel

def stagedHere : Axis :=
  { standingL with stagedAt := some { epoch := 0, angle := 9, result := coveredOf 0 ⟨0, 10, 9, 0, none, 0⟩ .bounded 0 } }

/-- A return sequence in which axis 0 still homes. -/
def sequenced (x : Axis) : State :=
  let s := (put x).setAxis 1 { standingL with resumeMark := true }
  s.withPower { s.power with sequence := some { members := [(0, false), (2, true)], resume := [1], wasRunning := true } }

theorem test_limits_memory_and_sequence :
    answer (.slew .A 1 0 0 49) (put { standingL with limitMemory := some .plus, limP := ⟨true, 0⟩ }) = [0, 255] ∧
      (axis0 (.enable .A 1 0) (put { stagedHere with state := .disabled })).stagedAt = none ∧
      (axis0 (.disable .A 1 0) (put stagedHere)).stagedAt = stagedHere.stagedAt ∧
      (axis0 (.track .A 1 0) (put { standingL with position := ⟨0, 150⟩ })).tracking.map Tracking.target = some 100 ∧
      (after (.stop .A 1 0) (sequenced homingL)).power.outcome = .abandoned ∧
      ((after (.stop .A 1 0) (sequenced homingL)).port .C).notices[24] = some ⟨1, some 0, false⟩ := by decide +kernel

theorem test_track_and_stop :
    answer (.track .A 1 0) (put disabledL) = [9, 255] ∧ answer (.track .A 1 0) (put { standingL with known := false }) = [14, 255] ∧
      answer (.track .A 1 0) (put { standingL with record := { standingL.record with binding := none } }) = [9, 255] ∧
      answer (.track .A 1 0) tracks = [0, 255] ∧
      answer (.track .A 1 0) (put { standingL with limitMemory := some .plus, limP := ⟨true, 0⟩ }) = [10, 255] ∧
      (axis0 (.track .A 1 0) (put standingL)).tracking.map Tracking.acquire = some true ∧
      (axis0 (.track .A 1 0) (put stagedHere)).tracking.map Tracking.settled = some true ∧
      answer (.stop .A 1 0) (put faultedL) = [9, 255] ∧ answer (.stop .A 1 0) (put disabledL) = [0, 255] ∧
      (axis0 (.stop .A 1 0) (put slewingL)).stopping = some ⟨some 50000, .standing⟩ ∧
      (axis0 (.stop .A 1 0) (put homingL)).stopping = some ⟨some 50000, .unreferenced⟩ ∧
      (axis0 (.stop .A 1 0) (put { slewingL with speedSq := 0 })).state = .standing := by decide +kernel

def sensor (x : Axis) : Axis := { x with record := { x.record with sensor := true } }

theorem test_home_and_clear :
    answer (.home .A 1 0) (put (sensor disabledL)) = [9, 255] ∧ answer (.home .A 1 0) (put standingL) = [9, 255] ∧
      (axis0 (.home .A 1 0) (put (sensor standingL))).homing.map Homing.phase = some .seek ∧
      (axis0 (.home .A 1 0) (put (sensor { standingL with home := ⟨true, 0, ⟨0, 0⟩, 0, 0⟩ }))).homing.map Homing.phase = some .clear ∧
      answer (.clearFault .A 1 16) held = [5, 255] ∧ answer (.clearFault .A 1 0) (unpowered.setAxis 0 faultedL) = [12, 255] ∧
      answer (.clearFault .A 1 0) (put standingL) = [9, 255] ∧
      answer (.clearFault .A 1 0) (put { faultedL with flt := ⟨true, 0⟩ }) = [9, 255] ∧
      (axis0 (.clearFault .A 1 0) (halted.setAxis 0 faultedL)).state = .standing ∧
      (axis0 (.clearFault .A 1 0)
        (put { faultedL with flt := ⟨true, 0⟩, fault := { FaultRecord.reset with first := some .hardLimit } })).fault.first =
        some .driveFault := by decide +kernel

/-- The first check of a request that names an axis (R68). -/
theorem test_axis_numbers :
    ([.enable .A 1 16, .disable .A 1 16, .declareReference .A 1 16 0 0, .slew .A 1 16 0 0, .slew .A 1 255 9 0, .track .A 1 16,
        .stop .A 1 16, .home .A 1 16] : List Instr).all (fun i => answer i held == [5, 255]) = true := by decide +kernel

/-! ## Groups -/

/-- Axes 0 and 1 of G0 standing. -/
def pair : State := (put standingL).setAxis 1 standingL

theorem test_coordinated_slew :
    answer (.coordinatedSlew .A 1 8 []) pair = [5, 255] ∧ answer (.coordinatedSlew .A 1 0 []) pair = [5, 255] ∧
      answer (.coordinatedSlew .A 1 0 (List.replicate 17 (0, 0))) pair = [5, 255] ∧
      answer (.coordinatedSlew .A 1 0 [(16, 0)]) pair = [5, 0] ∧ answer (.coordinatedSlew .A 1 0 [(0, 0), (0, 1)]) held = [9, 0] ∧
      answer (.coordinatedSlew .A 1 0 [(0, 0), (16, 1)]) (put { standingL with known := false }) = [14, 0] ∧
      answer (.coordinatedSlew .A 1 0 [(0, 1), (0, 2)]) pair = [5, 1] ∧
      answer (.coordinatedSlew .A 1 0 [(0, 0), (2, 5)]) (pair.setAxis 2 standingC) = [0, 255] ∧
      answer (.coordinatedSlew .A 1 0 [(0, 101)]) pair = [10, 0] ∧
      ((after (.coordinatedSlew .A 1 0 [(0, 0), (1, 100)]) pair).motions[0].map GroupMotion.state) = some .moving ∧
      ([0, 1] : List AxisId).all (fun a => ((after (.coordinatedSlew .A 1 0 [(0, 0), (1, 100)]) pair).axis a).state == .slewing) =
        true ∧
      (match standingL.absoluteTarget 100 with | .ok t => t == 100 | .error _ => false) = true ∧ standingL.difference 100 standingL.extended ≠ 0 := by decide +kernel

/-- A member at its target arrives at once, and a shorter move is stretched to the longest. -/
theorem test_coordinated_profiles :
    ((after (.coordinatedSlew .A 1 0 [(0, 50), (1, 60)]) pair).motions[0].map fun m => m.members.map Member.outcome) =
        some [.arrived, .moving] ∧
      (axis0 (.coordinatedSlew .A 1 0 [(0, 50), (1, 60)]) pair).state = .standing ∧
      ((after (.coordinatedSlew .A 1 0 [(0, 50)]) pair).motions[0].map GroupMotion.state) = some .arrived ∧
      (axis0 (.coordinatedSlew .A 1 0 [(0, 51), (1, 100)]) pair).target.map Target.limitSq =
        some (10000 * 10000 * 2 ^ 32 * (8944270 * 8944270) / (63245552 * 63245552)) ∧
      pair.memberTime 0 51 = 8944270 ∧ pair.memberTime 1 100 = 63245552 ∧ pair.memberTime 0 50 = 0 ∧
      pair.memberTime 0 2049 = 2 * 199949993 ∧ pair.memberTime 0 2050 = 400000000 ∧ isqrt (2 ^ 130) = 2 ^ 65 := by decide +kernel

/-- The later entries of a list, and the targets no slew may take. -/
theorem test_coordinated_slew_refused_by_place :
    answer (.coordinatedSlew .A 1 0 [(0, 0), (2, 1)]) pair = [9, 1] ∧
      answer (.coordinatedSlew .A 1 0 [(0, 0), (1, 1)]) (pair.setAxis 1 { standingL with known := false }) = [14, 1] ∧
      answer (.coordinatedSlew .A 1 0 [(0, 0), (16, 1)]) pair = [5, 1] ∧
      answer (.coordinatedSlew .A 1 0 [(0, 0), (1, 5), (0, 1)]) pair = [5, 2] ∧
      answer (.coordinatedSlew .A 1 0 [(0, 0), (1, 51200)]) (pair.setAxis 1 standingC) = [5, 1] ∧
      answer (.coordinatedSlew .A 1 0 [(0, 100), (1, 101)]) pair = [10, 1] ∧
      answer (.coordinatedSlew .A 1 0 [(0, 0), (1, 51)])
        (pair.setAxis 1 { standingL with limitMemory := some .plus, limP := ⟨true, 0⟩ }) = [10, 1] ∧
      answer (.coordinatedSlew .A 1 0 [(0, 0), (1, 50)])
        (pair.setAxis 1 { standingL with limitMemory := some .plus, limP := ⟨true, 0⟩ }) = [0, 255] := by decide +kernel

theorem test_stage_outcomes :
    (axis0 (.stageGroup .A 1 0 5) (put { standingL with stage := some ⟨1, .single, 0⟩ })).lastStage = .ended ∧
      (axis0 .evaluationComplete (staging (.group 0) 10)).lastStage = .uncovered ∧
      (axis0 .evaluationComplete (staging (.group 0) 5)).lastStage = .none ∧
      (put { standingL with known := false }).stagePlace 0 = .passedOver .notReferenced ∧
      (put slewingL).stagePlace 0 = .passedOver .notStanding := by decide +kernel

theorem test_stage_group :
    answer (.stageGroup .A 1 8 0) pair = [5, 255] ∧ answer (.stageGroup .A 1 0 (2 ^ 50)) pair = [10, 255] ∧
      answer (.stageGroup .A 1 0 (2 ^ 50 - 1)) pair = [0, 255] ∧ pair.stagePlace 0 = .evaluating ∧
      held.stagePlace 0 = .passedOver .unbound ∧
      (axis0 (.stageGroup .A 1 0 5) pair).stage.map StagePending.owner = some (.group 0) ∧
      ((after (.stageGroup .A 1 0 5) held).motions[0].map GroupMotion.state) = some .arrived := by decide +kernel

theorem test_track_and_stop_group :
    answer (.trackGroup .A 1 8) pair = [5, 255] ∧ answer (.stopGroup .A 1 8) pair = [5, 255] ∧ standingL.trackPass = none ∧
      (axis0 (.trackGroup .A 1 0) pair).state = .tracking ∧ (Axis.reset false false false false).trackPass ≠ none ∧
      (axis0 (.stopGroup .A 1 0) (pair.setAxis 0 slewingL)).state = .stopping ∧
      (axis0 (.stopGroup .A 1 0) (pair.setAxis 0 { slewingL with speedSq := 0 })).state = .standing := by decide +kernel

/-- Both axes of G0 slewing in one record. -/
def movingPair : State :=
  ((put slewingL).setAxis 1 slewingL).setMotion 0
    (some { stageEpoch := none, state := .moving, cause := none, duration := some 1, serial := 1
            members := [⟨0, some 60, .moving, none⟩, ⟨1, some 60, .moving, none⟩] })

/-- One stop, start of tracking, halt or loss ends the part of every member. -/
theorem test_members_end_together :
    ([.stopGroup .A 1 0, .trackGroup .A 1 0, .haltLineAsserted, .drivePowerOkInactive] : List Instr).all (fun i =>
      ((after i movingPair).motions[0].map fun m => (m.state, m.members.map Member.outcome)) == some (.failed, [.ended, .ended])) = true := by
  decide +kernel

/-- Both axes of G0 with a stage pending for its record in EVALUATING: one result not there, one member READY. -/
def stagedPair (x : Axis) : State :=
  (((stored.setAxis 0 { x with stage := some ⟨5, .group 0, 1⟩ }).setAxis 1 { standingL with stage := some ⟨5, .group 0, 1⟩ }).setMotion 0
    (some { stageEpoch := some 5, state := .evaluating, cause := none, duration := none, serial := 1
            members := [⟨0, none, .evaluating, none⟩, ⟨1, some 60, .ready, some staged0⟩, ⟨2, none, .uncovered, none⟩] }))

/-- The record a command leaves is in this state and this cause, its members with these targets and outcomes. -/
def leavesRecord (i : Instr) (s : State) (g : GroupId) (n : MotionState) (c : Option EndCause) (l : List (Option Int × MemberOutcome)) : Bool :=
  match (after i s).motions[g] with
  | some m => m.state == n && m.cause == c && (m.members.map fun y => (y.target, y.outcome)) == l
  | none => false

/-- Stop Group fails a record in EVALUATING, with no axis stopped and with one, and another group's record that holds an axis stopped. -/
theorem test_stop_group_ends_records :
    leavesRecord (.stopGroup .A 1 0) (stagedPair standingL) 0 .failed (some .memberEnded)
        [(none, .ended), (none, .ready), (none, .uncovered)] = true ∧
      leavesRecord (.stopGroup .A 1 0) ((stagedPair standingL).setAxis 1 { slewingL with stage := some ⟨5, .group 0, 1⟩ }) 0 .failed (some .memberEnded)
        [(none, .ended), (none, .ended), (none, .uncovered)] = true ∧
      ((after (.stopGroup .A 1 0) (stagedPair standingL)).axis 1).stage = none ∧
      ((after (.stopGroup .A 1 0) (stagedPair standingL)).axis 1).lastStage = .ended ∧
      leavesRecord (.stopGroup .A 1 0) ((movingPair.setMotion 3 movingPair.motions[0]).setMotion 0 none) 3 .failed (some .memberEnded)
        [(some 60, .ended), (some 60, .ended)] = true ∧
      leavesRecord (.stopGroup .A 1 0) (movingPair.setMotion 3 (stagedPair standingL).motions[0]) 3 .failed (some .memberEnded)
        [(none, .ended), (none, .ended), (none, .uncovered)] = true ∧
      (after (.stopGroup .A 1 0) ((pair.setAxis 0 slewingL).setMotion 3 (after (.stageGroup .A 1 0 5) held).motions[0])).motions[3] =
        (after (.stageGroup .A 1 0 5) held).motions[0] := by decide +kernel

/-- The last result of a stage starts the motion: a shorter move stretched, a member at its target there at once. -/
def lastResult (x : Axis) (k : Int) : State :=
  { ((stagedPair x).setAxis 2 { standingL with stage := some ⟨5, .group 0, 1⟩ }).setMotion 0
      (some { stageEpoch := some 5, state := .evaluating, cause := none, duration := none, serial := 1
              members := [⟨0, none, .evaluating, none⟩, ⟨1, some 50, .ready, some staged0⟩, ⟨2, some k, .ready, some staged0⟩] }) with
    inFlight := (inFlight0 (.axis 0 .stage) 5).inFlight }

theorem test_stage_motion_starts :
    leavesRecord .evaluationComplete (lastResult standingL 60) 0 .moving none
        [(some 0, .moving), (some 50, .arrived), (some 60, .moving)] = true ∧
      ((after .evaluationComplete (lastResult standingL 60)).motions[0].bind GroupMotion.duration) = some (pair.memberTime 0 0) ∧
      ((after .evaluationComplete (lastResult standingL 60)).axis 2).target.map Target.limitSq =
        some (10000 * 10000 * 2 ^ 32 * (pair.memberTime 0 60 * pair.memberTime 0 60) / (pair.memberTime 0 0 * pair.memberTime 0 0)) ∧
      ((after .evaluationComplete (lastResult standingL 60)).axis 1).stagedAt = some staged0 ∧
      ((after .evaluationComplete (lastResult standingL 60)).axis 1).state = .standing ∧
      ((after .evaluationComplete (lastResult standingL 60)).axis 1).lastStage = .arrived ∧
      ((after .evaluationComplete (lastResult standingL 60)).axis 2).stage = none ∧
      leavesRecord .evaluationComplete (lastResult { standingL with position := ⟨0, 0⟩ } 50) 0 .arrived none
        [(some 0, .arrived), (some 50, .arrived), (some 50, .arrived)] = true ∧
      (after (.stageGroup .A 1 0 5) held).motions[0].bind GroupMotion.duration = some 0 ∧
      (after (.stageGroup .A 1 0 5) pair).motions[0].bind GroupMotion.duration = none ∧
      (lastResult standingL 60).motionOf 1 = (lastResult standingL 60).motions[0].map fun m => (0, m) := by decide +kernel

/-! ## Claims -/

/-- G0 held by port B of standing 1, with C waiting; port A of standing `n`. -/
def contested (n : Nat) : State :=
  (held.setClaim (.group 0) { holder := some ⟨.B, 1, some ⟨5, 4000⟩⟩, waiting := [⟨.C, 1⟩] }).modPort .A fun q => { q with standing := n }

def entry (i : Instr) (s : State) : ClaimEntry := (after i s).claim (.group 0)

theorem test_claim :
    ([.claim .A 1 9 0 0 0, .claim .A 1 1 2 0 0, .claim .A 1 1 0 2 0, .claim .A 1 1 0 0 601] : List Instr).all
        (fun i => answer i held == [5, 255]) = true ∧
      answer (.claim .A 1 8 0 0 600) held = [1, 255] ∧ answer (.claim .A 1 1 0 0 1) held = [1, 255] ∧
      (entry (.claim .A 1 1 0 0 1) held).holder = some ⟨.A, 0, some ⟨1, 1000⟩⟩ ∧
      (entry (.claim .A 1 1 1 1 0) (contested 2)).holder = some ⟨.A, 2, none⟩ ∧
      ((after (.claim .A 1 1 1 1 0) (contested 2)).port .B).notices[13] = some ⟨1, some 0, false⟩ ∧
      answer (.claim .A 1 1 1 1 0) (contested 1) = [2, 255] ∧
      (entry (.claim .A 1 1 1 0 0) (contested 2)).waiting = [⟨.A, 2⟩, ⟨.C, 1⟩] ∧
      (entry (.claim .A 1 1 1 0 0) (contested 1)).waiting = [⟨.C, 1⟩, ⟨.A, 1⟩] ∧
      answer (.claim .A 1 1 1 0 0) (after (.replyStart .A) (after (.claim .A 1 1 1 0 0) (contested 1))) = [2, 255] ∧
      answer (.claim .A 1 1 0 0 0) (contested 2) = [7, 255] := by decide +kernel

/-- G0 held by port A with a lease of 5 s, 4 s left, and C waiting. -/
def leased : State := held.setClaim (.group 0) { holder := some ⟨.A, 0, some ⟨5, 4000⟩⟩, waiting := [⟨.C, 1⟩] }

theorem test_renew_release_withdraw_lapse :
    ([.renew .A 1 9, .release .A 1 9, .withdraw .A 1 9] : List Instr).all (fun i => answer i leased == [5, 255]) = true ∧
      answer (.renew .A 1 8) leased = [6, 8] ∧ answer (.release .A 1 8) leased = [6, 8] ∧
      (entry (.renew .A 1 1) leased).holder = some ⟨.A, 0, some ⟨5, 5000⟩⟩ ∧ leased.runnerNeeds .A (.group 0) = false ∧
      entry (.release .A 1 1) leased = { holder := some ⟨.C, 1, none⟩, waiting := [] } ∧
      entry (.release .A 1 1) held = { holder := none, waiting := [] } ∧ answer (.withdraw .A 1 0) leased = [0, 255] ∧
      entry (.withdraw .A 1 1) leased = leased.claim (.group 0) ∧
      after (.leaseExpiry .sky) leased = leased ∧ after (.leaseExpiry (.group 1)) leased = leased ∧
      (entry (.leaseExpiry (.group 0)) leased).holder = some ⟨.C, 1, none⟩ ∧
      ((after (.leaseExpiry (.group 0)) leased).port .C).notices[15] = some ⟨1, some 0, false⟩ ∧
      (entry (.leaseExpiry (.group 0)) (leased.setClaim (.group 0) { leased.claim (.group 0) with waiting := [] })).holder = none := by
  decide +kernel

/-! ## Programs and runners -/

def cue (a : CueAction) (t : TriggerKind) (v : BitVec 56) : Cue := { action := a, target := 0, trigger := t, flags := 0, value := v }

/-- Program 0 CLOSED with these cues and no requirement. -/
def program (cues : List Cue) : State :=
  held.setProgram 0 { state := .closed, opener := none, requirement := 0, cues := cues, inUse := none }

/-- Program 0 OPENED by port A. -/
def opened : State := held.setProgram 0 { state := .opened, opener := some .A, requirement := 0, cues := [], inUse := none }

theorem test_programs :
    ([.openProgram .A 1 16 0, .appendCues .A 1 16 [], .closeProgram .A 1 16, .eraseProgram .A 1 16, .openProgram .A 1 0 512,
        .appendCues .A 1 0 [], .appendCues .A 1 0 (List.replicate 9 note0)] : List Instr).all (fun i => answer i held == [5, 255]) =
        true ∧
      answer (.openProgram .A 1 0 511) held = [0, 255] ∧ answer (.openProgram .A 1 0 0) opened = [9, 255] ∧
      answer (.appendCues .A 1 0 [note0]) held = [9, 255] ∧ answer (.closeProgram .A 1 0) held = [9, 255] ∧
      answer (.appendCues .A 1 0 [note0, { note0 with kind := 14 }]) opened = [5, 1] ∧
      ((after (.appendCues .A 1 0 (List.replicate 8 note0)) opened).program 0).cues.length = 8 ∧
      answer (.closeProgram .A 1 0) opened = [5, 0] ∧ answer (.eraseProgram .A 1 0) opened = [0, 255] ∧
      answer (.eraseProgram .B 1 0) opened = [] ∧
      ((after (.eraseProgram .B 1 0) opened).port .B).reply.map Frame.payload = some [9, 255] := by decide +kernel

theorem test_program_in_use_and_close :
    answer (.openProgram .A 1 0 0) (after (.runProgram .B 1 0) (program [cue .note .delay 5])) = [13, 255] ∧
      answer (.eraseProgram .A 1 0) (after (.runProgram .B 1 0) (program [cue .note .delay 5])) = [13, 255] ∧
      ((after (.closeProgram .A 1 0)
        (held.setProgram 0 { state := .opened, opener := some .A, requirement := 0, cues := [cue .note .delay 1], inUse := none })).program
          0).state = .closed ∧
      answer (.closeProgram .A 1 0)
        (held.setProgram 0 { state := .opened, opener := some .A, requirement := 0, inUse := none
                             cues := [cue .note .afterPrevious 0, cue .note .delay 0] }) = [5, 1] ∧
      answer (.appendCues .A 1 0 [note0])
        (held.setProgram 0 { state := .opened, opener := some .A, requirement := 0, inUse := none
                             cues := List.replicate 128 (cue .note .delay 1) }) = [11, 255] := by decide +kernel

/-- The checks of Table 7-3 on cues of port A with an empty requirement set. -/
def fault (cues : List Cue) : Option (Nat × Nat) :=
  held.closeFault { state := .opened, opener := some .A, requirement := 0, cues := cues, inUse := none }

theorem test_close_checks :
    fault [cue .note .chained 0] = some (0, 1) ∧ fault [cue .endProgram .afterPrevious 0, cue .note .chained 0] = some (1, 1) ∧
      fault [{ cue (.output 0 0) .afterPrevious 0 with target := 4 }] = some (0, 2) ∧ fault [cue .note .delay 0] = some (0, 3) ∧
      fault [cue .note .delay 3600000] = none ∧ fault [cue .runClock .afterPrevious 0] = some (0, 4) ∧
      fault [{ cue .note .afterPrevious 0 with flags := 1 }] = some (0, 5) ∧
      fault [cue (.loopOpen 0) .afterPrevious 0, cue (.loopOpen 0) .afterPrevious 0, cue (.loopOpen 0) .afterPrevious 0] = some (0, 7) ∧
      fault [cue (.loopOpen 0) .afterPrevious 0, cue (.loopOpen 0) .afterPrevious 0, cue (.loopOpen 0) .afterPrevious 0,
        cue .loopClose .afterPrevious 0, cue .loopClose .afterPrevious 0, cue .loopClose .afterPrevious 0] = some (2, 6) ∧
      fault [cue .loopClose .afterPrevious 0] = some (0, 7) ∧
      fault [cue (.loopOpen 0) .afterPrevious 0, cue .loopClose .afterPrevious 0] = none := by decide +kernel

theorem test_cue_forms :
    (cueOf note0).isSome = true ∧ cueOf { note0 with kind := 14 } = none ∧ cueOf { note0 with trigger := 6 } = none ∧
      cueOf { note0 with targetKind := 1 } = none ∧ cueOf { note0 with kind := 11, length := 15, params := [0, 0] } ≠ none ∧
      cueOf { note0 with kind := 7, targetKind := 2, length := 14, params := [0] } = none ∧
      cueOf { note0 with kind := 9, targetKind := 3, length := 16, params := [3, 0, 0] } = none := by decide +kernel

/-- The runner of port A in program 0 at cue 0, waiting on its trigger. -/
def waits (cues : List Cue) (f : Runner → Runner) : State :=
  ((program cues).setProgram 0 { (program cues).program 0 with inUse := some .A }).setRunner .A
    (f { Runner.reset with state := .waitingTrigger, program := some 0, delay := some 0 })

theorem test_runner_requests :
    answer (.runProgram .A 1 16) held = [5, 255] ∧ answer (.runProgram .A 1 0) (waits [cue .note .delay 1] id) = [9, 255] ∧
      answer (.runProgram .A 1 0) held = [9, 255] ∧
      answer (.runProgram .A 1 0) (after (.runProgram .B 1 0) (program [cue .note .delay 1])) = [13, 255] ∧
      answer (.runProgram .A 1 0)
        ((program [cue .note .delay 1]).setProgram 0 { (program [cue .note .delay 1]).program 0 with requirement := 256 }) = [6, 8] ∧
      answer (.runProgram .A 1 0) { program [cue .note .delay 1] with power := halted.power } = [12, 255] ∧
      ((after (.runProgram .A 1 0) (program [cue .note .delay 7])).runner .A).delay = some 7 ∧
      answer (.stopRunner .A 1) held = [0, 255] ∧
      ((after (.stopRunner .A 1) (waits [cue .note .delay 1] id)).runner .A).state = .idle ∧
      answer (.resume .A 1) held = [9, 255] ∧
      ((after (.resume .A 1) (waits [cue .note .delay 7] fun x => { x with state := .suspended .halt })).runner .A).delay = some 7 ∧
      answer (.resume .A 1) { waits [cue .note .delay 7] (fun x => { x with state := .suspended .halt }) with power := halted.power } =
        [12, 255] ∧
      answer (.leaveLoop .A 1) held = [9, 255] ∧ answer (.leaveLoop .A 1) (waits [cue .note .delay 1] id) = [9, 255] ∧
      ((after (.leaveLoop .A 1) (waits [cue .note .delay 1] fun x => { x with loops := [⟨0, none, false⟩] })).runner .A).loops =
        [⟨0, none, true⟩] := by decide +kernel

/-- The runner of port A after Run of these cues, its lease of SKY half over and SKY required. -/
def started (cues : List Cue) : State :=
  after (.runProgram .A 1 0)
    (((program cues).setProgram 0 { (program cues).program 0 with requirement := 1 }).setClaim .sky
      { holder := some ⟨.A, 0, some ⟨10, 5000⟩⟩, waiting := [] })

theorem test_programs_begin :
    ((started [cue .note .delay 7]).claim .sky).holder = some ⟨.A, 0, some ⟨10, 10000⟩⟩ ∧
      ((started [cue .note .atEpoch 1]).runner .A).state = .waitingTrigger ∧
      ((started [cue .note .onLink 0]).runner .A).state = .waitingTrigger ∧
      ((started [cue .endProgram .atEpoch 0]).runner .A).state = .idle ∧ ((started []).runner .A).state = .idle ∧
      ((started [cue .note .afterPrevious 0, cue .note .delay 9]).runner .A).delay = some 9 ∧
      ((after (.resume .A 1) (waits [cue .note .onLink 0, cue .note .delay 9] fun x =>
        { x with state := .suspended .halt, latch := true })).runner .A).delay = some 9 ∧
      ((after (.resume .A 1) (waits [cue .note .onSettled 8] fun x => { x with state := .suspended .halt })).runner .A).state =
        .waitingTrigger := by decide +kernel

/-- The runner after its loop pause, whose cue has this trigger. -/
def entered (c : Cue) (f : Runner → Runner) : Runner :=
  (after (.loopPauseEnd .A) (waits [c] fun x => f { x with loopPause := some 0, delay := none })).runner .A

theorem test_triggers_at_entry :
    after (.loopPauseEnd .A) held = held ∧ (entered (cue .note .delay 9) id).delay = some 9 ∧
      (entered (cue .endProgram .atEpoch 1) id).state = .waitingTrigger ∧ (entered (cue .endProgram .atEpoch 0) id).state = .idle ∧
      (entered { cue .endProgram .atEpoch (-1) with flags := 4 } id).state = .waitingTrigger ∧
      (entered { cue .endProgram .atEpoch 0 with flags := 4 } id).state = .idle ∧
      (entered (cue .endProgram .onLink 0) id).state = .waitingTrigger ∧
      (entered (cue .endProgram .onLink 0) fun x => { x with latch := true }).state = .idle ∧
      (entered { cue .endProgram .onLink 0 with flags := 2 } fun x => { x with latch := true }).latch = false ∧
      (entered (cue .endProgram .onSettled 7) id).state = .idle ∧ (entered (cue .endProgram .afterPrevious 0) id).state = .idle ∧
      (entered (cue .note .delay 9) fun x => { x with cue := 1 }).state = .idle ∧
      ((after (.loopPauseEnd .A) ((waits [cue .endProgram .onSettled 0] fun x => { x with loopPause := some 0 }).setAxis 0
        trackingL)).runner .A).state = .waitingTrigger := by decide +kernel

/-- The runner, its ON_SETTLED trigger waiting for the group of axis 0, after a step that raised nothing. -/
def settling (c : Cue) (x : Axis) : Runner :=
  (after (.stepPulseEnd 0) ((waits [c, cue .note .delay 9] fun y => { y with delay := none }).setAxis 0 x)).runner .A

theorem test_settled_trigger_waits :
    (settling (cue .endProgram .onSettled 0) standingL).state = .idle ∧
      (settling (cue .endProgram .onSettled 0) { trackingL with tracking := some { track0 with settled := true } }).state = .idle ∧
      (settling (cue .endProgram .onSettled 0) trackingL).state = .waitingTrigger ∧
      (settling (cue .note .onSettled 0) standingL).delay = some 9 ∧ (settling (cue .note .onSettled 8) standingL).cue = 0 := by
  decide +kernel

/-- The state after the delay of this cue, with another DELAY behind it. -/
def performed (c : Cue) (f : Runner → Runner) : State := after (.delayExpiry .A) (waits [c, cue .note .delay 3] f)

theorem test_cues_performed :
    after (.delayExpiry .A) held = held ∧ ((performed (cue .note .delay 1) id).runner .A).cue = 1 ∧
      ((performed (cue .note .delay 1) id).port .A).notices[18] = some ⟨1, some 0, false⟩ ∧
      (performed (cue (.output 2 1000) .delay 1) id).outputs[0] = .pulsing 1000 ∧
      (performed (cue (.output 0 0) .delay 1) id).outputs[0] = .set ∧
      (performed (cue (.setRate 17179869184 0) .delay 1) id).clock.scheduled = 17179869184 ∧
      ((after (.delayExpiry .A) { waits [cue (.setRate 1 0) .delay 1, cue .note .delay 3] id with
        claims := State.reset.claims }).runner .A).state = .faulted (.refused .notHolder) 0 ∧
      ((performed (cue (.loopOpen 0) .delay 1) id).runner .A).loops = [⟨1, none, false⟩] ∧
      ((performed (cue .loopClose .delay 1) fun x => { x with loops := [⟨0, some 1, false⟩] }).runner .A).loops = [] ∧
      ((performed (cue .loopClose .delay 1) fun x => { x with loops := [⟨0, some 2, false⟩] }).runner .A).loopPause = some 2 ∧
      ((performed (cue .loopClose .delay 1) fun x => { x with loops := [⟨0, none, true⟩] }).runner .A).loops = [] ∧
      ((performed (cue .endProgram .delay 1) id).runner .A).state = .idle := by decide +kernel

/-- A chain of one cue behind another on the states of axes 0 and 1, then a DELAY. -/
def chainOf (c d : Cue) (x y : Axis) : State :=
  after (.delayExpiry .A) (((waits [c, { d with trigger := .chained }, cue .note .delay 3] id).setAxis 0 x).setAxis 1 y)

def waitFor (c : Cue) : Cue := { c with flags := 1 }

theorem test_chains_performed :
    (chainOf (cue .runClock .delay 1) (cue .note .delay 1) standingL standingL).clock.state = .running ∧
      ((chainOf (cue .runClock .delay 1) (cue .note .delay 1) standingL standingL).runner .A).cue = 2 ∧
      (chainOf (cue .runClock .delay 1) (cue .haltClock .delay 1) standingL standingL).clock.reason = .command ∧
      ((chainOf (cue .runClock .delay 1) { cue .trackGroup .delay 1 with target := 1 } standingL standingL).runner .A).state =
        .faulted (.refused .notHolder) 1 ∧
      (chainOf (cue .runClock .delay 1) { cue .trackGroup .delay 1 with target := 1 } standingL standingL).clock.state = .running ∧
      ((chainOf (cue (.bind 3) .delay 1) (cue .trackGroup .delay 1) standingL standingL).axis 0).record.binding = some 3 ∧
      ((chainOf (cue (.bind 3) .delay 1) (cue .trackGroup .delay 1) standingL standingL).axis 1).state = .tracking ∧
      ((chainOf (cue (.bind 255) .delay 1) (cue .stopGroup .delay 1) standingL slewingL).axis 0).record.binding = none ∧
      ((chainOf (cue (.bind 255) .delay 1) (cue .stopGroup .delay 1) standingL slewingL).axis 1).state = .stopping := by
  decide +kernel

theorem test_awaited_cues :
    (chainOf (waitFor (cue (.jump 5 0) .delay 1)) (cue .note .delay 1) standingL standingL).clock.epoch = 5 ∧
      ((chainOf (waitFor (cue (.jump 5 0) .delay 1)) (cue .note .delay 1) trackingL standingL).runner .A).completions =
        [⟨0, .settling 0, false⟩] ∧
      ((chainOf (cue .runClock .delay 1) (waitFor (cue (.slewAxis 1 7) .delay 1)) standingL standingL).runner .A).completions =
        [⟨1, .stage 0, false⟩] ∧
      ((chainOf (waitFor (cue (.slewGroup [(0, 60), (1, 70)]) .delay 1)) (cue .note .delay 1) standingL standingL).runner
        .A).completions = [⟨0, .motion 0, false⟩] ∧
      ((chainOf (waitFor (cue (.stageGroup 7) .delay 1)) (cue .note .delay 1) standingL standingL).runner .A).completions =
        [⟨0, .motion 0, false⟩] ∧
      ((chainOf (waitFor (cue (.slewAxis 0 60) .delay 1)) (cue .stopGroup .delay 1) standingL standingL).runner .A).state =
        .faulted .motionFailed 0 ∧
      ((chainOf (waitFor (cue (.slewAxis 0 50) .delay 1)) (cue .note .delay 1) standingL standingL).runner .A).cue = 2 := by
  decide +kernel

/-- The runner of port A after a signal. -/
def hearsSignal (x : Signal) (cues : List Cue) (f : Runner → Runner) : Runner := ((waits cues f).takeSignal x).runner .A

/-- A completion wait for slew 5, of an await already over and slew 6 where `more`. -/
def awaiting (more : Bool) (x : Runner) : Runner :=
  { x with
    state := .waitingCompletion, delay := none
    completions := ⟨0, .slew 5, false⟩ :: if more then [⟨0, .slew 6, false⟩] else [⟨0, .slew 7, true⟩] }

theorem test_arrivals_and_completions :
    (hearsSignal (.arrival .A 3) [cue .endProgram .onLink 0] id).state = .idle ∧
      (hearsSignal (.arrival .A 3) [cue .note .onLink 0, cue .note .delay 9] id).delay = some 9 ∧
      (hearsSignal (.arrival .A 3) [cue .note .delay 9] id).latch = true ∧
      (hearsSignal (.arrival .A 3) [cue .note .delay 9] fun x => { x with latch := true }).overruns = 1 ∧
      (hearsSignal (.done (.slew 5)) [cue .note .delay 1, cue .note .delay 9] (awaiting false)).delay = some 9 ∧
      (hearsSignal (.done (.slew 5)) [cue .note .delay 1] (awaiting true)).completions.map Completion.complete = [true, false] ∧
      (hearsSignal (.failed (.slew 6)) [cue .note .delay 1] (awaiting true)).state = .faulted .motionFailed 0 := by decide +kernel

/-- The runner of port A at the last cue of its program, awaiting this. -/
def awaits (w : Awaited) (s : State) : State :=
  (s.setProgram 0 { state := .closed, opener := none, requirement := 0, cues := [cue .note .delay 1], inUse := some .A }).setRunner .A
    { Runner.reset with state := .waitingCompletion, program := some 0, completions := [⟨0, w, false⟩] }

def runnerAfter (i : Instr) (s : State) : RunnerState := ((after i s).runner .A).state

/-- A record in progress that a new one replaces, or a Stop Group fails: what awaits it fails, its stage pendings end. -/
theorem test_records_superseded :
    runnerAfter (.coordinatedSlew .A 1 0 [(0, 60)]) (awaits (.motion 1) (stagedPair standingL)) = .faulted .motionFailed 0 ∧
      ((after (.coordinatedSlew .A 1 0 [(0, 60)]) (stagedPair standingL)).axis 1).stage = none ∧
      ((after (.coordinatedSlew .A 1 0 [(0, 60)]) (stagedPair standingL)).axis 1).lastStage = .ended ∧
      runnerAfter (.stageGroup .A 1 0 9) (awaits (.motion 1) (stagedPair standingL)) = .faulted .motionFailed 0 ∧
      ((after (.stageGroup .A 1 0 9) (stagedPair standingL)).axis 1).lastStage = .ended ∧
      ((after (.stageGroup .A 1 0 9) (stagedPair standingL)).axis 0).stage.map StagePending.epoch = some 9 ∧
      runnerAfter (.stageGroup .A 1 0 9) (awaits (.motion 1) movingPair) = .faulted .motionFailed 0 ∧
      runnerAfter (.stopGroup .A 1 0) (awaits (.motion 1) (stagedPair standingL)) = .faulted .motionFailed 0 ∧
      runnerAfter .evaluationComplete (awaits (.motion 1) (lastResult { standingL with position := ⟨0, 0⟩ } 50)) = .idle ∧
      runnerAfter (.stageGroup .A 1 0 9) (awaits (.motion 7) (stagedPair standingL)) = .waitingCompletion := by decide +kernel

/-- SETTLING on this roll, 7 ms left, to go on RUNNING. -/
def settles (roll : List AxisId) (s : State) : State :=
  s.withClock { s.clock with state := .settling, roll := roll, settleTimer := some 7, resumeTo := .running }

/-- Settling complete: what the clock is and what port B is told of it. -/
def settled (i : Instr) (s : State) : Bool :=
  let t := after i (awaits (.settling s.clock.settleSerial) s)
  t.clock.state == .running && t.clock.settleTimer == none && t.clock.roll == [] && (t.runner .A).state == .idle &&
    (t.port .B).notices[2] == some ⟨1, none, false⟩

def stays (i : Instr) (s : State) : Bool :=
  let t := after i s
  t.clock.state == .settling && t.clock.settleTimer == some 7 && t.clock.roll == [1] && (t.port .B).notices[2] == none

/-- Axis 0 covered at the epoch of the clock, within the tolerance of its target. -/
def reportsSettled : State :=
  let s := (inFlight0 (.axis 0 .track) 20).setAxis 0 { trackingL with position := ⟨0, 96⟩ }
  s.withClock { s.clock with epoch := 20 }

/-- A step that brings the axis within its tolerance of the target of this epoch. -/
def stepsIn : State := put { trackingL with tracking := some { track0 with target := 55, lastEpoch := some 0 } }

def leaves : List Instr :=
  [.stop .A 1 0, .slew .A 1 0 0 60, .slew .A 1 0 1 7, .fltInputChange 0 true, .limitInputChange 0 .plus true none, .stopGroup .A 1 0]

/-- Settling completes with the last axis to leave the roll, and with no other. -/
theorem test_last_axis_completes_settling :
    leaves.all (fun i => settled i (settles [0] tracks)) = true ∧ leaves.all (fun i => stays i (settles [0, 1] tracks)) = true ∧
      settled (.stopGroup .A 1 0) (settles [0, 1] (tracks.setAxis 1 trackingL)) = true ∧
      settled .evaluationComplete (settles [0] reportsSettled) = true ∧ stays .evaluationComplete (settles [0, 1] reportsSettled) = true ∧
      settled (.stepPulse 0) (settles [0] stepsIn) = true ∧ stays (.stepPulse 0) (settles [0, 1] stepsIn) = true ∧
      settled (.setEpoch .A 1 6 1) (settles [0] held) = true ∧
      ((after (.setEpoch .A 1 6 0) held).port .B).notices[2] = some ⟨1, none, false⟩ ∧
      ((after (.setEpoch .A 1 6 1) held).port .B).notices[2] = none ∧
      (after (.stop .A 1 0) tracks).clock = tracks.clock := by decide +kernel

/-- An announcement reaches those that waited when it was made, and none that enters its trigger after it. -/
theorem test_announcements :
    (waits [cue .endProgram .atEpoch 5] id).epochWaiters = [.A] ∧ held.epochWaiters = [] ∧
      (hearsSignal (.epoch 5 [.A]) [cue .endProgram .atEpoch 5] id).state = .idle ∧
      (hearsSignal (.epoch 5 [.A]) [cue .note .atEpoch 5, cue .note .delay 9] id).delay = some 9 ∧
      (hearsSignal (.epoch 4 [.A]) [cue .endProgram .atEpoch 5] id).state = .waitingTrigger ∧
      (hearsSignal (.epoch 5 [.B]) [cue .endProgram .atEpoch 5] id).state = .waitingTrigger ∧
      ((after (.runProgram .A 1 0) ((program [cue (.jump 5000 1) .afterPrevious 0, cue (.jump 1000 1) .afterPrevious 0,
        cue .endProgram .atEpoch 3000]))).runner .A).state = .waitingTrigger := by decide +kernel

/-- A link of CLOCK_RANGE to the capture queue, and a runner whose AT_EPOCH jumps away from the limit. -/
def limited : State :=
  ((waits [cue (.jump 0 1) .atEpoch (BitVec.ofInt 56 (2 ^ 50 - 1)), cue .note .delay 9] fun x => { x with delay := none }).setLink 0
    { enabled := true, source := some .clockRange, dest := some .capture, arrivals := 0, lastStart := .none }).withClock
      (runs 250 (2 ^ 50 - 2)).clock

/-- The event of an update carries the sky the update left. -/
theorem test_capture_at_the_limit :
    (after .epochUpdate limited).captures.records.map (fun r => (r.snap.epoch, r.snap.state)) = [(2 ^ 50 - 1, .halted)] ∧
      (after .epochUpdate limited).clock.epoch = 0 := by decide +kernel

/-! ## Links and lines -/

/-- Link 23 from TRIG3, both edges, to this destination. -/
def linked (d : Dest) : State :=
  held.setLink 23 { enabled := true, source := some (.trig 3 .both), dest := some d, arrivals := 0, lastStart := .none }

def taken (d : Dest) : State := after (.trigInputChange 3 true) (linked d)

theorem test_links_are_set :
    answer (.setLink .A 1 24 0 ⟨0, 0, 0⟩ ⟨5, 0, 0⟩) held = [5, 1] ∧ answer (.setLink .A 1 23 2 ⟨0, 0, 0⟩ ⟨5, 0, 0⟩) held = [5, 2] ∧
      answer (.setLink .A 1 23 1 ⟨0, 4, 0⟩ ⟨5, 0, 0⟩) held = [5, 3] ∧ answer (.setLink .A 1 23 1 ⟨0, 3, 0⟩ ⟨2, 0, 1001⟩) held = [5, 4] ∧
      ((after (.setLink .A 1 23 1 ⟨1, 3, 2⟩ ⟨2, 3, 1000⟩) held).link 23).dest = some (.outputPulse 3 1000) ∧
      answer (.setLinkEnable .A 1 24 0) held = [5, 255] ∧ answer (.setLinkEnable .A 1 23 2) held = [5, 255] ∧
      answer (.setLinkEnable .A 1 23 1) held = [9, 255] ∧ answer (.setLinkEnable .A 1 23 0) held = [0, 255] ∧
      answer (.setLinkEnable .A 1 23 1) (linked .capture) = [0, 255] ∧
      answer (.setTriggerFilter .A 1 4 0) held = [5, 255] ∧ answer (.setTriggerFilter .A 1 3 5) held = [5, 255] ∧
      (after (.setTriggerFilter .A 1 3 16) held).trigs[3].length = 16 := by decide +kernel

theorem test_trig_events :
    quiet held = true ∧ quiet (linked .capture) = true ∧ after (.trigInputChange 3 false) held = held ∧
      (after (.trigInputChange 3 true) held).trigs[3].accepted = true ∧
      ((linked .capture).link 23).takes (.trig 3 .rising) = true ∧ (taken (.outputSet 3)).outputs[3] = .set ∧
      (taken (.outputClear 3)).outputs[3] = .inactive ∧ (taken (.outputPulse 3 1)).outputs[3] = .pulsing 1 ∧
      (taken .capture).captures.records.map Capture.number = [0] ∧
      (after (.trigInputChange 3 true) { linked .capture with captures := { records := List.replicate 4 ⟨0, 0, .clockRange, held.skySnap⟩
                                                                            next := 65535, overruns := 0 } }).captures.overruns = 1 ∧
      (taken .clockHalt).clock.reason = .command ∧ ((taken (.runnerLink .C)).runner .C).latch = true ∧
      ((after (.trigInputChange 3 false) (taken (.runnerLink .C))).runner .C).overruns = 1 ∧
      ((after (.trigInputChange 3 true) ((linked (.runnerStart .A 15)).setRunner .A
        { Runner.reset with state := .suspended .claim })).link 23).lastStart = .refused .state ∧
      ((taken (.runnerStart .A 15)).link 23).arrivals = 1 := by decide +kernel

/-- Links 22 and 23 from one source, to the capture queue both. -/
def twice : State := (linked .capture).setLink 22 ((linked .capture).link 23)

theorem test_starts_and_several_links :
    (((after (.trigInputChange 3 true) ((program [cue .note .delay 7]).setLink 23
        ((linked (.runnerStart .A 0)).link 23))).link 23).lastStart) = .started ∧
      (((after (.trigInputChange 3 true) ((program [cue .note .delay 7]).setLink 23
        ((linked (.runnerStart .A 0)).link 23))).runner .A).delay) = some 7 ∧
      (allLinks.filter fun l => (twice.link l).takes (.trig 3 .rising) && (twice.link l).dest == some .capture).length = 2 := by
  decide +kernel

theorem test_trig_samples_and_pulse :
    after (.inputSample (.trig 3) false) held = held ∧ (after (.inputSample (.trig 3) true) held).trigs[3].run = 1 ∧
      (after (.inputSample (.trig 3) true) (after (.inputSample (.trig 3) true) held)).trigs[3].run = 2 ∧
      (after (.inputSample (.trig 3) true) { held with trigs := held.trigs.set 3 { held.trigs[3] with run := 3, snap := some held.skySnap } }).trigs[3].accepted =
        true ∧
      (after (.inputSample (.trig 3) true) { linked .capture with trigs := held.trigs.set 3 { held.trigs[3] with
        length := 0, run := 2, snap := some { held.skySnap with epoch := 7 } } }).captures.records.map (·.snap.epoch) = [7] ∧
      (after (.pulseTimerExpiry 3) (held.setOutput 3 (.pulsing 0))).outputs[3] = .inactive ∧
      (after (.pulseTimerExpiry 3) (held.setOutput 3 .set)).outputs[3] = .set := by decide +kernel

/-- Items in their bytes. -/
theorem test_layouts :
    laid [(2, -2), (3, 65538)] = [255, 254, 1, 0, 2] ∧ encFlag true = laid [flagItem true] ∧
      encOpt 2 (beNat 2) none = laid (optItems 2 (fun n : Nat => [natItem 2 n]) none) ∧
      encDest (.outputPulse 3 700) = laid (Dest.outputPulse 3 700).items ∧
      encOutcome (.passedOver .limit) = [7, 1, 3] := by decide +kernel

/-! ## Notices and settings -/

theorem test_notices :
    held.routing[NoticeKind.mark.idx] = .all ∧
      ((held.notify .mark .sky (some 3)).port .C).notices[7] = some ⟨1, some 3, false⟩ ∧
      (((held.notify .mark .sky (some 3)).notify .mark .sky none true).port .C).notices[7] = some ⟨2, none, true⟩ ∧
      (({ held with routing := held.routing.set 7 .holder } : State).notify .mark .sky none).port .B = held.port .B ∧
      (({ held with routing := held.routing.set 7 (.ports 4) } : State).routedPorts .mark .sky) = [.C] ∧
      (({ held with routing := held.routing.set 7 .holder } : State).routedPorts .mark (.group 1)) = [.A, .B, .C] ∧
      held.attn .A = true ∧ (held.modPort .A fun q => { q with mask := 1 }).attn .A = false := by decide +kernel

/-- Axis 0 tracking with a lag limit of 8 steps, the governor on. -/
def lags (s : State) (t : Tracking) : State :=
  (s.setAxis 0 { trackingL with tracking := some t, record := { standingL.record with lagLimit := 8 } }).withClock
    { s.clock with governor := true, scheduled := 7 }

def told (i : Instr) (s : State) (k : NoticeKind) : Option NoticeEntry := ((after i s).port .B).notices[k.idx]

/-- LAGGING by a step, by a result and at the settle expiry, CLAMPED, and HOMED. -/
theorem test_notices_of_motion :
    told (.stepPulse 0) (lags held track0) .governorEngaged = some ⟨1, some 0, false⟩ ∧
      told (.stepPulse 0) (lags held track0) .axisLagging = some ⟨1, some 0, false⟩ ∧
      (after (.stepPulse 0) (lags held track0)).clock.ceiling = some 3 ∧
      told (.stepPulse 0) ((lags held track0).withClock governed.clock) .governorEngaged = none ∧
      told (.stepPulse 0) (lags held { track0 with lagging := true }) .axisLagging = none ∧
      told .evaluationComplete (lags (inFlight0 (.axis 0 .track) 20) track0) .governorEngaged = some ⟨1, some 0, false⟩ ∧
      told .evaluationComplete (lags (inFlight0 (.axis 0 .track) 20) track0) .axisLagging = some ⟨1, some 0, false⟩ ∧
      told .evaluationComplete (lags (inFlight0 (.axis 0 .track) 25) track0) .axisLagging = some ⟨1, some 0, false⟩ ∧
      told .evaluationComplete (lags (inFlight0 (.axis 0 .track) 20) track0) .axisClamped = some ⟨1, some 0, false⟩ ∧
      told .evaluationComplete (lags (inFlight0 (.axis 0 .track) 20) { track0 with clamped := true }) .axisClamped = none ∧
      told .settleTimerExpiry (settles [0] tracks) .axisLagging = some ⟨1, some 0, false⟩ ∧
      told .settleTimerExpiry (settles [0] tracks) .clockSettled = some ⟨1, some 0, true⟩ ∧
      told .settleTimerExpiry (settles [0] (put { trackingL with tracking := some { track0 with lagging := true } })) .axisLagging = none ∧
      (after .settleTimerExpiry (settles [0] (lags held track0))).clock.ceiling = none ∧
      told (.axisHomed 0) (put { homingL with homing := some { seek0 with edge := some ⟨0, 2⟩ } }) .axisHomed =
        some ⟨1, some 0, false⟩ := by decide +kernel

/-- Notices addressed to one port, whatever the routing. -/
theorem test_addressed_notices :
    ((held.noticeTo .B .cueNote (some 1)).port .B).notices[18] = some ⟨1, some 1, false⟩ ∧
      (((held.noticeTo .B .cueNote (some 1)).noticeTo .B .cueNote none).port .B).notices[18] = some ⟨2, none, false⟩ ∧
      (held.noticeTo .B .cueNote (some 1)).port .A = held.port .A ∧ NoticeKind.cueNote.routed = false ∧
      ((after (.claim .A 1 3 0 0 0) held).port .A).notices = (held.port .A).notices ∧
      ((after (.release .A 1 1) leased).port .C).notices[15] = some ⟨1, some 0, false⟩ ∧
      ((after (.leaseExpiry (.group 0)) leased).port .A).notices[14] = some ⟨1, some 0, false⟩ := by decide +kernel

theorem test_settings :
    answer (.setNoticeMask .A 1 33554432) held = [5, 255] ∧ answer (.setNoticeMask .A 1 33554431) held = [0, 255] ∧
      answer (.setReportRate .A 1 501) held = [5, 255] ∧ answer (.setReportRate .A 1 500) held = [0, 255] ∧
      answer (.setNoticeRouting .A 1 25 1 0) held = [5, 255] ∧ answer (.setNoticeRouting .A 1 24 3 0) held = [5, 255] ∧
      answer (.setNoticeRouting .A 1 24 2 0) held = [5, 255] ∧ answer (.setNoticeRouting .A 1 24 2 8) held = [5, 255] ∧
      answer (.setNoticeRouting .A 1 0 1 0) held = [5, 255] ∧
      (after (.setNoticeRouting .A 1 24 2 7) held).routing[24] = .ports 7 ∧
      (after (.setNoticeRouting .A 1 1 0 0) held).routing[1] = .holder ∧ answer (.setReturnPolicy .A 1 3) held = [5, 255] ∧
      (after (.setReturnPolicy .A 1 2) held).power.policy = .rehomeAndResume := by decide +kernel

/-! ## Motion, homing and faults -/

theorem test_step_pulse :
    after (.stepPulse 0) held = held ∧ after (.stepPulse 0) (put { slewingL with pause := some 50 }) = put { slewingL with pause := some 50 } ∧
      after (.stepPulse 0) (put { homingL with homing := some { seek0 with travel := 100 } }) =
        put { homingL with homing := some { seek0 with travel := 100 } } ∧
      (axis0 (.stepPulse 0) (put slewingL)).position = ⟨0, 51⟩ ∧ 0 < slewingL.speedSq ∧
      (axis0 (.stepPulse 0) (put { slewingL with record := standingC.record, position := ⟨2 ^ 31 - 1, 51199⟩ })).position =
        ⟨-(2 ^ 31), 0⟩ ∧
      (axis0 (.stepPulse 0) (put { slewingL with record := standingC.record, position := ⟨-(2 ^ 31), 0⟩, direction := some .minus })).position =
        ⟨2 ^ 31 - 1, 51199⟩ ∧
      (axis0 (.stepPulse 0) (put { slewingL with state := .stopping, stopping := some ⟨some 10, .standing⟩ })).speedSq = 0 ∧
      (axis0 (.stepPulse 0) (put homingL)).homing.map Homing.travel = some 1 ∧
      (axis0 (.stepPulse 0) (put { homingL with homing := some { seek0 with travel := 98 } })).homing.map Homing.travel = some 99 ∧
      (axis0 (.stepPulse 0) (put trackingL)).tracking.map Tracking.lagging = some false ∧
      (axis0 (.stepPulse 0) (put { trackingL with record := { standingL.record with lagLimit := 8 } })).tracking.map Tracking.lagging =
        some true ∧
      (axis0 (.stepPulse 0) (put { trackingL with tracking := some { track0 with target := 55 } })).tracking.map Tracking.settled =
        some true ∧
      (after (.stepPulse 0) ((put { trackingL with record := { standingL.record with lagLimit := 8 } }).withClock
        { held.clock with governor := true, scheduled := 1 })).clock.ceiling = some 1 := by decide +kernel

/-- The squared speed, in (steps/s)², that a step of a homing in this phase leaves of `n`. -/
def homingSpeed (p : HomingPhase) (n : Nat) : Nat :=
  (axis0 (.stepPulse 0) (put { homingL with speedSq := n * sqScale, homing := some { seek0 with phase := p } })).speedSq / sqScale

/-- A homing goes to the home speed of 1,000 steps/s by 50,000 steps/s² and holds it. -/
theorem test_homing_speed :
    ([.seek, .clear] : List HomingPhase).all (fun p =>
      homingSpeed p 1 == 100001 && homingSpeed p 900000 == 1000000 && homingSpeed p 900001 == 1000000 &&
        homingSpeed p 1000000 == 1000000 && homingSpeed p 1000001 == 1000000 && homingSpeed p 4000000 == 3900000) = true := by
  decide +kernel

theorem test_first_pulse_and_none_inside_one :
    (axis0 (.stepPulse 0) (put { slewingL with speedSq := 0 })).position = ⟨0, 51⟩ ∧
      0 < (axis0 (.stepPulse 0) (put { slewingL with speedSq := 0 })).speedSq ∧
      after (.stepPulse 0) (put { slewingL with pulse := some 5 }) = put { slewingL with pulse := some 5 } ∧
      (axis0 (.stepPulse 0) (put { homingL with speedSq := 0 })).position = ⟨0, 51⟩ ∧
      (axis0 (.stepPulse 0) (put { trackingL with speedSq := 0, direction := some .minus })).position = ⟨0, 50⟩ ∧
      after (.velocityReachesZero 0) (put { slewingL with speedSq := 0, pause := some 50 }) =
        put { slewingL with speedSq := 0, pause := some 50 } := by decide +kernel

/-- The squared speed, in (steps/s)², that a step leaves of `n`. -/
def speedOf (x : Axis) (n : Nat) : Nat := (axis0 (.stepPulse 0) (put { x with speedSq := n * sqScale })).speedSq / sqScale

/-- A slew ten steps before its target, one past it and one above its limit; a tracking axis with its goal ahead, a goal elsewhere and
none before acquisition. -/
theorem test_speeds :
    ([1, 1000000, 1000001, 900000].map (speedOf slewingL)) = [100001, 900000, 900001, 900000] ∧
      speedOf { slewingL with position := ⟨0, 60⟩ } 300000 = 200000 ∧
      speedOf { slewingL with target := slewingL.target.map fun t => { t with limitSq := 100 * sqScale } } 150 = 100 ∧
      ([1, 50625, 1000000].map (speedOf trackingL)) = [50625, 50625, 900000] ∧
      speedOf { trackingL with tracking := some { track0 with target := 40 } } 200000 = 100000 ∧
      speedOf { trackingL with tracking := some { track0 with acquire := true } } 200000 = 100000 := by decide +kernel

/-- The goal of a tracking axis at its target (feed-forward alone) or 200 steps before it (correction). -/
def goalOf (f : Tracking → Tracking) (rate : Int) (target : Int) : Int :=
  ({ trackingL with tracking := some (f { track0 with target := target, last := some ⟨0, 0, 0, 0, rate, .bounded, 0⟩ }) } : Axis).goal 1

theorem test_goals :
    goalOf id (86400 * 2 ^ 24) 50 = 51200 ∧ goalOf (fun t => { t with uncovered := true }) (86400 * 2 ^ 24) 50 = 0 ∧
      goalOf (fun t => { t with clamped := true }) (86400 * 2 ^ 24) 50 = 0 ∧ goalOf id 0 60 = 250 * 2 ^ 16 ∧
      goalOf id 0 250 = 293085901 ∧ goalOf id 0 (-150) = -293085901 ∧ goalOf id (86400 * 2 ^ 40) 50 = 10000 * 2 ^ 16 ∧
      goalOf id (-(86400 * 2 ^ 40)) 50 = -(10000 * 2 ^ 16) ∧ isqrt 20 = 4 := by decide +kernel

/-- Angles in steps: half a step goes to the greater. -/
theorem test_angles_in_steps :
    standingL.stepsOf (2 ^ 20) = 13 ∧
      ({ standingL with record := { standingL.record with sense := .minus } } : Axis).stepsOf (2 ^ 20) = -12 ∧
      ({ standingL with record := { standingL.record with zeroOffset := 5 } } : Axis).stepsOf (2 ^ 31) = 25605 ∧
      shortest (2 ^ 31) = 2 ^ 31 ∧ shortest (2 ^ 31 + 1) = 1 - 2 ^ 31 ∧ standingC.extendedTarget 51199 = -1 ∧
      standingC.extendedTarget 25603 = 25603 := by decide +kernel

/-- A pulse counts the steps since the capture while a run of HOME stands. -/
theorem test_steps_since_the_capture :
    (axis0 (.stepPulse 0) (put { homingL with home := ⟨false, 2, ⟨0, 50⟩, 1, 4⟩ })).home = ⟨false, 2, ⟨0, 50⟩, 2, 4⟩ ∧
      (axis0 (.stepPulse 0) (put { homingL with home := ⟨false, 2, ⟨0, 50⟩, 1, 4⟩, direction := some .minus })).home =
        ⟨false, 2, ⟨0, 50⟩, 1, 5⟩ ∧
      (axis0 (.stepPulse 0) (put homingL)).home = homingL.home := by decide +kernel

/-- An axis at rest as it is once its motion has started. -/
def begun (x : Axis) : Axis := axis0 (.stepPulseEnd 0) (put { x with speedSq := 0, direction := none })

/-- DIR and the reversal pause at the start of a motion. -/
theorem test_motions_start :
    begun slewingL = { slewingL with speedSq := 0, direction := some .plus } ∧
      begun { slewingL with dirHigh := false } = { slewingL with speedSq := 0, direction := some .plus, pause := some 50 } ∧
      begun { slewingL with record := { standingL.record with inverted := true } } =
        { slewingL with
          record := { standingL.record with inverted := true }, speedSq := 0, direction := some .plus, dirHigh := false
          pause := some 50 } ∧
      (begun { homingL with homing := some { seek0 with phase := .clear } }).direction = some .minus ∧
      (begun { trackingL with tracking := some { track0 with target := 50 } }).direction = none ∧
      (axis0 (.stepPulseEnd 0) (put { trackingL with speedSq := 0, tracking := some { track0 with target := 50 } })).direction = none ∧
      (after (.stepPulseEnd 0) { put { slewingL with speedSq := 0, direction := none } with power := unpowered.power }).axis 0 =
        { slewingL with speedSq := 0, direction := none } := by decide +kernel

/-- A motion that starts toward a limit active already. -/
theorem test_motions_start_at_a_limit :
    (begun { slewingL with limP := ⟨true, 0⟩, dirHigh := false }).fault.first = some .hardLimit ∧
      (begun { slewingL with limP := ⟨true, 0⟩, dirHigh := false }).dirHigh = true ∧
      (begun { slewingL with limN := ⟨true, 0⟩ }).state = .slewing ∧
      begun { homingL with limP := ⟨true, 0⟩ } =
        { homingL with
          limP := ⟨true, 0⟩, speedSq := 0, direction := some .minus, dirHigh := false, pause := some 50
          homing := some { seek0 with reversals := 1, direction := .minus } } ∧
      (begun { homingL with limP := ⟨true, 0⟩, limN := ⟨true, 0⟩ }).fault.reversals = some 1 ∧
      (begun { homingL with limP := ⟨true, 0⟩, homing := some { seek0 with reversals := 1 } }).fault.reversals = some 1 ∧
      (begun { homingL with limN := ⟨true, 0⟩, homing := some { seek0 with phase := .clear } }).fault.reversals = some 0 := by
  decide +kernel

/-- A staged slew at its target, with a stage pending of this serial. -/
def stagedArrival (serial : Nat) : State :=
  put { slewingL with
    speedSq := 0, position := ⟨0, 60⟩, stage := some ⟨9, .single, serial⟩
    target := slewingL.target.map fun t => { t with serial := 5, staged := stagedHere.stagedAt } }

theorem test_staged_arrivals :
    (axis0 (.axisArrived 0) (stagedArrival 4)).stage = none ∧ (axis0 (.axisArrived 0) (stagedArrival 4)).lastStage = .arrived ∧
      (axis0 (.axisArrived 0) (stagedArrival 5)).stage = some ⟨9, .single, 5⟩ ∧
      (axis0 (.axisArrived 0) (stagedArrival 5)).stagedAt = stagedHere.stagedAt := by decide +kernel

theorem test_return_sequence :
    ((after (.axisHomed 0) (sequenced { homingL with homing := some { seek0 with edge := some ⟨0, 2⟩ } })).axis 1).state = .tracking ∧
      (after (.axisHomed 0) (sequenced { homingL with homing := some { seek0 with edge := some ⟨0, 2⟩ } })).power.outcome = .resumed ∧
      (after (.axisHomed 0) (sequenced { homingL with homing := some { seek0 with edge := some ⟨0, 2⟩ } })).clock.state = .running ∧
      (after (.homingSearchExhausted 0 none) (sequenced { homingL with homing := some { seek0 with travel := 100 } })).power.outcome =
        .abandoned ∧
      (after (.fltInputChange 0 true) (sequenced homingL)).power.outcome = .abandoned ∧
      (axis0 (.fltInputChange 0 true) (sequenced homingL)).position = ⟨0, 50⟩ ∧
      (axis0 .drivePowerOkInactive (put homingL)).position = ⟨0, 50⟩ ∧
      (after .drivePowerOkInactive (sequenced homingL)).power.outcome = .none ∧
      (after .haltLineAsserted (sequenced homingL)).power.outcome = .abandoned := by decide +kernel

theorem test_motions_end :
    (axis0 (.stepPulseEnd 0) (put { slewingL with pulse := some 5 })).pulse = none ∧
      (axis0 (.reversalPauseEnd 0) (put { slewingL with pause := some 50 })).pause = none ∧
      (axis0 (.velocityReachesZero 0) (put slewingL)).speedSq = 0 ∧ after (.velocityReachesZero 0) held = held ∧
      after (.stoppingRest 0) held = held ∧
      (axis0 (.stoppingRest 0) (put { slewingL with state := .stopping, stopping := some ⟨some 10, .unreferenced⟩ })).state =
        .unreferenced ∧
      axis0 (.stoppingRest 0) (put { trackingL with
          state := .stopping, stopping := some ⟨none, .standing⟩, target := slewingL.target, pause := some 50 }) =
        standingL ∧
      after (.axisArrived 0) (put slewingL) = put slewingL ∧
      (axis0 (.axisArrived 0) (put { slewingL with speedSq := 0, position := ⟨0, 60⟩ })).state = .standing ∧
      ((after (.axisArrived 0) ((put { slewingL with speedSq := 0, position := ⟨0, 60⟩ }).setMotion 0
        (some { stageEpoch := none, state := .moving, cause := none, duration := some 1, serial := 1
                members := [⟨0, some 60, .moving, none⟩] }))).motions[0].map GroupMotion.state) = some .arrived := by decide +kernel

theorem test_homing :
    after (.homeInputChange 0 false) (put homingL) = put homingL ∧
      (axis0 (.homeInputChange 0 true) (put standingL)).home.accepted = true ∧ after (.clearPhaseRest 0) held = held ∧
      after (.axisHomed 0) held = held ∧ after (.homingSearchExhausted 0 none) held = held ∧
      (axis0 (.homeInputChange 0 true) (put { homingL with home := ⟨false, 3, ⟨0, 50⟩, 2, 0⟩ })).position = ⟨0, 2⟩ ∧
      (axis0 (.homeInputChange 0 true) (put { homingL with record := standingC.record, homing := some { seek0 with direction := .minus }
                                                           home := ⟨false, 3, ⟨0, 50⟩, 0, 2⟩ })).position = ⟨-1, 51198⟩ ∧
      (axis0 (.homeInputChange 0 false) (put { homingL with home := ⟨true, 0, ⟨0, 0⟩, 0, 0⟩, homing := some { seek0 with phase := .clear } })).homing.map
        Homing.braking = some true ∧
      (axis0 (.clearPhaseRest 0) (put { homingL with homing := some { seek0 with phase := .clear, braking := true } })).homing.map
        Homing.phase = some .seek ∧
      (axis0 (.axisHomed 0) (put { homingL with homing := some { seek0 with edge := some ⟨0, 2⟩ } })).state = .standing ∧
      after (.homingSearchExhausted 0 none) (put { homingL with homing := some { seek0 with travel := 98 } }) =
        put { homingL with homing := some { seek0 with travel := 98 } } ∧
      (axis0 (.homingSearchExhausted 0 (some false)) (put faultedL)).fault.further = [.homeNotFound] ∧
      (axis0 (.homingSearchExhausted 0 none) (put { homingL with homing := some { seek0 with travel := 100 } })).fault.first =
        some .homeNotFound := by decide +kernel

/-- A homing one step short of its search distance. -/
def lastStep : State := put { homingL with homing := some { seek0 with travel := 99 } }

/-- The step that completes the travel fails the homing, told as a pulse or as the exhaustion of the search; a change of HOME after it
is one outside HOMING, and one before it makes it the first step after the edge (R104). -/
theorem test_last_step_of_a_search :
    ([.stepPulse 0, .homingSearchExhausted 0 none] : List Instr).all (fun i =>
      let x := axis0 i lastStep
      x.state == .faulted && x.fault == { FaultRecord.reset with first := some .homeNotFound, reversals := some 0 } &&
        x.position == ⟨0, 51⟩ && x.pulse == some 5 && x.speedSq == 0 && x.homing.isNone &&
        told i lastStep .axisFault == some ⟨1, some 0, false⟩) = true ∧
      axis0 (.homeInputChange 0 true) (after (.stepPulse 0) lastStep) =
        { axis0 (.stepPulse 0) lastStep with home := ⟨true, 0, ⟨0, 51⟩, 0, 0⟩ } ∧
      (axis0 (.stepPulse 0) (after (.homeInputChange 0 true) lastStep)).state = .homing ∧
      (axis0 (.stepPulse 0) (after (.homeInputChange 0 true) lastStep)).position = ⟨0, 1⟩ ∧
      after (.homingSearchExhausted 0 none) (put { lastStep.axis 0 with pulse := some 5 }) = put { lastStep.axis 0 with pulse := some 5 } := by
  decide +kernel

theorem test_limits :
    after (.limitInputChange 0 .plus false none) (put slewingL) = put slewingL ∧
      (axis0 (.limitInputChange 0 .minus true none) (put slewingL)).state = .slewing ∧
      (axis0 (.limitInputChange 0 .plus true none) (put slewingL)).fault.first = some .hardLimit ∧
      (axis0 (.limitInputChange 0 .plus true none) (put slewingL)).limitMemory = some .plus ∧
      (axis0 (.limitInputChange 0 .plus false none) (put { standingL with limP := ⟨true, 0⟩, limitMemory := some .plus })).limitMemory = none ∧
      (axis0 (.limitInputChange 0 .plus true (some .hardLimit)) (put faultedL)).fault.further = [.hardLimit] ∧
      (axis0 (.limitInputChange 0 .plus true (some .hardLimit)) (put faultedL)).limitMemory = some .plus ∧
      (axis0 (.limitInputChange 0 .plus true (some (.homeNotFound true))) (put faultedL)).fault.reversals = some 1 ∧
      (axis0 (.limitInputChange 0 .plus true (some .hardLimit)) (put standingL)).fault = standingL.fault ∧
      (axis0 (.limitInputChange 0 .plus true none) (put homingL)).homing.map Homing.reversals = some 1 ∧
      (axis0 (.limitInputChange 0 .plus true none) (put { homingL with homing := some { seek0 with reversals := 1 } })).fault.first =
        some .homeNotFound ∧
      (axis0 (.limitInputChange 0 .plus true none) (put { homingL with homing := some { seek0 with edge := some ⟨0, 2⟩ } })).fault.first =
        some .hardLimit := by decide +kernel

theorem test_drive_faults :
    after (.fltInputChange 0 false) held = held ∧ (axis0 (.fltInputChange 0 true) (put standingL)).known = false ∧
      (axis0 (.fltInputChange 0 true) (put { standingL with record := { standingL.record with keepPosition := true } })).known = true ∧
      (axis0 (.fltInputChange 0 true) (put { faultedL with fault := { FaultRecord.reset with first := some .hardLimit } })).fault.further =
        [.driveFault] ∧
      (axis0 (.fltInputChange 0 false)
        (put { faultedL with record := { standingL.record with auto := true }, flt := ⟨true, 0⟩ })).fault.autoClear = some 100 ∧
      (axis0 (.fltInputChange 0 true) held).flt.accepted = true ∧ after (.autoClearExpiry 0) held = held ∧
      (axis0 (.autoClearExpiry 0) (put { faultedL with fault := { faultedL.fault with autoClear := some 0 } })).state = .standing := by
  decide +kernel

/-- FLT inactive on a live axis, under the policy MANUAL, and with another cause. -/
theorem test_drive_faults_pass :
    (axis0 (.fltInputChange 0 false) (put { slewingL with flt := ⟨true, 0⟩ })) = slewingL ∧
      (axis0 (.fltInputChange 0 false) (put { faultedL with flt := ⟨true, 0⟩ })) = faultedL ∧
      (axis0 (.fltInputChange 0 false)
        (put { faultedL with record := { standingL.record with auto := true }, flt := ⟨true, 0⟩,
                             fault := { faultedL.fault with further := [.hardLimit] } })).fault.autoClear = none ∧
      (axis0 (.fltInputChange 0 true) (put { disabledL with fault := { FaultRecord.reset with autoClear := some 3 } })).fault =
        FaultRecord.reset := by decide +kernel

/-- A drive fault on a FAULTED axis, one while drive power is absent, and the notice AXIS_FAULT. -/
theorem test_drive_faults_in_other_states :
    (axis0 (.fltInputChange 0 true) (put { faultedL with fault := { FaultRecord.reset with first := some .hardLimit } })).known = false ∧
      (axis0 (.fltInputChange 0 true) (put faultedL)).position = ⟨0, 0⟩ ∧
      (axis0 (.fltInputChange 0 true) (unpowered.setAxis 0 standingL)).state = .standing ∧
      (axis0 (.fltInputChange 0 true) (unpowered.setAxis 0 standingL)).flt.accepted = true ∧
      (axis0 (.fltInputChange 0 true) (unpowered.setAxis 0 standingL)).known = true ∧
      ((after (.fltInputChange 0 true) (put standingL)).port .B).notices[11] = some ⟨1, some 0, false⟩ ∧
      (axis0 (.fltInputChange 0 true) (put faultedL)).fault.first = some .driveFault := by decide +kernel

/-! ## Halts, drive power, samples and starts -/

theorem test_halt :
    after .haltLineAsserted halted = halted ∧ after .haltLineDeasserted held = held ∧
      (after .haltLineDeasserted halted).power.halt.accepted = false ∧
      (after .haltLineAsserted (put slewingL)).clock.reason = .haltLine ∧
      (axis0 .haltLineAsserted (put slewingL)).stopping = some ⟨some 200000, .standing⟩ ∧
      (axis0 (.haltAll .A 1) (put { slewingL with state := .stopping, stopping := some ⟨some 10, .standing⟩ })).stopping =
        some ⟨some 200000, .standing⟩ ∧
      (axis0 .haltLineAsserted (put { slewingL with record := { standingL.record with haltDecel := none } })).state = .standing := by
  decide +kernel

/-- A stage pending ends ENDED at a halt, also that of an axis in STANDING or STOPPING. -/
theorem test_halt_ends_stages :
    ([standingL, { slewingL with state := .stopping, stopping := some ⟨some 10, .standing⟩ }, slewingL] : List Axis).all (fun x =>
      let y := axis0 .haltLineAsserted (put { x with stage := some ⟨9, .single, 1⟩ })
      y.stage.isNone && y.lastStage == .ended && (axis0 .haltLineAsserted (put x)).lastStage == x.lastStage) = true := by
  decide +kernel

def returning (p : ReturnPolicy) : State := held.withPower { held.power with state := .returning 0, policy := p }

theorem test_drive_power :
    after .drivePowerOkActive held = held ∧ after .drivePowerOkInactive unpowered = unpowered ∧
      (after .drivePowerOkActive unpowered).power.state = .returning 500 ∧
      (after .drivePowerOkInactive (returning .hold)).power.state = .absent ∧
      (after .drivePowerOkInactive tracks).power.state = .absent ∧ (axis0 .drivePowerOkInactive tracks).resumeMark = true ∧
      (axis0 .drivePowerOkInactive (put faultedL)).known = false ∧ after .drivePowerReturn held = held ∧
      (after .drivePowerReturn (returning .hold)).power.outcome = .held ∧ (returning .hold).power.sequence = none ∧
      (after .drivePowerReturn (returning .rehome)).power.outcome = .rehomed ∧
      (axis0 .drivePowerReturn ((returning .rehome).setAxis 0 (sensor { standingL with state := .unreferenced }))).state = .homing ∧
      (after .drivePowerReturn ((returning .rehomeAndResume).setAxis 0 (sensor { standingL with state := .unreferenced }))).power.outcome =
        .pending ∧
      (after .drivePowerReturn (returning .rehomeAndResume)).power.outcome = .resumed := by decide +kernel

/-- The first step of a return, and the two ends of REHOME_AND_RESUME with no homing. -/
theorem test_returns :
    (axis0 .drivePowerReturn ((returning .hold).setAxis 0 { standingL with flt := ⟨true, 0⟩ })).fault.first = some .driveFault ∧
      (axis0 .drivePowerReturn ((returning .hold).setAxis 0
        { faultedL with flt := ⟨true, 0⟩, fault := { FaultRecord.reset with first := some .hardLimit } })).fault.further =
        [.driveFault] ∧
      (axis0 .drivePowerReturn ((returning .hold).setAxis 0 { disabledL with flt := ⟨true, 0⟩ })).state = .disabled ∧
      (axis0 .drivePowerReturn ((returning .hold).setAxis 0
        { faultedL with record := { standingL.record with auto := true } })).fault.autoClear = some 100 ∧
      (after .drivePowerReturn { returning .rehomeAndResume with
        power := { (returning .rehomeAndResume).power with halt := ⟨true, 0⟩ } }).power.outcome = .abandoned ∧
      ((after .drivePowerReturn { returning .rehomeAndResume with
        power := { (returning .rehomeAndResume).power with halt := ⟨true, 0⟩ } }).port .C).notices[24] = some ⟨1, none, false⟩ ∧
      (axis0 .drivePowerReturn ((returning .rehomeAndResume).setAxis 0 { standingL with resumeMark := true })).state = .tracking ∧
      (axis0 .drivePowerReturn ((returning .rehomeAndResume).setAxis 0 standingL)).state = .standing := by decide +kernel

/-- Every filter of the part with a run of `n` samples high. -/
def run (n : Nat) : State :=
  (put { standingL with home := ⟨false, n, ⟨0, 50⟩, 0, 0⟩, limP := ⟨false, n⟩, limN := ⟨false, n⟩, flt := ⟨false, n⟩ }).withPower
    { held.power with halt := ⟨false, n⟩, ok := ⟨false, n⟩, state := .absent }

theorem test_filters :
    (after (.inputSample .halt true) (run 2)).power.halt.run = 3 ∧ (after (.inputSample .halt true) (run 3)).power.halt.accepted = true ∧
      (after (.inputSample .halt false) (run 3)).power.halt.run = 0 ∧
      (after (.inputSample .drivePowerOk true) (run 2)).power.ok.run = 3 ∧
      (after (.inputSample .drivePowerOk true) (run 3)).power.state = .returning 500 ∧
      (axis0 (.inputSample (.flt 0) true) (run 2)).flt.run = 3 ∧ (axis0 (.inputSample (.flt 0) true) (run 3)).flt.accepted = true ∧
      (axis0 (.inputSample (.limP 0) true) (run 2)).limP.run = 3 ∧
      (axis0 (.inputSample (.limP 0) true) (run 3)).limP.accepted = true ∧
      (axis0 (.inputSample (.limN 0) true) (run 2)).limN.run = 3 ∧
      (axis0 (.inputSample (.limN 0) true) (run 3)).limN.accepted = true ∧
      (axis0 (.inputSample (.home 0) true) (run 0)).home.run = 1 ∧ (axis0 (.inputSample (.home 0) true) (run 2)).home.run = 3 ∧
      (axis0 (.inputSample (.home 0) true) (run 3)).home.accepted = true ∧
      (axis0 (.inputSample (.home 0) false) (run 3)).home.run = 0 := by decide +kernel

def lines0 : FirstSamples := { halt := true, drivePowerOk := false, trig := 8, home := 1, limP := 0, limN := 0, flt := 32768 }

/-- A running part with a run of RESET samples. -/
def resets (level : Bool) (n : Nat) : State := { held with resetLine := ⟨level, n⟩ }

theorem test_reset_samples :
    (after (.inputSample .reset true) (resets false 2)).resetLine.run = 3 ∧
      (after (.inputSample .reset false) (resets false 2)).resetLine.run = 0 ∧
      (after (.inputSample .reset true) (resets false 3)).phase = .heldLine ∧
      (after (.inputSample .reset true) (resets false 3)).resetLine.accepted = true ∧
      (after (.inputSample .reset false) (resets true 3)).resetLine.accepted = false ∧
      (after (.start Straps.low lines0) (after .lineReset (resets true 0))).phase = .heldLine := by decide +kernel

theorem test_resets_and_start :
    (after .powerOnReset held).phase = .heldPower ∧ (after .lineReset held).phase = .heldLine ∧
      (after .lineReset (after .powerOnReset held)).phase = .heldPower ∧
      (axis0 .lineReset (put { standingL with locked := true })).state = .disabled ∧
      (axis0 .lineReset (put { standingL with locked := true })).record.soft = some (0, 100) ∧
      (axis0 .powerOnReset (put { standingL with locked := true })).locked = false ∧
      after (.start Straps.low lines0) held = held ∧
      (after (.start { Straps.low with stdC := 3, baud := 3 } lines0) (after .lineReset held)).startRecord =
        { powerOn := false, drivePresent := false, halted := true, standings := ⟨0, 0, 3⟩, bitRate := 115200, rateNamed := false
          sync := false, lockedKept := [] } ∧
      (axis0 (.start Straps.low lines0) (after .lineReset held)).home.accepted = true ∧
      (after (.start Straps.low lines0) (after .lineReset held)).trigs[3].accepted = true ∧
      (after (.start Straps.low lines0) (after .powerOnReset held)).attn .C = true := by decide +kernel

/-- A locked axis with the soft limits and the velocity limit, as a line reset leaves it (Table 3-5). -/
def relocked (soft : Int × Int) (velocity : Nat) : AxisRecord :=
  (axis0 .lineReset (put { standingL with
    locked := true, record := { standingL.record with soft := some soft, velocity := velocity } })).record

theorem test_defaults_of_a_locked_axis :
    (relocked (0, 100) 1).homeOffset = 0 ∧ (relocked (1, 100) 1).homeOffset = 1 ∧ (relocked (-100, -1) 1).homeOffset = -1 ∧
      (relocked (0, 100) 100000).pulseWidth = 5 ∧ (relocked (0, 100) 100001).pulseWidth = 4 ∧
      (relocked (0, 100) 250000).pulseWidth = 2 ∧ (relocked (0, 100) 999).homeSpeed = 999 ∧
      (relocked (0, 100) 1001).homeSpeed = 1000 ∧ (relocked (0, 100) 1).wrap = none ∧
      (after (.start Straps.low lines0) (after .lineReset (put { standingL with locked := true }))).startRecord.lockedKept = [0] ∧
      (after (.start Straps.low lines0) (after .powerOnReset (put { standingL with locked := true }))).startRecord.lockedKept = [] ∧
      (after (.start { Straps.low with baud := 2 } lines0) (after .lineReset held)).startRecord.rateNamed = true := by decide +kernel

/-! ## Laws -/

theorem test_lawful_state : held.lawful := by
  unfold State.lawful Clock.inRange State.claimsLawful State.cuesLawful State.segmentsLawful Channel.ordered
  refine ⟨by decide +kernel, ?_, by unfold CaptureQueue.lawful; decide +kernel, by decide +kernel, by decide +kernel,
    by unfold DrivePower.lawful; decide +kernel, ?_, (by intro r; cases r <;> exact Nat.zero_le 2),
    by intro r; cases r <;> exact ⟨fun e => Bool.noConfusion e, fun e => Bool.noConfusion e⟩⟩
  rotate_left
  · have h : ∀ a : AxisId, (held.axis a).record = AxisRecord.default ∧ (held.axis a).state = .unconfigured ∧
        (held.axis a).target = none ∧ (held.axis a).tracking = none := by decide +kernel
    intro a
    obtain ⟨h1, h2, h3, h4⟩ := h a
    unfold Axis.lawful Axis.mayBeUnknown
    rw [h1, h2, h3, h4]
    exact ⟨rfl, fun _ => .inl (by simp), fun _ => rfl, fun _ => rfl, fun _ e => (by cases e), fun _ e => (by cases e)⟩
  intro r
  have h : ∀ k : Fin 9, (held.claims[k]).waiting = [] := by decide +kernel
  have e : (held.claim r).waiting = [] := h _
  exact ⟨by rw [e]; decide, by rw [e]; decide, (fun _ _ w hw => by rw [e] at hw; exact absurd hw (by simp)), by rw [e]; exact .nil, fun _ => e⟩

theorem test_locked_axis : (put { standingL with locked := true }).axis 0 = { standingL with locked := true } ∧
    Instr.lineReset ≠ .powerOnReset := by decide +kernel

end Sys2Proof.Tests
end

section
/-! PROOFS. The laws of the part (O58, O59): the state after reset is lawful, and every step keeps the laws. -/

namespace Sys2Proof.Machine

/-! ## Items set one after another -/

/-- Each item named by a list without repetitions is set from its own value; the others stand. -/
theorem foldl_set_getElem {α : Type} {n : Nat} (f : Fin n → α → α) (i : Fin n) :
    ∀ (l : List (Fin n)) (v : Vector α n), l.Nodup →
      (l.foldl (fun (v : Vector α n) (j : Fin n) => v.set j (f j v[j])) v)[i] = if i ∈ l then f i v[i] else v[i]
  | [], v, _ => by simp
  | j :: l, v, h => by
    obtain ⟨hj, hl⟩ := List.nodup_cons.mp h
    rw [List.foldl_cons, foldl_set_getElem f i l _ hl]
    by_cases c : i = j
    · subst c
      simp [hj]
    · have : j.val ≠ i.val := fun e => c (Fin.ext e.symm)
      simp [c, this]

theorem mem_allTrigs (t : TrigId) : t ∈ allTrigs := by fin_cases t <;> decide

theorem mem_allMarks (m : MarkId) : m ∈ allMarks := by fin_cases m <;> decide

/-! ## A part held in reset (R211) -/

theorem State.holdReset_axis (s : State) (ph : Phase) (f : Axis → Axis) (a : AxisId) :
    (s.holdReset ph f).axis a = f (s.axis a) :=
  (foldl_set_getElem (fun _ => f) a allAxes s.axes (by decide)).trans (if_pos (mem_allAxes a))

theorem State.holdReset_trig (s : State) (ph : Phase) (f : Axis → Axis) (t : TrigId) :
    (s.holdReset ph f).trigs[t] = s.trigs[t].restart :=
  (foldl_set_getElem (fun _ => TrigInput.restart) t allTrigs s.trigs (by decide)).trans (if_pos (mem_allTrigs t))

theorem State.holdReset_channel (s : State) (ph : Phase) (f : Axis → Axis) (c : ChannelId) :
    (s.holdReset ph f).channel c = Channel.reset := by
  fin_cases c <;> rfl

theorem State.holdReset_claim (s : State) (ph : Phase) (f : Axis → Axis) (r : Resource) :
    (s.holdReset ph f).claim r = ClaimEntry.reset := by
  simp [State.claim, State.holdReset, State.reset]

theorem State.holdReset_program (s : State) (ph : Phase) (f : Axis → Axis) (i : ProgramId) :
    (s.holdReset ph f).program i = Program.reset := by
  fin_cases i <;> rfl

theorem State.holdReset_runner (s : State) (ph : Phase) (f : Axis → Axis) (r : Port) :
    (s.holdReset ph f).runner r = Runner.reset := by
  cases r <;> rfl

/-! ## The laws after reset -/

theorem Clock.inRange_reset (n : Nat) : ({ Clock.reset with settleSerial := n } : Clock).inRange := by
  show Clock.reset.inRange
  unfold Clock.inRange
  decide

theorem ClaimEntry.lawful_reset : ClaimEntry.reset.lawful :=
  ⟨by decide, .nil, fun _ _ _ h => (by cases h), .nil, fun _ => rfl⟩

theorem Channel.ordered_reset : Channel.reset.ordered := ⟨.nil, fun _ h => by cases h⟩

theorem Axis.lawful_reset (home limP limN flt : Bool) : (Axis.reset home limP limN flt).lawful :=
  ⟨rfl, fun _ => .inl (by simp [Axis.reset]), fun _ => rfl, fun _ => rfl, fun _ e => (by cases e), fun _ e => (by cases e)⟩

/-- A state with its tables at their reset values is lawful where its axes and its drive-power record are. -/
theorem State.lawful_of_tables {s : State} (hclock : s.clock.inRange) (hclaim : ∀ r, s.claim r = ClaimEntry.reset)
    (hcap : s.captures.records = []) (hprog : ∀ i, s.program i = Program.reset) (hchan : ∀ c, s.channel c = Channel.reset)
    (hpower : s.power.lawful) (haxes : s.axesLawful) (hrun : ∀ r, s.runner r = Runner.reset) : s.lawful := by
  have hcues : s.cueTotal = 0 := by
    unfold State.cueTotal
    simp [hprog, Program.reset]
  have hsegs : s.segmentTotal = 0 := by
    unfold State.segmentTotal
    simp [hchan, Channel.reset]
  refine ⟨hclock, fun r => hclaim r ▸ ClaimEntry.lawful_reset, ?_, ⟨fun i => ?_, ?_⟩, ⟨fun c => ⟨?_, ?_⟩, ?_⟩, hpower, haxes, fun r => ?_,
    fun r => ?_⟩
  · unfold CaptureQueue.lawful
    rw [hcap]
    decide
  · rw [hprog]
    decide
  · omega
  · rw [hchan]
    exact Channel.ordered_reset
  · rw [hchan]
    decide
  · omega
  · rw [hrun]
    exact Nat.zero_le 2
  · unfold State.runnerLawful
    rw [hrun]
    exact ⟨fun e => (by cases e), fun e => (by cases e)⟩

theorem State.lawful_holdReset (s : State) (ph : Phase) {f : Axis → Axis} (hf : ∀ a, (f (s.axis a)).lawful) :
    (s.holdReset ph f).lawful :=
  State.lawful_of_tables (Clock.inRange_reset _) (s.holdReset_claim ph f) rfl (s.holdReset_program ph f) (s.holdReset_channel ph f)
    (fun h => absurd rfl h) (fun a => by rw [State.holdReset_axis]; exact hf a) (s.holdReset_runner ph f)

theorem State.reset_axis (a : AxisId) : State.reset.axis a = Axis.reset false false false false := by
  simp [State.axis, State.reset]

theorem State.reset_claim (r : Resource) : State.reset.claim r = ClaimEntry.reset := by
  simp [State.claim, State.reset]

theorem State.reset_program (i : ProgramId) : State.reset.program i = Program.reset := by
  fin_cases i <;> rfl

theorem State.reset_channel (c : ChannelId) : State.reset.channel c = Channel.reset := by
  fin_cases c <;> rfl

theorem State.reset_runner (r : Port) : State.reset.runner r = Runner.reset := by
  cases r <;> rfl

theorem State.lawful_reset : State.reset.lawful :=
  State.lawful_of_tables (Clock.inRange_reset 0) State.reset_claim rfl State.reset_program State.reset_channel
    (fun h => absurd rfl h) (fun a => State.reset_axis a ▸ Axis.lawful_reset _ _ _ _) State.reset_runner

/-! ## The laws at each primitive change -/

theorem State.cueTotal_setProgram (s : State) (i : ProgramId) (x : Program) :
    (s.setProgram i x).cueTotal + (s.program i).cues.length = s.cueTotal + x.cues.length := by
  unfold State.cueTotal allPrograms
  simp only [List.map_cons, List.map_nil, List.sum_cons, List.sum_nil, State.setProgram_program]
  fin_cases i <;> simp <;> omega

theorem State.freeCues_eq (s : State) : s.freeCues = 256 - s.cueTotal := rfl

theorem State.claimsLawful_setClaim {s : State} {r : Resource} {c : ClaimEntry} (hc : (s.claim r).lawful → c.lawful)
    (h : s.claimsLawful) : (s.setClaim r c).claimsLawful := by
  intro t
  rw [State.setClaim_claim]
  split
  · exact hc (h r)
  · exact h t

/-- A program keeps the cue store lawful while it holds at most 128 cues and takes no more places than it had or are free. -/
theorem State.cuesLawful_setProgram {s : State} {i : ProgramId} {x : Program} (hx : x.cues.length ≤ 128)
    (hfree : x.cues.length ≤ (s.program i).cues.length + s.freeCues) (h : s.cuesLawful) : (s.setProgram i x).cuesLawful := by
  obtain ⟨hall, htotal⟩ := h
  have hsum := s.cueTotal_setProgram i x
  rw [State.freeCues_eq] at hfree
  refine ⟨fun j => ?_, by omega⟩
  rw [State.setProgram_program]
  split
  · exact hx
  · exact hall j

/-- A channel keeps the segment store lawful while it stays in order and grows by one segment at most, into a free place. -/
theorem State.segmentsLawful_setChannel {s : State} {c : ChannelId} {ch : Channel} (hord : (s.channel c).ordered → ch.ordered)
    (hlen : ch.segments.length ≤ (s.channel c).segments.length ∨
      (ch.segments.length = (s.channel c).segments.length + 1 ∧ ch.segments.length ≤ 255 ∧ 0 < s.freeSegments))
    (h : s.segmentsLawful) : (s.setChannel c ch).segmentsLawful := by
  obtain ⟨hall, htotal⟩ := h
  have hsum := s.segmentTotal_setChannel c ch
  have hc := hall c
  rw [State.freeSegments_eq] at hlen
  refine ⟨fun d => ?_, by omega⟩
  rw [State.setChannel_channel]
  split
  · exact ⟨hord hc.1, by omega⟩
  · exact hall d

/-- Every primitive change of a command keeps the laws; most of them touch nothing that the laws read. -/
theorem kept_lawful : Kept State.lawful where
  axes := fun _ _ hv ⟨hclock, hclaim, hcap, hcues, hsegs, hpower, haxes, hloops, hruns⟩ =>
    ⟨hclock, hclaim, hcap, hcues, hsegs, hpower, fun a => (hv a).2 (haxes a), hloops, hruns⟩
  motions := fun _ _ h => h
  notice := fun _ _ _ _ _ h => h
  power := fun _ _ _ hv ⟨hclock, hclaim, hcap, hcues, hsegs, hpower, haxes, hloops, hruns⟩ =>
    ⟨hclock, hclaim, hcap, hcues, hsegs, hv hpower, haxes, hloops, hruns⟩
  evals := fun _ _ h => h
  signals := fun _ _ h => h
  serial := fun _ _ h => h
  freeCount := fun _ _ h => h
  sky := fun _ c ⟨hepoch, hresidue, _⟩ ⟨hclock, hrest⟩ => ⟨by
    show c.inRange
    unfold Clock.inRange
    rw [hepoch, hresidue]
    exact hclock, hrest⟩
  lease := lease_of_claim fun _ _ _ hc hw ⟨hclock, hclaim, hcap, hcues, hsegs, hpower, haxes, hloops, hruns⟩ =>
    ⟨hclock, State.claimsLawful_setClaim hc hclaim, hcap, hcues, hsegs, hpower, haxes, hloops, hw hruns⟩
  drive := fun _ _ hv ⟨hclock, hclaim, hcap, hcues, hsegs, hpower, haxes, hloops, hruns⟩ =>
    ⟨hclock, hclaim, hcap, hcues, hsegs, hv hpower, haxes, hloops, hruns⟩
  links := fun _ _ h => h
  outputs := fun _ _ h => h
  clock := fun _ _ hc ⟨hclock, hrest⟩ => ⟨hc hclock, hrest⟩
  captures := fun _ _ hq ⟨hclock, hclaim, hcap, hrest⟩ => ⟨hclock, hclaim, hq hcap, hrest⟩
  runners := fun _ _ hv hw ⟨hclock, hclaim, hcap, hcues, hsegs, hpower, haxes, hloops, hruns⟩ =>
    ⟨hclock, hclaim, hcap, hcues, hsegs, hpower, haxes, fun r => hv r (hloops r), hw hruns⟩
  claim := fun _ _ _ hc hw ⟨hclock, hclaim, hcap, hcues, hsegs, hpower, haxes, hloops, hruns⟩ =>
    ⟨hclock, State.claimsLawful_setClaim hc hclaim, hcap, hcues, hsegs, hpower, haxes, hloops, hw hruns⟩
  program := fun _ i _ hx hw ⟨hclock, hclaim, hcap, hcues, hsegs, hpower, haxes, hloops, hruns⟩ =>
    ⟨hclock, hclaim, hcap, State.cuesLawful_setProgram (Nat.le_trans hx (hcues.1 i)) (Nat.le_trans hx (Nat.le_add_right _ _)) hcues,
      hsegs, hpower, haxes, hloops, hw hruns⟩
  ports := fun _ _ h => h
  trigs := fun _ _ h => h
  routing := fun _ _ h => h
  timebase := fun _ _ h => h
  inFlight := fun _ _ h => h
  stampCounter := fun _ _ h => h
  resetLine := fun _ _ h => h
  begun := fun _ _ _ _ h => h
  moreCues := fun _ _ _ hx hfree hw ⟨hclock, hclaim, hcap, hcues, hsegs, hpower, haxes, hloops, hruns⟩ =>
    ⟨hclock, hclaim, hcap, State.cuesLawful_setProgram hx hfree hcues, hsegs, hpower, haxes, hloops, hw hruns⟩
  channel := fun _ _ _ hord hlen ⟨hclock, hclaim, hcap, hcues, hsegs, hrest⟩ =>
    ⟨hclock, hclaim, hcap, hcues, State.segmentsLawful_setChannel hord hlen hsegs, hrest⟩
  held := fun s _ f hf ⟨_, _, _, _, _, _, haxes, _⟩ => s.lawful_holdReset _ fun a => (hf (s.axis a)).2 (haxes a)

/-- Settles O58: `kept_lawful` at every command; a power-on reset sets every axis anew. -/
theorem everyStepKeepsTheLaws : Obligations.EveryStepKeepsTheLaws := fun _ _ h e =>
  kept_lawful.step (fun s _ => State.lawful_holdReset _ _ fun a => (s.axis a).lawful_powerReset) (fun _ _ h => h) h e

/-- Settles O59: the laws by `State.lawful_reset`, and every block at the values its table gives. -/
theorem resetStateIsLawful : Obligations.ResetStateIsLawful := by
  rintro s rfl
  have hmarks : ∀ m : MarkId, State.reset.clock.marks[m] = Mark.reset := by intro m; fin_cases m <;> rfl
  have hlink : ∀ l : LinkId, State.reset.link l = Link.reset := by intro l; fin_cases l <;> rfl
  have hnotice : ∀ (p : Port) (k : NoticeKind),
      (State.reset.port p).notices[k.idx] = if k = .start then some ⟨1, none, false⟩ else none := by
    intro p k
    cases p <;> cases k <;> rfl
  refine ⟨State.lawful_reset, rfl, rfl, rfl, rfl, hmarks, rfl, State.reset_channel, rfl, rfl, rfl, rfl, fun a => ?_, ?_, State.reset_claim,
    State.reset_program, fun r => ?_, hlink, ?_, rfl, rfl, rfl, rfl, rfl, ?_, fun p => ⟨?_, ?_, ?_, ?_, hnotice p⟩⟩
  · rw [State.reset_axis]
    exact ⟨rfl, rfl, rfl, rfl, rfl, rfl, rfl, rfl, rfl, by fin_cases a <;> rfl⟩
  · intro g
    fin_cases g <;> rfl
  · rw [State.reset_runner]
    exact ⟨rfl, rfl, rfl⟩
  · intro o
    fin_cases o <;> rfl
  · intro k
    cases k <;> rfl
  · exact ⟨rfl, by cases p <;> rfl⟩
  all_goals cases p <;> rfl

end Sys2Proof.Machine
end

section
/-! PROOFS. The requests of the sky clock on rate, settle time, governor, marks and timebase (01 R5, R7, R8, R16, R19, R20, R24: O12,
O13, O16, O19), and what SYNC does (R21 to R23: O18). -/

namespace Sys2Proof.Machine

/-! ## Requests that the holder of SKY makes

`sky_*`: the request function once its claim check is passed (R112). -/

section Sky

variable {s : State} {p : Port} (h : s.holds p .sky = true)
include h

theorem sky_setRate (goal : Int) (ms : Nat) : setRate p goal ms s =
    if goal < -Config.rateMax ∨ Config.rateMax < goal ∨ 600000 < ms then refuse .badValue s
    else answerOk ((s.withClock (s.clock.setRate goal ms)).restartLease .sky) := by
  simp [setRate, h]

theorem sky_run : run p s = if s.held then refuse .halted s else answerOk (s.runClock.restartLease .sky) := by
  simp [run, h]

theorem sky_halt : halt p s = answerOk
    (((s.haltClock .command).withClock { (s.haltClock .command).clock with wasRunning := false }).restartLease .sky) := by
  simp [halt, h]

theorem sky_setSettleTime (n : Nat) : setSettleTime p n s =
    if n < 1 ∨ 60 < n then refuse .badValue s
    else answerOk ((s.withClock { s.clock with settleTime := n }).restartLease .sky) := by
  simp [setSettleTime, h]

theorem sky_setGovernor_enable : setGovernor p 1 s =
    answerOk ((s.withClock { s.clock with governor := true }).restartLease .sky) := by
  simp [setGovernor, h]

theorem sky_setGovernor_disable : setGovernor p 0 s =
    answerOk ((if s.clock.ceiling.isSome then
        (s.withClock { s.clock with governor := false, quiet := none, ceiling := none }).notify .governorReleased .sky none
      else s.withClock { s.clock with governor := false, quiet := none, ceiling := none }).restartLease .sky) := by
  simp [setGovernor, h]

theorem sky_setTimebase_internal :
    setTimebase p 0 s = answerOk ((s.withTimebase s.timebase.toInternal).restartLease .sky) := by
  simp [setTimebase, h]

theorem sky_setTimebase_sync : setTimebase p 1 s = answerOk ((s.withTimebase s.timebase.toSync).restartLease .sky) := by
  simp [setTimebase, h]

theorem sky_setTimebase_bad {mode : Nat} (hm : 1 < mode) : setTimebase p mode s = refuse .badValue s := by
  simp [setTimebase, h, show mode ≠ 0 by omega, show mode ≠ 1 by omega]

theorem sky_setSyncPeriod (ms : Nat) : setSyncPeriod p ms s =
    if ms < 10 ∨ 100 < ms then refuse .badValue s
    else if s.timebase.state = .internal then answerOk ((s.withTimebase { s.timebase with nominal := ms }).restartLease .sky)
    else refuse .state s := by
  unfold setSyncPeriod
  cases hs : s.timebase.state <;> simp [h]

end Sky

/-- Set Mark of a holder, past the number of the mark (R24). -/
theorem sky_setMark {s : State} {p : Port} (h : s.holds p .sky = true) (m : MarkId) (onOff period : Nat) (phase : Int) (d : Nat) :
    setMark p m.val onOff period phase d s =
      if 1 < onOff then refuse .badValue s
      else if period < 1 ∨ 2 ^ 50 < period then refuse .badValue s
      else if phase < Config.epochMin ∨ Config.epochMax < phase then refuse .range s
      else ((markDirectionOf d).elim (refuse .badValue s) fun dir =>
        answerOk ((s.withClock { s.clock with
          marks := s.clock.marks.set m
            { enabled := onOff == 1, period := period, phase := phase, direction := dir, crossings := 0, last := none } }).restartLease
          .sky)) := by
  simp only [setMark, h, markOf_val]
  cases markDirectionOf d <;> rfl

theorem sky_setMark_unknown {s : State} {p : Port} (h : s.holds p .sky = true) {n : Nat} (hn : 4 ≤ n) (onOff period : Nat)
    (phase : Int) (d : Nat) : setMark p n onOff period phase d s = refuse .badValue s := by
  simp [setMark, h, markOf_none hn]

theorem markDirectionOf_code (dir : MarkDirection) : markDirectionOf dir.code = some dir := by
  cases dir <;> rfl

theorem markDirectionOf_none {d : Nat} (h : 3 ≤ d) : markDirectionOf d = none := by
  match d, h with
  | d + 3, _ => rfl

/-! ## Answers

A request's answer where its effect, written with the port still READY, leaves the ports alone. -/

section Answer

variable {i : Instr} {q : Request} {p : Port} {tag : Byte} {s t : State} {r : Reply}

/-- A request refused: its function leaves the state as it is. -/
theorem answers_unchanged (h : i.request = some q) (h' : i.sender = some (p, tag)) (hr : s.ready p)
    (e : serve p q (s.outstand p tag (requestByte q)) = (s.outstand p tag (requestByte q), some r)) :
    Answers i s (s.replied p tag (requestCode q) r) :=
  answers_request h h' hr e id

/-- A request whose effect neither enters nor leaves SETTLING, nor changes what the runners and axes are. -/
theorem answers_changed (h : i.request = some q) (h' : i.sender = some (p, tag)) (hr : s.ready p)
    (e : serve p q (s.outstand p tag (requestByte q)) = (t.outstand p tag (requestByte q), some r))
    (hc : t.clock.state = .settling ↔ s.clock.state = .settling := by exact Iff.rfl) (hs : t.signals = s.signals := by rfl)
    (hrun : t.runners = s.runners := by rfl) (hp : t.programs = s.programs := by rfl) (ha : t.axes = s.axes := by rfl) :
    Answers i s (t.replied p tag (requestCode q) r) :=
  answers_request h h' hr e fun k => k.congrState hs hrun hp ha hc

end Answer

theorem Clock.setRate_ramp (c : Clock) (goal : Int) {ms : Nat} (h : 1 ≤ ms) : c.setRate goal ms =
    { c with commanded := goal, ramp := some ⟨c.scheduled, goal, (ms + 1) / 2 * 2, (ms + 1) / 2 * 2⟩ } :=
  if_neg (by omega)

/-- Settles O12: the request past its claim check, by its range and its duration. -/
theorem setRateTakesTheGoalAtOnceOrByARamp : Obligations.SetRateTakesTheGoalAtOnceOrByARamp := by
  intro s p tag goal ms hr hs
  have he := sky_setRate (holds_outstand hs tag (requestByte (.setRate goal ms))) goal ms
  have hmax : Config.rateMax = 17179869184 := rfl
  refine ⟨fun hbad => ?_, fun hlo hhi => ⟨fun h0 => ?_, fun h1 h6 => ?_⟩⟩
  · exact answers_unchanged (q := .setRate goal ms) rfl rfl hr (congrArg now (he.trans (if_pos (by omega))))
  · subst h0
    exact answers_changed (q := .setRate goal 0) rfl rfl hr (congrArg now (he.trans (if_neg (by omega))))
  · have hset := he.trans (if_neg (by omega))
    rw [Clock.setRate_ramp _ _ h1] at hset
    exact answers_changed (q := .setRate goal ms) rfl rfl hr (congrArg now hset)

/-! ## Run and Halt (R7, R8) -/

theorem State.runClock_halted {s : State} (h : s.clock.state = .halted) :
    s.runClock = s.withClock { s.clock with state := .running, wasRunning := false } := by
  unfold State.runClock; rw [h]

theorem State.runClock_running {s : State} (h : s.clock.state = .running) : s.runClock = s := by
  unfold State.runClock; rw [h]

theorem State.runClock_settling {s : State} (h : s.clock.state = .settling) :
    s.runClock = s.withClock { s.clock with resumeTo := .running, wasRunning := false } := by
  unfold State.runClock; rw [h]

/-- The clock a Halt request leaves (R8, R9). -/
def Clock.haltedByCommand (c : Clock) : Clock :=
  { c with state := .halted, reason := .command, settleTimer := none, roll := [], wasRunning := false }

/-- What a Halt request does to the clock, the flag cleared behind it (R9): out of SETTLING nothing is abandoned. -/
theorem State.haltClock_command {s : State} (h : s.clock.state ≠ .settling) :
    (s.haltClock .command).withClock { (s.haltClock .command).clock with wasRunning := false } =
      s.withClock s.clock.haltedByCommand := by
  simp [State.haltClock, h, Clock.haltedByCommand, State.withClock]

theorem State.haltClock_command_settling {s : State} (h : s.clock.state = .settling) :
    (s.haltClock .command).withClock { (s.haltClock .command).clock with wasRunning := false } =
      (s.withClock s.clock.haltedByCommand).raise (.failed (.settling s.clock.settleSerial)) := by
  simp [State.haltClock, h, Clock.haltedByCommand, State.withClock, State.raise]

/-- Settles O13: Run by the clock's state, and the halt of reason COMMAND, in SETTLING with what awaits it. -/
theorem runStartsAndHaltHoldsTheSky : Obligations.RunStartsAndHaltHoldsTheSky := by
  refine ⟨fun s p tag hr hs => ⟨fun hheld => ?_, fun hhalt hpow => ?_⟩, fun s p tag hr hs => ⟨fun hst => ?_, fun hst => ?_⟩⟩
  · exact answers_unchanged (q := .run) rfl rfl hr
      (congrArg now ((sky_run (holds_outstand hs tag (requestByte .run))).trans (if_pos (held_outstand p tag _ hheld))))
  · have he := (sky_run (holds_outstand hs tag (requestByte .run))).trans
      (if_neg (by rw [not_held_outstand p tag _ hhalt hpow]; exact Bool.false_ne_true))
    refine ⟨fun hst => ?_, fun hst => ?_, fun hst => ?_⟩
    · rw [State.runClock_halted (show (s.outstand p tag (requestByte .run)).clock.state = .halted from hst)] at he
      refine answers_changed (q := .run) rfl rfl hr (congrArg now he) ?_
      simp [State.restartLease, hst]
    · rw [State.runClock_running (show (s.outstand p tag (requestByte .run)).clock.state = .running from hst)] at he
      exact answers_changed (q := .run) rfl rfl hr (congrArg now he)
    · rw [State.runClock_settling (show (s.outstand p tag (requestByte .run)).clock.state = .settling from hst)] at he
      exact answers_changed (q := .run) rfl rfl hr (congrArg now he)
  · have he := sky_halt (holds_outstand hs tag (requestByte .halt))
    rw [State.haltClock_command (show (s.outstand p tag (requestByte .halt)).clock.state ≠ .settling from hst)] at he
    refine answers_changed (q := .halt) rfl rfl hr (congrArg now he) ?_
    simp [State.restartLease, hst]
  · have he := sky_halt (holds_outstand hs tag (requestByte .halt))
    rw [State.haltClock_command_settling (show (s.outstand p tag (requestByte .halt)).clock.state = .settling from hst)] at he
    rw [exec_answered (q := .halt) rfl rfl hr (congrArg now he)]
    exact congrArg _ (congrArg State.drain (replied_eq ((s.withClock s.clock.haltedByCommand).raise
      (.failed (.settling s.clock.settleSerial)) |>.restartLease .sky) p tag .halt .done))

/-! ## The governor (R19) -/

/-- Settles O16: the three accepted forms of Set Governor; a ceiling dropped is told. -/
theorem setGovernorEnablesAndDisables : Obligations.SetGovernorEnablesAndDisables := by
  intro s p tag hr hs
  have he := sky_setGovernor_disable (holds_outstand hs tag (requestByte (.setGovernor 0)))
  refine ⟨?_, fun hnone => ?_, fun k hsome => ?_⟩
  · exact answers_changed (q := .setGovernor 1) rfl rfl hr
      (congrArg now (sky_setGovernor_enable (holds_outstand hs tag (requestByte (.setGovernor 1)))))
  · rw [if_neg (by rw [show (s.outstand p tag (requestByte (.setGovernor 0))).clock.ceiling = none from hnone]; exact Bool.false_ne_true)] at he
    exact answers_changed (q := .setGovernor 0) rfl rfl hr (congrArg now he)
  · rw [if_pos (by rw [show (s.outstand p tag (requestByte (.setGovernor 0))).clock.ceiling = some k from hsome]; rfl)] at he
    have hn := notify_outstand (s.withClock { s.clock with governor := false, quiet := none, ceiling := none }) p tag
      (requestByte (.setGovernor 0)) .governorReleased .sky none false
    have hdone := he.trans (congrArg (fun u => answerOk (u.restartLease .sky)) hn)
    refine answers_request (q := .setGovernor 0) rfl rfl hr (congrArg now hdone) fun k => ?_
    have hq : (s.withClock { s.clock with governor := false, quiet := none, ceiling := none }).Quiet := k.congr rfl rfl rfl rfl rfl
    exact (hq.notify .governorReleased .sky none false).congr rfl rfl rfl rfl rfl

/-! ## Marks (R24) -/

theorem readMark_unknown (s : State) {n : Nat} (h : 4 ≤ n) : readMark n s = refuse .badValue s := by
  rw [readMark, markOf_none h]

theorem readMark_mark (s : State) (m : MarkId) : readMark m.val s = answerData (encMark s.clock.marks[m])
    (s.withClock { s.clock with marks := s.clock.marks.set m { s.clock.marks[m] with crossings := 0 } }) := by
  rw [readMark, markOf_val]

/-- Settles O19: the checks of Set Mark in the order of its fields; Read Mark for every port. -/
theorem setMarkReplacesTheMark : Obligations.SetMarkReplacesTheMark := by
  intro s p tag n onOff period phase d hr
  have hmin : Config.epochMin = -(2 ^ 50) := rfl
  have hmax : Config.epochMax = 2 ^ 50 - 1 := rfl
  refine ⟨fun hs => ?_, fun hn => ?_, fun m hm => ?_⟩
  · have hh := holds_outstand hs tag (requestByte (.setMark n onOff period phase d))
    have unchanged : ∀ r, setMark p n onOff period phase d (s.outstand p tag (requestByte (.setMark n onOff period phase d))) =
        refuse r (s.outstand p tag (requestByte (.setMark n onOff period phase d))) →
        Answers (.setMark p tag n onOff period phase d) s (s.replied p tag 25 (.no r)) :=
      fun r e => answers_unchanged (q := .setMark n onOff period phase d) rfl rfl hr (congrArg now e)
    refine ⟨fun hbad => unchanged _ ?_, fun hn ho hp1 hp2 hph => unchanged _ ?_,
      fun hn ho hp1 hp2 hph1 hph2 hd => unchanged _ ?_, fun ho hp1 hp2 hph1 hph2 m dir hm hd => ?_⟩
    · by_cases hn : n < 4
      · obtain ⟨m, rfl⟩ : ∃ m : MarkId, n = m.val := ⟨⟨n, hn⟩, rfl⟩
        rw [sky_setMark hh]
        by_cases ho : 1 < onOff
        · exact if_pos ho
        · rw [if_neg ho, if_pos (by omega)]
      · exact sky_setMark_unknown hh (by omega) _ _ _ _
    · obtain ⟨m, rfl⟩ : ∃ m : MarkId, n = m.val := ⟨⟨n, hn⟩, rfl⟩
      rw [sky_setMark hh, if_neg (by omega), if_neg (by omega), if_pos (by omega)]
    · obtain ⟨m, rfl⟩ : ∃ m : MarkId, n = m.val := ⟨⟨n, hn⟩, rfl⟩
      rw [sky_setMark hh, if_neg (by omega), if_neg (by omega), if_neg (by omega), markDirectionOf_none hd]
      rfl
    · subst hm hd
      have he := sky_setMark hh m onOff period phase dir.code
      rw [if_neg (by omega), if_neg (by omega), if_neg (by omega), markDirectionOf_code] at he
      exact answers_changed (q := .setMark m.val onOff period phase dir.code) rfl rfl hr (congrArg now he)
  · exact answers_unchanged (q := .readMark n) rfl rfl hr (congrArg now (readMark_unknown _ hn))
  · subst hm
    exact answers_changed (q := .readMark m.val) rfl rfl hr (congrArg now (readMark_mark _ m))

end Sys2Proof.Machine
end

section
/-! PROOFS. The timebase (01 section 1.7, R20 to R23: O18): its requests, the pulses of SYNC and its silence. -/

namespace Sys2Proof.Machine

/-! ## Intervals and their window (R21) -/

theorem Timebase.goodInterval_iff (t : Timebase) (i : Nat) : t.goodInterval i = true ↔
    19 * (t.nominal * 1000000) ≤ 20 * i ∧ 20 * i ≤ 21 * (t.nominal * 1000000) := by
  unfold Timebase.goodInterval Timebase.nominalNs
  rw [decide_eq_true_iff]
  omega

theorem pushWindow_short {w : List Nat} (i : Nat) (h : w.length < 8) : pushWindow w i = w ++ [i] := if_pos h

theorem pushWindow_full {w : List Nat} (i : Nat) (h : 8 ≤ w.length) : pushWindow w i = w.drop 1 ++ [i] := by
  rw [List.drop_one]
  exact if_neg (by omega)

/-! ## Pulses and silence

What a pulse and a timeout do, by the state and the reference. -/

section Sync

variable {s : State}

theorem State.syncPulse_internal (x : Nat) (h : s.timebase.state = .internal) : s.syncPulse x = s := by
  unfold State.syncPulse; simp only [h]

theorem State.syncPulse_first (x : Nat) (h : s.timebase.state ≠ .internal) (hr : s.timebase.reference = none) :
    s.syncPulse x = s.withTimebase { s.timebase with reference := some x } := by
  unfold State.syncPulse
  cases hs : s.timebase.state
  case internal => exact absurd hs h
  all_goals simp only [hr]

theorem State.syncTimeout_internal (h : s.timebase.state = .internal) : s.syncTimeout = s := by
  unfold State.syncTimeout; simp only [h]

theorem State.syncTimeout_first (hr : s.timebase.reference = none) : s.syncTimeout = s := by
  unfold State.syncTimeout
  cases hs : s.timebase.state <;> simp only [hs, hr]

theorem State.syncTimeout_holdover {r : Nat} (h : s.timebase.state = .holdover) (hr : s.timebase.reference = some r) :
    s.syncTimeout = s.withTimebase { s.timebase with good := 0, window := [], reference := none } := by
  unfold State.syncTimeout; simp only [h, hr]

theorem State.syncTimeout_locked {r : Nat} (h : s.timebase.state = .locked) (hr : s.timebase.reference = some r) :
    s.syncTimeout = s.timebaseLost none := by
  unfold State.syncTimeout; simp only [h, hr]

theorem State.syncPulse_holdover {r : Nat} (x : Nat) (h : s.timebase.state = .holdover) (hr : s.timebase.reference = some r) :
    s.syncPulse x =
      if s.timebase.goodInterval (x - r) then
        if min 8 (s.timebase.good + 1) = 8 then
          (s.withTimebase { ({ s.timebase with reference := some x, good := min 8 (s.timebase.good + 1),
                                               window := pushWindow s.timebase.window (x - r) } : Timebase).trimmed with
            state := .locked, bad := 0 }).notify .timebaseLocked .sky none
        else s.withTimebase { s.timebase with reference := some x, good := min 8 (s.timebase.good + 1),
                                              window := pushWindow s.timebase.window (x - r) }
      else s.withTimebase { s.timebase with reference := some x, good := 0, window := [] } := by
  unfold State.syncPulse; simp only [h, hr]

theorem State.syncPulse_locked {r : Nat} (x : Nat) (h : s.timebase.state = .locked) (hr : s.timebase.reference = some r) :
    s.syncPulse x =
      if s.timebase.goodInterval (x - r) then
        s.withTimebase ({ s.timebase with reference := some x, good := min 8 (s.timebase.good + 1), bad := 0,
                                          window := pushWindow s.timebase.window (x - r) } : Timebase).trimmed
      else if s.timebase.bad + 1 = 3 then s.timebaseLost (some x)
      else s.withTimebase { s.timebase with reference := some x, bad := s.timebase.bad + 1 } := by
  unfold State.syncPulse; simp only [h, hr]

end Sync

theorem Timebase.toSync_internal {t : Timebase} (h : t.state = .internal) : t.toSync =
    { t with sync := true, state := .holdover, trimNum := 1, trimDen := 1, good := 0, bad := 0, window := [],
             reference := none } := by
  unfold Timebase.toSync; simp only [h]

theorem Timebase.toSync_of_ne {t : Timebase} (h : t.state ≠ .internal) : t.toSync = t := by
  unfold Timebase.toSync
  cases hs : t.state
  case internal => exact absurd hs h
  all_goals rfl

/-! ## Answers to events -/

theorem answers_event {i : Instr} {f : State → State} (h : eventOf i = some f) {s t : State} (hr : s.phase = .running) (e : f s = t)
    (hq : s.Quiet → t.Quiet) : Answers i s t :=
  answers_of (by rw [exec_event_running h hr, e]) hq

/-- A part left alone stays quiet through a change of the timebase. -/
theorem State.Quiet.withTimebase {s : State} (h : s.Quiet) (t : Timebase) : (s.withTimebase t).Quiet :=
  h.congr rfl rfl rfl rfl rfl

/-- The requests of R20, for the holder of SKY. -/
theorem timebase_follows_requests (s : State) (p : Port) (tag : Byte) (hr : s.ready p) (hs : s.holderOf .sky = some p) :
    Answers (.setTimebase p tag 0) s
      (((s.withTimebase { s.timebase with sync := false, state := .internal, trimNum := 1, trimDen := 1, good := 0, bad := 0,
                                          window := [], reference := none }).restartLease .sky).replied p tag 23 .done) ∧
    (s.timebase.state = .internal →
      Answers (.setTimebase p tag 1) s
        (((s.withTimebase { s.timebase with sync := true, state := .holdover, trimNum := 1, trimDen := 1, good := 0,
                                            bad := 0, window := [], reference := none }).restartLease .sky).replied
          p tag 23 .done)) ∧
    (s.timebase.state ≠ .internal → Answers (.setTimebase p tag 1) s ((s.restartLease .sky).replied p tag 23 .done)) ∧
    (∀ mode, 1 < mode → Answers (.setTimebase p tag mode) s (s.replied p tag 23 (.no .badValue))) ∧
    ∀ ms,
      (ms < 10 ∨ 100 < ms → Answers (.setSyncPeriod p tag ms) s (s.replied p tag 24 (.no .badValue))) ∧
      (10 ≤ ms → ms ≤ 100 →
        (s.timebase.state = .internal →
          Answers (.setSyncPeriod p tag ms) s
            (((s.withTimebase { s.timebase with nominal := ms }).restartLease .sky).replied p tag 24 .done)) ∧
        (s.timebase.state ≠ .internal → Answers (.setSyncPeriod p tag ms) s (s.replied p tag 24 (.no .state)))) := by
  have hsync := sky_setTimebase_sync (holds_outstand hs tag (requestByte (.setTimebase 1)))
  refine ⟨?_, fun hint => ?_, fun hint => ?_, fun mode hm => ?_, fun ms => ?_⟩
  · exact answers_changed (q := .setTimebase 0) rfl rfl hr
      (congrArg now (sky_setTimebase_internal (holds_outstand hs tag (requestByte (.setTimebase 0)))))
  · rw [show (s.outstand p tag (requestByte (.setTimebase 1))).timebase.toSync = _ from Timebase.toSync_internal hint] at hsync
    exact answers_changed (q := .setTimebase 1) rfl rfl hr (congrArg now hsync)
  · rw [show (s.outstand p tag (requestByte (.setTimebase 1))).timebase.toSync = _ from Timebase.toSync_of_ne hint] at hsync
    exact answers_changed (q := .setTimebase 1) rfl rfl hr (congrArg now hsync)
  · exact answers_unchanged (q := .setTimebase mode) rfl rfl hr
      (congrArg now (sky_setTimebase_bad (holds_outstand hs tag (requestByte (.setTimebase mode))) hm))
  · have he := sky_setSyncPeriod (holds_outstand hs tag (requestByte (.setSyncPeriod ms))) ms
    refine ⟨fun hbad => ?_, fun h10 h100 => ⟨fun hint => ?_, fun hint => ?_⟩⟩
    · exact answers_unchanged (q := .setSyncPeriod ms) rfl rfl hr (congrArg now (he.trans (if_pos hbad)))
    · exact answers_changed (q := .setSyncPeriod ms) rfl rfl hr (congrArg now ((he.trans (if_neg (by omega))).trans (if_pos hint)))
    · exact answers_unchanged (q := .setSyncPeriod ms) rfl rfl hr
        (congrArg now ((he.trans (if_neg (by omega))).trans (if_neg hint)))

/-- Settles O18: the interval and its window, the requests, and each pulse and silence by the state of the timebase. -/
theorem timebaseFollowsItsRequestsAndSync : Obligations.TimebaseFollowsItsRequestsAndSync := by
  refine ⟨Timebase.goodInterval_iff, fun w i => ⟨pushWindow_short i, pushWindow_full i⟩, timebase_follows_requests, fun s x hrun => ?_⟩
  have pulse {t : State} (e : s.syncPulse x = t) (hq : s.Quiet → t.Quiet) : Answers (.syncPulse x) s t :=
    answers_event (f := fun s => s.syncPulse x) rfl hrun e hq
  have silence {t : State} (e : s.syncTimeout = t) (hq : s.Quiet → t.Quiet) : Answers .syncTimeout s t :=
    answers_event (f := fun s => s.syncTimeout) rfl hrun e hq
  refine ⟨fun hint => ⟨pulse (s.syncPulse_internal x hint) id, silence (s.syncTimeout_internal hint) id⟩,
    fun hint hnone => ⟨pulse (s.syncPulse_first x hint hnone) (·.withTimebase _), silence (s.syncTimeout_first hnone) id⟩,
    fun r hr => ⟨fun hhold => ⟨silence (s.syncTimeout_holdover hhold hr) (·.withTimebase _), ?_, ?_⟩, fun hlock => ⟨?_, ?_, ?_⟩⟩⟩
  · intro hbad
    exact pulse ((s.syncPulse_holdover x hhold hr).trans (if_neg (by simp [hbad]))) (·.withTimebase _)
  · intro hgood
    have he := (s.syncPulse_holdover x hhold hr).trans (if_pos hgood)
    refine ⟨fun h8 => pulse (he.trans (if_neg h8)) (·.withTimebase _), fun h8 => ?_⟩
    rw [if_pos h8, h8] at he
    exact pulse he fun k => (k.withTimebase _).notify _ _ _ _
  · rw [exec_event_running (f := fun s => s.syncTimeout) rfl hrun, s.syncTimeout_locked hlock hr]
    rfl
  · intro hgood
    exact pulse ((s.syncPulse_locked x hlock hr).trans (if_pos hgood)) (·.withTimebase _)
  · intro hbad
    have he := (s.syncPulse_locked x hlock hr).trans (if_neg (by simp [hbad]))
    refine ⟨fun h2 => pulse (he.trans (if_neg (by omega))) (·.withTimebase _), fun h2 => ?_⟩
    rw [exec_event_running (f := fun s => s.syncPulse x) rfl hrun, he, if_pos (by omega)]
    rfl

end Sys2Proof.Machine
end

section
/-! PROOFS. The checks that stand first in a request: the claim (06 R112) and HALTED (04 R68, R7, R11; O10). -/

namespace Sys2Proof.Machine

/-! ## The first checks of an axis request and of a group request -/

section First

variable {p : Port} {s : State}

theorem onAxis_unknown {n : Nat} (h : 16 ≤ n) (k : AxisId → State × Reply) : onAxis p n s k = refuse .badValue s := by
  simp [onAxis, axisOf_none h]

theorem onAxis_not_holder {a : AxisId} (h : s.holds p (s.groupOf a) = false) (k : AxisId → State × Reply) :
    onAxis p a.val s k = notHolder (s.groupOf a) s := by
  simp [onAxis, h]

theorem onAxis_held {a : AxisId} (h : s.holds p (s.groupOf a) = true) (hh : s.held = true) (k : AxisId → State × Reply) :
    onAxis p a.val s k = refuse .halted s := by
  simp [onAxis, h, hh]

theorem onAxis_taken {a : AxisId} (h : s.holds p (s.groupOf a) = true) (hh : s.held = false) (k : AxisId → State × Reply) :
    onAxis p a.val s k = k a := by
  simp [onAxis, h, hh]

theorem onGroup_unknown {n : Nat} (h : 8 ≤ n) (k : GroupId → State × Reply) : onGroup p n s k = refuse .badValue s := by
  simp [onGroup, groupIdOf_none h]

theorem onGroup_not_holder {g : GroupId} (h : s.holds p (.group g) = false) (k : GroupId → State × Reply) :
    onGroup p g.val s k = notHolder (.group g) s := by
  simp [onGroup, h]

theorem onGroup_held {g : GroupId} (h : s.holds p (.group g) = true) (hh : s.held = true) (k : GroupId → State × Reply) :
    onGroup p g.val s k = refuse .halted s := by
  simp [onGroup, h, hh]

theorem onGroup_taken {g : GroupId} (h : s.holds p (.group g) = true) (hh : s.held = false) (k : GroupId → State × Reply) :
    onGroup p g.val s k = k g := by
  simp [onGroup, h, hh]

end First

/-! ## Without the claim -/

section NotHolder

variable {p : Port} {s : State}

/-- Every function of a request that needs SKY begins with the claim check. -/
theorem serve_not_sky {q : Request} (hq : q.needsSky = true) (h : s.holds p .sky = false) :
    serve p q s = (s, some ⟨.notHolder, 0, []⟩) := by
  have check : (!s.holds p .sky) = true := by rw [h]; rfl
  cases q
  all_goals first
    | exact absurd hq Bool.false_ne_true
    | exact congrArg now (if_pos check)

theorem configureAxis_not_holder {a : AxisId} (h : s.holds p (s.groupOf a) = false) (raw : RawRecord) :
    configureAxis p a.val raw s = notHolder (s.groupOf a) s := by
  simp [configureAxis, h]

theorem bind_not_holder {a : AxisId} (h : s.holds p (s.groupOf a) = false) (c : ChannelId) :
    bind p a.val c.val s = notHolder (s.groupOf a) s := by
  simp [bind, h]

theorem unbind_not_holder {a : AxisId} (h : s.holds p (s.groupOf a) = false) : unbind p a.val s = notHolder (s.groupOf a) s := by
  simp [unbind, h]

theorem lockSafety_not_holder {a : AxisId} (h : s.holds p (s.groupOf a) = false) :
    lockSafety p a.val s = notHolder (s.groupOf a) s := by
  simp [lockSafety, h]

theorem clearFault_not_holder {a : AxisId} (h : s.holds p (s.groupOf a) = false) :
    clearFault p a.val s = notHolder (s.groupOf a) s := by
  simp [clearFault, h]

/-- A request on an axis, its number in range, without the claim of the axis's group. -/
theorem serve_not_group_of_axis {q : Request} {a : AxisId} (hq : q.ofAxis = some a.val) (h : s.holds p (s.groupOf a) = false) :
    serve p q s = (s, some ⟨.notHolder, (s.axis a).record.group.val + 1, []⟩) := by
  cases q
  case configureAxis n r => cases hq; exact congrArg now (configureAxis_not_holder h _)
  case unbind n => cases hq; exact congrArg now (unbind_not_holder h)
  case lockSafety n => cases hq; exact congrArg now (lockSafety_not_holder h)
  case clearFault n => cases hq; exact congrArg now (clearFault_not_holder h)
  all_goals first
    | cases hq; exact congrArg now (onAxis_not_holder h _)
    | cases hq

theorem serve_not_group {q : Request} {g : GroupId} (hq : q.ofGroup = some g.val) (h : s.holds p (.group g) = false) :
    serve p q s = (s, some ⟨.notHolder, g.val + 1, []⟩) := by
  cases q
  all_goals first
    | cases hq; exact congrArg now (onGroup_not_holder h _)
    | cases hq

end NotHolder

/-! ## While the part is held -/

section Held

variable {p : Port} {s : State}

theorem serve_held_axis {q : Request} {a : AxisId} (hq : q.movesAxis = some a.val) (h : s.holds p (s.groupOf a) = true)
    (hh : s.held = true) : serve p q s = (s, some (.no .halted)) := by
  cases q
  all_goals first
    | cases hq; exact congrArg now (onAxis_held h hh _)
    | cases hq

theorem serve_held_group {q : Request} {g : GroupId} (hq : q.ofGroup = some g.val) (h : s.holds p (.group g) = true)
    (hh : s.held = true) : serve p q s = (s, some (.no .halted)) := by
  cases q
  all_goals first
    | cases hq; exact congrArg now (onGroup_held h hh _)
    | cases hq

theorem setEpoch_held (h : s.holds p .sky = true) (hh : s.held = true) {e : Int} (h1 : -(2 ^ 50) ≤ e) (h2 : e < 2 ^ 50) :
    setEpoch p e 0 s = refuse .halted s := by
  have hr : ¬ (e < Config.epochMin ∨ Config.epochMax < e) := by
    have hmin : Config.epochMin = -(2 ^ 50) := rfl
    have hmax : Config.epochMax = 2 ^ 50 - 1 := rfl
    omega
  simp [setEpoch, h, hh, hr]

end Held

/-- Settles O10: the claim check and the HALTED check of each request come before anything it changes. -/
theorem claimsAndHaltRefuseRequests : Obligations.ClaimsAndHaltRefuseRequests := by
  refine ⟨fun i q p tag s hi hsend hr => ⟨fun hq hn => ?_, fun a hq hn => ?_, fun a c hq hn => ?_, fun g hq hn => ?_⟩,
    fun i q p tag s hi hsend hr hheld => ⟨fun a hq hs => ?_, fun g hq hs => ?_, fun hq hs => ?_⟩⟩
  · exact answers_unchanged hi hsend hr (serve_not_sky hq (not_holds_outstand hn tag _))
  · exact answers_unchanged hi hsend hr (serve_not_group_of_axis hq (not_holds_outstand hn tag _))
  · subst hq
    exact answers_unchanged hi hsend hr (congrArg now (bind_not_holder (not_holds_outstand hn tag _) c))
  · exact answers_unchanged hi hsend hr (serve_not_group hq (not_holds_outstand hn tag _))
  · exact answers_unchanged hi hsend hr (serve_held_axis hq (holds_outstand hs tag _) (held_outstand p tag _ hheld))
  · exact answers_unchanged hi hsend hr (serve_held_group hq (holds_outstand hs tag _) (held_outstand p tag _ hheld))
  · have hhold := holds_outstand hs tag (requestByte q)
    have hh := held_outstand p tag (requestByte q) hheld
    rcases hq with rfl | ⟨e, h1, h2, rfl⟩
    · exact answers_unchanged hi hsend hr (congrArg now ((sky_run hhold).trans (if_pos hh)))
    · exact answers_unchanged hi hsend hr (congrArg now (setEpoch_held hhold hh h1 h2))

end Sys2Proof.Machine
end

section
/-! PROOFS. What the shared operations of the clock, the axes and the notices do, one rule per item they change: pending entries (10
R204, R206), free orders (log 6), angle requests (02 R40), the settle roll (01 R12, R13), and the frame of every axis operation. -/

namespace Sys2Proof.Machine

/-! ## Pending entries (R204) -/

/-- The pending entry of a kind at a port. -/
def State.entry (s : State) (q : Port) (k : NoticeKind) : Option NoticeEntry := (s.port q).notices[k.idx]

/-- The entry a notice forms, or makes of the one pending (R204). -/
def NoticeEntry.after (e : Option NoticeEntry) (subject : Option Nat) (timeout : Bool) : NoticeEntry :=
  match e with
  | some e => { count := sat255 e.count, subject := subject, timeout := e.timeout || timeout }
  | none => { count := 1, subject := subject, timeout := timeout }

theorem NoticeKind.idx_inj {j k : NoticeKind} (h : j.idx = k.idx) : j = k := by
  have all : ∀ n : Fin 25, ∀ j : NoticeKind, j.idx = n → allKinds[n.val]? = some j := by
    intro n j e
    subst e
    cases j <;> rfl
  have hj := all k.idx j h
  rw [all k.idx k rfl] at hj
  exact (Option.some.inj hj).symm

theorem PortState.deliver_entry (x : PortState) (j k : NoticeKind) (n : Option Nat) (b : Bool) :
    (x.deliver k n b).notices[j.idx] =
      if j = k then some (NoticeEntry.after x.notices[k.idx] n b) else x.notices[j.idx] := by
  by_cases h : j = k
  · subst h
    rw [if_pos rfl]
    exact Vector.getElem_set_self _
  · have : k.idx.val ≠ j.idx.val := fun e => h (NoticeKind.idx_inj (Fin.ext e.symm))
    simp [PortState.deliver, h, this]

theorem State.modPort_port (s : State) (p q : Port) (f : PortState → PortState) :
    (s.modPort p f).port q = if q = p then f (s.port q) else s.port q := by
  by_cases h : q = p
  · subst h; simp
  · rw [if_neg h, State.modPort_port_of_ne _ _ h]

theorem State.routedPorts_nodup (s : State) (k : NoticeKind) (r : Resource) : (s.routedPorts k r).Nodup := by
  have hall : allPorts.Nodup := by decide
  unfold State.routedPorts
  split
  · exact hall
  · exact hall.filter _
  · split
    · exact List.nodup_singleton _
    · exact hall

/-- A routed notice is delivered once to each port its routing names (R206). -/
theorem State.notify_port (s : State) (k : NoticeKind) (r : Resource) (n : Option Nat) (b : Bool) (q : Port) :
    (s.notify k r n b).port q = if q ∈ s.routedPorts k r then (s.port q).deliver k n b else s.port q := by
  have fold : ∀ (l : List Port) (s : State), l.Nodup →
      (l.foldl (fun s p => s.modPort p fun x => x.deliver k n b) s).port q =
        if q ∈ l then (s.port q).deliver k n b else s.port q := by
    intro l
    induction l with
    | nil => intro s _; rfl
    | cons p l ih =>
      intro s h
      obtain ⟨hp, hl⟩ := List.nodup_cons.mp h
      rw [List.foldl_cons, ih _ hl, State.modPort_port]
      by_cases c : q = p
      · subst c
        simp [hp]
      · simp [c]
  exact fold _ s (s.routedPorts_nodup k r)

theorem State.notify_entry (s : State) (j k : NoticeKind) (r : Resource) (n : Option Nat) (b : Bool) (q : Port) :
    (s.notify k r n b).entry q j =
      if j = k ∧ q ∈ s.routedPorts k r then some (NoticeEntry.after (s.entry q k) n b) else s.entry q j := by
  unfold State.entry
  rw [State.notify_port]
  by_cases h : q ∈ s.routedPorts k r
  · rw [if_pos h, PortState.deliver_entry]
    simp [h]
  · simp [h]

theorem State.notify_entry_of_ne (s : State) {j k : NoticeKind} (h : j ≠ k) (r : Resource) (n : Option Nat) (b : Bool) (q : Port) :
    (s.notify k r n b).entry q j = s.entry q j := by
  rw [State.notify_entry, if_neg fun c => h c.1]

theorem State.notify_entry_routed (s : State) {k : NoticeKind} {r : Resource} {q : Port} (h : q ∈ s.routedPorts k r) (n : Option Nat)
    (b : Bool) : (s.notify k r n b).entry q k = some (NoticeEntry.after (s.entry q k) n b) := by
  rw [State.notify_entry, if_pos ⟨rfl, h⟩]

/-- One notice taken, by the entries before and after. -/
theorem State.tells_of_entry {s t : State} {q : Port} {k : NoticeKind} {n : Option Nat} {b : Bool}
    (h : t.entry q k = some (NoticeEntry.after (s.entry q k) n b)) : s.tells t q k n := by
  refine ⟨_, h, ?_, fun e => ?_, fun d e => ?_⟩
  · cases s.entry q k <;> rfl
  · rw [show s.entry q k = none from e]
    rfl
  · rw [show s.entry q k = some d from e]
    simp only [NoticeEntry.after, sat255]
    split <;> omega

/-- The items a notice leaves alone, read through `notify_ports`. -/
theorem State.notify_of_ports {α : Type} (f : State → α) (hf : ∀ s v, f { s with ports := v } = f s) (s : State) (k : NoticeKind)
    (r : Resource) (n : Option Nat) (b : Bool) : f (s.notify k r n b) = f s := by
  rw [notify_ports]
  exact hf _ _

section NotifyFields

variable (s : State) (k : NoticeKind) (r : Resource) (n : Option Nat) (b : Bool)

@[simp] theorem State.notify_phase : (s.notify k r n b).phase = s.phase := State.notify_of_ports _ (fun _ _ => rfl) ..
@[simp] theorem State.notify_clock : (s.notify k r n b).clock = s.clock := State.notify_of_ports _ (fun _ _ => rfl) ..
@[simp] theorem State.notify_axes : (s.notify k r n b).axes = s.axes := State.notify_of_ports _ (fun _ _ => rfl) ..
@[simp] theorem State.axis_notify (a : AxisId) : (s.notify k r n b).axis a = s.axis a := notify_axis ..
@[simp] theorem State.notify_power : (s.notify k r n b).power = s.power := State.notify_of_ports _ (fun _ _ => rfl) ..
@[simp] theorem State.notify_motions : (s.notify k r n b).motions = s.motions := State.notify_of_ports _ (fun _ _ => rfl) ..
@[simp] theorem State.notify_signals : (s.notify k r n b).signals = s.signals := State.notify_of_ports _ (fun _ _ => rfl) ..
@[simp] theorem State.notify_evals : (s.notify k r n b).evals = s.evals := State.notify_of_ports _ (fun _ _ => rfl) ..
@[simp] theorem State.notify_inFlight : (s.notify k r n b).inFlight = s.inFlight := State.notify_of_ports _ (fun _ _ => rfl) ..
@[simp] theorem State.notify_runners : (s.notify k r n b).runners = s.runners := State.notify_of_ports _ (fun _ _ => rfl) ..
@[simp] theorem State.notify_routedPorts (j : NoticeKind) (c : Resource) :
    (s.notify k r n b).routedPorts j c = s.routedPorts j c :=
  State.notify_of_ports (fun s => s.routedPorts j c) (fun _ _ => rfl) ..

end NotifyFields

/-! ## The frame of an operation on the axes, the clock and the lines -/

/-- What no operation of the axes, the clock, the links and the captures changes. -/
structure State.Framed (s t : State) : Prop where
  phase : t.phase = s.phase
  channels : t.channels = s.channels
  inFlight : t.inFlight = s.inFlight
  timebase : t.timebase = s.timebase
  programs : t.programs = s.programs
  runners : t.runners = s.runners
  trigs : t.trigs = s.trigs
  routing : t.routing = s.routing
  holderOf : ∀ r, t.holderOf r = s.holderOf r
  port : ∀ q, t.port q = { s.port q with notices := (t.port q).notices }

theorem State.Framed.refl (s : State) : s.Framed s := ⟨rfl, rfl, rfl, rfl, rfl, rfl, rfl, rfl, fun _ => rfl, fun _ => rfl⟩

theorem PortState.deliver_eq (x : PortState) (k : NoticeKind) (n : Option Nat) (b : Bool) :
    x.deliver k n b = { x with notices := (x.deliver k n b).notices } := rfl

/-- The frame stands through every such operation (`KeptAxis`, `KeptWork`). -/
theorem keptWork_framed (s : State) : KeptWork s.Framed where
  axes := fun _ _ _ ⟨h1, h2, h3, h4, h5, h6, h7, h8, h9, h10⟩ => ⟨h1, h2, h3, h4, h5, h6, h7, h8, h9, h10⟩
  motions := fun _ _ ⟨h1, h2, h3, h4, h5, h6, h7, h8, h9, h10⟩ => ⟨h1, h2, h3, h4, h5, h6, h7, h8, h9, h10⟩
  notice := fun t p k n b ⟨h1, h2, h3, h4, h5, h6, h7, h8, h9, h10⟩ => ⟨h1, h2, h3, h4, h5, h6, h7, h8, h9, fun q => by
    rw [State.modPort_port]
    split
    · rw [PortState.deliver_eq, h10 q]
    · exact h10 q⟩
  power := fun _ _ _ _ ⟨h1, h2, h3, h4, h5, h6, h7, h8, h9, h10⟩ => ⟨h1, h2, h3, h4, h5, h6, h7, h8, h9, h10⟩
  evals := fun _ _ ⟨h1, h2, h3, h4, h5, h6, h7, h8, h9, h10⟩ => ⟨h1, h2, h3, h4, h5, h6, h7, h8, h9, h10⟩
  signals := fun _ _ ⟨h1, h2, h3, h4, h5, h6, h7, h8, h9, h10⟩ => ⟨h1, h2, h3, h4, h5, h6, h7, h8, h9, h10⟩
  serial := fun _ _ ⟨h1, h2, h3, h4, h5, h6, h7, h8, h9, h10⟩ => ⟨h1, h2, h3, h4, h5, h6, h7, h8, h9, h10⟩
  freeCount := fun _ _ ⟨h1, h2, h3, h4, h5, h6, h7, h8, h9, h10⟩ => ⟨h1, h2, h3, h4, h5, h6, h7, h8, h9, h10⟩
  sky := fun _ _ _ ⟨h1, h2, h3, h4, h5, h6, h7, h8, h9, h10⟩ => ⟨h1, h2, h3, h4, h5, h6, h7, h8, h9, h10⟩
  lease := fun t r ⟨h1, h2, h3, h4, h5, h6, h7, h8, h9, h10⟩ =>
    ⟨h1, h2, h3, h4, h5, h6, h7, h8, fun x => (t.restartLease_holderOf r x).trans (h9 x), h10⟩
  drive := fun _ _ _ ⟨h1, h2, h3, h4, h5, h6, h7, h8, h9, h10⟩ => ⟨h1, h2, h3, h4, h5, h6, h7, h8, h9, h10⟩
  links := fun _ _ ⟨h1, h2, h3, h4, h5, h6, h7, h8, h9, h10⟩ => ⟨h1, h2, h3, h4, h5, h6, h7, h8, h9, h10⟩
  outputs := fun _ _ ⟨h1, h2, h3, h4, h5, h6, h7, h8, h9, h10⟩ => ⟨h1, h2, h3, h4, h5, h6, h7, h8, h9, h10⟩
  clock := fun _ _ _ ⟨h1, h2, h3, h4, h5, h6, h7, h8, h9, h10⟩ => ⟨h1, h2, h3, h4, h5, h6, h7, h8, h9, h10⟩
  captures := fun _ _ _ ⟨h1, h2, h3, h4, h5, h6, h7, h8, h9, h10⟩ => ⟨h1, h2, h3, h4, h5, h6, h7, h8, h9, h10⟩

/-- A routed notice goes where it went (R206). -/
theorem State.Framed.routedPorts {s t : State} (h : s.Framed t) (k : NoticeKind) (r : Resource) :
    t.routedPorts k r = s.routedPorts k r := by
  unfold State.routedPorts
  rw [h.routing, h.holderOf]

theorem State.Framed.request {s t : State} (h : s.Framed t) (q : Port) : (t.port q).request = (s.port q).request := by
  rw [h.port q]

/-! ## A reply entered -/

section Reply

variable (s : State) (p q : Port) (tag code : Byte) (r : Reply) (k : NoticeKind)

@[simp] theorem State.enterReply_reply : ((s.enterReply p tag code r).port p).reply = some (r.frame tag code) := by
  simp [State.enterReply]

@[simp] theorem State.enterReply_request : ((s.enterReply p tag code r).port q).request = (s.port q).request := by
  unfold State.enterReply
  rw [State.modPort_port]
  split <;> rfl

@[simp] theorem State.enterReply_entry : (s.enterReply p tag code r).entry q k = s.entry q k := by
  unfold State.enterReply State.entry
  rw [State.modPort_port]
  split <;> rfl

@[simp] theorem State.outstand_entry : (s.outstand p tag code).entry q k = s.entry q k := by
  unfold State.outstand State.entry
  rw [State.modPort_port]
  split <;> rfl

end Reply

/-! ## Free orders (log 6) -/

theorem insertByRank_perm {α : Type} (key : α → Nat) (x : α) : ∀ l : List α, (insertByRank key x l).Perm (x :: l)
  | [] => .refl _
  | y :: ys => by
    unfold insertByRank
    split
    · exact .refl _
    · exact ((insertByRank_perm key x ys).cons y).trans (.swap x y ys)

theorem foldr_insertByRank_perm {α : Type} (key : α → Nat) : ∀ l : List α, (l.foldr (insertByRank key) []).Perm l
  | [] => .refl _
  | x :: l => (insertByRank_perm key x _).trans ((foldr_insertByRank_perm key l).cons x)

/-- A free order draws from the counter alone, and lists the items in some order. -/
theorem State.freeOrder_cases (s : State) {α : Type} (key : α → Nat) (l : List α) :
    ∃ n m, s.freeOrder key l = ({ s with freeCount := n }, m) ∧ m.Perm l := by
  unfold State.freeOrder
  split
  · exact ⟨s.freeCount, [], rfl, .refl _⟩
  · exact ⟨s.freeCount, _, rfl, .refl _⟩
  · exact ⟨s.freeCount + 1, _, rfl, foldr_insertByRank_perm _ _⟩

/-! ## Requests of axes to the evaluator (R40, R41, R75) -/

/-- The list of requests with one of the axis for the channel it is bound to; none for an axis not bound. -/
def evalsWith (a : AxisId) (binding : Option ChannelId) (e : Int) (u : Purpose) (l : List EvalRequest) : List EvalRequest :=
  match binding with
  | none => l
  | some c => joinEvals { who := .axis a u, channel := c, epoch := some e } a l

theorem mem_joinEvals_self (e : EvalRequest) (a : AxisId) : ∀ l, e ∈ joinEvals e a l
  | [] => List.mem_singleton.mpr rfl
  | x :: xs => by
    unfold joinEvals
    split
    · exact List.mem_cons_self
    · exact List.mem_cons_of_mem _ (mem_joinEvals_self e a xs)

theorem mem_joinEvals_of_mem {e f : EvalRequest} {a : AxisId} (hf : f.isAxis a = false) : ∀ {l}, f ∈ l → f ∈ joinEvals e a l
  | x :: xs, h => by
    unfold joinEvals
    rcases List.mem_cons.mp h with rfl | h
    · rw [if_neg (by rw [hf]; exact Bool.false_ne_true)]
      exact List.mem_cons_self
    · split
      · exact List.mem_cons_of_mem _ h
      · exact List.mem_cons_of_mem _ (mem_joinEvals_of_mem hf h)

theorem mem_evalsWith_self (a : AxisId) (c : ChannelId) (e : Int) (u : Purpose) (l : List EvalRequest) :
    { who := .axis a u, channel := c, epoch := some e } ∈ evalsWith a (some c) e u l := mem_joinEvals_self _ _ _

theorem mem_evalsWith_of_mem {f : EvalRequest} {a : AxisId} (hf : f.isAxis a = false) (b : Option ChannelId) (e : Int) (u : Purpose)
    {l : List EvalRequest} (h : f ∈ l) : f ∈ evalsWith a b e u l := by
  cases b with
  | none => exact h
  | some c => exact mem_joinEvals_of_mem hf h

/-- Requests of several axes, each once: each stands in the list, and so does every request of another axis or a port. -/
theorem mem_foldl_evalsWith {b : AxisId → Option ChannelId} {e : Int} {u : Purpose} :
    ∀ {l : List AxisId} {v : List EvalRequest}, l.Nodup →
      (∀ a ∈ l, ∀ c, b a = some c →
        ({ who := .axis a u, channel := c, epoch := some e } : EvalRequest) ∈ l.foldl (fun v a => evalsWith a (b a) e u v) v) ∧
      ∀ f ∈ v, (∀ a ∈ l, f.isAxis a = false) → f ∈ l.foldl (fun v a => evalsWith a (b a) e u v) v
  | [], _, _ => ⟨fun _ h => absurd h List.not_mem_nil, fun _ h _ => h⟩
  | a :: l, v, h => by
    obtain ⟨ha, hl⟩ := List.nodup_cons.mp h
    obtain ⟨hin, hkeep⟩ := mem_foldl_evalsWith (b := b) (e := e) (u := u) (v := evalsWith a (b a) e u v) hl
    refine ⟨fun x hx c hc => ?_, fun f hf hall => ?_⟩
    · rcases List.mem_cons.mp hx with rfl | hx
      · refine hkeep _ (hc ▸ mem_evalsWith_self x c e u v) fun y hy => beq_eq_false_iff_ne.mpr ?_
        rintro rfl
        exact ha hy
      · exact hin x hx c hc
    · exact hkeep f (mem_evalsWith_of_mem (hall a List.mem_cons_self) _ _ _ hf) fun y hy => hall y (List.mem_cons_of_mem _ hy)

/-- What a request of an angle leaves of its axis (R75). -/
def Axis.asking (x : Axis) (inFlight newUse : Bool) : Axis :=
  { x with discard := x.discard || (x.record.binding.isSome && (newUse && inFlight)) }

/-- A request of an angle changes the discard flag of its axis and the list of requests. -/
theorem State.requestAngle_eq (s : State) (a : AxisId) (e : Int) (u : Purpose) (new : Bool) :
    s.requestAngle a e u new =
      { s.setAxis a ((s.axis a).asking (s.axisInFlight a) new) with evals := evalsWith a (s.axis a).record.binding e u s.evals } := by
  have same (h : (s.axis a).asking (s.axisInFlight a) new = s.axis a) : s.setAxis a ((s.axis a).asking (s.axisInFlight a) new) = s := by
    rw [h]
    simp [State.setAxis, State.axis]
  unfold State.requestAngle
  cases hb : (s.axis a).record.binding with
  | none =>
    rw [same (by simp [Axis.asking, hb])]
    rfl
  | some c =>
    dsimp only
    split
    · rename_i h
      simp [Axis.asking, hb, evalsWith, State.modAxis, h]
    · rename_i h
      rw [same (by simp [Axis.asking, hb, h])]
      rfl

theorem State.requestAngle_axis (s : State) (a b : AxisId) (e : Int) (u : Purpose) (new : Bool) :
    (s.requestAngle a e u new).axis b = if b = a then (s.axis a).asking (s.axisInFlight a) new else s.axis b := by
  rw [State.requestAngle_eq]
  exact State.setAxis_axis s a b _

/-! ## One change after another on distinct items -/

/-- Where each step changes its own item alone, each item of the list is changed once. -/
theorem foldl_get {ι α : Type} [DecidableEq ι] (get : State → ι → α) {f : State → ι → State} {g : ι → α → α} {P : State → Prop}
    (hP : ∀ s a, P s → P (f s a)) (hf : ∀ s a b, P s → get (f s a) b = if b = a then g a (get s a) else get s b) (b : ι) :
    ∀ (l : List ι) (s : State), l.Nodup → P s → get (l.foldl f s) b = if b ∈ l then g b (get s b) else get s b
  | [], _, _, _ => rfl
  | a :: l, s, h, hs => by
    obtain ⟨ha, hl⟩ := List.nodup_cons.mp h
    rw [List.foldl_cons, foldl_get get hP hf b l _ hl (hP s a hs), hf s a b hs]
    by_cases c : b = a
    · subst c
      simp [ha]
    · simp [c]

/-! ## The settle roll (R12, R13) -/

theorem State.settleTest_of_not {s : State} (h : ¬ (s.clock.state = .settling ∧ s.clock.roll = [])) : s.settleTest = s := if_neg h

theorem State.settleTest_empty {s : State} (h : s.clock.state = .settling) (h' : s.clock.roll = []) :
    s.settleTest = (((s.withClock s.clock.resumed).notify .clockSettled .sky none).event .clockSettled).raise
      (.done (.settling s.clock.settleSerial)) := if_pos ⟨h, h'⟩

theorem Clock.resumed_eq (c : Clock) :
    c.resumed = { c with settleTimer := none, roll := [], state := c.resumeTo.state } := by
  unfold Clock.resumed
  cases c.resumeTo <;> rfl

/-- What CLOCK_SETTLED says, by the entries and the signals of the states it is said between. -/
theorem State.saysSettled_of {s t : State} {k : Nat} (he : .event .clockSettled none ∈ t.signals)
    (hd : .done (.settling k) ∈ t.signals)
    (hn : ∀ q ∈ s.routedPorts .clockSettled .sky, t.entry q .clockSettled = some (NoticeEntry.after (s.entry q .clockSettled) none false)) :
    s.saysSettled t k := by
  refine ⟨he, hd, fun q hq => ⟨State.tells_of_entry (hn q hq), fun e h => ?_⟩⟩
  cases h.symm.trans (hn q hq)
  show _ = ((s.entry q .clockSettled).map NoticeEntry.timeout).getD false
  cases s.entry q .clockSettled with
  | none => rfl
  | some d => exact Bool.or_false _

/-- Settling that completes at `s` says so. -/
theorem State.settleTest_says {s : State} (h : s.clock.state = .settling) (h' : s.clock.roll = []) :
    .event .clockSettled none ∈ s.settleTest.signals ∧ .done (.settling s.clock.settleSerial) ∈ s.settleTest.signals ∧
      ∀ q ∈ s.routedPorts .clockSettled .sky,
        s.settleTest.entry q .clockSettled = some (NoticeEntry.after (s.entry q .clockSettled) none false) := by
  rw [State.settleTest_empty h h']
  refine ⟨by simp, by simp, fun q hq => ?_⟩
  exact State.notify_entry_routed (s.withClock s.clock.resumed) hq none false

theorem State.settleTest_signals (s : State) : ∀ x ∈ s.signals, x ∈ s.settleTest.signals := by
  intro x hx
  unfold State.settleTest
  split
  · simp [hx]
  · exact hx

theorem State.settleTest_entry (s : State) {k : NoticeKind} (h : k ≠ .clockSettled) (q : Port) :
    s.settleTest.entry q k = s.entry q k := by
  unfold State.settleTest
  split
  · exact State.notify_entry_of_ne _ h _ _ _ _
  · rfl

theorem State.settleTest_clock (s : State) : s.settleTest.clock =
    if s.clock.state = .settling ∧ s.clock.roll = [] then s.clock.resumed else s.clock := by
  unfold State.settleTest
  split
  · simp
  · rfl

section SettleFields

variable (s : State)

@[simp] theorem State.settleTest_axes : s.settleTest.axes = s.axes := by unfold State.settleTest; split <;> simp
@[simp] theorem State.settleTest_power : s.settleTest.power = s.power := by unfold State.settleTest; split <;> simp
@[simp] theorem State.settleTest_motions : s.settleTest.motions = s.motions := by unfold State.settleTest; split <;> simp
@[simp] theorem State.settleTest_evals : s.settleTest.evals = s.evals := by unfold State.settleTest; split <;> simp

end SettleFields

end Sys2Proof.Machine
end

section
/-! PROOFS. The jumps of the epoch (01 R10, R11: O14), the settle time (R16: O15), and the timers of the clock (R14, R18: O17). -/

namespace Sys2Proof.Machine

/-! ## Entries read from other states -/

theorem State.tells.of_entries {s s' t t' : State} {q : Port} {k : NoticeKind} {n : Option Nat} (h : s.tells t q k n)
    (hs : s'.entry q k = s.entry q k) (ht : t'.entry q k = t.entry q k) : s'.tells t' q k n := by
  unfold State.tells at *
  change ∃ e, t'.entry q k = some e ∧ _
  rw [ht]
  change ∃ e, t.entry q k = some e ∧ e.subject = n ∧ (s'.entry q k = none → _) ∧ ∀ d, s'.entry q k = some d → _
  rw [hs]
  exact h

theorem State.saysSettled.of_entries {s s' t t' : State} {k : Nat} (h : s.saysSettled t k)
    (hr : s'.routedPorts .clockSettled .sky = s.routedPorts .clockSettled .sky)
    (hs : ∀ q, s'.entry q .clockSettled = s.entry q .clockSettled) (ht : ∀ q, t'.entry q .clockSettled = t.entry q .clockSettled)
    (hsig : ∀ x ∈ t.signals, x ∈ t'.signals) : s'.saysSettled t' k := by
  obtain ⟨he, hd, hn⟩ := h
  refine ⟨hsig _ he, hsig _ hd, fun q hq => ?_⟩
  rw [hr] at hq
  obtain ⟨htell, htime⟩ := hn q hq
  refine ⟨htell.of_entries (hs q) (ht q), fun e h => ?_⟩
  have := htime e ((ht q).symm.trans h)
  rw [this]
  show ((s.entry q .clockSettled).map NoticeEntry.timeout).getD false = ((s'.entry q .clockSettled).map NoticeEntry.timeout).getD false
  rw [hs q]

/-- What settling says is the same beside the reply of the request that ended it. -/
theorem State.saysSettled.answered {s t : State} {p : Port} {tag c : Byte} {k : Nat} (h : (s.outstand p tag c).saysSettled t k)
    (x : Resource) (r : Reply) : s.saysSettled ((t.restartLease x).enterReply p tag c r) k :=
  h.of_entries rfl (fun _ => (State.outstand_entry ..).symm) (fun _ => State.enterReply_entry ..) fun _ hx => hx

/-! ## EPOCH REPLACED (R3) -/

theorem mem_trackingAxes (s : State) (a : AxisId) : a ∈ s.trackingAxes ↔ (s.axis a).state = .tracking := by
  simp [State.trackingAxes, mem_allAxes]

theorem trackingAxes_nodup (s : State) : s.trackingAxes.Nodup := List.Nodup.filter _ (by decide)

/-- A tracking axis after EPOCH REPLACED: it acquires afresh and asks anew. -/
def Axis.replaced (x : Axis) (inFlight : Bool) : Axis :=
  Axis.asking { x with tracking := x.tracking.map fun t => { t with acquire := true, settled := false } } inFlight true

theorem State.hearReplaced_eq (s : State) (e : Int) (a : AxisId) : s.hearReplaced e a =
    { s.setAxis a ((s.axis a).replaced (s.axisInFlight a)) with evals := evalsWith a (s.axis a).record.binding e .track s.evals } := by
  unfold State.hearReplaced
  rw [State.requestAngle_eq, State.modAxis_axis_self]
  unfold State.modAxis
  rw [State.setAxis_setAxis]
  rfl

/-- A step that tells one axis of an epoch: the axis becomes `g` of what it was, and asks for its angle. -/
def TellsAxis (f : State → AxisId → State) (g : Axis → Bool → Axis) (e : Int) : Prop :=
  (∀ x b, (g x b).record = x.record) ∧
    ∀ s a, f s a = { s.setAxis a (g (s.axis a) (s.axisInFlight a)) with
      evals := evalsWith a (s.axis a).record.binding e .track s.evals }

/-- The items an announcement to the axes changes. -/
def State.onlyAxesAndEvals (s t : State) : Prop := t = { s with axes := t.axes, evals := t.evals }

section TellsAxes

variable {f : State → AxisId → State} {g : Axis → Bool → Axis} {e : Int}

theorem TellsAxis.only (h : TellsAxis f g e) (l : List AxisId) (s : State) : s.onlyAxesAndEvals (l.foldl f s) := by
  refine foldl_keeps (P := s.onlyAxesAndEvals) (fun t a ht => ?_) l s rfl
  unfold State.onlyAxesAndEvals at *
  rw [h.2 t a, ht]
  rfl

theorem TellsAxis.step_axis (h : TellsAxis f g e) (s : State) (a b : AxisId) :
    (f s a).axis b = if b = a then g (s.axis a) (s.axisInFlight a) else s.axis b := by
  rw [h.2 s a]
  exact State.setAxis_axis s a b _

theorem TellsAxis.axis (h : TellsAxis f g e) {l : List AxisId} (hl : l.Nodup) (s : State) (b : AxisId) :
    (l.foldl f s).axis b = if b ∈ l then g (s.axis b) (s.axisInFlight b) else s.axis b := by
  refine foldl_get State.axis (f := f) (g := fun a x => g x (s.axisInFlight a)) (P := fun t => t.inFlight = s.inFlight)
    (fun t a ht => by rw [h.2 t a]; exact ht) (fun t a b ht => ?_) b l s hl rfl
  rw [h.step_axis, show t.axisInFlight a = s.axisInFlight a by unfold State.axisInFlight; rw [ht]]

theorem TellsAxis.evals (h : TellsAxis f g e) : ∀ (l : List AxisId) (s : State),
    (l.foldl f s).evals = l.foldl (fun v a => evalsWith a (s.axis a).record.binding e .track v) s.evals
  | [], _ => rfl
  | a :: l, s => by
    have same : ∀ b, ((f s a).axis b).record = (s.axis b).record := fun b => by
      rw [h.step_axis]
      split
      · rename_i hb
        rw [hb, h.1]
      · rfl
    rw [List.foldl_cons, List.foldl_cons, h.evals l, h.2 s a]
    rw [h.2 s a] at same
    simp only [same]

end TellsAxes

theorem tellsAxis_hearReplaced (e : Int) : TellsAxis (fun s a => s.hearReplaced e a) Axis.replaced e :=
  ⟨fun _ _ => rfl, fun s a => s.hearReplaced_eq e a⟩

theorem tellsAxis_requestAngle (e : Int) : TellsAxis (fun s a => s.requestAngle a e .track false) (fun x b => x.asking b false) e :=
  ⟨fun _ _ => rfl, fun s a => s.requestAngle_eq a e .track false⟩

/-- EPOCH REPLACED as it is told: the tracking axes in some order, and the runners by a signal. -/
theorem State.announceReplaced_cases (s : State) (e : Int) : ∃ (n : Nat) (t : State),
    s.announceReplaced e = { t with freeCount := n, signals := s.signals ++ [.epoch e s.epochWaiters] } ∧ s.onlyAxesAndEvals t ∧
      (∀ a, t.axis a = if (s.axis a).state = .tracking then (s.axis a).replaced (s.axisInFlight a) else s.axis a) ∧
      ∀ a c, (s.axis a).state = .tracking → (s.axis a).record.binding = some c →
        ({ who := .axis a .track, channel := c, epoch := some e } : EvalRequest) ∈ t.evals := by
  obtain ⟨n, l, hl, hperm⟩ := s.freeOrder_cases Fin.val s.trackingAxes
  have hnodup : l.Nodup := hperm.nodup_iff.mpr (trackingAxes_nodup s)
  have hmem (a : AxisId) : a ∈ l ↔ (s.axis a).state = .tracking := hperm.mem_iff.trans (mem_trackingAxes s a)
  have honly := (tellsAxis_hearReplaced e).only l { s with freeCount := n }
  have haxis := (tellsAxis_hearReplaced e).axis hnodup { s with freeCount := n }
  have hevals := (tellsAxis_hearReplaced e).evals l { s with freeCount := n }
  generalize hfold : l.foldl (fun s a => s.hearReplaced e a) { s with freeCount := n } = t at honly haxis hevals
  refine ⟨n, { s with axes := t.axes, evals := t.evals }, ?_, rfl, fun a => ?_, fun a c ha hc => ?_⟩
  · unfold State.announceReplaced
    rw [hl]
    dsimp only
    rw [hfold, honly]
    rfl
  · refine (haxis a).trans ?_
    simp only [hmem]
    rfl
  · show _ ∈ t.evals
    rw [hevals]
    exact (mem_foldl_evalsWith hnodup).1 a ((hmem a).mpr ha) c hc

/-- A jump: the clock set, EPOCH REPLACED told, settling tested. -/
theorem jump_facts (s : State) (c : Clock) (e : Int) :
    s.hearsJump ((s.withClock c).announceReplaced e).settleTest e ∧
      ((s.withClock c).announceReplaced e).settleTest.power = s.power ∧
      ((s.withClock c).announceReplaced e).settleTest.motions = s.motions ∧
      ((s.withClock c).announceReplaced e).settleTest.clock =
        (if c.state = .settling ∧ c.roll = [] then c.resumed else c) ∧
      (c.state = .settling → c.roll = [] → s.saysSettled ((s.withClock c).announceReplaced e).settleTest c.settleSerial) := by
  obtain ⟨n, t, heq, honly, haxis, hevals⟩ := (s.withClock c).announceReplaced_cases e
  have hclock : ((s.withClock c).announceReplaced e).clock = c := by rw [heq, honly]; rfl
  have hports : ((s.withClock c).announceReplaced e).ports = s.ports := by rw [heq, honly]; rfl
  have hroutes : ((s.withClock c).announceReplaced e).routedPorts .clockSettled .sky = s.routedPorts .clockSettled .sky := by
    rw [heq, honly]; rfl
  have haxis' : ∀ a, ((s.withClock c).announceReplaced e).settleTest.axis a =
      if (s.axis a).state = .tracking then (s.axis a).replaced (s.axisInFlight a) else s.axis a := fun a => by
    rw [State.settleTest_axis, heq]
    exact haxis a
  refine ⟨⟨?_, fun a ha => ?_, fun a ha => ⟨?_, fun b hb => ⟨⟨.axis a .track, b, some e⟩, ?_, rfl, rfl, rfl⟩⟩⟩, ?_, ?_, ?_, fun hs hr => ?_⟩
  · refine State.settleTest_signals _ _ ?_
    rw [heq]
    exact List.mem_append_right _ (List.mem_singleton.mpr rfl)
  · rw [haxis', if_neg ha]
  · rw [haxis', if_pos ha]
    simp [Axis.replaced, Axis.asking]
  · rw [State.settleTest_evals, heq]
    exact hevals a b ha hb
  · rw [State.settleTest_power, heq, honly]
    rfl
  · rw [State.settleTest_motions, heq, honly]
    rfl
  · rw [State.settleTest_clock, hclock]
  · obtain ⟨hev, hdone, hnote⟩ := State.settleTest_says (s := (s.withClock c).announceReplaced e) (by rw [hclock]; exact hs)
      (by rw [hclock]; exact hr)
    rw [hclock] at hdone
    refine State.saysSettled_of hev hdone fun q hq => ?_
    rw [hnote q (hroutes ▸ hq)]
    unfold State.entry State.port
    rw [hports]

/-! ## Set Epoch (R10, R11) -/

section Sky

variable {s : State} {p : Port} (h : s.holds p .sky = true)
include h

theorem sky_setEpoch_mode (e : Int) {mode : Nat} (hm : 1 < mode) : setEpoch p e mode s = refuse .badValue s := by
  simp [setEpoch, h, hm]

theorem sky_setEpoch_range {e : Int} {mode : Nat} (hm : mode ≤ 1) (he : e < -(2 ^ 50) ∨ 2 ^ 50 ≤ e) :
    setEpoch p e mode s = refuse .range s := by
  have hr : e < Config.epochMin ∨ Config.epochMax < e := by
    have hmin : Config.epochMin = -(2 ^ 50) := rfl
    have hmax : Config.epochMax = 2 ^ 50 - 1 := rfl
    omega
  simp [setEpoch, h, hm, hr]

theorem sky_setEpoch_blind {e : Int} (h1 : Config.epochMin ≤ e) (h2 : e ≤ Config.epochMax) :
    setEpoch p e 1 s = answerOk ((s.blindJump e).restartLease .sky) := by
  simp [setEpoch, h, Int.not_lt.mpr h1, Int.not_lt.mpr h2]

theorem sky_setEpoch_settle (hh : s.held = false) {e : Int} (h1 : Config.epochMin ≤ e) (h2 : e ≤ Config.epochMax) :
    setEpoch p e 0 s = answerOk ((s.settleJump e).restartLease .sky) := by
  simp [setEpoch, h, hh, Int.not_lt.mpr h1, Int.not_lt.mpr h2]

end Sky

/-- The clock a BLIND jump sets (R10). -/
def State.blindClock (s : State) (e : Int) : Clock :=
  { s.clock with epoch := e, residue := 0, roll := if s.clock.state = .settling then s.trackingAxes else s.clock.roll }

theorem State.blindJump_eq (s : State) (e : Int) :
    s.blindJump e = ((s.withClock (s.blindClock e)).announceReplaced e).settleTest := by
  unfold State.blindJump State.blindClock
  dsimp only
  split <;> rfl

/-- Where a SETTLE jump resumes to (R11). -/
def Clock.settlesTo (c : Clock) : ResumeTo :=
  match c.state with
  | .running => .running
  | .halted => .halted
  | .settling => c.resumeTo

/-- The clock a SETTLE jump sets (R11), with the number `k` of its settling. -/
def State.settleClock (s : State) (e : Int) (k : Nat) : Clock :=
  { s.clock with epoch := e, residue := 0, resumeTo := s.clock.settlesTo, state := .settling,
                 settleTimer := some (s.clock.settleTime * 1000), roll := s.trackingAxes, settleSerial := k }

theorem State.settleJump_eq (s : State) (e : Int) : ∃ n k,
    s.settleJump e = ((({ s with serial := n } : State).withClock (s.settleClock e k)).announceReplaced e).settleTest := by
  unfold State.settleJump
  by_cases h : s.clock.state = .settling
  · exact ⟨s.serial, s.clock.settleSerial, by simp only [if_pos h]; rfl⟩
  · exact ⟨s.serial + 1, s.serial, by simp only [if_neg h]; rfl⟩

/-- An accepted jump, served at a port just taken: `c` is the clock it sets, `n` the model's next serial behind it. -/
theorem jump_answers {s : State} {p : Port} {tag : Byte} {e : Int} {mode n : Nat} {c : Clock} {u : State} (hr : s.ready p)
    (he : setEpoch p e mode (s.outstand p tag 20) = answerOk (u.restartLease .sky))
    (hu : u = ((({ s.outstand p tag 20 with serial := n } : State).withClock c).announceReplaced e).settleTest)
    (hf : (s.outstand p tag 20).Framed u) :
    ∃ t : State, exec (.setEpoch p tag e mode) s = .next t.drain ∧ s.hearsJump t e ∧
      (t.port p).request = .outstanding tag 20 ∧ (t.port p).reply = some (Reply.done.frame tag 20) ∧
      t.runners = s.runners ∧ t.channels = s.channels ∧ t.power = s.power ∧ t.motions = s.motions ∧
      t.clock = (if c.state = .settling ∧ c.roll = [] then c.resumed else c) ∧
      (c.state = .settling → c.roll = [] → s.saysSettled t c.settleSerial) := by
  obtain ⟨hhears, hpower, hmotions, hclock, hsays⟩ := jump_facts ({ s.outstand p tag 20 with serial := n }) c e
  rw [← hu] at hhears hpower hmotions hclock hsays
  refine ⟨(u.restartLease .sky).enterReply p tag 20 .done,
    exec_answered (q := .setEpoch e mode) rfl rfl hr (congrArg now he), hhears, ?_, State.enterReply_reply .., hf.runners, hf.channels,
    hpower, hmotions, hclock, fun h1 h2 => ?_⟩
  · rw [State.enterReply_request]
    exact (hf.request p).trans (outstand_port_request s p tag 20)
  · exact State.saysSettled.answered (c := 20) (hsays h1 h2) .sky .done

/-- Settles O14: both jumps by `jump_answers`, with the clock each sets. -/
theorem jumpsReplaceTheEpoch : Obligations.JumpsReplaceTheEpoch := by
  intro s p tag e mode hr hs
  have hhold := holds_outstand hs tag (requestByte (.setEpoch e mode))
  refine ⟨fun hm => ?_, fun hm hrange => ?_, fun h1 h2 hm => ?_, fun h1 h2 hm hhalt hpow => ?_⟩
  · exact answers_unchanged (q := .setEpoch e mode) rfl rfl hr (congrArg now (sky_setEpoch_mode hhold e hm))
  · exact answers_unchanged (q := .setEpoch e mode) rfl rfl hr (congrArg now (sky_setEpoch_range hhold hm hrange))
  all_goals
    subst hm
    have hmin : Config.epochMin ≤ e := h1
    have hmax : e ≤ Config.epochMax := Int.le_sub_one_of_lt h2
  · obtain ⟨t, hexec, hhears, hreq, hrep, hrun, hchan, hpower, hmot, hclock, hsays⟩ :=
      jump_answers (n := s.serial) hr (sky_setEpoch_blind hhold hmin hmax) ((s.outstand p tag 20).blindJump_eq e)
        ((keptWork_framed _).blindJump e hmin hmax (.refl _))
    refine ⟨t, hexec, hhears, hreq, hrep, hrun, hchan, hpower, hmot, fun hst => ?_, fun hst => ⟨fun hne => ?_, fun hnil => ?_⟩⟩
    · rw [hclock, if_neg (fun h => hst h.1)]
      show ({ s.clock with epoch := e, residue := 0, roll := if s.clock.state = .settling then s.trackingAxes else s.clock.roll } : Clock) = _
      rw [if_neg hst]
    · rw [hclock]
      show (if s.clock.state = .settling ∧ (if s.clock.state = .settling then s.trackingAxes else s.clock.roll) = [] then _ else
        ({ s.clock with epoch := e, residue := 0, roll := if s.clock.state = .settling then s.trackingAxes else s.clock.roll } : Clock)) = _
      rw [if_pos hst, if_neg (fun h => hne h.2)]
    · have hroll : (if s.clock.state = .settling then s.trackingAxes else s.clock.roll) = [] := (if_pos hst).trans hnil
      refine ⟨?_, hsays hst hroll⟩
      rw [hclock, if_pos ⟨hst, hroll⟩, Clock.resumed_eq]
      rfl
  · obtain ⟨n, k, hjump⟩ := (s.outstand p tag 20).settleJump_eq e
    obtain ⟨t, hexec, hhears, hreq, hrep, hrun, hchan, hpower, hmot, hclock, hsays⟩ :=
      jump_answers hr (sky_setEpoch_settle hhold (not_held_outstand p tag _ hhalt hpow) hmin hmax) hjump
        ((keptWork_framed _).settleJump e hmin hmax (.refl _))
    refine ⟨t, s.clock.settlesTo, hexec, hhears, hreq, hrep, hrun, hchan, hpower, hmot, ?_, ?_, ?_, fun hne => ?_, fun hnil => ?_⟩
    · intro h; unfold Clock.settlesTo; rw [h]
    · intro h; unfold Clock.settlesTo; rw [h]
    · intro h; unfold Clock.settlesTo; rw [h]
    · rw [hclock, if_neg (fun h => hne h.2)]
      rfl
    · have hsaid := hsays rfl hnil
      rw [if_pos ⟨rfl, hnil⟩, Clock.resumed_eq] at hclock
      refine ⟨?_, ?_⟩
      · rw [hclock]; rfl
      · rw [hclock]; exact hsaid

/-- Settles O15: the settle time taken, and the start of the timer by the next SETTLE jump. -/
theorem setSettleTimeIsUsedAtTheNextStart : Obligations.SetSettleTimeIsUsedAtTheNextStart := by
  intro s p tag n hr hs
  have he := sky_setSettleTime (holds_outstand hs tag (requestByte (.setSettleTime n))) n
  refine ⟨fun hbad => ?_, fun h1 h60 => ?_, fun e h1 h2 hhalt hpow hne => ?_⟩
  · exact answers_unchanged (q := .setSettleTime n) rfl rfl hr (congrArg now (he.trans (if_pos hbad)))
  · exact answers_changed (q := .setSettleTime n) rfl rfl hr (congrArg now (he.trans (if_neg (by omega))))
  · obtain ⟨t, r, hexec, _, _, _, _, _, _, _, _, _, _, hclock, _⟩ :=
      (jumpsReplaceTheEpoch s p tag e 0 hr hs).2.2.2 h1 h2 rfl hhalt hpow
    exact ⟨t, hexec, by rw [hclock hne]⟩

end Sys2Proof.Machine
end

section
/-! PROOFS. The timers of the clock (01 R14, R18: O17): the settle timer ends a settling with LAGGING, the quiet timer lets the ceiling
go. -/

namespace Sys2Proof.Machine

/-! ## LAGGING told by the clock (R14) -/

/-- The axis with LAGGING set, where it tracks. -/
def Axis.nowLagging (x : Axis) : Axis := { x with tracking := x.tracking.map fun r => { r with lagging := true } }

/-- The axis tracks and is not LAGGING: it is the clock's to tell. -/
def Axis.untold (x : Axis) : Prop := x.tracking.map Tracking.lagging = some false

theorem Axis.nowLagging_of_told {x : Axis} (h : ¬ x.untold) : x.nowLagging = x := by
  unfold Axis.untold at h
  unfold Axis.nowLagging
  cases ht : x.tracking with
  | none => exact (x.tracking_eta ht).symm
  | some t =>
    have hl : t.lagging = true := by simpa [ht] using h
    rw [Option.map_some, show ({ t with lagging := true } : Tracking) = t by rw [← hl]]
    exact (x.tracking_eta ht).symm

theorem Axis.nowLagging_told (x : Axis) : ¬ x.nowLagging.untold := by
  unfold Axis.untold Axis.nowLagging
  cases x.tracking <;> simp

theorem State.tellLagging_told {s : State} {a : AxisId} (h : ¬ (s.axis a).untold) : s.tellLagging a = s := by
  unfold Axis.untold at h
  unfold State.tellLagging
  cases ht : (s.axis a).tracking with
  | none => rfl
  | some t =>
    rw [ht] at h
    exact if_pos (by simpa using h)

theorem State.tellLagging_untold {s : State} {a : AxisId} (h : (s.axis a).untold) :
    s.tellLagging a = (s.modAxis a Axis.nowLagging).notify .axisLagging (s.groupOf a) (some a.val) := by
  unfold Axis.untold at h
  unfold State.tellLagging
  cases ht : (s.axis a).tracking with
  | none => simp [ht] at h
  | some t =>
    rw [ht] at h
    have hl : t.lagging = false := by simpa using h
    dsimp only
    rw [if_neg (by rw [hl]; exact Bool.false_ne_true)]
    have hx : (s.modAxis a fun x => { x with tracking := some { t with lagging := true } }) = s.modAxis a Axis.nowLagging := by
      unfold State.modAxis Axis.nowLagging
      rw [ht]
      rfl
    unfold State.notifyAxis
    rw [hx, show (s.modAxis a Axis.nowLagging).groupOf a = s.groupOf a by unfold State.groupOf; rw [State.modAxis_axis_self]; rfl]

theorem State.tellLagging_axis (s : State) (a b : AxisId) :
    (s.tellLagging a).axis b = if b = a then (s.axis a).nowLagging else s.axis b := by
  by_cases h : (s.axis a).untold
  · rw [State.tellLagging_untold h, State.axis_notify, State.modAxis_axis]
  · rw [State.tellLagging_told h, Axis.nowLagging_of_told h]
    split
    · rename_i hb
      rw [hb]
    · rfl

/-- What telling LAGGING changes: axes and pending entries. -/
def State.onlyAxesAndPorts (s t : State) : Prop := t = { s with axes := t.axes, ports := t.ports }

theorem State.tellLagging_only (s : State) (a : AxisId) : s.onlyAxesAndPorts (s.tellLagging a) := by
  by_cases h : (s.axis a).untold
  · rw [State.tellLagging_untold h]
    unfold State.onlyAxesAndPorts
    rw [notify_ports]
    rfl
  · rw [State.tellLagging_told h]
    rfl

theorem State.onlyAxesAndPorts.trans {s t u : State} (h : s.onlyAxesAndPorts t) (k : t.onlyAxesAndPorts u) : s.onlyAxesAndPorts u := by
  unfold State.onlyAxesAndPorts at *
  exact k.trans (by rw [h])

theorem foldl_tellLagging_only (l : List AxisId) (s : State) : s.onlyAxesAndPorts (l.foldl State.tellLagging s) := by
  exact foldl_keeps (P := s.onlyAxesAndPorts) (fun t a h => h.trans (t.tellLagging_only a)) l s rfl

/-- Every axis of the list takes LAGGING, the others stand; a list may name an axis again. -/
theorem foldl_tellLagging_axis (b : AxisId) : ∀ (l : List AxisId) (s : State),
    (l.foldl State.tellLagging s).axis b = if b ∈ l then (s.axis b).nowLagging else s.axis b
  | [], _ => rfl
  | a :: l, s => by
    rw [List.foldl_cons, foldl_tellLagging_axis b l, State.tellLagging_axis]
    by_cases hb : b = a
    · subst hb
      simp [Axis.nowLagging_of_told (Axis.nowLagging_told _)]
    · simp [hb]

/-- The entry AXIS_LAGGING of a port names one of a set of axes. -/
def State.lagTold (t : State) (q : Port) (G : AxisId → Prop) : Prop :=
  ∃ n : NoticeEntry, t.entry q .axisLagging = some n ∧ ∃ b, G b ∧ n.subject = some b.val

theorem NoticeEntry.after_subject (e : Option NoticeEntry) (n : Option Nat) (b : Bool) : (NoticeEntry.after e n b).subject = n := by
  cases e <;> rfl

/-- One axis told: the port's entry stands, or names the axis told. -/
theorem State.tellLagging_entry (s : State) (a : AxisId) (q : Port) :
    (s.tellLagging a).entry q .axisLagging = s.entry q .axisLagging ∨
      (s.axis a).untold ∧ (s.tellLagging a).lagTold q (· = a) := by
  by_cases h : (s.axis a).untold
  · rw [State.tellLagging_untold h]
    by_cases hq : q ∈ (s.modAxis a Axis.nowLagging).routedPorts .axisLagging (s.groupOf a)
    · exact .inr ⟨h, _, State.notify_entry_routed _ hq _ _, a, rfl, NoticeEntry.after_subject ..⟩
    · exact .inl ((State.notify_entry ..).trans (if_neg fun c => hq c.2))
  · rw [State.tellLagging_told h]
    exact .inl rfl

theorem State.tellLagging_tells {s : State} {a : AxisId} (h : (s.axis a).untold) {q : Port}
    (hq : q ∈ s.routedPorts .axisLagging (s.groupOf a)) : (s.tellLagging a).lagTold q (· = a) := by
  rw [State.tellLagging_untold h]
  exact ⟨_, State.notify_entry_routed (s.modAxis a Axis.nowLagging) hq _ _, a, rfl, NoticeEntry.after_subject ..⟩

section Fold

variable {G : AxisId → Prop} {q : Port}

/-- Telling axes of the set keeps an entry that names one of it. -/
theorem foldl_tellLagging_keeps (hq : ∀ (s : State), s.lagTold q G → ∀ a, ((s.axis a).untold → G a) → (s.tellLagging a).lagTold q G) :
    ∀ (l : List AxisId) (s : State), (∀ a ∈ l, (s.axis a).untold → G a) → s.lagTold q G → (l.foldl State.tellLagging s).lagTold q G
  | [], _, _, h => h
  | a :: l, s, hl, h => by
    rw [List.foldl_cons]
    refine foldl_tellLagging_keeps hq l _ (fun b hb hu => ?_) (hq s h a (hl a List.mem_cons_self))
    rw [State.tellLagging_axis] at hu
    split at hu
    · exact absurd hu (Axis.nowLagging_told _)
    · exact hl b (List.mem_cons_of_mem _ hb) hu

theorem State.lagTold_step (s : State) (h : s.lagTold q G) (a : AxisId) (ha : (s.axis a).untold → G a) :
    (s.tellLagging a).lagTold q G := by
  rcases s.tellLagging_entry a q with he | ⟨hu, n, hn, b, rfl, hs⟩
  · obtain ⟨n, hn, hb⟩ := h
    exact ⟨n, he.trans hn, hb⟩
  · exact ⟨n, hn, b, ha hu, hs⟩

/-- A port that an untold axis of the list is routed to hears of one of them. -/
theorem foldl_tellLagging_tells {a : AxisId} (l : List AxisId) (s : State) (hl : ∀ b ∈ l, (s.axis b).untold → G b) (ha : a ∈ l)
    (hu : (s.axis a).untold) (hq : q ∈ s.routedPorts .axisLagging (s.groupOf a)) : (l.foldl State.tellLagging s).lagTold q G := by
  induction l generalizing s with
  | nil => exact absurd ha List.not_mem_nil
  | cons x l ih =>
    rw [List.foldl_cons]
    have hrest : ∀ b ∈ l, ((s.tellLagging x).axis b).untold → G b := fun b hb h => by
      rw [State.tellLagging_axis] at h
      split at h
      · exact absurd h (Axis.nowLagging_told _)
      · exact hl b (List.mem_cons_of_mem _ hb) h
    by_cases hx : x = a
    · subst hx
      obtain ⟨n, hn, b, hb, hs⟩ := State.tellLagging_tells hu hq
      exact foldl_tellLagging_keeps State.lagTold_step l _ hrest ⟨n, hn, b, hb ▸ hl x List.mem_cons_self hu, hs⟩
    · have same : (s.tellLagging x).axis a = s.axis a := by rw [State.tellLagging_axis, if_neg (Ne.symm hx)]
      have hroute : (s.tellLagging x).routedPorts .axisLagging ((s.tellLagging x).groupOf a) =
          s.routedPorts .axisLagging (s.groupOf a) := by
        unfold State.groupOf
        rw [same, s.tellLagging_only x]
        rfl
      exact ih _ hrest ((List.mem_cons.mp ha).resolve_left (Ne.symm hx)) (by rw [same]; exact hu) (by rw [hroute]; exact hq)

end Fold

theorem foldl_tellLagging_untold : ∀ (l : List AxisId) (s : State), (∀ a ∈ l, ¬ (s.axis a).untold) → l.foldl State.tellLagging s = s
  | [], _, _ => rfl
  | a :: l, s, h => by
    rw [List.foldl_cons, State.tellLagging_told (h a List.mem_cons_self)]
    exact foldl_tellLagging_untold l s fun b hb => h b (List.mem_cons_of_mem _ hb)

/-! ## The expiry of the settle timer (R14) -/

theorem State.settleExpiry_idle {s : State} (h : s.clock.state ≠ .settling ∨ s.clock.settleTimer = none) : s.settleExpiry = s := by
  refine if_neg fun c => ?_
  rcases h with h | h
  · exact h c.1
  · rw [h] at c
    exact Bool.false_ne_true c.2

/-- The expiry: the axes of the roll told in some order, the clock resumed, and settling said with its timeout flag. -/
theorem State.settleExpiry_cases {s : State} (h : s.clock.state = .settling) (h' : s.clock.settleTimer ≠ none) :
    ∃ (n : Nat) (l : List AxisId), l.Perm s.clock.roll ∧
      s.settleExpiry = (((((l.foldl State.tellLagging { s with freeCount := n }).withClock s.clock.resumed).notify .clockSettled .sky
        ((allAxes.find? (· ∈ s.clock.roll)).map Fin.val) true).event .clockSettled).raise (.done (.settling s.clock.settleSerial))) := by
  obtain ⟨n, l, hl, hperm⟩ := s.freeOrder_cases Fin.val s.clock.roll
  refine ⟨n, l, hperm, ?_⟩
  have hclock : (l.foldl State.tellLagging { s with freeCount := n }).clock = s.clock := by
    rw [foldl_tellLagging_only l { s with freeCount := n }]
  unfold State.settleExpiry
  rw [if_pos ⟨h, Option.isSome_iff_ne_none.mpr h'⟩, hl]
  dsimp only
  rw [hclock]

theorem settleTimer_expires (s : State) (hrun : s.phase = .running) (h : s.clock.state = .settling) (h' : s.clock.settleTimer ≠ none) :
    ∃ t : State, exec .settleTimerExpiry s = .next t.drain ∧
      t.clock = { s.clock with settleTimer := none, roll := [], state := s.clock.resumeTo.state } ∧
      (∀ a, a ∈ s.clock.roll →
        t.axis a = { s.axis a with tracking := (s.axis a).tracking.map fun r => { r with lagging := true } }) ∧
      (∀ a, a ∉ s.clock.roll → t.axis a = s.axis a) ∧
      (∀ a ∈ s.clock.roll, (s.axis a).tracking.map Tracking.lagging = some false →
        ∀ q ∈ s.routedPorts .axisLagging (s.groupOf a), ∃ n : NoticeEntry,
          (t.port q).notices[NoticeKind.axisLagging.idx] = some n ∧
            ∃ b ∈ s.clock.roll, n.subject = some b.val ∧ (s.axis b).tracking.map Tracking.lagging = some false) ∧
      ((∀ a ∈ s.clock.roll, (s.axis a).tracking.map Tracking.lagging ≠ some false) → ∀ q,
        (t.port q).notices[NoticeKind.axisLagging.idx] = (s.port q).notices[NoticeKind.axisLagging.idx]) ∧
      (∀ q, q ∈ s.routedPorts .clockSettled .sky →
        ∃ n : NoticeEntry, (t.port q).notices[2] = some n ∧ n.timeout = true ∧
          n.subject = (allAxes.find? (· ∈ s.clock.roll)).map Fin.val) ∧
      .event .clockSettled none ∈ t.signals ∧ .done (.settling s.clock.settleSerial) ∈ t.signals := by
  obtain ⟨n, l, hperm, heq⟩ := State.settleExpiry_cases h h'
  have haxis (b : AxisId) := foldl_tellLagging_axis b l { s with freeCount := n }
  have honly := foldl_tellLagging_only l { s with freeCount := n }
  have htold {a : AxisId} {q : Port} (ha : a ∈ s.clock.roll) (hu : (s.axis a).untold)
      (hq : q ∈ s.routedPorts .axisLagging (s.groupOf a)) :
      (l.foldl State.tellLagging { s with freeCount := n }).lagTold q fun b => b ∈ s.clock.roll ∧ (s.axis b).untold :=
    foldl_tellLagging_tells (a := a) l _ (fun b hb hb' => ⟨hperm.mem_iff.mp hb, hb'⟩) (hperm.mem_iff.mpr ha) hu hq
  have hnone (hall : ∀ a ∈ s.clock.roll, ¬ (s.axis a).untold) := foldl_tellLagging_untold l { s with freeCount := n }
    fun a ha => hall a (hperm.mem_iff.mp ha)
  generalize l.foldl State.tellLagging { s with freeCount := n } = u at heq haxis honly htold hnone
  have hentry (q : Port) : s.settleExpiry.entry q .axisLagging = u.entry q .axisLagging := by
    rw [heq]
    exact State.notify_entry_of_ne (u.withClock _) (by decide) _ _ _ _
  refine ⟨s.settleExpiry, exec_event_running (f := fun s => s.settleExpiry) rfl hrun, ?_, fun a ha => ?_, fun a ha => ?_,
    fun a ha hu q hq => ?_, fun hall q => ?_, fun q hq => ?_, ?_, ?_⟩
  · rw [heq, ← Clock.resumed_eq]
    simp
  · rw [heq]
    refine (State.axis_notify (u.withClock _) .clockSettled .sky _ _ a).trans ((haxis a).trans (if_pos (hperm.mem_iff.mpr ha)))
  · rw [heq]
    refine (State.axis_notify (u.withClock _) .clockSettled .sky _ _ a).trans
      ((haxis a).trans (if_neg fun c => ha (hperm.mem_iff.mp c)))
  · obtain ⟨e, he, b, ⟨hb, hbu⟩, hsub⟩ := htold ha hu hq
    exact ⟨e, (hentry q).trans he, b, hb, hsub, hbu⟩
  · refine (hentry q).trans ?_
    rw [hnone hall]
    rfl
  · have hroute : (u.withClock s.clock.resumed).routedPorts .clockSettled .sky = s.routedPorts .clockSettled .sky := by
      rw [honly]
      rfl
    refine ⟨_, by rw [heq]; exact State.notify_entry_routed _ (hroute ▸ hq) _ true, ?_, NoticeEntry.after_subject ..⟩
    cases (u.withClock s.clock.resumed).entry q .clockSettled with
    | none => rfl
    | some e => exact Bool.or_true _
  · rw [heq]
    simp
  · rw [heq]
    simp

/-! ## The expiry of the quiet timer (R18) -/

theorem State.quietExpiry_idle {s : State} (h : s.clock.quiet = none ∨ s.clock.ceiling = none) : s.quietExpiry = s := by
  unfold State.quietExpiry
  rcases h with h | h
  · rw [h]
  · rw [h]
    cases s.clock.quiet <;> rfl

theorem State.quietExpiry_running {s : State} {n k : Nat} (h : s.clock.quiet = some n) (h' : s.clock.ceiling = some k) :
    s.quietExpiry =
      if s.clock.scheduled.natAbs ≤ 2 * k then
        (s.withClock { s.clock with ceiling := none, quiet := none }).notify .governorReleased .sky none
      else s.withClock { s.clock with ceiling := some (2 * k), quiet := some 500 } := by
  unfold State.quietExpiry
  rw [h, h']

theorem State.Quiet.withClock {s : State} (h : s.Quiet) {c : Clock} (hc : c.state = s.clock.state) : (s.withClock c).Quiet :=
  h.congr rfl rfl rfl rfl hc

/-- Settles O17: the expiry of each timer, where it runs and where it does not. -/
theorem clockTimersExpire : Obligations.ClockTimersExpire := by
  intro s hrun
  refine ⟨fun h => ?_, settleTimer_expires s hrun, fun h => ?_, fun n k h h' => ⟨fun hle => ?_, fun hlt => ?_⟩⟩
  · exact answers_event (f := fun s => s.settleExpiry) rfl hrun (State.settleExpiry_idle h) id
  · exact answers_event (f := fun s => s.quietExpiry) rfl hrun (State.quietExpiry_idle h) id
  · exact answers_event (f := fun s => s.quietExpiry) rfl hrun ((State.quietExpiry_running h h').trans (if_pos hle))
      fun c => (c.withClock (c := { s.clock with ceiling := none, quiet := none }) rfl).notify _ _ _ _
  · exact answers_event (f := fun s => s.quietExpiry) rfl hrun ((State.quietExpiry_running h h').trans (if_neg (by omega)))
      fun c => c.withClock rfl

end Sys2Proof.Machine
end

section
/-! PROOFS. The stages of an epoch update (01 R2 to R6, R25): every timer by 2 ms, the clock by its rate, the marks it passes, and the
report streams (10 R202, R203). -/

namespace Sys2Proof.Machine

/-! ## Every timer falls by 2 ms

The folds of the tick, one for each kind of item. -/

def State.tickClaims (s : State) : State :=
  allResources.foldl (fun s r => s.setClaim r { s.claim r with holder := (s.claim r).holder.map Holder.tick }) s

def State.tickRunners (s : State) : State := allPorts.foldl (fun s r => s.modRunner r Runner.tick) s

def State.tickOutputs (s : State) : State := allOutputs.foldl (fun s o => s.setOutput o s.outputs[o].tick) s

def State.tickAxes (s : State) : State := allAxes.foldl (fun s a => s.modAxis a Axis.tick) s

section Tick

variable (s : State)

theorem State.tickClaims_only : s.tickClaims = { s with claims := s.tickClaims.claims } := by
  unfold State.tickClaims
  refine foldl_keeps (P := fun t => t = { s with claims := t.claims }) (fun t _ h => ?_) _ s rfl
  rw [h]
  rfl

theorem State.tickRunners_only : s.tickRunners = { s with runners := s.tickRunners.runners } := by
  unfold State.tickRunners
  refine foldl_keeps (P := fun t => t = { s with runners := t.runners }) (fun t _ h => ?_) _ s rfl
  rw [h]
  rfl

theorem State.tickOutputs_only : s.tickOutputs = { s with outputs := s.tickOutputs.outputs } := by
  unfold State.tickOutputs
  refine foldl_keeps (P := fun t => t = { s with outputs := t.outputs }) (fun t _ h => ?_) _ s rfl
  rw [h]
  rfl

theorem State.tickAxes_only : s.tickAxes = { s with axes := s.tickAxes.axes } := by
  unfold State.tickAxes
  refine foldl_keeps (P := fun t => t = { s with axes := t.axes }) (fun t _ h => ?_) _ s rfl
  rw [h]
  rfl

theorem State.tickClaims_claim (r : Resource) :
    s.tickClaims.claim r = { s.claim r with holder := (s.claim r).holder.map Holder.tick } := by
  have hget := foldl_get State.claim
    (f := fun s r => s.setClaim r { s.claim r with holder := (s.claim r).holder.map Holder.tick })
    (g := fun _ c => { c with holder := c.holder.map Holder.tick }) (P := fun _ => True) (fun _ _ h => h)
    (fun t a b _ => by rw [State.setClaim_claim]) r allResources s (by decide) trivial
  rwa [if_pos (mem_allResources r)] at hget

theorem State.tickRunners_runner (p : Port) : s.tickRunners.runner p = (s.runner p).tick := by
  have hget := foldl_get State.runner (f := fun s r => s.modRunner r Runner.tick)
    (g := fun _ c => c.tick) (P := fun _ => True) (fun _ _ h => h)
    (fun t a b _ => by unfold State.modRunner; rw [State.setRunner_runner]) p allPorts s (by decide) trivial
  rwa [if_pos (by cases p <;> decide)] at hget

theorem State.setOutput_outputs (o p : OutputId) (x : OutputState) :
    (s.setOutput o x).outputs[p] = if p = o then x else s.outputs[p] := by
  by_cases h : p = o
  · subst h
    simp [State.setOutput]
  · have : o.val ≠ p.val := fun c => h (Fin.ext c.symm)
    simp [State.setOutput, this, h]

theorem mem_allOutputs : ∀ o : OutputId, o ∈ allOutputs := by decide

theorem State.tickOutputs_output (o : OutputId) : s.tickOutputs.outputs[o] = s.outputs[o].tick := by
  have hget := foldl_get (fun (s : State) (o : OutputId) => s.outputs[o]) (f := fun s o => s.setOutput o s.outputs[o].tick)
    (g := fun _ c => c.tick) (P := fun _ => True) (fun _ _ h => h)
    (fun t a b _ => State.setOutput_outputs t a b _) o allOutputs s (by decide) trivial
  rwa [if_pos (mem_allOutputs o)] at hget

theorem State.tickAxes_axis (a : AxisId) : s.tickAxes.axis a = (s.axis a).tick := by
  have hget := foldl_get State.axis (f := fun s a => s.modAxis a Axis.tick)
    (g := fun _ x => x.tick) (P := fun _ => True) (fun _ _ h => h)
    (fun t a b _ => State.modAxis_axis t a b _) a allAxes s (by decide) trivial
  rwa [if_pos (mem_allAxes a)] at hget

/-! Each fold leaves the items of the others. -/

@[simp] theorem State.tickRunners_claims : s.tickRunners.claims = s.claims := by rw [State.tickRunners_only]
@[simp] theorem State.tickOutputs_claims : s.tickOutputs.claims = s.claims := by rw [State.tickOutputs_only]
@[simp] theorem State.tickAxes_claims : s.tickAxes.claims = s.claims := by rw [State.tickAxes_only]
@[simp] theorem State.tickClaims_runners : s.tickClaims.runners = s.runners := by rw [State.tickClaims_only]
@[simp] theorem State.tickOutputs_runners : s.tickOutputs.runners = s.runners := by rw [State.tickOutputs_only]
@[simp] theorem State.tickAxes_runners : s.tickAxes.runners = s.runners := by rw [State.tickAxes_only]
@[simp] theorem State.tickClaims_outputs : s.tickClaims.outputs = s.outputs := by rw [State.tickClaims_only]
@[simp] theorem State.tickRunners_outputs : s.tickRunners.outputs = s.outputs := by rw [State.tickRunners_only]
@[simp] theorem State.tickAxes_outputs : s.tickAxes.outputs = s.outputs := by rw [State.tickAxes_only]
@[simp] theorem State.tickClaims_axes : s.tickClaims.axes = s.axes := by rw [State.tickClaims_only]
@[simp] theorem State.tickRunners_axes : s.tickRunners.axes = s.axes := by rw [State.tickRunners_only]
@[simp] theorem State.tickOutputs_axes : s.tickOutputs.axes = s.axes := by rw [State.tickOutputs_only]

/-- What the folds change. -/
def State.TickFrame (s t : State) : Prop :=
  t = { s with claims := t.claims, runners := t.runners, outputs := t.outputs, axes := t.axes }

variable {s} in
theorem State.TickFrame.trans {t u : State} (h : s.TickFrame t) (k : t.TickFrame u) : s.TickFrame u := by
  unfold State.TickFrame at *
  exact k.trans (by rw [h])

theorem State.tickClaims_frame : s.TickFrame s.tickClaims := by unfold State.TickFrame; rw [s.tickClaims_only]
theorem State.tickRunners_frame : s.TickFrame s.tickRunners := by unfold State.TickFrame; rw [s.tickRunners_only]
theorem State.tickOutputs_frame : s.TickFrame s.tickOutputs := by unfold State.TickFrame; rw [s.tickOutputs_only]
theorem State.tickAxes_frame : s.TickFrame s.tickAxes := by unfold State.TickFrame; rw [s.tickAxes_only]

/-- The folds of the tick, in their order. -/
def State.ticked (s : State) : State := (s.withClock s.clock.tick).tickClaims.tickRunners.tickOutputs.tickAxes

theorem State.tick_eq : s.tick = s.ticked.withPower s.ticked.power.tick := rfl

theorem State.ticked_frame : (s.withClock s.clock.tick).TickFrame s.ticked :=
  (((State.tickClaims_frame _).trans (State.tickRunners_frame _)).trans (State.tickOutputs_frame _)).trans (State.tickAxes_frame _)

/-- The timers stand in the clock, the claims, the runners, the outputs, the axes and the drive power. -/
theorem State.tick_only : s.tick = { s with
    clock := s.clock.tick, claims := s.tick.claims, runners := s.tick.runners, outputs := s.tick.outputs, axes := s.tick.axes
    power := s.power.tick } := by
  have h := s.ticked_frame
  rw [State.tick_eq]
  generalize s.ticked = t at h
  unfold State.TickFrame at h
  rw [h]
  rfl

variable {s} in
theorem State.claim_of_claims {t : State} (h : t.claims = s.claims) (r : Resource) : t.claim r = s.claim r := by
  unfold State.claim
  rw [h]

variable {s} in
theorem State.runner_of_runners {t : State} (h : t.runners = s.runners) (p : Port) : t.runner p = s.runner p := by
  unfold State.runner
  rw [h]

variable {s} in
theorem State.axis_of_axes {t : State} (h : t.axes = s.axes) (a : AxisId) : t.axis a = s.axis a := by
  unfold State.axis
  rw [h]

theorem State.tick_claim (r : Resource) :
    s.tick.claim r = { s.claim r with holder := (s.claim r).holder.map Holder.tick } := by
  have h : s.tick.claims = (s.withClock s.clock.tick).tickClaims.claims := by simp [State.tick_eq, State.ticked]
  rw [State.claim_of_claims h, State.tickClaims_claim, State.claim_of_claims (State.withClock_claims s _)]

theorem State.tick_runner (p : Port) : s.tick.runner p = (s.runner p).tick := by
  have h : s.tick.runners = (s.withClock s.clock.tick).tickClaims.tickRunners.runners := by simp [State.tick_eq, State.ticked]
  rw [State.runner_of_runners h, State.tickRunners_runner, State.runner_of_runners (State.tickClaims_runners _),
    State.runner_of_runners (State.withClock_runners s _)]

theorem State.tick_output (o : OutputId) : s.tick.outputs[o] = s.outputs[o].tick := by
  have h : s.tick.outputs = (s.withClock s.clock.tick).tickClaims.tickRunners.tickOutputs.outputs := by
    simp [State.tick_eq, State.ticked]
  simp only [h, State.tickOutputs_output, State.tickRunners_outputs, State.tickClaims_outputs, State.withClock_outputs]

theorem State.tick_axis (a : AxisId) : s.tick.axis a = (s.axis a).tick := by
  have h : s.tick.axes = s.ticked.axes := by simp [State.tick_eq]
  rw [State.axis_of_axes h]
  unfold State.ticked
  rw [State.tickAxes_axis, State.axis_of_axes (State.tickOutputs_axes _), State.axis_of_axes (State.tickRunners_axes _),
    State.axis_of_axes (State.tickClaims_axes _), State.axis_of_axes (State.withClock_axes s _)]

theorem State.tick_holderOf (r : Resource) : s.tick.holderOf r = s.holderOf r := by
  unfold State.holderOf
  rw [State.tick_claim]
  cases (s.claim r).holder <;> rfl

theorem State.tick_routedPorts (k : NoticeKind) (r : Resource) : s.tick.routedPorts k r = s.routedPorts k r := by
  unfold State.routedPorts
  rw [State.tick_holderOf, State.tick_only]

/-- A runner waits for the epoch through the tick as before it. -/
theorem State.tick_epochWaiters : s.tick.epochWaiters = s.epochWaiters := by
  have hcues (r : Port) : s.tick.cuesOf r = s.cuesOf r := by
    unfold State.cuesOf
    rw [State.tick_runner, State.tick_only]
    rfl
  have hon (r : Port) : s.tick.waitingOn r = s.waitingOn r := by
    unfold State.waitingOn
    rw [hcues, State.tick_runner]
    simp only [Runner.tick, Option.map_eq_none_iff]
  unfold State.epochWaiters State.waitsFor
  simp only [hon]

end Tick

/-! ## The clock's own stages (R2, R4, R6) -/

theorem Clock.atLimit_iff (c : Clock) : c.atLimit = true ↔
    (c.epoch = 2 ^ 50 - 1 ∧ 0 < c.scheduled) ∨ (c.epoch = -(2 ^ 50) ∧ c.scheduled < 0) := decide_eq_true_iff

section Advance

variable {c : Clock} {e : Int} (he : e = c.epoch + (c.ra + c.residue).fdiv 125)
include he

theorem Clock.advance_within (h : ¬ c.atLimit = true) (h1 : -(2 ^ 50) ≤ e) (h2 : e < 2 ^ 50) :
    c.advance = ({ c with epoch := e, residue := (c.ra + c.residue).emod 125 }, false) := by
  have hmax : ¬ Config.epochMax < e := Int.not_lt.mpr (Int.le_sub_one_of_lt h2)
  have hmin : ¬ e < Config.epochMin := Int.not_lt.mpr h1
  subst he
  unfold Clock.advance
  dsimp only
  rw [if_neg h, if_neg hmax, if_neg hmin]

/-- An advance that would pass a limit ends at a limit, with residue 0 (R4). -/
theorem Clock.advance_past (h : c.atLimit = true ∨ e < -(2 ^ 50) ∨ 2 ^ 50 ≤ e) :
    ∃ x, c.advance = ({ c with epoch := x, residue := 0 }, true) ∧ (c.atLimit = true → x = c.epoch) ∧
      (¬ c.atLimit = true → 2 ^ 50 ≤ e → x = 2 ^ 50 - 1) ∧ (¬ c.atLimit = true → e < -(2 ^ 50) → x = -(2 ^ 50)) := by
  have hmax : Config.epochMax = 2 ^ 50 - 1 := rfl
  have hmin : Config.epochMin = -(2 ^ 50) := rfl
  unfold Clock.advance
  dsimp only
  rw [← he]
  by_cases hl : c.atLimit = true
  · exact ⟨c.epoch, if_pos hl, fun _ => rfl, fun h => absurd hl h, fun h => absurd hl h⟩
  · rw [if_neg hl]
    by_cases h2 : 2 ^ 50 ≤ e
    · exact ⟨_, if_pos (by omega), fun h => absurd h hl, fun _ _ => hmax, fun _ _ => by omega⟩
    · have h1 : e < -(2 ^ 50) := (h.resolve_left hl).resolve_right h2
      exact ⟨_, (if_neg (by omega)).trans (if_pos (by omega)), fun h => absurd h hl, fun _ _ => by omega, fun _ _ => hmin⟩

end Advance

/-- The third stage changes the ramp and the scheduled rate (R6). -/
theorem Clock.progress_only (c : Clock) : c.progress = { c with ramp := c.progress.ramp, scheduled := c.progress.scheduled } := by
  unfold Clock.progress
  split
  · rfl
  · dsimp only
    split <;> rfl

theorem Clock.progress_none {c : Clock} (h : c.ramp = none) : c.progress = c := by
  unfold Clock.progress
  rw [h]

theorem Clock.progress_last {c : Clock} {r : Ramp} (h : c.ramp = some r) (hr : r.remaining ≤ 2) :
    c.progress = { c with scheduled := r.goal, ramp := none } := by
  unfold Clock.progress
  rw [h]
  exact if_pos (by simp only; omega)

theorem Clock.progress_ramp {c : Clock} {r : Ramp} (h : c.ramp = some r) (hr : 2 < r.remaining) :
    c.progress = { c with
      ramp := some { r with remaining := r.remaining - 2 }
      scheduled := r.start + ((r.goal - r.start) * ((r.duration : Int) - (r.remaining - 2 : Nat))).tdiv r.duration } := by
  unfold Clock.progress
  rw [h]
  exact if_neg (by simp only; omega)

/-! ## Report streams (R202, R203) -/

/-- A port after its report stream's update, where a snapshot due would be of the bytes given. -/
def PortState.reported (q : PortState) (bytes : List Byte) : PortState :=
  if q.reportRate = 0 then q
  else if q.updates + 1 < q.reportRate then { q with updates := q.updates + 1 }
  else if q.tx.isSome ∨ q.reply.isSome ∨ q.short.isSome then { q with updates := 0, skipped := sat255 q.skipped }
  else { { q with updates := 0 }.numbered with tx := some (Frame.bytes { tag := 0, code := 240, payload := bytes }) }

theorem State.setPort_get (s : State) (p q : Port) (x : PortState) : (s.setPort p x).port q = if q = p then x else s.port q := by
  by_cases h : q = p
  · subst h
    simp
  · rw [if_neg h, State.setPort_port_of_ne _ _ h]

theorem State.reportAt_eq (s : State) (p : Port) :
    s.reportAt p = s.setPort p ((s.port p).reported (s.snapshotBytes (s.port p).snapNumber)) := by
  have self : s.setPort p (s.port p) = s := by
    cases p <;> rfl
  unfold State.reportAt PortState.reported
  dsimp only
  split
  · exact self.symm
  · split
    · rfl
    · split <;> rfl

def State.reports (s : State) : State := allPorts.foldl State.reportAt s

theorem State.reports_only (s : State) : s.reports = { s with ports := s.reports.ports } := by
  unfold State.reports
  refine foldl_keeps (P := fun t => t = { s with ports := t.ports }) (fun t p h => ?_) _ s rfl
  rw [State.reportAt_eq, h]
  rfl

theorem State.reports_port (s : State) (q : Port) :
    s.reports.port q = (s.port q).reported (s.snapshotBytes (s.port q).snapNumber) := by
  have hget := foldl_get State.port (f := State.reportAt) (g := fun _ x => x.reported (s.snapshotBytes x.snapNumber))
    (P := fun t => ∀ n, t.snapshotBytes n = s.snapshotBytes n) (fun t p h n => by rw [State.reportAt_eq]; exact h n)
    (fun t a b h => by
      rw [State.reportAt_eq, h]
      exact State.setPort_get t a b _) q allPorts s (by decide) fun _ => rfl
  rwa [if_pos (by cases q <;> decide)] at hget

theorem PortState.reported_notices (q : PortState) (bytes : List Byte) : (q.reported bytes).notices = q.notices := by
  unfold PortState.reported
  split
  · rfl
  · split
    · rfl
    · split <;> rfl

theorem State.reports_entry (s : State) (q : Port) (k : NoticeKind) : s.reports.entry q k = s.entry q k := by
  unfold State.entry
  rw [State.reports_port, PortState.reported_notices]

/-- The report stream of a port, case by case (R202, R203). -/
theorem PortState.reported_cases (x : PortState) (v : Vector (Option NoticeEntry) 25) (bytes : List Byte) (y : PortState)
    (hy : y = ({ x with notices := v } : PortState).reported bytes) :
    (x.reportRate = 0 → y = { x with notices := y.notices }) ∧
      (x.updates + 1 < x.reportRate → y = { x with notices := y.notices, updates := x.updates + 1 }) ∧
      (x.reportRate ≠ 0 → x.reportRate ≤ x.updates + 1 →
        (x.tx ≠ none ∨ x.reply ≠ none ∨ x.short ≠ none →
          y = { x with notices := y.notices, updates := 0, skipped := sat255 x.skipped }) ∧
        (x.tx = none → x.reply = none → x.short = none →
          y = { x with
            notices := y.notices, updates := 0, snapNumber := (x.snapNumber + 1) % 65536
            tx := some (Frame.bytes { tag := 0, code := 240, payload := bytes }) })) := by
  have hbusy : (x.tx ≠ none ∨ x.reply ≠ none ∨ x.short ≠ none) ↔ (x.tx.isSome ∨ x.reply.isSome ∨ x.short.isSome) := by
    simp only [Option.isSome_iff_ne_none]
  subst hy
  unfold PortState.reported
  dsimp only
  refine ⟨fun h => ?_, fun h => ?_, fun h0 h => ⟨fun hb => ?_, fun h1 h2 h3 => ?_⟩⟩
  · simp only [if_pos h]
  · simp only [if_neg (show x.reportRate ≠ 0 by omega), if_pos h]
  · simp only [if_neg h0, if_neg (Nat.not_lt.mpr h), if_pos (hbusy.mp hb)]
  · have hfree : ¬ (x.tx.isSome ∨ x.reply.isSome ∨ x.short.isSome) := fun c => by
      simp [h1, h2, h3] at c
    simp only [if_neg h0, if_neg (Nat.not_lt.mpr h), if_neg hfree]
    rfl

end Sys2Proof.Machine
end

section
/-! PROOFS. The epoch update (01 R2 to R6, R25: O20): EPOCH ADVANCED at the marks and the axes, and the update of a clock that runs. -/

namespace Sys2Proof.Machine

/-! ## Marks (R25) -/

theorem Mark.cross_none {m : Mark} {e0 e1 n0 n1 : Int} (h0 : n0 = (e0 - m.phase).fdiv m.period) (h1 : n1 = (e1 - m.phase).fdiv m.period)
    (h : m.enabled = false ∨ n0 = n1 ∨ (n0 < n1 ∧ m.direction = .backward) ∨ (n1 < n0 ∧ m.direction = .forward)) :
    m.cross e0 e1 = none := by
  unfold Mark.cross
  dsimp only
  rw [← h0, ← h1]
  rcases h with h | h | ⟨h, hd⟩ | ⟨h, hd⟩
  · simp [h]
  · subst h
    simp
  · simp [hd, show ¬ n1 < n0 by omega]
  · simp [hd, show ¬ n0 < n1 by omega]

theorem Mark.cross_forward {m : Mark} {e0 e1 n0 n1 : Int} (h0 : n0 = (e0 - m.phase).fdiv m.period)
    (h1 : n1 = (e1 - m.phase).fdiv m.period) (he : m.enabled = true) (h : n0 < n1) (hd : m.direction ≠ .backward) :
    m.cross e0 e1 = some { m with
      crossings := min 255 (m.crossings + (n1 - n0).toNat), last := some (m.phase + n1 * m.period) } := by
  unfold Mark.cross
  dsimp only
  rw [← h0, ← h1]
  simp [he, h, hd]

theorem Mark.cross_backward {m : Mark} {e0 e1 n0 n1 : Int} (h0 : n0 = (e0 - m.phase).fdiv m.period)
    (h1 : n1 = (e1 - m.phase).fdiv m.period) (he : m.enabled = true) (h : n1 < n0) (hd : m.direction ≠ .forward) :
    m.cross e0 e1 = some { m with
      crossings := min 255 (m.crossings + (n0 - n1).toNat), last := some (m.phase + (n1 + 1) * m.period) } := by
  unfold Mark.cross
  dsimp only
  rw [← h0, ← h1]
  simp [he, h, hd, show ¬ n0 < n1 by omega]

theorem Mark.cross_self (m : Mark) (e : Int) : m.cross e e = none := Mark.cross_none rfl rfl (.inr (.inl rfl))

/-! ## EPOCH ADVANCED at the marks -/

section Marks

variable {s : State} {e0 e1 : Int} {m : MarkId}

theorem State.hearMark_none (h : s.clock.marks[m].cross e0 e1 = none) : s.hearMark e0 e1 m = s := by
  unfold State.hearMark
  rw [h]

theorem State.hearMark_some {r : Mark} (h : s.clock.marks[m].cross e0 e1 = some r) : s.hearMark e0 e1 m =
    ((s.withClock { s.clock with marks := s.clock.marks.set m r }).notify .mark .sky (some m.val)).event (.mark m) := by
  unfold State.hearMark
  rw [h]

theorem State.hearMark_mark (s : State) (e0 e1 : Int) (m x : MarkId) : (s.hearMark e0 e1 m).clock.marks[x] =
    if x = m then (s.clock.marks[m].cross e0 e1).getD s.clock.marks[m] else s.clock.marks[x] := by
  cases h : s.clock.marks[m].cross e0 e1 with
  | none =>
    rw [State.hearMark_none h]
    split
    · rename_i hx
      rw [hx]
      rfl
    · rfl
  | some r =>
    rw [State.hearMark_some h]
    by_cases hx : x = m
    · subst hx
      simp
    · have : m.val ≠ x.val := fun c => hx (Fin.ext c.symm)
      simp [hx, this]

/-- What a mark that fires changes: its own record, pending entries, signals. -/
def State.onlyMarks (s t : State) : Prop :=
  t = { s with clock := { s.clock with marks := t.clock.marks }, ports := t.ports, signals := t.signals }

theorem State.hearMark_only (s : State) (e0 e1 : Int) (m : MarkId) : s.onlyMarks (s.hearMark e0 e1 m) := by
  unfold State.onlyMarks
  cases h : s.clock.marks[m].cross e0 e1 with
  | none => rw [State.hearMark_none h]
  | some r =>
    rw [State.hearMark_some h, notify_ports]
    rfl

theorem foldl_hearMark_only (e0 e1 : Int) (l : List MarkId) (s : State) :
    s.onlyMarks (l.foldl (fun s m => s.hearMark e0 e1 m) s) := by
  refine foldl_keeps (P := s.onlyMarks) (fun t a ht => ?_) l s rfl
  have h := t.hearMark_only e0 e1 a
  unfold State.onlyMarks at *
  exact h.trans (by rw [ht])

theorem foldl_hearMark_mark (e0 e1 : Int) {l : List MarkId} (hl : l.Nodup) (s : State) (m : MarkId) :
    (l.foldl (fun s m => s.hearMark e0 e1 m) s).clock.marks[m] =
      if m ∈ l then (s.clock.marks[m].cross e0 e1).getD s.clock.marks[m] else s.clock.marks[m] :=
  foldl_get (fun (s : State) (m : MarkId) => s.clock.marks[m]) (f := fun s m => s.hearMark e0 e1 m)
    (g := fun _ x => (x.cross e0 e1).getD x) (P := fun _ => True) (fun _ _ h => h)
    (fun t a b _ => t.hearMark_mark e0 e1 a b) m l s hl trivial

/-- Marks that all cross raise their events in the order told, and the last one told names the notice. -/
theorem foldl_hearMark_tells (s : State) (l : List MarkId) (hl : l.Nodup)
    (hc : ∀ m ∈ l, (s.clock.marks[m].cross e0 e1).isSome = true) :
    (l.foldl (fun s m => s.hearMark e0 e1 m) s).signals = s.signals ++ l.map (fun m => .event (.mark m) none) ∧
      ∀ q ∈ s.routedPorts .mark .sky, l ≠ [] → ∃ n : NoticeEntry,
        (l.foldl (fun s m => s.hearMark e0 e1 m) s).entry q .mark = some n ∧ ∃ x ∈ l, n.subject = some x.val := by
  induction l using List.reverseRecOn with
  | nil => exact ⟨(List.append_nil _).symm, fun _ _ h => absurd rfl h⟩
  | append_singleton l x ih =>
    obtain ⟨hl', _, hx⟩ := List.nodup_append.mp hl
    obtain ⟨hsig, _⟩ := ih hl' fun m hm => hc m (List.mem_append_left _ hm)
    have hmark := foldl_hearMark_mark e0 e1 hl' s x
    have honly := foldl_hearMark_only e0 e1 l s
    rw [if_neg fun h => hx x h x (List.mem_singleton.mpr rfl) rfl] at hmark
    rw [List.foldl_concat]
    generalize l.foldl (fun s m => s.hearMark e0 e1 m) s = t at hsig hmark honly
    obtain ⟨r, hr⟩ := Option.isSome_iff_exists.mp (hc x (List.mem_append_right _ (List.mem_singleton.mpr rfl)))
    rw [State.hearMark_some (by rw [hmark]; exact hr)]
    refine ⟨by simp [hsig], fun q hq _ => ⟨_, State.notify_entry_routed _ ?_ _ _, x, by simp, NoticeEntry.after_subject ..⟩⟩
    rw [honly]
    exact hq

end Marks

/-! ## EPOCH ADVANCED, as it is heard (R3, R25) -/

/-- A state heard that the epoch went from `e0` to `e1`: the marks it passed, the tracking axes, and the runners. -/
structure State.HeardAdvance (s t : State) (e0 e1 : Int) : Prop where
  only : t = { s with
    clock := { s.clock with marks := t.clock.marks }, axes := t.axes, ports := t.ports, signals := t.signals, evals := t.evals
    freeCount := t.freeCount }
  axis : ∀ a, t.axis a = s.axis a
  signals : ∃ l : List MarkId, l.Perm (allMarks.filter fun m => (s.clock.marks[m].cross e0 e1).isSome) ∧
    t.signals = s.signals ++ l.map (fun m => .event (.mark m) none) ++ if e1 = e0 then [] else [.epoch e1 s.epochWaiters]
  stands : ∀ m : MarkId, s.clock.marks[m].cross e0 e1 = none → t.clock.marks[m] = s.clock.marks[m]
  fires : ∀ (m : MarkId) r, s.clock.marks[m].cross e0 e1 = some r → t.clock.marks[m] = r ∧
    ∀ q ∈ s.routedPorts .mark .sky, ∃ n : NoticeEntry, t.entry q .mark = some n ∧
      ∃ x : MarkId, n.subject = some x.val ∧ (s.clock.marks[x].cross e0 e1).isSome = true
  still : e1 = e0 → t.evals = s.evals
  asks : e1 ≠ e0 → ∀ a c, (s.axis a).state = .tracking → (s.axis a).record.binding = some c →
    ({ who := .axis a .track, channel := c, epoch := some e1 } : EvalRequest) ∈ t.evals
  keeps : ∀ f ∈ s.evals, (∀ a, (s.axis a).state = .tracking → f.isAxis a = false) → f ∈ t.evals

/-- An epoch that stands is not told, and nothing hears of it. -/
theorem State.heardAdvance_self (s : State) (e : Int) : s.HeardAdvance s e e where
  only := rfl
  axis := fun _ => rfl
  signals := ⟨[], by simp [Mark.cross_self], by simp⟩
  stands := fun _ _ => rfl
  fires := fun m r h => by
    rw [Mark.cross_self] at h
    exact absurd h (by simp)
  still := fun _ => rfl
  asks := fun h => absurd rfl h
  keeps := fun _ h _ => h

theorem Axis.asking_again (x : Axis) (b : Bool) : x.asking b false = x := by
  unfold Axis.asking
  simp

/-- The announcement in its two parts: the marks, then the axes and the runners. -/
theorem State.announceAdvanced_cases (s : State) (e0 e1 : Int) : ∃ (n k : Nat) (l : List MarkId) (o : List AxisId) (u : State),
    l.Perm (allMarks.filter fun m => (s.clock.marks[m].cross e0 e1).isSome) ∧ o.Perm u.trackingAxes ∧
      u = l.foldl (fun (s : State) m => s.hearMark e0 e1 m) { s with freeCount := n } ∧
      s.announceAdvanced e0 e1 = (o.foldl (fun (s : State) a => s.requestAngle a e1 .track false) { u with freeCount := k }).raiseEpoch e1 := by
  obtain ⟨n, l, hl, hperm⟩ := s.freeOrder_cases Fin.val (allMarks.filter fun m => (s.clock.marks[m].cross e0 e1).isSome)
  obtain ⟨k, o, ho, hperm'⟩ := (l.foldl (fun (s : State) m => s.hearMark e0 e1 m) { s with freeCount := n }).freeOrder_cases Fin.val
    (l.foldl (fun (s : State) m => s.hearMark e0 e1 m) { s with freeCount := n }).trackingAxes
  refine ⟨n, k, l, o, _, hperm, hperm', rfl, ?_⟩
  unfold State.announceAdvanced
  rw [hl]
  dsimp only
  rw [ho]

theorem State.heardAdvance_announced (s : State) {e0 e1 : Int} (h : e1 ≠ e0) : s.HeardAdvance (s.announceAdvanced e0 e1) e0 e1 := by
  obtain ⟨n, k, l, o, u, hl, ho, hu, heq⟩ := s.announceAdvanced_cases e0 e1
  have hmem (m : MarkId) : m ∈ l ↔ (s.clock.marks[m].cross e0 e1).isSome = true := by
    rw [hl.mem_iff]
    simp [mem_allMarks]
  have hnodup : l.Nodup := hl.nodup_iff.mpr (List.Nodup.filter _ (by decide))
  have honly := foldl_hearMark_only e0 e1 l { s with freeCount := n }
  have hmark := foldl_hearMark_mark e0 e1 hnodup { s with freeCount := n }
  obtain ⟨hsig, hnote⟩ := foldl_hearMark_tells { s with freeCount := n } l hnodup fun m hm => (hmem m).mp hm
  rw [← hu] at honly hmark hsig hnote
  have haxes : u.axes = s.axes := by rw [honly]
  have hevals : u.evals = s.evals := by rw [honly]
  have honodup : o.Nodup := ho.nodup_iff.mpr (trackingAxes_nodup u)
  have homem (a : AxisId) : a ∈ o ↔ (s.axis a).state = .tracking := by
    rw [ho.mem_iff, mem_trackingAxes, State.axis_of_axes haxes]
  have htold := (tellsAxis_requestAngle e1).only o { u with freeCount := k }
  have htaxis := (tellsAxis_requestAngle e1).axis honodup { u with freeCount := k }
  have htevals := (tellsAxis_requestAngle e1).evals o { u with freeCount := k }
  generalize o.foldl (fun (s : State) a => s.requestAngle a e1 .track false) { u with freeCount := k } = t at heq htold htaxis htevals
  rw [heq]
  have hwait : t.epochWaiters = s.epochWaiters := by
    rw [htold, honly]
    rfl
  have hclock : t.clock = u.clock := by rw [htold]
  have hports (q : Port) : t.entry q .mark = u.entry q .mark := by
    rw [htold]
    rfl
  refine ⟨?_, fun a => ?_, ⟨l, hl, ?_⟩, fun m hm => ?_, fun m r hm => ⟨?_, fun q hq => ?_⟩, fun c => absurd c h, fun _ a c ha hc => ?_,
    fun f hf hall => ?_⟩
  · rw [htold, honly]
    rfl
  · refine (htaxis a).trans ?_
    rw [Axis.asking_again, ite_self]
    exact State.axis_of_axes haxes a
  · unfold State.raiseEpoch
    rw [State.raise_signals, if_neg h, hwait, show t.signals = u.signals by rw [htold], hsig]
  · show t.clock.marks[m] = _
    rw [hclock, hmark m, if_neg]
    rw [hmem, hm]
    exact Bool.false_ne_true
  · show t.clock.marks[m] = _
    have hml : m ∈ l := (hmem m).mpr (by rw [hm]; rfl)
    rw [hclock, hmark m, if_pos hml]
    show (s.clock.marks[m].cross e0 e1).getD _ = r
    rw [hm]
    rfl
  · have hml : m ∈ l := (hmem m).mpr (by rw [hm]; rfl)
    obtain ⟨e, he, x, hx, hs⟩ := hnote q hq (List.ne_nil_of_mem hml)
    exact ⟨e, (hports q).trans he, x, hs, (hmem x).mp hx⟩
  · show _ ∈ t.evals
    rw [htevals]
    refine (mem_foldl_evalsWith honodup).1 a ((homem a).mpr ha) c ?_
    show (u.axis a).record.binding = some c
    rw [State.axis_of_axes haxes]
    exact hc
  · show _ ∈ t.evals
    rw [htevals]
    refine (mem_foldl_evalsWith honodup).2 f ?_ fun a ha => hall a ((homem a).mp ha)
    show f ∈ u.evals
    rw [hevals]
    exact hf

end Sys2Proof.Machine
end

section
/-! PROOFS. The epoch update as a whole (01 R1 to R6, R25, 10 R202, R203: O20). -/

namespace Sys2Proof.Machine

/-! ## A clock that runs -/

theorem State.HeardAdvance.of_told {s : State} {e0 e1 : Int} :
    s.HeardAdvance (if e1 = e0 then s else s.announceAdvanced e0 e1) e0 e1 := by
  split
  · rename_i h
    rw [h]
    exact s.heardAdvance_self e0
  · rename_i h
    exact s.heardAdvance_announced h

theorem State.advanceClock_within {s : State} {c : Clock} (h : s.clock.advance = (c, false)) :
    (s.withClock c.progress).HeardAdvance s.advanceClock s.clock.epoch c.epoch := by
  have heq : s.advanceClock = if c.epoch = s.clock.epoch then s.withClock c.progress
      else (s.withClock c.progress).announceAdvanced s.clock.epoch c.epoch := by
    unfold State.advanceClock
    rw [h]
    rfl
  rw [heq]
  exact .of_told

/-- A clock halted by RANGE, with its notice and its event (R4, R162). -/
def State.rangeHalted (s : State) : State :=
  ((s.haltClock .range).notify .clockRange .sky none).raise
    (.event .clockRange (some ((s.haltClock .range).notify .clockRange .sky none).skySnap))

theorem State.advanceClock_past {s : State} {c : Clock} (h : s.clock.advance = (c, true)) :
    ∃ u : State, (s.withClock c).HeardAdvance u s.clock.epoch c.epoch ∧ s.advanceClock = u.rangeHalted := by
  refine ⟨_, .of_told, ?_⟩
  unfold State.advanceClock
  rw [h]
  rfl

theorem State.haltClock_range (s : State) : s.haltClock .range =
    s.withClock { s.clock with state := .halted, reason := .range, settleTimer := none, roll := [] } := by
  unfold State.haltClock
  dsimp only
  rw [if_neg fun c => absurd c.2 (by decide)]
  rfl

section RangeHalted

variable (s : State)

theorem State.rangeHalted_clock :
    s.rangeHalted.clock = { s.clock with state := .halted, reason := .range, settleTimer := none, roll := [] } := by
  unfold State.rangeHalted
  rw [State.haltClock_range]
  simp

theorem State.rangeHalted_only : s.rangeHalted =
    { s with clock := s.rangeHalted.clock, ports := s.rangeHalted.ports, signals := s.rangeHalted.signals } := by
  unfold State.rangeHalted
  rw [State.haltClock_range, notify_ports]
  rfl

theorem State.rangeHalted_entry {k : NoticeKind} (hk : k ≠ .clockRange) (q : Port) : s.rangeHalted.entry q k = s.entry q k := by
  unfold State.rangeHalted
  rw [State.haltClock_range]
  exact State.notify_entry_of_ne _ hk _ _ _ _

variable {s} in
theorem State.rangeHalted_tells {q : Port} (hq : q ∈ s.routedPorts .clockRange .sky) :
    ∃ n : NoticeEntry, s.rangeHalted.entry q .clockRange = some n ∧ n.subject = none := by
  unfold State.rangeHalted
  rw [State.haltClock_range]
  refine ⟨_, State.notify_entry_routed _ ?_ none false, NoticeEntry.after_subject ..⟩
  exact hq

theorem State.rangeHalted_signals :
    s.rangeHalted.signals = s.signals ++ [.event .clockRange (some s.rangeHalted.skySnap)] := by
  have hsnap : s.rangeHalted.skySnap = ((s.haltClock .range).notify .clockRange .sky none).skySnap := rfl
  rw [hsnap]
  unfold State.rangeHalted
  rw [State.raise_signals, State.notify_signals, State.haltClock_range]
  rfl

end RangeHalted

/-! ## The update -/

/-- An epoch update before its reports. -/
def State.advanced (s : State) : State := if s.clock.state = .running then s.tick.advanceClock else s.tick

theorem State.epochUpdate_eq (s : State) : s.epochUpdate = s.advanced.reports := by
  have hclock : s.tick.clock.state = s.clock.state := by rw [s.tick_only]; rfl
  unfold State.epochUpdate State.advanced
  dsimp only
  rw [hclock]
  rfl

/-- What an update leaves of its state beside the timers: the sky, pending entries, signals and requests change. -/
def State.SkyFrame (s t : State) : Prop :=
  t = { s with clock := t.clock, axes := t.axes, ports := t.ports, signals := t.signals, evals := t.evals, freeCount := t.freeCount }

theorem State.SkyFrame.refl (s : State) : s.SkyFrame s := rfl

theorem State.SkyFrame.trans {s t u : State} (h : s.SkyFrame t) (k : t.SkyFrame u) : s.SkyFrame u := by
  unfold State.SkyFrame at *
  exact k.trans (by rw [h])

theorem State.HeardAdvance.frame {s t : State} {c : Clock} {e0 e1 : Int} (h : (s.withClock c).HeardAdvance t e0 e1) : s.SkyFrame t := by
  unfold State.SkyFrame
  rw [h.only]
  rfl

theorem State.rangeHalted_frame (s : State) : s.SkyFrame s.rangeHalted := by
  unfold State.SkyFrame
  rw [State.rangeHalted_only]

theorem State.reports_frame (s : State) : s.SkyFrame s.reports := by
  unfold State.SkyFrame
  rw [State.reports_only s]

/-- The three ways of an update. -/
theorem State.advanced_cases (s : State) :
    (s.clock.state ≠ .running ∧ s.advanced = s.tick) ∨
      (∃ c, s.tick.clock.advance = (c, false) ∧ (s.tick.withClock c.progress).HeardAdvance s.advanced s.tick.clock.epoch c.epoch) ∨
      ∃ c u, s.tick.clock.advance = (c, true) ∧ (s.tick.withClock c).HeardAdvance u s.tick.clock.epoch c.epoch ∧
        s.advanced = u.rangeHalted := by
  unfold State.advanced
  by_cases h : s.clock.state = .running
  · rw [if_pos h]
    rcases hadv : s.tick.clock.advance with ⟨c, limit⟩
    cases limit with
    | false => exact .inr (.inl ⟨c, rfl, State.advanceClock_within hadv⟩)
    | true =>
      obtain ⟨u, hu, heq⟩ := State.advanceClock_past hadv
      exact .inr (.inr ⟨c, u, rfl, hu, heq⟩)
  · rw [if_neg h]
    exact .inl ⟨h, rfl⟩

theorem State.advanced_frame (s : State) : s.tick.SkyFrame s.advanced := by
  rcases s.advanced_cases with ⟨_, h⟩ | ⟨c, _, h⟩ | ⟨c, u, _, h, heq⟩
  · rw [h]
    exact .refl _
  · exact h.frame
  · rw [heq]
    exact h.frame.trans u.rangeHalted_frame

theorem State.advanced_axis (s : State) (a : AxisId) : s.advanced.axis a = s.tick.axis a := by
  rcases s.advanced_cases with ⟨_, h⟩ | ⟨c, _, h⟩ | ⟨c, u, _, h, heq⟩
  · rw [h]
  · exact (h.axis a).trans (State.axis_of_axes (State.withClock_axes ..) a)
  · rw [heq, State.axis_of_axes (t := u.rangeHalted) (s := u) (by rw [State.rangeHalted_only])]
    exact (h.axis a).trans (State.axis_of_axes (State.withClock_axes ..) a)

theorem State.advanced_port (s : State) (q : Port) :
    s.advanced.port q = { s.port q with notices := (s.advanced.port q).notices } := by
  have htick : s.tick.port q = s.port q := by
    rw [s.tick_only]
    rfl
  rw [← htick]
  unfold State.advanced
  split
  · exact ((keptWork_framed s.tick).advanceClock (.refl _)).port q
  · rfl

theorem OutputState.tick_match (x : OutputState) : x.tick = match x with | .pulsing n => .pulsing (n - 2) | x => x := by
  cases x <;> rfl

theorem DrivePower.tick_match (d : DrivePower) :
    d.tick = { d with state := match d.state with | .returning n => .returning (n - 2) | x => x } := by
  obtain ⟨_, _, state, _, _, _, _, _⟩ := d
  cases state <;> rfl

/-- What an update does beside the sky: the timers of the other units, and the report streams. -/
theorem epochUpdate_others (s : State) :
    (∀ a, s.epochUpdate.axis a = { s.axis a with
      fault := { (s.axis a).fault with autoClear := (s.axis a).fault.autoClear.map (· - 2) } }) ∧
    (∀ r, s.epochUpdate.claim r = { s.claim r with holder := (s.claim r).holder.map fun h =>
      { h with lease := h.lease.map fun l => { l with remaining := l.remaining - 2 } } }) ∧
    (∀ r, s.epochUpdate.runner r = { s.runner r with
      delay := (s.runner r).delay.map (· - 2), loopPause := (s.runner r).loopPause.map (· - 2) }) ∧
    (∀ o : OutputId, s.epochUpdate.outputs[o] = match s.outputs[o] with | .pulsing n => .pulsing (n - 2) | x => x) ∧
    s.epochUpdate.power = { s.power with state := match s.power.state with | .returning n => .returning (n - 2) | x => x } ∧
    s.epochUpdate.channels = s.channels ∧ s.epochUpdate.programs = s.programs ∧ s.epochUpdate.links = s.links ∧
    s.epochUpdate.timebase = s.timebase ∧ s.epochUpdate.motions = s.motions ∧ s.epochUpdate.trigs = s.trigs ∧
    s.epochUpdate.captures = s.captures ∧
    ∀ (p : Port) (x y : PortState), x = s.port p → y = s.epochUpdate.port p →
      (x.reportRate = 0 → y = { x with notices := y.notices }) ∧
      (x.updates + 1 < x.reportRate → y = { x with notices := y.notices, updates := x.updates + 1 }) ∧
      (x.reportRate ≠ 0 → x.reportRate ≤ x.updates + 1 →
        (x.tx ≠ none ∨ x.reply ≠ none ∨ x.short ≠ none →
          y = { x with notices := y.notices, updates := 0, skipped := sat255 x.skipped }) ∧
        (x.tx = none → x.reply = none → x.short = none →
          y = { x with
            notices := y.notices, updates := 0, snapNumber := (x.snapNumber + 1) % 65536
            tx := some (Frame.bytes { tag := 0, code := 240, payload := s.epochUpdate.snapshotBytes x.snapNumber }) })) := by
  have hframe : s.tick.SkyFrame s.epochUpdate := by
    rw [State.epochUpdate_eq]
    exact s.advanced_frame.trans s.advanced.reports_frame
  have haxis (a : AxisId) : s.epochUpdate.axis a = (s.axis a).tick := by
    rw [State.epochUpdate_eq, State.axis_of_axes (s := s.advanced) (by rw [State.reports_only]), State.advanced_axis, State.tick_axis]
  have hport (p : Port) : s.epochUpdate.port p = ({ s.port p with notices := (s.advanced.port p).notices } : PortState).reported
      (s.epochUpdate.snapshotBytes (s.port p).snapNumber) := by
    have hbytes (n : Nat) : s.advanced.reports.snapshotBytes n = s.advanced.snapshotBytes n := by
      rw [State.reports_only]
      rfl
    rw [State.epochUpdate_eq, State.reports_port, hbytes, ← State.advanced_port]
    rw [s.advanced_port p]
  have htick := s.tick_only
  generalize s.epochUpdate = t at hframe haxis hport
  refine ⟨haxis, fun r => ?_, fun r => ?_, fun o => ?_, ?_, ?_, ?_, ?_, ?_, ?_, ?_, ?_, fun p x y hx hy => ?_⟩
  · rw [State.claim_of_claims (s := s.tick) (by rw [hframe]), State.tick_claim]
    rfl
  · rw [State.runner_of_runners (s := s.tick) (by rw [hframe]), State.tick_runner]
    rfl
  · rw [show t.outputs = s.tick.outputs by rw [hframe], State.tick_output, OutputState.tick_match]
  · rw [show t.power = s.tick.power by rw [hframe], show s.tick.power = s.power.tick by rw [htick], DrivePower.tick_match]
  iterate 7 rw [hframe, htick]
  subst hx
  exact PortState.reported_cases _ _ _ _ (hy.trans (hport p))

/-! ## What the update tells of the epoch -/

/-- The marks, the signals and the requests of an update from the epoch `e0`, as O20 states them of the states before and after. -/
structure State.TellsEpoch (s t : State) (e0 : Int) : Prop where
  marks : ∀ m : MarkId,
    (s.clock.marks[m].cross e0 t.clock.epoch = none → t.clock.marks[m] = s.clock.marks[m]) ∧
    ∀ r, s.clock.marks[m].cross e0 t.clock.epoch = some r →
      t.clock.marks[m] = r ∧ .event (.mark m) none ∈ t.signals ∧
      ∀ q ∈ s.routedPorts .mark .sky, ∃ n : NoticeEntry, t.entry q .mark = some n ∧
        ∃ x : MarkId, n.subject = some x.val ∧ (s.clock.marks[x].cross e0 t.clock.epoch).isSome = true
  still : t.clock.epoch = e0 → t.evals = s.evals
  asks : t.clock.epoch ≠ e0 →
    (∀ a c, (s.axis a).state = .tracking → (s.axis a).record.binding = some c →
      ∃ f ∈ t.evals, f.who = .axis a .track ∧ f.channel = c ∧ f.epoch = some t.clock.epoch) ∧
    ∀ f ∈ s.evals, (∀ a, (s.axis a).state = .tracking → f.isAxis a = false) → f ∈ t.evals

theorem State.HeardAdvance.tells {s u t : State} {e0 e1 : Int} (h : s.HeardAdvance u e0 e1) (hm : t.clock.marks = u.clock.marks)
    (he : t.clock.epoch = e1) (hs : ∀ x ∈ u.signals, x ∈ t.signals) (hn : ∀ q, t.entry q .mark = u.entry q .mark)
    (hv : t.evals = u.evals) : s.TellsEpoch t e0 := by
  subst he
  obtain ⟨l, hl, hsig⟩ := h.signals
  refine ⟨fun m => ⟨fun hc => ?_, fun r hc => ⟨?_, hs _ ?_, fun q hq => ?_⟩⟩, fun h1 => hv.trans (h.still h1),
    fun h1 => ⟨fun a c ha hc => ⟨⟨.axis a .track, c, some _⟩, ?_, rfl, rfl, rfl⟩, fun f hf hall => ?_⟩⟩
  · rw [hm]
    exact h.stands m hc
  · rw [hm]
    exact (h.fires m r hc).1
  · have hml : m ∈ l := hl.mem_iff.mpr (List.mem_filter.mpr ⟨mem_allMarks m, by rw [hc]; rfl⟩)
    rw [hsig]
    exact List.mem_append_left _ (List.mem_append_right _ (List.mem_map.mpr ⟨m, hml, rfl⟩))
  · rw [hn]
    exact (h.fires m r hc).2 q hq
  · rw [hv]
    exact h.asks h1 a c ha hc
  · rw [hv]
    exact h.keeps f hf hall

section WithClock

variable (s : State) (c : Clock)

theorem State.withClock_routedPorts (k : NoticeKind) (r : Resource) : (s.withClock c).routedPorts k r = s.routedPorts k r := rfl

theorem State.withClock_epochWaiters : (s.withClock c).epochWaiters = s.epochWaiters := rfl

end WithClock

/-- The states before and after the tick hear of an epoch alike. -/
theorem State.TellsEpoch.of_tick {s t : State} {c : Clock} {e0 : Int} (h : (s.tick.withClock c).TellsEpoch t e0)
    (hc : c.marks = s.clock.marks) : s.TellsEpoch t e0 := by
  obtain ⟨hmarks, hstill, hasks⟩ := h
  have hm : (s.tick.withClock c).clock.marks = s.clock.marks := hc
  have hr : (s.tick.withClock c).routedPorts .mark .sky = s.routedPorts .mark .sky :=
    (State.withClock_routedPorts ..).trans (s.tick_routedPorts _ _)
  have hv : (s.tick.withClock c).evals = s.evals := by
    rw [State.withClock_evals, s.tick_only]
  have ha (a : AxisId) : (s.tick.withClock c).axis a = (s.axis a).tick :=
    (State.axis_of_axes (State.withClock_axes ..) a).trans (s.tick_axis a)
  rw [hm, hr] at hmarks
  rw [hv] at hstill hasks
  simp only [ha] at hasks
  exact ⟨hmarks, hstill, hasks⟩

theorem State.tick_clock (s : State) : s.tick.clock = s.clock.tick := by rw [s.tick_only]

/-- The signals an update from a running clock raises for the epoch, before any halt. -/
theorem State.HeardAdvance.tick_signals {s u : State} {c : Clock} {e0 e1 : Int} (h : (s.tick.withClock c).HeardAdvance u e0 e1)
    (hc : c.marks = s.clock.marks) :
    ∃ l : List MarkId, l.Perm (allMarks.filter fun m => (s.clock.marks[m].cross e0 e1).isSome) ∧
      u.signals = s.signals ++ l.map (fun m => .event (.mark m) none) ++ if e1 = e0 then [] else [.epoch e1 s.epochWaiters] := by
  obtain ⟨l, hl, hsig⟩ := h.signals
  have hm : (s.tick.withClock c).clock.marks = s.clock.marks := hc
  have hs : (s.tick.withClock c).signals = s.signals := by rw [State.withClock_signals, s.tick_only]
  have hw : (s.tick.withClock c).epochWaiters = s.epochWaiters :=
    (State.withClock_epochWaiters ..).trans s.tick_epochWaiters
  rw [hm] at hl
  rw [hs, hw] at hsig
  exact ⟨l, hl, hsig⟩

section Running

variable {s : State} {c : Clock}

/-- An advance within the limits: the clock, the marks and what is told. -/
theorem epochUpdate_within (hrun : s.clock.state = .running) (h : s.tick.clock.advance = (c, false)) (hc : c.marks = s.clock.marks) :
    s.epochUpdate.clock = { c.progress with marks := s.epochUpdate.clock.marks } ∧ s.TellsEpoch s.epochUpdate s.clock.epoch ∧
      ∃ l : List MarkId, l.Perm (allMarks.filter fun m => (s.clock.marks[m].cross s.clock.epoch c.epoch).isSome) ∧
        s.epochUpdate.signals = s.signals ++ l.map (fun m => .event (.mark m) none) ++
          if c.epoch = s.clock.epoch then [] else [.epoch c.epoch s.epochWaiters] := by
  have hadv : (s.tick.withClock c.progress).HeardAdvance s.advanced s.tick.clock.epoch c.epoch := by
    unfold State.advanced
    rw [if_pos hrun]
    exact State.advanceClock_within h
  rw [State.tick_clock, show s.clock.tick.epoch = s.clock.epoch from rfl] at hadv
  have hmarks : c.progress.marks = s.clock.marks := by rw [Clock.progress_only, hc]
  have honly := hadv.only
  have hsig := hadv.tick_signals hmarks
  have hreports := s.advanced.reports_only
  have hentry (q : Port) := s.advanced.reports_entry q .mark
  rw [State.epochUpdate_eq]
  generalize s.advanced = u at *
  generalize u.reports = t at *
  have hclock : t.clock = u.clock := by rw [hreports]
  have huclock : u.clock = { c.progress with marks := u.clock.marks } := by
    conv_lhs => rw [honly]
    rfl
  refine ⟨by rw [hclock]; exact huclock, State.TellsEpoch.of_tick (hadv.tells ?_ ?_ ?_ hentry ?_) hmarks, ?_⟩
  · rw [hclock]
  · rw [hclock, huclock]
    exact c.progress_epoch
  · rw [hreports]
    exact fun _ h => h
  · rw [hreports]
  · rw [hreports]
    exact hsig

/-- An advance past a limit: the clock halts by RANGE after what it told. -/
theorem epochUpdate_past (hrun : s.clock.state = .running) (h : s.tick.clock.advance = (c, true)) (hc : c.marks = s.clock.marks) :
    s.epochUpdate.clock = { c with
        marks := s.epochUpdate.clock.marks, state := .halted, reason := .range, settleTimer := none, roll := [] } ∧
      (∀ q ∈ s.routedPorts .clockRange .sky,
        ∃ n : NoticeEntry, s.epochUpdate.entry q .clockRange = some n ∧ n.subject = none) ∧
      s.TellsEpoch s.epochUpdate s.clock.epoch ∧
      ∃ l : List MarkId, l.Perm (allMarks.filter fun m => (s.clock.marks[m].cross s.clock.epoch c.epoch).isSome) ∧
        s.epochUpdate.signals = s.signals ++ l.map (fun m => .event (.mark m) none) ++
          (if c.epoch = s.clock.epoch then [] else [.epoch c.epoch s.epochWaiters]) ++
          [.event .clockRange (some s.epochUpdate.skySnap)] := by
  obtain ⟨u, hadv, heq⟩ := State.advanceClock_past h
  have hpre : s.advanced = u.rangeHalted := by
    unfold State.advanced
    rw [if_pos hrun, heq]
  rw [State.tick_clock, show s.clock.tick.epoch = s.clock.epoch from rfl] at hadv
  have huclock : u.clock = { c with marks := u.clock.marks } := by
    conv_lhs => rw [hadv.only]
    rfl
  have hroute : u.routedPorts .clockRange .sky = s.routedPorts .clockRange .sky := by
    rw [← s.tick_routedPorts, ← State.withClock_routedPorts s.tick c]
    generalize s.tick.withClock c = v at hadv
    rw [hadv.only]
    rfl
  obtain ⟨l, hl, hsig⟩ := hadv.tick_signals hc
  have hhalt := u.rangeHalted_clock
  have honly := u.rangeHalted_only
  have hsignals := u.rangeHalted_signals
  have hkept (q : Port) := u.rangeHalted_entry (k := .mark) (by decide) q
  have htold {q : Port} (hq : q ∈ u.routedPorts .clockRange .sky) := State.rangeHalted_tells hq
  have hreports := s.advanced.reports_only
  have hentry (q : Port) (k : NoticeKind) := s.advanced.reports_entry q k
  rw [State.epochUpdate_eq]
  rw [hpre] at hreports hentry ⊢
  generalize u.rangeHalted = v at *
  have hsnap : v.reports.skySnap = v.skySnap := by
    rw [hreports]
    rfl
  generalize v.reports = t at *
  have hclock : t.clock = v.clock := by rw [hreports]
  have hts : t.signals = v.signals := by rw [hreports]
  refine ⟨?_, fun q hq => ?_, State.TellsEpoch.of_tick (hadv.tells ?_ ?_ ?_ ?_ ?_) hc, l, hl, ?_⟩
  · rw [hclock, hhalt, huclock]
  · rw [hentry]
    exact htold (hroute ▸ hq)
  · rw [hclock, hhalt]
  · rw [hclock, hhalt, huclock]
  · rw [hts, hsignals]
    exact fun x hx => List.mem_append_left _ hx
  · exact fun q => (hentry q .mark).trans (hkept q)
  · rw [hreports, honly]
  · rw [hts, hsignals, hsig, hsnap]

end Running

/-- Settles O20: the marks by `Mark.cross`, the clock at rest by the tick, within its limits by `epochUpdate_within`, past one by
`epochUpdate_past`, and the other units by `epochUpdate_others`. -/
theorem epochUpdateAdvancesTheSky : Obligations.EpochUpdateAdvancesTheSky := by
  refine ⟨fun m e0 e1 n0 n1 h0 h1 => ⟨Mark.cross_none h0 h1, Mark.cross_forward h0 h1, Mark.cross_backward h0 h1⟩, fun s hrun =>
    ⟨s.epochUpdate, exec_event_running (f := fun s => s.epochUpdate) rfl hrun, fun hstill => ?_, ?_, epochUpdate_others s⟩⟩
  · have hup : s.epochUpdate = s.tick.reports := by
      rw [State.epochUpdate_eq]
      unfold State.advanced
      rw [if_neg hstill]
    rw [hup, State.reports_only, s.tick_only]
    exact ⟨rfl, rfl, rfl⟩
  · rintro hclock k e stop past rfl he hstop hpast
    have hlimit : stop ↔ s.clock.tick.atLimit = true := hstop.trans (Clock.atLimit_iff s.clock.tick).symm
    by_cases hp : past
    · obtain ⟨x, hadv, hx, hmax, hmin⟩ := Clock.advance_past (c := s.clock.tick) he (by rw [← hlimit]; exact hpast.mp hp)
      obtain ⟨hc, hnote, htold, l, hl, hsig⟩ := epochUpdate_past hclock ((congrArg Clock.advance s.tick_clock).trans hadv) rfl
      generalize s.epochUpdate = t at *
      have hepoch : t.clock.epoch = x := by rw [hc]
      rw [← hlimit] at hx hmax hmin
      subst hepoch
      refine ⟨absurd hp, fun _ => ⟨hc.trans rfl, hx, hmax, hmin, hnote⟩, ⟨l, hl, absurd hp, fun _ => hsig⟩, htold.marks, htold.still,
        htold.asks⟩
    · have hin : ¬ (stop ∨ e < -(2 ^ 50) ∨ 2 ^ 50 ≤ e) := fun c => hp (hpast.mpr c)
      obtain ⟨hs, h1, h2⟩ : ¬ stop ∧ -(2 ^ 50) ≤ e ∧ e < 2 ^ 50 :=
        ⟨fun c => hin (.inl c), Int.not_lt.mp fun c => hin (.inr (.inl c)), Int.not_le.mp fun c => hin (.inr (.inr c))⟩
      obtain ⟨c, hadv, hcd⟩ : ∃ c, s.clock.tick.advance = (c, false) ∧
          c = { s.clock.tick with epoch := e, residue := (s.clock.ra + s.clock.residue).emod 125 } :=
        ⟨_, Clock.advance_within (c := s.clock.tick) he (by rw [← hlimit]; exact hs) h1 h2, rfl⟩
      have hramp : c.ramp = s.clock.ramp := by rw [hcd]; rfl
      have hepoch : c.epoch = e := by rw [hcd]
      obtain ⟨hc, htold, l, hl, hsig⟩ := epochUpdate_within hclock ((congrArg Clock.advance s.tick_clock).trans hadv) (by rw [hcd]; rfl)
      rw [hepoch] at hl hsig
      generalize s.epochUpdate = t at *
      have hepoch : t.clock.epoch = e := by rw [hc]; exact (Clock.progress_epoch c).trans hepoch
      rw [hepoch]
      refine ⟨fun _ => ⟨?_, fun hr => ?_, fun r hr => ⟨fun hle => ?_, fun hlt => ?_⟩⟩, fun c => absurd c hp,
        ⟨l, hl, fun _ => hsig, fun c => absurd c hp⟩, ?_, ?_, ?_⟩
      · rw [hc, Clock.progress_only, hcd]
        rfl
      · rw [hc, Clock.progress_none (hramp.trans hr), hcd]
        exact ⟨hr, rfl⟩
      · rw [hc, Clock.progress_last (hramp.trans hr) hle]
        exact ⟨rfl, rfl⟩
      · rw [hc, Clock.progress_ramp (hramp.trans hr) hlt]
        exact ⟨rfl, rfl⟩
      · rw [← hepoch]
        exact htold.marks
      · rw [← hepoch]
        exact htold.still
      · rw [← hepoch]
        exact htold.asks

end Sys2Proof.Machine
end

section
/-! PROOFS. Resets and the start (11, with R61 to R63, R190, R209 to R213: O57). -/

namespace Sys2Proof.Machine

/-! ## The safety part that a line reset keeps (R62, R63) -/

theorem exec_powerOnReset (s : State) : exec .powerOnReset s = .next s.powerOnReset := rfl

theorem exec_lineReset (s : State) : exec .lineReset s = .next s.lineReset := rfl

theorem exec_start (x : Straps) (y : FirstSamples) (s : State) : exec (.start x y) s = .next (s.start x y) := rfl

/-- The pulse width Table 3-5 gives: the longest of 2 to 5 µs whose pulses and pauses fit the velocity. -/
theorem pulseWidth_fits {v q : Nat} (hv : 0 < v) (hq : q = max 2 (min 5 (500000 / v))) :
    2 ≤ q ∧ q ≤ 5 ∧ (2 < q → v * 2 * q ≤ 1000000) ∧ ∀ w, q < w → w ≤ 5 → 1000000 < v * 2 * w := by
  have hle : v * (500000 / v) ≤ 500000 := Nat.mul_div_le 500000 v
  have hlt : 500000 < v * (500000 / v + 1) := Nat.lt_mul_div_succ 500000 hv
  generalize 500000 / v = d at *
  refine ⟨by omega, by omega, fun h => ?_, fun w hw h5 => ?_⟩
  · have hmul : v * q ≤ v * d := Nat.mul_le_mul_left v (by omega)
    calc v * 2 * q = 2 * (v * q) := by ring
      _ ≤ 1000000 := by omega
  · have hmul : v * (d + 1) ≤ v * w := Nat.mul_le_mul_left v (by omega)
    calc 1000000 < 2 * (v * w) := by omega
      _ = v * 2 * w := by ring

theorem AxisRecord.keptSafety_eq (r : AxisRecord) : r.keptSafety = { AxisRecord.default with
    kind := r.kind, stepsPerTurn := r.stepsPerTurn, soft := r.soft, velocity := r.velocity
    acceleration := r.acceleration, haltDecel := r.haltDecel
    homeSpeed := if 1000 ≤ r.velocity then 1000 else r.velocity
    homeOffset := r.keptSafety.homeOffset, pulseWidth := r.keptSafety.pulseWidth
    wrap := if r.kind = .limited then none else some .shortest
    zeroOffset := 0 } := by
  unfold AxisRecord.keptSafety
  rw [Nat.min_def]
  cases r.kind <;> rfl

theorem AxisRecord.keptSafety_homeOffset_continuous {r : AxisRecord} (h : r.kind = .continuous) : r.keptSafety.homeOffset = 0 := by
  unfold AxisRecord.keptSafety
  rw [h]

theorem AxisRecord.keptSafety_homeOffset_limited {r : AxisRecord} {l u : Int} (h : r.kind = .limited) (hs : r.soft = some (l, u)) :
    r.keptSafety.homeOffset = if 0 < l then l else if u < 0 then u else 0 := by
  unfold AxisRecord.keptSafety nearZero
  rw [h, hs]

/-- Table 3-5 for the record of a locked axis. -/
theorem AxisRecord.keptSafety_table (r q : AxisRecord) (hq : q = r.keptSafety) :
    q = { AxisRecord.default with
      kind := r.kind, stepsPerTurn := r.stepsPerTurn, soft := r.soft, velocity := r.velocity
      acceleration := r.acceleration, haltDecel := r.haltDecel
      homeSpeed := if 1000 ≤ r.velocity then 1000 else r.velocity
      homeOffset := q.homeOffset, pulseWidth := q.pulseWidth
      wrap := if r.kind = .limited then none else some .shortest
      zeroOffset := 0 } ∧
    (r.kind = .continuous → q.homeOffset = 0) ∧
    (∀ l h, r.kind = .limited → r.soft = some (l, h) →
      (l ≤ 0 → 0 ≤ h → q.homeOffset = 0) ∧ (0 < l → q.homeOffset = l) ∧ (l ≤ 0 → h < 0 → q.homeOffset = h)) ∧
    (0 < r.velocity →
      2 ≤ q.pulseWidth ∧ q.pulseWidth ≤ 5 ∧ (2 < q.pulseWidth → r.velocity * 2 * q.pulseWidth ≤ 1000000) ∧
        ∀ w, q.pulseWidth < w → w ≤ 5 → 1000000 < r.velocity * 2 * w) := by
  subst hq
  refine ⟨r.keptSafety_eq, AxisRecord.keptSafety_homeOffset_continuous, fun l u hk hs => ?_, fun hv => pulseWidth_fits hv rfl⟩
  rw [AxisRecord.keptSafety_homeOffset_limited hk hs]
  exact ⟨fun hl hu => by rw [if_neg (by omega), if_neg (by omega)], fun hl => if_pos hl,
    fun hl hu => by rw [if_neg (by omega), if_pos hu]⟩

/-! ## Axes after a reset (R61, R62) -/

/-- What a reset leaves of an axis beside its record, its lock and the levels of its inputs. -/
def Axis.Cleared (x : Axis) : Prop :=
  x.known = false ∧ x.position = ⟨0, 0⟩ ∧ x.pulse = none ∧ x.speedSq = 0 ∧ x.dirHigh = true ∧ x.direction = none ∧ x.pause = none ∧
    x.target = none ∧ x.stopping = none ∧ x.tracking = none ∧ x.stage = none ∧ x.lastStage = .none ∧ x.stagedAt = none ∧
    x.discard = false ∧ x.limitMemory = none ∧ x.resumeMark = false ∧ x.homing = none ∧
    x.fault = { first := none, further := [], reversals := none, autoClear := none }

theorem Axis.cleared_powerReset (x : Axis) : x.powerReset.Cleared := by
  unfold Axis.Cleared
  exact ⟨rfl, rfl, rfl, rfl, rfl, rfl, rfl, rfl, rfl, rfl, rfl, rfl, rfl, rfl, rfl, rfl, rfl, rfl⟩

theorem Axis.lineReset_of_locked {x : Axis} (h : x.locked = true) : x.lineReset =
    { x.powerReset with
      record := x.record.keptSafety, locked := true, lockOrigin := some .keptAtLineReset, state := .disabled } := if_pos h

theorem Axis.lineReset_of_unlocked {x : Axis} (h : x.locked = false) : x.lineReset = x.powerReset :=
  if_neg (by rw [h]; exact Bool.false_ne_true)

theorem Axis.cleared_lineReset (x : Axis) : x.lineReset.Cleared := by
  cases h : x.locked with
  | true =>
    rw [Axis.lineReset_of_locked h]
    exact x.cleared_powerReset
  | false =>
    rw [Axis.lineReset_of_unlocked h]
    exact x.cleared_powerReset

/-! ## The part held in reset (R211) -/

section HoldReset

variable (s : State) {ph : Phase} (hph : ph ≠ .running) (f : Axis → Axis)

theorem State.holdReset_link (l : LinkId) : (s.holdReset ph f).link l = Link.reset := by
  fin_cases l <;> rfl

theorem State.holdReset_motion (g : GroupId) : (s.holdReset ph f).motions[g] = none := by
  fin_cases g <;> rfl

theorem State.holdReset_output (o : OutputId) : (s.holdReset ph f).outputs[o] = .inactive := by
  fin_cases o <;> rfl

theorem State.holdReset_routing (k : NoticeKind) : (s.holdReset ph f).routing[k.idx] = .all := by
  cases k <;> rfl

theorem State.holdReset_port (p : Port) : (s.holdReset ph f).port p = (s.port p).silent := by
  cases p <;> rfl

theorem PortState.silent_notice (q : PortState) (k : NoticeKind) : q.silent.notices[k.idx] = none := by
  cases k <;> rfl

include hph in
/-- A part that does not run holds its lines inactive. -/
theorem State.holdReset_lines : (∀ p, (s.holdReset ph f).attn p = false) ∧ ∀ a, (s.holdReset ph f).ena a = false := by
  have hphase : ((s.holdReset ph f).phase == .running) = false := beq_eq_false_iff_ne.mpr hph
  unfold State.attn State.ena
  rw [hphase]
  exact ⟨fun _ => rfl, fun _ => rfl⟩

end HoldReset

/-- A part held in reset: every block at its values after reset. -/
theorem holdReset_tables {s t : State} {ph : Phase} {f : Axis → Axis} (hph : ph ≠ .running) (hf : ∀ x, (f x).Cleared)
    (ht : t = s.holdReset ph f) :
    t.phase ≠ .running ∧ t.pending = s.pending ∧ t.straps = s.straps ∧ t.startRecord = s.startRecord ∧
      t.clock = { Clock.reset with settleSerial := s.clock.settleSerial } ∧
      (∀ c, t.channel c = { kind := .cyclic, enabled := true, segments := [], cursor := none }) ∧
      t.stampCounter = 0 ∧ t.evals = [] ∧ t.inFlight = none ∧ (∀ g : GroupId, t.motions[g] = none) ∧
      (∀ r, t.claim r = { holder := none, waiting := [] }) ∧ (∀ i, t.program i = Program.reset) ∧
      (∀ r, t.runner r = Runner.reset) ∧ (∀ l, t.link l = Link.reset) ∧ (∀ o : OutputId, t.outputs[o] = .inactive) ∧
      t.captures = { records := [], next := 0, overruns := 0 } ∧ (∀ k : NoticeKind, t.routing[k.idx] = .all) ∧
      t.timebase = { sync := s.straps.tbsel, state := if s.straps.tbsel then .holdover else .internal, nominal := 40, trimNum := 1
                     trimDen := 1, good := 0, bad := 0, window := [], reference := none } ∧
      t.power = { ok := ⟨s.power.ok.accepted, 0⟩, halt := ⟨s.power.halt.accepted, 0⟩
                  state := if s.power.ok.accepted then .present else .absent, policy := .hold, sequence := none, outcome := .none
                  keptResume := [], keptRunning := false } ∧
      (∀ k : TrigId, t.trigs[k] = { length := 4, accepted := s.trigs[k].accepted, run := 0, snap := none }) ∧
      (∀ p, (t.port p).standing = (s.port p).standing ∧ (t.port p).reportRate = 0 ∧ (t.port p).updates = 0 ∧
        (t.port p).snapNumber = 0 ∧ (t.port p).discarded = 0 ∧ (t.port p).busyCount = 0 ∧ (t.port p).shortDiscards = 0 ∧
        (t.port p).skipped = 0 ∧ ∀ k : NoticeKind, (t.port p).notices[k.idx] = none) ∧
      (∀ p, (t.port p).receiver = .hunt ∧ (t.port p).request = .ready ∧ (t.port p).reply = none ∧
        (t.port p).short = none ∧ (t.port p).tx = none ∧ (t.port p).mask = 0 ∧ t.attn p = false) ∧
      ∀ a, (t.axis a).known = false ∧ (t.axis a).position = ⟨0, 0⟩ ∧ (t.axis a).pulse = none ∧
        (t.axis a).speedSq = 0 ∧ (t.axis a).dirHigh = true ∧ t.ena a = false ∧ (t.axis a).direction = none ∧
        (t.axis a).pause = none ∧ (t.axis a).target = none ∧ (t.axis a).stopping = none ∧ (t.axis a).tracking = none ∧
        (t.axis a).stage = none ∧ (t.axis a).lastStage = .none ∧ (t.axis a).stagedAt = none ∧ (t.axis a).discard = false ∧
        (t.axis a).limitMemory = none ∧ (t.axis a).resumeMark = false ∧ (t.axis a).homing = none ∧
        (t.axis a).fault = { first := none, further := [], reversals := none, autoClear := none } := by
  subst ht
  obtain ⟨hattn, hena⟩ := s.holdReset_lines hph f
  refine ⟨hph, rfl, rfl, rfl, rfl, s.holdReset_channel ph f, rfl, rfl, rfl, s.holdReset_motion f, s.holdReset_claim ph f,
    s.holdReset_program ph f, s.holdReset_runner ph f, s.holdReset_link f, s.holdReset_output f, rfl, s.holdReset_routing f, rfl, rfl,
    s.holdReset_trig ph f, fun p => ?_, fun p => ?_, fun a => ?_⟩
  · rw [State.holdReset_port]
    exact ⟨rfl, rfl, rfl, rfl, rfl, rfl, rfl, rfl, fun k => PortState.silent_notice _ k⟩
  · rw [State.holdReset_port]
    exact ⟨rfl, rfl, rfl, rfl, rfl, rfl, hattn p⟩
  · obtain ⟨h1, h2, h3, h4, h5, hrest⟩ := hf (s.axis a)
    rw [State.holdReset_axis]
    exact ⟨h1, h2, h3, h4, h5, hena a, hrest⟩

theorem State.lineReset_phase (s : State) : (if s.phase = .heldPower then Phase.heldPower else .heldLine) ≠ .running := by
  split <;> decide

/-! ## The start (R210 to R213) -/

theorem State.start_idle {s : State} (h : s.phase = .running ∨ s.resetLine.accepted = true) (x : Straps) (y : FirstSamples) :
    s.start x y = s := by
  refine if_pos (Bool.or_eq_true_iff.mpr (h.imp (fun h => ?_) id))
  unfold State.running
  rw [h]
  rfl

section Start

variable (s : State) (y : FirstSamples)

/-- The axes and the trigger inputs with their first samples. -/
def State.startAxes : Vector Axis 16 :=
  allAxes.foldl (fun (v : Vector Axis 16) (a : AxisId) =>
    v.set a (v[a].sampled (y.home.getLsbD a.val) (y.limP.getLsbD a.val) (y.limN.getLsbD a.val) (y.flt.getLsbD a.val))) s.axes

def State.startTrigs : Vector TrigInput 4 :=
  allTrigs.foldl (fun (v : Vector TrigInput 4) (t : TrigId) => v.set t (TrigInput.reset (y.trig.getLsbD t.val))) s.trigs

theorem State.startAxes_get (a : AxisId) : (s.startAxes y)[a] =
    (s.axis a).sampled (y.home.getLsbD a.val) (y.limP.getLsbD a.val) (y.limN.getLsbD a.val) (y.flt.getLsbD a.val) :=
  (foldl_set_getElem (fun (a : AxisId) (x : Axis) =>
    x.sampled (y.home.getLsbD a.val) (y.limP.getLsbD a.val) (y.limN.getLsbD a.val) (y.flt.getLsbD a.val)) a allAxes s.axes
      (by decide)).trans (if_pos (mem_allAxes a))

theorem State.startTrigs_get (t : TrigId) : (s.startTrigs y)[t] = TrigInput.reset (y.trig.getLsbD t.val) :=
  (foldl_set_getElem (fun (t : TrigId) _ => TrigInput.reset (y.trig.getLsbD t.val)) t allTrigs s.trigs (by decide)).trans
    (if_pos (mem_allTrigs t))

variable {s} in
theorem State.start_eq (h : s.phase ≠ .running) (hr : s.resetLine.accepted = false) (x : Straps) : s.start x y =
    { s with
      phase := .running, straps := x, startRecord := s.formStart x y, timebase := Timebase.reset x.tbsel
      axes := s.startAxes y, trigs := s.startTrigs y, power := DrivePower.reset y.drivePowerOk y.halt
      ports := ⟨PortState.reset x.stdA.val, PortState.reset x.stdB.val, PortState.reset x.stdC.val⟩ } := by
  refine if_neg ?_
  unfold State.running
  rw [hr, beq_eq_false_iff_ne.mpr h]
  exact Bool.false_ne_true

end Start

/-- The axes of a part that starts. -/
theorem State.start_axis {s : State} (h : s.phase ≠ .running) (hr : s.resetLine.accepted = false) (x : Straps) (y : FirstSamples)
    (a : AxisId) : (s.start x y).axis a =
      (s.axis a).sampled (y.home.getLsbD a.val) (y.limP.getLsbD a.val) (y.limN.getLsbD a.val) (y.flt.getLsbD a.val) := by
  rw [State.start_eq y h hr x]
  exact s.startAxes_get y a

/-- A port after a start has its START entry, so ATTN stands. -/
theorem PortState.reset_unmasked (n : Nat) : (allKinds.any fun k => (PortState.reset n).unmasked k) = true :=
  List.any_eq_true.mpr ⟨.start, by decide, by simp [PortState.unmasked, PortState.reset, NoticeKind.idx]⟩

/-- Settles O57: each reset by `holdReset_tables` and its rule for an axis, the start by `State.start_eq`. -/
theorem resetsAndStartSetTheirTables : Obligations.ResetsAndStartSetTheirTables := by
  intro s t straps lines
  refine ⟨fun h => ?_, ⟨s.powerOnReset, rfl, rfl, rfl, fun a => ?_⟩, ⟨s.lineReset, rfl, rfl, rfl, fun a => ⟨fun hl => ?_, fun hl => ?_⟩⟩,
    rfl, fun h => ?_, fun h hr => ?_⟩
  · rcases h with h | h
    · cases h
      exact holdReset_tables (s := { s with resetLine := ⟨false, 0⟩ }) (by decide) Axis.cleared_powerReset rfl
    · cases h
      exact holdReset_tables s.lineReset_phase Axis.cleared_lineReset rfl
  · unfold State.powerOnReset
    rw [State.holdReset_axis]
    exact ⟨rfl, rfl, rfl⟩
  · unfold State.lineReset
    rw [State.holdReset_axis, Axis.lineReset_of_unlocked hl]
    exact ⟨rfl, rfl, rfl⟩
  · unfold State.lineReset
    rw [State.holdReset_axis, Axis.lineReset_of_locked hl]
    exact ⟨rfl, rfl, rfl, fun r q hr hq => AxisRecord.keptSafety_table r q (hr ▸ hq)⟩
  · rw [exec_start, State.start_idle h]
  · have haxis := State.start_axis h hr straps lines
    have heq := State.start_eq lines h hr straps
    refine ⟨s.start straps lines, rfl, ?_⟩
    generalize s.start straps lines = u at haxis heq
    subst heq
    refine ⟨rfl, rfl, rfl, rfl, rfl, rfl, rfl, rfl, rfl, fun p => ?_, beq_eq_decide _ _, rfl, rfl, rfl, ?_, fun hp => if_pos hp,
      fun hp => if_neg (by rw [hp]; decide), rfl, rfl, fun a => ?_, s.startTrigs_get lines⟩
    · cases p <;> exact PortState.reset_unmasked _
    · exact (congrArg not (beq_eq_decide _ _)).trans (by simp)
    · rw [haxis]
      exact ⟨rfl, rfl, rfl, rfl, rfl, rfl⟩

end Sys2Proof.Machine
end

section
/-! PROOFS. What ends an axis's work leaves (04 R74, R76, R86, R151): stages, parts in group motions, slews. Each operation changes
axes, group records and signals alone; beside its own axis it ends stages and nothing else. -/

namespace Sys2Proof.Machine

/-! ## The frame of an operation on axes and group records -/

/-- From `s` to `t` only axes, group records, requests and serials changed, and signals were added. -/
structure State.Works (s t : State) : Prop where
  only : t = { s with axes := t.axes, motions := t.motions, signals := t.signals, serial := t.serial, evals := t.evals }
  raised : ∀ x ∈ s.signals, x ∈ t.signals

section Works

variable {s t u : State}

theorem State.Works.refl (s : State) : s.Works s := ⟨rfl, fun _ h => h⟩

theorem State.Works.trans (h : s.Works t) (k : t.Works u) : s.Works u :=
  ⟨k.only.trans (by rw [h.only]), fun x hx => k.raised x (h.raised x hx)⟩

theorem State.Works.clock (h : s.Works t) : t.clock = s.clock := by rw [h.only]
theorem State.Works.power (h : s.Works t) : t.power = s.power := by rw [h.only]
theorem State.Works.ports (h : s.Works t) : t.ports = s.ports := by rw [h.only]
theorem State.Works.inFlight (h : s.Works t) : t.inFlight = s.inFlight := by rw [h.only]
theorem State.Works.runners (h : s.Works t) : t.runners = s.runners := by rw [h.only]

theorem State.Works.port (h : s.Works t) (q : Port) : t.port q = s.port q := by
  unfold State.port
  rw [h.ports]

theorem State.Works.entry (h : s.Works t) (q : Port) (k : NoticeKind) : t.entry q k = s.entry q k := by
  unfold State.entry
  rw [h.port]

theorem State.Works.routedPorts (h : s.Works t) (k : NoticeKind) (r : Resource) : t.routedPorts k r = s.routedPorts k r := by
  rw [h.only]
  rfl

theorem State.works_setAxis (s : State) (a : AxisId) (x : Axis) : s.Works (s.setAxis a x) := ⟨rfl, fun _ h => h⟩

theorem State.works_modAxis (s : State) (a : AxisId) (f : Axis → Axis) : s.Works (s.modAxis a f) := ⟨rfl, fun _ h => h⟩

theorem State.works_setMotion (s : State) (g : GroupId) (m : Option GroupMotion) : s.Works (s.setMotion g m) := ⟨rfl, fun _ h => h⟩

theorem State.works_raise (s : State) (x : Signal) : s.Works (s.raise x) := ⟨rfl, fun y h => by simp [h]⟩

theorem State.works_event (s : State) (e : Source) : s.Works (s.event e) := s.works_raise _

theorem State.works_serial (s : State) (n : Nat) : s.Works { s with serial := n } := ⟨rfl, fun _ h => h⟩

theorem State.works_requestAngle (s : State) (a : AxisId) (e : Int) (u : Purpose) (b : Bool) : s.Works (s.requestAngle a e u b) := by
  rw [State.requestAngle_eq]
  exact ⟨rfl, fun _ h => h⟩

end Works

/-! ## Stages end (R74, R86) -/

/-- The stage pending of an axis ended, or nothing did. -/
def Axis.StageEnds (x y : Axis) : Prop := y = x ∨ (x.stage ≠ none ∧ ∃ o, y = { x with stage := none, lastStage := o })

section StageEnds

variable {x y z : Axis}

theorem Axis.StageEnds.refl (x : Axis) : x.StageEnds x := .inl rfl

theorem Axis.StageEnds.trans (h : x.StageEnds y) (k : y.StageEnds z) : x.StageEnds z := by
  rcases h with rfl | ⟨hx, o, rfl⟩
  · exact k
  · rcases k with rfl | ⟨hy, _⟩
    · exact .inr ⟨hx, o, rfl⟩
    · exact absurd rfl hy

theorem Axis.StageEnds.sameButStage (h : x.StageEnds y) : x.sameButStage y := by
  rcases h with rfl | ⟨_, o, rfl⟩
  · rfl
  · rfl

theorem Axis.StageEnds.of_none (h : x.StageEnds y) (hx : x.stage = none) : y = x := by
  rcases h with h | ⟨h, _⟩
  · exact h
  · exact absurd hx h

end StageEnds

/-- Stages and parts end: the frame of the operations that end them. -/
structure State.EndsStages (s t : State) : Prop extends State.Works s t where
  axis : ∀ b, (s.axis b).StageEnds (t.axis b)
  evals : t.evals = s.evals
  serial : t.serial = s.serial

section EndsStages

variable {s t u : State}

theorem State.EndsStages.refl (s : State) : s.EndsStages s := ⟨.refl s, fun _ => .refl _, rfl, rfl⟩

theorem State.EndsStages.trans (h : s.EndsStages t) (k : t.EndsStages u) : s.EndsStages u :=
  ⟨h.toWorks.trans k.toWorks, fun b => (h.axis b).trans (k.axis b), k.evals.trans h.evals, k.serial.trans h.serial⟩

/-- The stage pending of an axis ends (R74). -/
theorem State.endStage_none {a : AxisId} (h : (s.axis a).stage = none) (o : StageOutcome) (q : Bool) : s.endStage a o q = s := by
  unfold State.endStage
  rw [h]

theorem State.endStage_axis (s : State) (a : AxisId) (o : StageOutcome) (q : Bool) (b : AxisId) : (s.endStage a o q).axis b =
    if b = a ∧ (s.axis a).stage ≠ none then { s.axis a with stage := none, lastStage := o } else s.axis b := by
  cases h : (s.axis a).stage with
  | none => rw [State.endStage_none h, if_neg (fun c => c.2 rfl)]
  | some st =>
    have hset := s.modAxis_axis a b fun x => { x with stage := none, lastStage := o }
    simp only [ne_eq, reduceCtorEq, not_false_eq_true, and_true]
    refine Eq.trans ?_ hset
    unfold State.endStage
    rw [h]
    dsimp only
    split
    · rfl
    · rfl
    · rfl
    · split <;> rfl

theorem State.works_endStage (s : State) (a : AxisId) (o : StageOutcome) (q : Bool) : s.Works (s.endStage a o q) := by
  unfold State.endStage
  split
  · exact .refl s
  · have hset := s.works_modAxis a fun x => { x with stage := none, lastStage := o }
    dsimp only
    split
    · exact hset
    · exact hset.trans (State.works_raise ..)
    · exact hset.trans (State.works_raise ..)
    · split
      · exact hset
      · exact hset.trans (State.works_raise ..)

theorem State.endsStages_endStage (s : State) (a : AxisId) (o : StageOutcome) (q : Bool) : s.EndsStages (s.endStage a o q) where
  toWorks := s.works_endStage a o q
  axis := fun b => by
    rw [State.endStage_axis]
    split
    · rename_i h
      exact .inr ⟨h.1 ▸ h.2, o, by rw [h.1]⟩
    · exact .refl _
  evals := by
    unfold State.endStage
    split
    · rfl
    · dsimp only
      split
      · rfl
      · rfl
      · rfl
      · split <;> rfl
  serial := by
    unfold State.endStage
    split
    · rfl
    · dsimp only
      split
      · rfl
      · rfl
      · rfl
      · split <;> rfl

theorem State.endsStages_foldl {α : Type} {f : State → α → State} (hf : ∀ (s : State) a, s.EndsStages (f s a)) (l : List α) (s : State) :
    s.EndsStages (l.foldl f s) :=
  foldl_keeps (P := s.EndsStages) (fun t a h => h.trans (hf t a)) l s (.refl s)

/-- The stage pendings of a record's members end as it fails out of EVALUATING (R86). -/
def State.endMemberStages (s : State) (g : GroupId) (m : GroupMotion) (quiet : Bool) : State :=
  if m.state = .evaluating then
    m.members.foldl (fun s x =>
      match (s.axis x.axis).stage with
      | some st => if st.owner = .group g then s.endStage x.axis .ended quiet else s
      | none => s) s
  else s

theorem State.endsStages_endMemberStages (s : State) (g : GroupId) (m : GroupMotion) (quiet : Bool) :
    s.EndsStages (s.endMemberStages g m quiet) := by
  unfold State.endMemberStages
  split
  · refine State.endsStages_foldl (fun s x => ?_) _ _
    split
    · split
      · exact s.endsStages_endStage _ _ _
      · exact .refl s
    · exact .refl s
  · exact .refl s

/-- What a member keeps of its held target as its record fails (R86). -/
def Member.dropped (x : Member) (state : MotionState) : Member :=
  if state = .evaluating then { x with target := none, staged := none } else x

/-- The record that fails (R86). -/
def GroupMotion.failed (m : GroupMotion) (cause : EndCause) : GroupMotion :=
  { m with state := .failed, cause := some cause, members := m.members.map (·.dropped m.state) }

theorem State.failMotion_eq (s : State) (g : GroupId) (m : GroupMotion) (cause : EndCause) (quiet : Bool) :
    s.failMotion g m cause quiet =
      if quiet then (s.setMotion g (some (m.failed cause))).endMemberStages g m quiet
      else ((s.setMotion g (some (m.failed cause))).endMemberStages g m quiet).raise (.failed (.motion m.serial)) := rfl

theorem State.endsStages_setMotion (s : State) (g : GroupId) (m : Option GroupMotion) : s.EndsStages (s.setMotion g m) :=
  ⟨s.works_setMotion g m, fun _ => .refl _, rfl, rfl⟩

theorem State.endsStages_raise (s : State) (x : Signal) : s.EndsStages (s.raise x) := ⟨s.works_raise x, fun _ => .refl _, rfl, rfl⟩

theorem State.endsStages_failMotion (s : State) (g : GroupId) (m : GroupMotion) (cause : EndCause) (quiet : Bool) :
    s.EndsStages (s.failMotion g m cause quiet) := by
  have h := (s.endsStages_setMotion g (some (m.failed cause))).trans (State.endsStages_endMemberStages _ g m quiet)
  rw [State.failMotion_eq]
  split
  · exact h
  · exact h.trans (State.endsStages_raise ..)

theorem State.endsStages_endMember (s : State) (a : AxisId) (o : MemberOutcome) (c : EndCause) (q : Bool) :
    s.EndsStages (s.endMember a o c q) := by
  unfold State.endMember
  split
  · exact .refl s
  · exact s.endsStages_failMotion _ _ _ _

theorem State.endsStages_endMembers (s : State) (hit : AxisId → Bool) (q : Bool) : s.EndsStages (s.endMembers hit q) := by
  unfold State.endMembers
  refine State.endsStages_foldl (fun s g => ?_) _ _
  split
  · split
    · exact s.endsStages_failMotion _ _ _ _
    · exact .refl s
  · exact .refl s

theorem State.endsStages_endMemberships (s : State) (a : AxisId) : s.EndsStages (s.endMemberships a) := by
  unfold State.endMemberships
  refine State.endsStages_foldl (fun s g => ?_) _ _
  split
  · split
    · exact s.endsStages_failMotion _ _ _ _
    · exact .refl s
  · exact .refl s

theorem State.endsStages_endEvaluating (s : State) (g : GroupId) (stopped : AxisId → Bool) :
    s.EndsStages (s.endEvaluating g stopped) := by
  unfold State.endEvaluating
  split
  · split
    · exact s.endsStages_failMotion _ _ _ _
    · exact .refl s
  · exact .refl s

theorem State.endsStages_endPart (s : State) (a : AxisId) : s.EndsStages (s.endPart a) :=
  (s.endsStages_endMember _ _ _ _).trans (State.endsStages_endStage _ _ _ _)

/-- After the end of its part the axis has no stage pending; else it is as it was. -/
theorem State.endStage_self (s : State) (a : AxisId) (o : StageOutcome) (q : Bool) :
    ∃ l, (s.endStage a o q).axis a = { s.axis a with stage := none, lastStage := l } := by
  rw [State.endStage_axis]
  split
  · exact ⟨o, rfl⟩
  · rename_i h
    have hnone : (s.axis a).stage = none := by
      by_contra c
      exact h ⟨rfl, c⟩
    exact ⟨(s.axis a).lastStage, by rw [← hnone]⟩

theorem Axis.StageEnds.without_stage {x y : Axis} (h : x.StageEnds y) (l : StageOutcome) :
    ({ y with stage := none, lastStage := l } : Axis) = { x with stage := none, lastStage := l } := by
  rcases h with rfl | ⟨_, o, rfl⟩ <;> rfl

theorem State.endPart_self (s : State) (a : AxisId) : ∃ l, (s.endPart a).axis a = { s.axis a with stage := none, lastStage := l } := by
  obtain ⟨l, hl⟩ := (s.endMember a .ended .memberEnded false).endStage_self a .ended false
  exact ⟨l, hl.trans (((s.endsStages_endMember a .ended .memberEnded false).axis a).without_stage l)⟩

end EndsStages

/-! ## Slews end (R151) -/

theorem State.endSlew_axis_eq (s : State) (a : AxisId) (q : Bool) (b : AxisId) : (s.endSlew a q).axis b =
    if b = a then { s.axis a with target := none } else s.axis b := by
  have hset := s.modAxis_axis a b fun x => { x with target := none }
  unfold State.endSlew
  split
  · dsimp only
    split
    · exact hset
    · exact hset
  · rename_i h
    split
    · rename_i hb
      rw [hb, ← h]
    · rfl

theorem State.works_endSlew (s : State) (a : AxisId) (q : Bool) : s.Works (s.endSlew a q) := by
  unfold State.endSlew
  split
  · dsimp only
    split
    · exact s.works_modAxis _ _
    · exact (s.works_modAxis _ _).trans (State.works_raise ..)
  · exact .refl s

end Sys2Proof.Machine
end

section
/-! PROOFS. Leaving the settle roll (01 R12, R13, 04 R81) and leaving work (R86, R93): what each changes, and that the statements on it
carry over the rest of a command. -/

namespace Sys2Proof.Machine

/-! ## What the end of settling rests on -/

/-- The items of the clock that leaving the roll reads. -/
def Clock.roster (c : Clock) : ClockState × List AxisId × Option Nat × ResumeTo × HaltReason × Int × Nat :=
  (c.state, c.roll, c.settleTimer, c.resumeTo, c.reason, c.epoch, c.settleSerial)

/-- From `s` to `t` nothing changed that leaving the roll reads or tells. -/
structure State.SettlesAlike (s t : State) : Prop where
  clock : t.clock.roster = s.clock.roster
  entry : ∀ q, t.entry q .clockSettled = s.entry q .clockSettled
  routed : t.routedPorts .clockSettled .sky = s.routedPorts .clockSettled .sky
  raised : ∀ x ∈ s.signals, x ∈ t.signals

section SettlesAlike

variable {s t u : State}

theorem State.SettlesAlike.refl (s : State) : s.SettlesAlike s := ⟨rfl, fun _ => rfl, rfl, fun _ h => h⟩

theorem State.SettlesAlike.trans (h : s.SettlesAlike t) (k : t.SettlesAlike u) : s.SettlesAlike u :=
  ⟨k.clock.trans h.clock, fun q => (k.entry q).trans (h.entry q), k.routed.trans h.routed, fun x hx => k.raised x (h.raised x hx)⟩

theorem State.Works.settlesAlike (h : s.Works t) : s.SettlesAlike t :=
  ⟨by rw [h.clock], fun q => h.entry q _, h.routedPorts _ _, h.raised⟩

theorem State.settlesAlike_notify (s : State) {k : NoticeKind} (hk : k ≠ .clockSettled) (r : Resource) (n : Option Nat) (b : Bool) :
    s.SettlesAlike (s.notify k r n b) :=
  ⟨by rw [State.notify_clock], fun q => State.notify_entry_of_ne s (Ne.symm hk) r n b q, State.notify_routedPorts .., fun x h => by
    rw [State.notify_signals]
    exact h⟩

theorem State.settlesAlike_withPower (s : State) (d : DrivePower) : s.SettlesAlike (s.withPower d) :=
  ⟨rfl, fun _ => rfl, rfl, fun _ h => h⟩

theorem State.settlesAlike_withClock (s : State) {c : Clock} (h : c.roster = s.clock.roster) : s.SettlesAlike (s.withClock c) :=
  ⟨h, fun _ => rfl, rfl, fun _ h => h⟩

theorem State.settlesAlike_outstand (s : State) (p : Port) (tag code : Byte) : s.SettlesAlike (s.outstand p tag code) :=
  ⟨rfl, fun _ => State.outstand_entry .., rfl, fun _ h => h⟩

theorem State.restartLease_routedPorts (s : State) (x : Resource) (k : NoticeKind) (r : Resource) :
    (s.restartLease x).routedPorts k r = s.routedPorts k r := by
  unfold State.routedPorts
  rw [State.restartLease_holderOf]
  rfl

theorem State.settlesAlike_answered (s : State) (x : Resource) (p : Port) (tag code : Byte) (r : Reply) :
    s.SettlesAlike ((s.restartLease x).enterReply p tag code r) :=
  ⟨rfl, fun _ => State.enterReply_entry .., s.restartLease_routedPorts x _ _, fun _ h => h⟩

end SettlesAlike

/-- Leaving the roll, told of states before and after that settle alike. -/
theorem State.leavesRoll.alike {s s' t t' : State} {a : AxisId} (h : s'.leavesRoll t' a) (hs : s.SettlesAlike s')
    (ht : t'.SettlesAlike t) : s.leavesRoll t a := by
  have hsc := hs.clock
  have htc := ht.clock
  simp only [Clock.roster, Prod.mk.injEq] at hsc htc
  obtain ⟨s1, s2, s3, s4, s5, s6, s7⟩ := hsc
  obtain ⟨t1, t2, t3, t4, t5, t6, t7⟩ := htc
  have hsaid {n : Nat} (h : s'.saysSettled t' n) : s.saysSettled t n :=
    h.of_entries hs.routed.symm (fun q => (hs.entry q).symm) ht.entry ht.raised
  unfold State.leavesRoll State.completesSettling at *
  rw [s1, s2, s3, s4, s5, s6, s7] at h
  rw [t1, t2, t3, t5, t6]
  obtain ⟨hon, hoff⟩ := h
  refine ⟨fun hset hmem => ⟨(hon hset hmem).1, fun hall => ?_⟩, hoff⟩
  obtain ⟨c1, c2, c3, c4, c5, hsays⟩ := (hon hset hmem).2 hall
  exact ⟨c1, c2, c3, c4, c5, hsaid hsays⟩

/-! ## The axis leaves the roll -/

/-- The frame of work that ends and of leaving the roll: of the clock only state, settle timer and roll may change, and of the
pending entries only CLOCK_SETTLED. -/
structure State.Leaves (s t : State) : Prop where
  only : t = { s with
    axes := t.axes, motions := t.motions, signals := t.signals, serial := t.serial, evals := t.evals
    clock := { s.clock with state := t.clock.state, settleTimer := t.clock.settleTimer, roll := t.clock.roll }, ports := t.ports }
  raised : ∀ x ∈ s.signals, x ∈ t.signals
  entry : ∀ q k, k ≠ .clockSettled → t.entry q k = s.entry q k

section Leaves

variable {s t u : State}

theorem State.Works.leaves (h : s.Works t) : s.Leaves t :=
  ⟨by rw [h.only], h.raised, fun q k _ => h.entry q k⟩

theorem State.Leaves.refl (s : State) : s.Leaves s := (State.Works.refl s).leaves

theorem State.Leaves.trans (h : s.Leaves t) (k : t.Leaves u) : s.Leaves u :=
  ⟨k.only.trans (by rw [h.only]), fun x hx => k.raised x (h.raised x hx), fun q j hj => (k.entry q j hj).trans (h.entry q j hj)⟩

theorem State.Leaves.power (h : s.Leaves t) : t.power = s.power := by rw [h.only]

theorem State.Leaves.inFlight (h : s.Leaves t) : t.inFlight = s.inFlight := by rw [h.only]

theorem State.Leaves.runners (h : s.Leaves t) : t.runners = s.runners := by rw [h.only]

theorem State.Leaves.clock (h : s.Leaves t) :
    t.clock = { s.clock with state := t.clock.state, settleTimer := t.clock.settleTimer, roll := t.clock.roll } := by
  conv_lhs => rw [h.only]

theorem State.Leaves.routedPorts (h : s.Leaves t) (k : NoticeKind) (r : Resource) : t.routedPorts k r = s.routedPorts k r := by
  rw [h.only]
  rfl

theorem State.leaves_settleTest (s : State) : s.Leaves s.settleTest := by
  refine ⟨?_, s.settleTest_signals, fun q k hk => s.settleTest_entry hk q⟩
  unfold State.settleTest
  split
  · rw [notify_ports, Clock.resumed_eq]
    rfl
  · rfl

theorem State.rollLeave_off {a : AxisId} (h : ¬ (s.clock.state = .settling ∧ a ∈ s.clock.roll)) : s.rollLeave a = s := if_neg h

theorem State.rollLeave_on {a : AxisId} (h : s.clock.state = .settling) (h' : a ∈ s.clock.roll) :
    s.rollLeave a = (s.withClock { s.clock with roll := s.clock.roll.filter (· ≠ a) }).settleTest := if_pos ⟨h, h'⟩

theorem State.leaves_rollLeave (s : State) (a : AxisId) : s.Leaves (s.rollLeave a) := by
  unfold State.rollLeave
  split
  · exact State.Leaves.trans (t := s.withClock { s.clock with roll := s.clock.roll.filter (· ≠ a) })
      ⟨rfl, fun _ h => h, fun _ _ _ => rfl⟩ (State.leaves_settleTest _)
  · exact .refl s

/-- R12, R13: the others stay on the roll; with the last one settling completes. -/
theorem State.leavesRoll_rollLeave (s : State) (a : AxisId) : s.leavesRoll (s.rollLeave a) a := by
  refine ⟨fun hset hmem => ?_, fun hoff => ?_⟩
  · have hclock := State.settleTest_clock (s.withClock { s.clock with roll := s.clock.roll.filter (· ≠ a) })
    have hsays := State.settleTest_says (s := s.withClock { s.clock with roll := s.clock.roll.filter (· ≠ a) }) hset
    rw [State.rollLeave_on hset hmem]
    generalize (s.withClock { s.clock with roll := s.clock.roll.filter (· ≠ a) }).settleTest = t at *
    rw [State.withClock_clock] at hclock hsays
    refine ⟨fun ⟨b, hb, hne⟩ => ?_, fun hall => ?_⟩
    · have hrest : s.clock.roll.filter (· ≠ a) ≠ [] := List.ne_nil_of_mem (List.mem_filter.mpr ⟨hb, decide_eq_true hne⟩)
      rw [hclock, if_neg fun c => hrest c.2]
      exact ⟨hset, rfl, fun b => by simp⟩
    · have hrest : s.clock.roll.filter (· ≠ a) = [] :=
        List.filter_eq_nil_iff.mpr fun b hb => by simp [hall b hb]
      obtain ⟨hev, hdone, hnote⟩ := hsays hrest
      unfold State.completesSettling
      rw [hclock, if_pos ⟨hset, hrest⟩, Clock.resumed_eq]
      exact ⟨rfl, rfl, rfl, rfl, rfl, State.saysSettled_of hev hdone hnote⟩
  · rw [State.rollLeave_off fun c => hoff.elim (· c.1) (· c.2)]
    exact ⟨rfl, rfl, rfl⟩

end Leaves

/-! ## The axis leaves its work (R86, R93) -/

section LeaveWork

variable (s : State) (a : AxisId) (q : Bool)

/-- The axis as it has left its work. -/
def Axis.idle (x : Axis) (l : StageOutcome) : Axis :=
  { x with stage := none, lastStage := l, target := none, stopping := none, tracking := none, homing := none }

/-- Leaving work before the roll is left. -/
def State.dropWork : State :=
  (((s.endMember a .ended .memberEnded q).endStage a .ended q).endSlew a q).modAxis a fun x =>
    { x with stopping := none, tracking := none, homing := none }

theorem State.leaveWork_eq : s.leaveWork a q = (s.dropWork a q).rollLeave a := rfl

theorem State.works_dropWork : s.Works (s.dropWork a q) :=
  ((((s.endsStages_endMember _ _ _ _).trans (State.endsStages_endStage _ _ _ _)).toWorks.trans (State.works_endSlew _ _ _)).trans
    (State.works_modAxis _ _ _))

theorem State.leaves_leaveWork : s.Leaves (s.leaveWork a q) :=
  (s.works_dropWork a q).leaves.trans (State.leaves_rollLeave _ a)

theorem State.leavesRoll_leaveWork : s.leavesRoll (s.leaveWork a q) a :=
  (State.leavesRoll_rollLeave _ a).alike (s.works_dropWork a q).settlesAlike (.refl _)

theorem State.leaveWork_self : ∃ l, (s.leaveWork a q).axis a = (s.axis a).idle l := by
  obtain ⟨l, hl⟩ := (s.endMember a .ended .memberEnded q).endStage_self a .ended q
  rw [((s.endsStages_endMember a .ended .memberEnded q).axis a).without_stage l] at hl
  refine ⟨l, ?_⟩
  rw [State.leaveWork_eq, State.rollLeave_axis]
  unfold State.dropWork
  rw [State.modAxis_axis_self, State.endSlew_axis_eq, if_pos rfl, hl]
  rfl

variable {a} in
theorem State.leaveWork_other {b : AxisId} (h : b ≠ a) : (s.axis b).StageEnds ((s.leaveWork a q).axis b) := by
  rw [State.leaveWork_eq, State.rollLeave_axis]
  unfold State.dropWork
  rw [State.modAxis_axis_of_ne _ _ h, State.endSlew_axis_eq, if_neg h]
  exact ((s.endsStages_endMember _ _ _ _).trans (State.endsStages_endStage _ _ _ _)).axis b

theorem State.leaveWork_groupOf : (s.leaveWork a q).groupOf a = s.groupOf a := by
  obtain ⟨l, hl⟩ := s.leaveWork_self a q
  unfold State.groupOf
  rw [hl]
  rfl

end LeaveWork

end Sys2Proof.Machine
end

section
/-! PROOFS. Slews (04 R71 to R74, R81): the target taken, the arrival at once, and the checks of a Slew (O32). -/

namespace Sys2Proof.Machine

/-! ## Arrival (R73, R88) -/

theorem State.endsStages_memberArrived (s : State) (a : AxisId) : s.EndsStages (s.memberArrived a) := by
  unfold State.memberArrived
  split
  · exact .refl s
  · dsimp only
    split
    · exact ((s.endsStages_setMotion _ _).trans (State.endsStages_raise _ (.event (.groupArrived _) none))).trans
        (State.endsStages_raise ..)
    · exact s.endsStages_setMotion _ _

theorem State.memberArrived_axis (s : State) (a b : AxisId) : (s.memberArrived a).axis b = s.axis b := by
  unfold State.memberArrived
  split
  · rfl
  · dsimp only
    split <;> rfl

section Arrive

variable (s : State) (a : AxisId) (t : Target)

theorem State.works_arrive : s.Works (s.arrive a t) := by
  have hrest (u : State) : u.Works (((u.event (.axisArrived a)).raise (.done (.slew t.serial))).memberArrived a) :=
    ((u.works_event _).trans (State.works_raise ..)).trans (State.endsStages_memberArrived ..).toWorks
  have hstill := s.works_modAxis a fun x => { x.still with state := .standing, target := none }
  unfold State.arrive
  dsimp only
  refine State.Works.trans ?_ (hrest _)
  split
  · refine hstill.trans (State.Works.trans ?_ (State.works_modAxis ..))
    split
    · exact State.works_endStage ..
    · exact .refl _
  · exact hstill

/-- The arrival of a slew that was not staged. -/
theorem State.arrive_axis (h : t.staged = none) (b : AxisId) : (s.arrive a t).axis b =
    if b = a then { (s.axis a).still with state := .standing, target := none } else s.axis b := by
  unfold State.arrive
  simp only [h]
  rw [State.memberArrived_axis]
  exact s.modAxis_axis a b fun x => { x.still with state := .standing, target := none }

theorem State.arrive_event : .event (.axisArrived a) none ∈ (s.arrive a t).signals := by
  unfold State.arrive
  exact (State.endsStages_memberArrived _ a).raised _ (by simp)

end Arrive

/-! ## The target taken (R71, R72) -/

/-- The target of a slew. -/
def State.newTarget (s : State) (k : Int) (staged : Option StagedAt) (limitSq accel2 : Nat) : Target :=
  { position := k, limitSq := limitSq, accel2 := accel2, staged := staged, serial := s.serial }

/-- The axis as a slew takes it. -/
def Axis.slewing (x : Axis) (t : Target) : Axis :=
  { x with state := .slewing, target := some t, stopping := none, tracking := none, stagedAt := none }

section SlewTo

variable (s : State) (a : AxisId) (k : Int) (staged : Option StagedAt) (limitSq accel2 : Nat)

/-- A slew before the roll is left. -/
def State.takeTarget : State :=
  ({ s.endSlew a false with serial := s.serial + 1 } : State).modAxis a (·.slewing (s.newTarget k staged limitSq accel2))

theorem State.endSlew_serial (q : Bool) : (s.endSlew a q).serial = s.serial := by
  unfold State.endSlew
  split
  · dsimp only
    split <;> rfl
  · rfl

theorem State.works_takeTarget : s.Works (s.takeTarget a k staged limitSq accel2) :=
  ((s.works_endSlew a false).trans (State.works_serial _ _)).trans (State.works_modAxis ..)

theorem State.takeTarget_axis (b : AxisId) : (s.takeTarget a k staged limitSq accel2).axis b =
    if b = a then (s.axis a).slewing (s.newTarget k staged limitSq accel2) else s.axis b := by
  have hend (c : AxisId) : ({ s.endSlew a false with serial := s.serial + 1 } : State).axis c =
      if c = a then { s.axis a with target := none } else s.axis c := s.endSlew_axis_eq a false c
  unfold State.takeTarget
  rw [State.modAxis_axis, hend a, hend b, if_pos rfl]
  split <;> rfl

variable {s a k} in
theorem State.slewTo_eq (h : (s.axis a).mayTake k = true) : s.slewTo a k staged limitSq accel2 =
    if (s.axis a).difference k (s.axis a).extended = 0 ∧ (s.axis a).speedSq = 0 then
      ((s.takeTarget a k staged limitSq accel2).rollLeave a).arrive a (s.newTarget k staged limitSq accel2)
    else (s.takeTarget a k staged limitSq accel2).rollLeave a := by
  have haxis : ((s.takeTarget a k staged limitSq accel2).rollLeave a).axis a =
      (s.axis a).slewing (s.newTarget k staged limitSq accel2) := by
    rw [State.rollLeave_axis, State.takeTarget_axis, if_pos rfl]
  have heq : s.slewTo a k staged limitSq accel2 =
      if (((s.takeTarget a k staged limitSq accel2).rollLeave a).axis a).difference k
          (((s.takeTarget a k staged limitSq accel2).rollLeave a).axis a).extended = 0 ∧
          (((s.takeTarget a k staged limitSq accel2).rollLeave a).axis a).speedSq = 0 then
        ((s.takeTarget a k staged limitSq accel2).rollLeave a).arrive a (s.newTarget k staged limitSq accel2)
      else (s.takeTarget a k staged limitSq accel2).rollLeave a := by
    unfold State.slewTo State.takeTarget State.newTarget State.fresh
    rw [h]
    dsimp only
    rw [if_neg (by decide), State.endSlew_serial]
    rfl
  rw [heq, haxis]
  rfl

/-- A slew keeps the frame of work, and takes its axis off the roll. -/
theorem State.slewTo_leaves : s.Leaves (s.slewTo a k staged limitSq accel2) := by
  cases h : (s.axis a).mayTake k with
  | false =>
    unfold State.slewTo
    rw [h]
    exact .refl s
  | true =>
    have hroll := (s.works_takeTarget a k staged limitSq accel2).leaves.trans (State.leaves_rollLeave _ a)
    rw [State.slewTo_eq _ _ _ h]
    split
    · exact hroll.trans (State.works_arrive ..).leaves
    · exact hroll

variable {s a k}

theorem State.slewTo_leavesRoll (h : (s.axis a).mayTake k = true) : s.leavesRoll (s.slewTo a k staged limitSq accel2) a := by
  have hroll := (State.leavesRoll_rollLeave (s.takeTarget a k staged limitSq accel2) a).alike
    (s.works_takeTarget a k staged limitSq accel2).settlesAlike (.refl _)
  rw [State.slewTo_eq _ _ _ h]
  split
  · exact hroll.alike (.refl s) (State.works_arrive ..).settlesAlike
  · exact hroll

theorem State.slewTo_moves (h : (s.axis a).mayTake k = true)
    (hm : (s.axis a).difference k (s.axis a).extended ≠ 0 ∨ (s.axis a).speedSq ≠ 0) (b : AxisId) :
    (s.slewTo a k staged limitSq accel2).axis b =
      if b = a then (s.axis a).slewing (s.newTarget k staged limitSq accel2) else s.axis b := by
  rw [State.slewTo_eq _ _ _ h, if_neg fun c => hm.elim (· c.1) (· c.2), State.rollLeave_axis, State.takeTarget_axis]

theorem State.slewTo_arrives (h : (s.axis a).mayTake k = true) (h0 : (s.axis a).difference k (s.axis a).extended = 0)
    (hv : (s.axis a).speedSq = 0) :
    (∀ b, (s.slewTo a k none limitSq accel2).axis b =
      if b = a then { ((s.axis a).slewing (s.newTarget k none limitSq accel2)).still with state := .standing, target := none }
      else s.axis b) ∧ .event (.axisArrived a) none ∈ (s.slewTo a k none limitSq accel2).signals := by
  rw [State.slewTo_eq _ _ _ h, if_pos ⟨h0, hv⟩]
  refine ⟨fun b => ?_, State.arrive_event ..⟩
  rw [State.arrive_axis _ _ _ rfl, State.rollLeave_axis, State.rollLeave_axis, State.takeTarget_axis, State.takeTarget_axis, if_pos rfl]
  split <;> rfl

end SlewTo

/-! ## The target a position names (R71) -/

theorem activeMemory_iff (x : Axis) (side : LimitSide) :
    x.activeMemory = some side ↔ x.limitMemory = some side ∧ x.limitLevel side = true := by
  unfold Axis.activeMemory
  cases h : x.limitMemory with
  | none => simp
  | some d =>
    dsimp only
    by_cases hd : d = side
    · subst hd
      simp
    · cases x.limitLevel d <;> simp [hd]

/-- A target toward an active remembered limit, by the sign of its difference. -/
theorem towardMemory_iff (x : Axis) (k : Int) : x.towardMemory k = true ↔
    (x.limitMemory = some .plus ∧ x.limP.accepted = true ∧ 0 < x.difference k x.extended) ∨
      (x.limitMemory = some .minus ∧ x.limN.accepted = true ∧ x.difference k x.extended < 0) := by
  have hp := activeMemory_iff x .plus
  have hn := activeMemory_iff x .minus
  unfold Axis.limitLevel at hp hn
  unfold Axis.towardMemory
  cases h : x.activeMemory with
  | none =>
    rw [h] at hp hn
    simp only [reduceCtorEq, false_iff, not_and, Bool.not_eq_true, Bool.false_eq_true] at hp hn ⊢
    rintro (⟨c1, c2, _⟩ | ⟨c1, c2, _⟩)
    · rw [hp c1] at c2
      exact Bool.false_ne_true c2
    · rw [hn c1] at c2
      exact Bool.false_ne_true c2
  | some d =>
    rw [h] at hp hn
    cases d
    · obtain ⟨h1, h2⟩ := hp.mp rfl
      simp [h1, h2]
    · obtain ⟨h1, h2⟩ := hn.mp rfl
      simp [h1, h2]

/-- Of two positions less than a turn apart the difference is the plain one (R64). -/
theorem difference_near (x : Axis) {k e : Int} (h1 : k - e ≤ x.record.stepsPerTurn) (h2 : -(x.record.stepsPerTurn : Int) ≤ k - e) :
    x.difference k e = k - e := by
  unfold Axis.difference
  cases x.record.kind with
  | limited => rfl
  | continuous =>
    dsimp only
    generalize hn : (x.record.stepsPerTurn : Int) = n at *
    by_cases h : 0 ≤ k - e
    · by_cases hz : n = 0
      · rw [show k - e = 0 by omega, show (0 : Int).emod (2 ^ 32 * n) = 0 from Int.zero_emod _, hz]
        rfl
      · rw [show (k - e).emod (2 ^ 32 * n) = k - e from Int.emod_eq_of_lt h (by omega)]
        rw [if_pos (by omega)]
    · have hmod : (k - e).emod (2 ^ 32 * n) = k - e + 2 ^ 32 * n := by
        have := Int.add_mul_emod_self_left (k - e) (2 ^ 32 * n) 1
        rw [mul_one] at this
        exact this.symm.trans (Int.emod_eq_of_lt (by omega) (by omega))
      rw [hmod, if_neg (by omega)]
      omega

/-- Two positions of one place, both in a range of one turn, are the same. -/
theorem eq_of_emod_range {n : Nat} {w k l b : Int} (hn : 0 < n) (hk : (k - w).emod n = 0) (hl : (l - w).emod n = 0)
    (h1 : b < k) (h2 : k ≤ b + n) (h3 : b < l) (h4 : l ≤ b + n) : k = l := by
  obtain ⟨i, hi⟩ := Int.dvd_of_emod_eq_zero hk
  obtain ⟨j, hj⟩ := Int.dvd_of_emod_eq_zero hl
  have hij : (n : Int) * i - n * j = k - l := by omega
  rw [← mul_sub] at hij
  have hlt : -(n : Int) < n * (i - j) ∧ (n : Int) * (i - j) < n := by omega
  have hn' : (0 : Int) < n := by exact_mod_cast hn
  have h5 : i - j < 1 := by nlinarith
  have h6 : -1 < i - j := by nlinarith
  have : i - j = 0 := by omega
  rw [this] at hij
  omega

/-- The place within the turn as a policy picks it is unique. -/
theorem eq_wrapTarget {p : WrapPolicy} {n : Nat} {q : Position} {w e k : Int} (hn : 0 < n) (he : q.turn * n + q.within = e)
    (hk : (k - w).emod n = 0) (hs : p = .shortest → 2 * (k - e) ≤ n ∧ -(n : Int) < 2 * (k - e))
    (hp : p = .positive → e ≤ k ∧ k < e + n) (hm : p = .negative → e - n < k ∧ k ≤ e) : k = wrapTarget p n q w := by
  obtain ⟨hl, ls, lp, lm⟩ := wrapTarget_spec p n q w e _ hn he rfl
  cases p with
  | shortest =>
    obtain ⟨h1, h2⟩ := hs rfl
    obtain ⟨h3, h4⟩ := ls rfl
    exact eq_of_emod_range (b := e - (n + 1) / 2) hn hk hl (by omega) (by omega) (by omega) (by omega)
  | positive =>
    obtain ⟨h1, h2⟩ := hp rfl
    obtain ⟨h3, h4⟩ := lp rfl
    exact eq_of_emod_range (b := e - 1) hn hk hl (by omega) (by omega) (by omega) (by omega)
  | negative =>
    obtain ⟨h1, h2⟩ := hm rfl
    obtain ⟨h3, h4⟩ := lm rfl
    exact eq_of_emod_range (b := e - n) hn hk hl (by omega) (by omega) (by omega) (by omega)

/-- A target that an absolute position names and the soft limits allow (R71). -/
structure Axis.Picks (x : Axis) (raw : BitVec 32) (k : Int) : Prop where
  limited : x.record.kind = .limited → k = raw.toInt ∧ ∃ l h, x.record.soft = some (l, h) ∧ l ≤ k ∧ k ≤ h
  continuous : x.record.kind = .continuous →
    raw.toNat < x.record.stepsPerTurn ∧ (k - raw.toNat).emod x.record.stepsPerTurn = 0 ∧
    (x.record.wrap.getD .shortest = .shortest →
      2 * (k - x.extended) ≤ x.record.stepsPerTurn ∧ -(x.record.stepsPerTurn : Int) < 2 * (k - x.extended)) ∧
    (x.record.wrap = some .positive → x.extended ≤ k ∧ k < x.extended + x.record.stepsPerTurn) ∧
    (x.record.wrap = some .negative → x.extended - x.record.stepsPerTurn < k ∧ k ≤ x.extended)

section Picks

variable {x : Axis} {raw : BitVec 32} {k : Int}

theorem wrap_of_getD {w : Option WrapPolicy} {p : WrapPolicy} (h : w.getD .shortest = p) (hp : p ≠ .shortest) : w = some p := by
  cases w with
  | none => exact absurd h.symm hp
  | some q => exact congrArg some h

theorem Axis.Picks.extended (h : x.Picks raw k) (hc : x.record.kind = .continuous) : k = x.extendedTarget raw.toNat := by
  obtain ⟨hw, hmod, hs, hp, hm⟩ := h.continuous hc
  obtain ⟨heq, hext⟩ := extendedTarget_wrap x raw.toNat hc
  rw [heq]
  exact eq_wrapTarget (by omega) hext hmod hs (fun e => hp (wrap_of_getD e (by decide))) fun e => hm (wrap_of_getD e (by decide))

theorem Axis.Picks.difference (h : x.Picks raw k) : x.difference k x.extended = k - x.extended := by
  cases hc : x.record.kind with
  | limited =>
    unfold Axis.difference
    rw [hc]
  | continuous =>
    obtain ⟨_, _, hs, hp, hm⟩ := h.continuous hc
    cases hw : x.record.wrap.getD .shortest with
    | shortest =>
      have := hs hw
      exact difference_near x (by omega) (by omega)
    | positive =>
      have := hp (wrap_of_getD hw (by decide))
      exact difference_near x (by omega) (by omega)
    | negative =>
      have := hm (wrap_of_getD hw (by decide))
      exact difference_near x (by omega) (by omega)

theorem Axis.Picks.notOutside (h : x.Picks raw k) (hc : x.record.kind = .limited) : x.outsideSoft k = false := by
  obtain ⟨_, l, u, hs, h1, h2⟩ := h.limited hc
  unfold Axis.outsideSoft
  rw [hs]
  simp [h1, h2]

/-- The target of an absolute Slew past its bounds: refused where it lies toward an active remembered limit (R94). -/
theorem Axis.Picks.absoluteTarget (h : x.Picks raw k) :
    x.absoluteTarget raw = if x.towardMemory k = true then .error .range else .ok k := by
  unfold Axis.absoluteTarget
  cases hc : x.record.kind with
  | limited =>
    obtain ⟨rfl, _⟩ := h.limited hc
    dsimp only
    rw [h.notOutside hc, Bool.false_or]
  | continuous =>
    dsimp only
    rw [if_neg (Nat.not_le.mpr (h.continuous hc).1), ← h.extended hc]

theorem Axis.Picks.mayTake (h : x.Picks raw k) (hk : x.known = true) : x.mayTake k = true := by
  unfold Axis.mayTake
  cases hc : x.record.kind with
  | limited => simp [hk, h.notOutside hc]
  | continuous => simp [hk]

end Picks

/-! ## The checks of a Slew (R68, R71, R74) -/

section Checks

variable {s : State} {p : Port} {a : AxisId} (h : s.holds p (s.groupOf a) = true) (hh : s.held = false)
include h hh

theorem slew_not_slewable (form : Nat) (v : BitVec 56) (hs : (s.axis a).state.slewable = false) :
    slew p a.val form v s = refuse .state s := by
  unfold slew
  rw [onAxis_taken h hh]
  simp [hs]

theorem slew_unknown (form : Nat) (v : BitVec 56) (hs : (s.axis a).state.slewable = true) (hk : (s.axis a).known = false) :
    slew p a.val form v s = refuse .notReferenced s := by
  unfold slew
  rw [onAxis_taken h hh]
  simp [hs, hk]

section Known

variable (hs : (s.axis a).state.slewable = true) (hk : (s.axis a).known = true)
include hs hk

theorem slew_bad_form {form : Nat} (hf : 1 < form) (v : BitVec 56) : slew p a.val form v s = refuse .badValue s := by
  unfold slew
  rw [onAxis_taken h hh]
  simp [hs, hk, show form ≠ 1 by omega, show form ≠ 0 by omega]

theorem slew_absolute_error {v : BitVec 56} {st : Status} (he : (s.axis a).absoluteTarget (v.setWidth 32) = .error st) :
    slew p a.val 0 v s = refuse st s := by
  unfold slew
  rw [onAxis_taken h hh]
  simp [hs, hk, he]

theorem slew_absolute_ok {v : BitVec 56} {t : Int} (he : (s.axis a).absoluteTarget (v.setWidth 32) = .ok t) :
    slew p a.val 0 v s = axisOk a ((s.endPart a).slewSingle a t none) := by
  unfold slew
  rw [onAxis_taken h hh]
  simp [hs, hk, he]

theorem slew_staged (v : BitVec 56) : slew p a.val 1 v s =
    if (s.axis a).record.binding = none then refuse .state s
    else if v.toInt < -(2 ^ 50) ∨ 2 ^ 50 ≤ v.toInt then refuse .range s else axisOk a (s.stageSingle a v.toInt) := by
  have hr : (v.toInt < Config.epochMin ∨ Config.epochMax < v.toInt) = (v.toInt < -(2 ^ 50) ∨ 2 ^ 50 ≤ v.toInt) := by
    have hmin : Config.epochMin = -(2 ^ 50) := rfl
    have hmax : Config.epochMax = 2 ^ 50 - 1 := rfl
    rw [hmin, hmax]
    exact propext (or_congr Iff.rfl (by omega))
  unfold slew
  rw [onAxis_taken h hh]
  simp only [hs, hk, hr]
  rfl

end Known

end Checks

theorem slewable_iff (q : AxisState) : q.slewable = true ↔ q ∈ [AxisState.standing, .slewing, .tracking, .stopping] := by
  cases q <;> decide

theorem slewable_false {q : AxisState} (h : q ∉ [AxisState.standing, .slewing, .tracking, .stopping]) : q.slewable = false :=
  Bool.eq_false_iff.mpr fun c => h ((slewable_iff q).mp c)

/-! ## Absolute targets refused -/

section Refused

variable {x : Axis} {raw : BitVec 32}

theorem absoluteTarget_beyondTurn (hc : x.record.kind = .continuous) (h : x.record.stepsPerTurn ≤ raw.toNat) :
    x.absoluteTarget raw = .error .badValue := by
  unfold Axis.absoluteTarget
  rw [hc]
  exact if_pos h

theorem absoluteTarget_blocked (hc : x.record.kind = .limited) (h : x.outsideSoft raw.toInt = true ∨ x.towardMemory raw.toInt = true) :
    x.absoluteTarget raw = .error .range := by
  unfold Axis.absoluteTarget
  rw [hc]
  exact if_pos (Bool.or_eq_true_iff.mpr h)

theorem difference_limited (hc : x.record.kind = .limited) (k : Int) : x.difference k x.extended = k - x.position.within := by
  unfold Axis.difference Axis.extended
  rw [hc]

end Refused

/-- The axis of a request, as the request meets it. -/
theorem holds_group_outstand {s : State} {p : Port} {a : AxisId} (h : s.holderOf (.group (s.axis a).record.group) = some p)
    (tag c : Byte) : (s.outstand p tag c).holds p ((s.outstand p tag c).groupOf a) = true := holds_outstand h tag c

end Sys2Proof.Machine
end

section
/-! PROOFS. An absolute Slew (04 R68, R71 to R73, R94: O32). -/

namespace Sys2Proof.Machine

/-! ## A single slew after the axis's part ended -/

section SlewSingle

variable {s : State} {a : AxisId} {k : Int} (hm : (s.axis a).mayTake k = true)
include hm

theorem State.slewSingle_leavesRoll : s.leavesRoll ((s.endPart a).slewSingle a k none) a := by
  obtain ⟨l, hl⟩ := s.endPart_self a
  exact (State.slewTo_leavesRoll (s := s.endPart a) none _ _ (by rw [hl]; exact hm)).alike
    (s.endsStages_endPart a).toWorks.settlesAlike (.refl _)

/-- The axis that goes to a target, or stands on it. -/
theorem State.slewSingle_axis :
    ((s.axis a).difference k (s.axis a).extended ≠ 0 ∨ (s.axis a).speedSq ≠ 0 → ∃ l n,
      ((s.endPart a).slewSingle a k none).axis a = { s.axis a with
        state := .slewing, stopping := none, tracking := none, stagedAt := none, stage := none, lastStage := l
        target := some ⟨k, (s.axis a).record.limitSq, (s.axis a).record.accel2, none, n⟩ }) ∧
    ((s.axis a).difference k (s.axis a).extended = 0 → (s.axis a).speedSq = 0 →
      (∃ l, ((s.endPart a).slewSingle a k none).axis a = { (s.axis a).still with
        state := .standing, stopping := none, tracking := none, stagedAt := none, stage := none, lastStage := l, target := none }) ∧
      .event (.axisArrived a) none ∈ ((s.endPart a).slewSingle a k none).signals) := by
  obtain ⟨l, hl⟩ := s.endPart_self a
  have hmay : ((s.endPart a).axis a).mayTake k = true := by
    rw [hl]
    exact hm
  unfold State.slewSingle
  refine ⟨fun hmove => ⟨l, (s.endPart a).serial, ?_⟩, fun h0 hv => ?_⟩
  · rw [State.slewTo_moves none _ _ hmay (by rw [hl]; exact hmove), if_pos rfl, hl]
    rfl
  · obtain ⟨haxis, hev⟩ := State.slewTo_arrives ((s.endPart a).axis a).record.limitSq ((s.endPart a).axis a).record.accel2 hmay
      (by rw [hl]; exact h0) (by rw [hl]; exact hv)
    refine ⟨⟨l, ?_⟩, hev⟩
    rw [haxis, if_pos rfl, hl]
    rfl

end SlewSingle

/-! ## The refusals and the effect -/

/-- The raw target of an absolute Slew is the last 4 bytes of its value. -/
theorem setWidth_toNat (v : BitVec 56) : (v.setWidth 32).toNat = v.toNat % 2 ^ 32 := by simp

/-- The checks of a Slew that fail, past the claim and HALTED. -/
theorem slew_refusals (s : State) (p : Port) (tag : Byte) (a : AxisId) (x : Axis) (form : Nat) (v : BitVec 56) (hr : s.ready p)
    (hx : x = s.axis a) (hown : s.holderOf (.group x.record.group) = some p) (hhalt : s.power.halt.accepted = false)
    (hpow : s.power.state = .present) :
    (x.state ∉ [.standing, .slewing, .tracking, .stopping] →
      Answers (.slew p tag a.val form v) s (s.replied p tag 57 (.no .state))) ∧
    (x.state ∈ [.standing, .slewing, .tracking, .stopping] →
      (x.known = false → Answers (.slew p tag a.val form v) s (s.replied p tag 57 (.no .notReferenced))) ∧
      (x.known = true →
        (1 < form → Answers (.slew p tag a.val form v) s (s.replied p tag 57 (.no .badValue))) ∧
        (form = 1 →
          (x.record.binding = none → Answers (.slew p tag a.val form v) s (s.replied p tag 57 (.no .state))) ∧
          (x.record.binding ≠ none → v.toInt < -(2 ^ 50) ∨ 2 ^ 50 ≤ v.toInt →
            Answers (.slew p tag a.val form v) s (s.replied p tag 57 (.no .range)))) ∧
        (form = 0 → ∀ st, x.absoluteTarget (v.setWidth 32) = .error st →
          Answers (.slew p tag a.val form v) s (s.replied p tag 57 (.no st))))) := by
  subst hx
  have h := holds_group_outstand hown tag (requestByte (.slew a.val form v))
  have hh := not_held_outstand p tag (requestByte (.slew a.val form v)) hhalt hpow
  have answer {st : Status} (e : slew p a.val form v (s.outstand p tag (requestByte (.slew a.val form v))) =
      refuse st (s.outstand p tag (requestByte (.slew a.val form v)))) :
      Answers (.slew p tag a.val form v) s (s.replied p tag 57 (.no st)) :=
    answers_unchanged (q := .slew a.val form v) rfl rfl hr (congrArg now e)
  refine ⟨fun hs => answer (slew_not_slewable h hh form v (slewable_false hs)), fun hs => ?_⟩
  have hslew : ((s.outstand p tag (requestByte (.slew a.val form v))).axis a).state.slewable = true := (slewable_iff _).mpr hs
  refine ⟨fun hk => answer (slew_unknown h hh form v hslew hk), fun hk => ⟨fun hf => answer (slew_bad_form h hh hslew hk hf v),
    fun hf => ?_, fun hf st he => ?_⟩⟩
  · subst hf
    have hst := slew_staged h hh hslew hk v
    exact ⟨fun hb => answer (hst.trans (if_pos hb)), fun hb hrange => answer (hst.trans ((if_neg hb).trans (if_pos hrange)))⟩
  · subst hf
    exact answer (slew_absolute_error h hh hslew hk he)

/-- Settles O32: the refusals by `slew_refusals`, the target by `Axis.Picks`, the slew by `State.slewSingle_axis`. -/
theorem absoluteSlewTakesItsTarget : Obligations.AbsoluteSlewTakesItsTarget := by
  refine ⟨fun s p tag n form v hr hn => ?_, fun s p tag a x form v hr hx hown hhalt hpow => ?_,
    fun s p tag a x v k hr hx hown hhalt hpow hs hk hlim hcont => ?_⟩
  · exact answers_unchanged (q := .slew n form v) rfl rfl hr (congrArg now (onAxis_unknown hn _))
  · obtain ⟨hstate, hrest⟩ := slew_refusals s p tag a x form v hr hx hown hhalt hpow
    refine ⟨hstate, fun hs => ⟨(hrest hs).1, fun hk => ?_⟩⟩
    obtain ⟨hform, hstage, habs⟩ := (hrest hs).2 hk
    refine ⟨hform, hstage, fun hf => ⟨fun hc hbeyond => ?_, fun hc l u hsoft hout => ?_, fun hc hmem hlev hpos => ?_,
      fun hc hmem hlev hpos => ?_⟩⟩
    · exact habs hf _ (absoluteTarget_beyondTurn hc (by rw [setWidth_toNat]; exact hbeyond))
    · refine habs hf _ (absoluteTarget_blocked hc (.inl ?_))
      unfold Axis.outsideSoft
      rw [hsoft]
      simpa using hout
    · refine habs hf _ (absoluteTarget_blocked hc (.inr ((towardMemory_iff _ _).mpr (.inl ⟨hmem, hlev, ?_⟩))))
      rw [difference_limited hc]
      omega
    · refine habs hf _ (absoluteTarget_blocked hc (.inr ((towardMemory_iff _ _).mpr (.inr ⟨hmem, hlev, ?_⟩))))
      rw [difference_limited hc]
      omega
  · subst hx
    have hpick : (s.axis a).Picks (v.setWidth 32) k := by
      refine ⟨hlim, fun hc => ?_⟩
      rw [setWidth_toNat]
      exact hcont hc
    have hdiff := hpick.difference
    have htoward := towardMemory_iff (s.axis a) k
    rw [hdiff] at htoward
    refine ⟨fun hbar => ?_, fun hplus hminus => ?_⟩
    · have hblock : (s.axis a).towardMemory k = true := htoward.mpr (hbar.imp (fun ⟨h1, h2, h3⟩ => ⟨h1, h2, by omega⟩)
        fun ⟨h1, h2, h3⟩ => ⟨h1, h2, by omega⟩)
      exact (((slew_refusals s p tag a _ 0 v hr rfl hown hhalt hpow).2 hs).2 hk).2.2 rfl _ (hpick.absoluteTarget.trans (if_pos hblock))
    · have hfree : ¬ (s.axis a).towardMemory k = true := fun c => by
        rcases htoward.mp c with ⟨h1, h2, h3⟩ | ⟨h1, h2, h3⟩
        · have := hplus h1 h2
          omega
        · have := hminus h1 h2
          omega
      have hmay : ((s.outstand p tag 57).axis a).mayTake k = true := hpick.mayTake hk
      have habs : ((s.outstand p tag 57).axis a).absoluteTarget (v.setWidth 32) = .ok k := hpick.absoluteTarget.trans (if_neg hfree)
      have he : slew p a.val 0 v (s.outstand p tag 57) = axisOk a (((s.outstand p tag 57).endPart a).slewSingle a k none) :=
        slew_absolute_ok (holds_group_outstand hown tag 57) (not_held_outstand p tag 57 hhalt hpow) ((slewable_iff _).mpr hs) hk habs
      obtain ⟨hmove, harrive⟩ := State.slewSingle_axis hmay
      have hroll := State.slewSingle_leavesRoll hmay
      generalize hu : ((s.outstand p tag 57).endPart a).slewSingle a k none = u at he hmove harrive hroll
      have haxis : ((u.restartLease (u.groupOf a)).enterReply p tag 57 .done).axis a = u.axis a := rfl
      refine ⟨(u.restartLease (u.groupOf a)).enterReply p tag 57 .done,
        exec_answered (q := .slew a.val 0 v) rfl rfl hr (congrArg now he), State.enterReply_reply .., fun _ => ?_, fun hne => ?_,
        fun heq hv => ?_⟩
      · exact hroll.alike (s.settlesAlike_outstand ..) (u.settlesAlike_answered ..)
      · obtain ⟨l, n, hl⟩ := hmove (hne.imp (fun h => show (s.axis a).difference k (s.axis a).extended ≠ 0 by omega) id)
        rw [haxis, hl]
        exact ⟨rfl, _, rfl, rfl, rfl, rfl, rfl⟩
      · obtain ⟨⟨l, hl⟩, hev⟩ := harrive (show (s.axis a).difference k (s.axis a).extended = 0 by omega) hv
        rw [haxis, hl]
        exact ⟨rfl, rfl, rfl, hev⟩

end Sys2Proof.Machine
end

section
/-! PROOFS. Staged slews (04 R74, R40: O33): the angle of a staged position, the stage asked for, and its result. -/

namespace Sys2Proof.Machine

/-! ## Angles whole turns apart (R38, R74, R78) -/

theorem roundDiv_add_mul (u j d : Int) (hd : 0 < d) : roundDiv (u + j * d) d = roundDiv u d + j := by
  unfold roundDiv
  rw [Int.fdiv_eq_ediv_of_nonneg _ (by omega), Int.fdiv_eq_ediv_of_nonneg _ (by omega),
    show 2 * (u + j * d) + d = 2 * u + d + j * (2 * d) by ring]
  exact Int.add_mul_ediv_right _ _ (by omega)

theorem Dir.sign_sq (x : Dir) : x.sign * x.sign = 1 := by cases x <;> rfl

/-- An angle `m` turns further in the sense of the axis is `m` turns of steps further. -/
theorem stepsOf_add_turns (x : Axis) (n m : Int) :
    x.stepsOf (n + m * x.record.sense.sign * 2 ^ 32) = x.stepsOf n + m * x.record.stepsPerTurn := by
  have hexpand : (n + m * x.record.sense.sign * 2 ^ 32) * x.record.stepsPerTurn * x.record.sense.sign =
      n * x.record.stepsPerTurn * x.record.sense.sign + m * x.record.stepsPerTurn * 2 ^ 32 := by
    have := Dir.sign_sq x.record.sense
    linear_combination (m * (x.record.stepsPerTurn : Int) * 2 ^ 32) * this
  unfold Axis.stepsOf
  rw [hexpand, roundDiv_add_mul _ _ _ (by decide)]
  ring

/-- The angle of a target of the same place lies whole turns from the reduced one, and its steps are the target. -/
theorem angleFor_spec {x : Axis} {n g : Int} (hl : x.record.kind = .limited → g = x.stepsOf n)
    (hc : x.record.kind = .continuous → (x.record.stepsPerTurn : Int) ∣ g - x.stepsOf n) :
    x.stepsOf (x.angleFor n g) = g ∧ ∃ j : Int, x.angleFor n g = n + j * 2 ^ 32 := by
  unfold Axis.angleFor
  cases hk : x.record.kind with
  | limited => exact ⟨(hl hk).symm, 0, by ring⟩
  | continuous =>
    dsimp only
    obtain ⟨j, hj⟩ := hc hk
    refine ⟨?_, (g - x.stepsOf n) / x.record.stepsPerTurn * x.record.sense.sign, rfl⟩
    rw [stepsOf_add_turns, Int.ediv_mul_cancel (hc hk)]
    ring

/-- A wrap policy keeps the place within the turn. -/
theorem dvd_wrapTarget (p : WrapPolicy) (n : Nat) (q : Position) (w : Int) : (n : Int) ∣ wrapTarget p n q w - w := by
  have hmod : (w - q.within).emod n = w - q.within - n * ((w - q.within) / n) := Int.emod_def _ _
  have key (j : Int) : (n : Int) ∣ q.turn * n + q.within + (w - q.within).emod n - j * n - w :=
    ⟨q.turn - (w - q.within) / n - j, by rw [hmod]; ring⟩
  unfold wrapTarget
  cases p with
  | positive => simpa using key 0
  | negative =>
    dsimp only
    split
    · rename_i h
      have := key 0
      rw [h] at this
      simpa using this
    · simpa using key 1
  | shortest =>
    dsimp only
    split
    · simpa using key 0
    · simpa using key 1

/-- The staged position is of the place of the staged angle (R74). -/
theorem dvd_stagedTarget {x : Axis} (hc : x.record.kind = .continuous) (n : Int) :
    (x.record.stepsPerTurn : Int) ∣ x.extendedTarget (n.emod x.record.stepsPerTurn) - n := by
  obtain ⟨heq, _⟩ := extendedTarget_wrap x (n.emod x.record.stepsPerTurn) hc
  have h1 := dvd_wrapTarget (x.record.wrap.getD .shortest) x.record.stepsPerTurn x.position (n.emod x.record.stepsPerTurn)
  have h2 : (x.record.stepsPerTurn : Int) ∣ n.emod x.record.stepsPerTurn - n := ⟨-(n / x.record.stepsPerTurn), by
    rw [show n.emod x.record.stepsPerTurn = n - x.record.stepsPerTurn * (n / x.record.stepsPerTurn) from Int.emod_def _ _]
    ring⟩
  rw [heq]
  have := Int.dvd_add h1 h2
  rwa [sub_add_sub_cancel] at this

/-! ## A staged slew accepted (R74) -/

theorem State.axisInFlight_congr {s t : State} (h : t.inFlight = s.inFlight) (a : AxisId) : t.axisInFlight a = s.axisInFlight a := by
  unfold State.axisInFlight
  rw [h]

section Stage

variable (s : State) (a : AxisId)

theorem State.endsStages_replaceStage : s.EndsStages (s.replaceStage a) := by
  unfold State.replaceStage
  split
  · exact .refl s
  · split
    · exact s.endsStages_endStage _ _ _
    · exact s.endsStages_endPart _

theorem State.replaceStage_self : ∃ l, (s.replaceStage a).axis a = { s.axis a with stage := none, lastStage := l } := by
  unfold State.replaceStage
  split
  · rename_i h
    exact ⟨(s.axis a).lastStage, by rw [← h]⟩
  · split
    · exact s.endStage_self _ _ _
    · exact s.endPart_self _

/-- The axis whose tracking target becomes a fixed one goes on as a slew. -/
def State.goOn (s : State) (a : AxisId) : State :=
  match (s.axis a).tracking with
  | some t => s.slewSingle a t.target none
  | none => s

/-- The stage set pending, and its angle asked for. -/
def State.askStage (s : State) (a : AxisId) (epoch : Int) : State :=
  (({ s with serial := s.serial + 1 } : State).modAxis a fun x => { x with stage := some ⟨epoch, .single, s.serial⟩ }).requestAngle a
    epoch .stage true

theorem State.stageSingle_eq (epoch : Int) : s.stageSingle a epoch = ((s.replaceStage a).goOn a).askStage a epoch := rfl

theorem State.works_askStage (epoch : Int) : s.Works (s.askStage a epoch) :=
  ((s.works_serial _).trans (State.works_modAxis ..)).trans (State.works_requestAngle ..)

theorem State.askStage_axis (epoch : Int) : (s.askStage a epoch).axis a =
    ({ s.axis a with stage := some ⟨epoch, .single, s.serial⟩ } : Axis).asking (s.axisInFlight a) true := by
  unfold State.askStage
  rw [State.requestAngle_axis, if_pos rfl, State.modAxis_axis_self]
  rfl

variable {s a} in
theorem State.askStage_evals {c : ChannelId} (h : (s.axis a).record.binding = some c) (epoch : Int) :
    ({ who := .axis a .stage, channel := c, epoch := some epoch } : EvalRequest) ∈ (s.askStage a epoch).evals := by
  unfold State.askStage
  rw [State.requestAngle_eq, State.modAxis_axis_self]
  dsimp only
  rw [show (({ s with serial := s.serial + 1 } : State).axis a).record.binding = some c from h]
  exact mem_evalsWith_self ..

end Stage

/-- A target the soft limits allow may be taken. -/
theorem Axis.mayTake_of_allows {x : Axis} {k : Int} (hk : x.known = true) (h : x.record.allows k) : x.mayTake k = true := by
  unfold Axis.mayTake Axis.outsideSoft
  cases hs : x.record.soft with
  | none => simp [hk]
  | some lu =>
    obtain ⟨h1, h2⟩ := h lu.1 lu.2 hs
    simp [hk, h1, h2]

/-- What going on as a slew leaves of an axis in TRACKING: off the roll, and SLEWING to its target, or standing on it. -/
theorem State.goOn_tracking {s : State} {a : AxisId} {r : Tracking} (h : (s.axis a).tracking = some r) (hk : (s.axis a).known = true)
    (hr : (s.axis a).record.allows r.target) :
    s.leavesRoll (s.goOn a) a ∧ ((s.goOn a).axis a).tracking = none ∧
      ((s.axis a).difference r.target (s.axis a).extended ≠ 0 ∨ (s.axis a).speedSq ≠ 0 →
        ((s.goOn a).axis a).state = .slewing ∧ ∃ g : Target, ((s.goOn a).axis a).target = some g ∧ g.position = r.target) := by
  have hmay := Axis.mayTake_of_allows hk hr
  unfold State.goOn
  rw [h]
  dsimp only
  unfold State.slewSingle
  have hmoves (hm : (s.axis a).difference r.target (s.axis a).extended ≠ 0 ∨ (s.axis a).speedSq ≠ 0) :=
    (State.slewTo_moves none (s.axis a).record.limitSq (s.axis a).record.accel2 hmay hm a).trans (if_pos rfl)
  refine ⟨State.slewTo_leavesRoll _ _ _ hmay, ?_, fun hm => ?_⟩
  · by_cases hm : (s.axis a).difference r.target (s.axis a).extended ≠ 0 ∨ (s.axis a).speedSq ≠ 0
    · rw [hmoves hm]
      rfl
    · obtain ⟨h0, hv⟩ := not_or.mp hm
      rw [(State.slewTo_arrives _ _ hmay (not_not.mp h0) (not_not.mp hv)).1, if_pos rfl]
      rfl
  · rw [hmoves hm]
    exact ⟨rfl, _, rfl, rfl⟩

/-- What going on leaves alone. -/
theorem State.goOn_keeps (s : State) (a : AxisId) : s.Leaves (s.goOn a) ∧ ((s.goOn a).axis a).position = (s.axis a).position ∧
    ((s.goOn a).axis a).known = (s.axis a).known ∧ ((s.goOn a).axis a).record = (s.axis a).record := by
  unfold State.goOn
  split
  · rename_i t _
    refine ⟨s.slewTo_leaves .., ?_⟩
    unfold State.slewSingle
    cases hmay : (s.axis a).mayTake t.target with
    | false =>
      unfold State.slewTo
      rw [hmay]
      exact ⟨rfl, rfl, rfl⟩
    | true =>
      by_cases hm : (s.axis a).difference t.target (s.axis a).extended ≠ 0 ∨ (s.axis a).speedSq ≠ 0
      · rw [State.slewTo_moves none _ _ hmay hm, if_pos rfl]
        exact ⟨rfl, rfl, rfl⟩
      · obtain ⟨h0, hv⟩ := not_or.mp hm
        rw [(State.slewTo_arrives _ _ hmay (not_not.mp h0) (not_not.mp hv)).1, if_pos rfl]
        exact ⟨rfl, rfl, rfl⟩
  · exact ⟨.refl s, rfl, rfl, rfl⟩

theorem stagedSlew_asks (s : State) (p : Port) (tag : Byte) (a : AxisId) (x : Axis) (c : ChannelId) (v : BitVec 56) (hr : s.ready p)
    (hx : x = s.axis a) (hown : s.holderOf (.group x.record.group) = some p) (hhalt : s.power.halt.accepted = false)
    (hpow : s.power.state = .present) (hs : x.state ∈ [.standing, .slewing, .tracking, .stopping]) (hk : x.known = true)
    (hb : x.record.binding = some c) (hlaw : x.lawful) (h1 : -(2 ^ 50) ≤ v.toInt) (h2 : v.toInt < 2 ^ 50) :
    ∃ (t : State) (k : StagePending), exec (.slew p tag a.val 1 v) s = .next t.drain ∧
      (t.port p).reply = some (Reply.done.frame tag 57) ∧
      (t.axis a).stage = some k ∧ k.epoch = v.toInt ∧ k.owner = .single ∧
      (∃ f ∈ t.evals, f.who = .axis a .stage ∧ f.channel = c ∧ f.epoch = some v.toInt) ∧
      (s.axisInFlight a = true → (t.axis a).discard = true) ∧
      (t.axis a).position = x.position ∧ (t.axis a).known = true ∧ (t.axis a).record = x.record ∧
      (x.tracking = none → (t.axis a).state = x.state ∧ (t.axis a).target = x.target) ∧
      (∀ r, x.tracking = some r →
        (t.axis a).tracking = none ∧ s.leavesRoll t a ∧
        (x.difference r.target x.extended ≠ 0 ∨ x.speedSq ≠ 0 →
          (t.axis a).state = .slewing ∧ ∃ g : Target, (t.axis a).target = some g ∧ g.position = r.target)) := by
  subst hx
  have he : slew p a.val 1 v (s.outstand p tag 57) = axisOk a ((s.outstand p tag 57).stageSingle a v.toInt) := by
    rw [slew_staged (holds_group_outstand hown tag 57) (not_held_outstand p tag 57 hhalt hpow) ((slewable_iff _).mpr hs) hk,
      if_neg (by rw [show ((s.outstand p tag 57).axis a).record.binding = some c from hb]; exact Option.some_ne_none c),
      if_neg (by omega)]
  rw [State.stageSingle_eq] at he
  obtain ⟨l, hl⟩ := (s.outstand p tag 57).replaceStage_self a
  have hends := (s.outstand p tag 57).endsStages_replaceStage a
  have hfirst : s.SettlesAlike ((s.outstand p tag 57).replaceStage a) :=
    (s.settlesAlike_outstand ..).trans hends.toWorks.settlesAlike
  have hflight : ((s.outstand p tag 57).replaceStage a).axisInFlight a = s.axisInFlight a :=
    State.axisInFlight_congr hends.toWorks.inFlight a
  generalize (s.outstand p tag 57).replaceStage a = u at *
  obtain ⟨hleave, hpos, hkn, hrec⟩ := u.goOn_keeps a
  have hnone (ht : (s.axis a).tracking = none) : u.goOn a = u := by
    unfold State.goOn
    rw [hl]
    dsimp only
    rw [show ((s.outstand p tag 57).axis a).tracking = none from ht]
  have hsome {r : Tracking} (ht : (s.axis a).tracking = some r) :=
    State.goOn_tracking (s := u) (a := a) (by rw [hl]; exact ht) (by rw [hl]; exact hk) (by rw [hl]; exact hlaw.2.2.2.2.2 r ht)
  rw [hl] at hpos hkn hrec hsome
  have hask := (u.goOn a).askStage_axis a v.toInt
  have hev := State.askStage_evals (s := u.goOn a) (a := a) (c := c) (by rw [hrec]; exact hb) v.toInt
  have hwork := (u.goOn a).works_askStage a v.toInt
  generalize (u.goOn a).askStage a v.toInt = w at *
  have haxis : ((w.restartLease (w.groupOf a)).enterReply p tag 57 .done).axis a = w.axis a := rfl
  refine ⟨(w.restartLease (w.groupOf a)).enterReply p tag 57 .done, ⟨v.toInt, .single, (u.goOn a).serial⟩,
    exec_answered (q := .slew a.val 1 v) rfl rfl hr (congrArg now he), State.enterReply_reply .., ?_⟩
  rw [haxis, hask]
  refine ⟨rfl, rfl, rfl, ⟨_, hev, rfl, rfl, rfl⟩, fun hf => ?_, hpos, hkn.trans hk, hrec, fun ht => ?_, fun r ht => ?_⟩
  · have hbind : ((u.goOn a).axis a).record.binding = some c := by
      rw [hrec]
      exact hb
    simp [Axis.asking, State.axisInFlight_congr hleave.inFlight, hflight, hf, hbind]
  · rw [hnone ht, hl]
    exact ⟨rfl, rfl⟩
  · obtain ⟨hroll, htr, hgo⟩ := hsome ht
    exact ⟨htr, hroll.alike hfirst (hwork.settlesAlike.trans (w.settlesAlike_answered ..)), hgo⟩

/-! ## The result of a staged slew (R74, R94) -/

/-- An axis whose stage pending a single slew owns keeps it where a part in a group motion ends. -/
theorem State.endMember_axis_single {s : State} {b : AxisId} {st : StagePending} (h : (s.axis b).stage = some st)
    (ho : st.owner = .single) (a : AxisId) (o : MemberOutcome) (c : EndCause) (q : Bool) :
    (s.endMember a o c q).axis b = s.axis b := by
  have fold (t : State) (ht : t.axis b = s.axis b) (g : GroupId) (m : GroupMotion) : (t.endMemberStages g m q).axis b = s.axis b := by
    unfold State.endMemberStages
    split
    · refine foldl_keeps (P := fun t => t.axis b = s.axis b) (fun t x ht => ?_) _ t ht
      split
      · rename_i st' hst
        split
        · rename_i hown
          rw [State.endStage_axis, if_neg, ht]
          rintro ⟨rfl, _⟩
          rw [ht, h] at hst
          cases hst
          rw [ho] at hown
          cases hown
        · exact ht
      · exact ht
    · exact ht
  unfold State.endMember
  split
  · rfl
  · rw [State.failMotion_eq]
    split
    · exact fold (s.setMotion _ _) rfl _ _
    · exact fold (s.setMotion _ _) rfl _ _

section Result

variable {s : State} {f : InFlight} {a : AxisId} {st : StagePending} (hf : s.inFlight = some f) (hw : f.who = .axis a .stage)
  (hd : (s.axis a).discard = false) (hst : (s.axis a).stage = some st) (ho : st.owner = .single)
include hf hw hd hst ho

theorem State.completeEvaluation_staged :
    s.completeEvaluation = ({ s with inFlight := none } : State).takeStageSingle a st f := by
  have hdeliver : ({ s with inFlight := none } : State).deliverAxis a .stage f =
      ({ s with inFlight := none } : State).takeStageSingle a st f := by
    unfold State.deliverAxis
    rw [show ({ s with inFlight := none } : State).axis a = s.axis a from rfl]
    dsimp only
    rw [hd, hst]
    dsimp only
    rw [if_neg Bool.false_ne_true, ho]
  unfold State.completeEvaluation
  rw [hf]
  dsimp only
  rw [hw]
  exact hdeliver

end Result

theorem State.endStage_single {s : State} {a : AxisId} {st : StagePending} (hst : (s.axis a).stage = some st) (ho : st.owner = .single) :
    s.endStage a .uncovered false =
      (s.setAxis a { s.axis a with stage := none, lastStage := .uncovered }).raise (.done (.stage st.serial)) ∧
    s.endStage a .outOfRange false =
      (s.setAxis a { s.axis a with stage := none, lastStage := .outOfRange }).raise (.failed (.stage st.serial)) := by
  unfold State.endStage
  rw [hst]
  dsimp only
  rw [ho]
  exact ⟨rfl, rfl⟩

theorem outsideSoft_iff (x : Axis) (g : Int) :
    x.outsideSoft g = true ↔ ∃ lo hi, x.record.soft = some (lo, hi) ∧ (g < lo ∨ hi < g) := by
  unfold Axis.outsideSoft
  cases x.record.soft with
  | none => simp
  | some lu => obtain ⟨l, u⟩ := lu; simp

/-- The staged target of a covered result, by the kind of the axis (R74). -/
theorem stagedTarget_eq {x : Axis} {c : Covered} {g : Int} (hl : x.record.kind = .limited → g = x.stepsOf c.reduced)
    (hc : x.record.kind = .continuous → g = x.extendedTarget ((x.stepsOf c.reduced).emod x.record.stepsPerTurn)) :
    x.stagedTarget c = g ∧ x.stepsOf (x.angleFor c.reduced g) = g ∧ ∃ n : Int, x.angleFor c.reduced g = c.reduced + n * 2 ^ 32 := by
  refine ⟨?_, angleFor_spec hl fun hk => ?_⟩
  · unfold Axis.stagedTarget
    cases hk : x.record.kind with
    | limited => exact (hl hk).symm
    | continuous => exact (hc hk).symm
  · rw [hc hk]
    exact dvd_stagedTarget hk _

/-- Settles O33: the request by `stagedSlew_asks`, its result by `State.completeEvaluation_staged`. -/
theorem stagedSlewAsksForItsAngle : Obligations.StagedSlewAsksForItsAngle := by
  refine ⟨fun x n k hc hn hk => ?_, stagedSlew_asks, fun s f a x st hrun hf hw hx hd hst ho => ?_⟩
  · obtain ⟨heq, hext⟩ := extendedTarget_wrap x n hc
    obtain ⟨hmod, hs, hp, hm⟩ := wrapTarget_spec _ _ _ n _ k hn hext (hk.trans heq)
    exact ⟨hmod, hs, fun h => hp (by rw [h]; rfl), fun h => hm (by rw [h]; rfl)⟩
  subst hx
  have hexec : exec .evaluationComplete s = .next (({ s with inFlight := none } : State).takeStageSingle a st f).drain := by
    rw [← State.completeEvaluation_staged hf hw hd hst ho]
    exact exec_event_running (f := fun s => s.completeEvaluation) rfl hrun
  obtain ⟨huncovered, hout⟩ := State.endStage_single (s := { s with inFlight := none }) hst ho
  refine ⟨fun r hres => ?_, fun c g hres hl hc => ?_⟩
  · unfold State.takeStageSingle at hexec
    rw [hres] at hexec
    dsimp only at hexec
    rw [huncovered] at hexec
    exact hexec
  · obtain ⟨htarget, hsteps, hturns⟩ := stagedTarget_eq hl hc
    have htake : ({ s with inFlight := none } : State).takeStageSingle a st f =
        if (s.axis a).stageBlocked g then
          (({ s with inFlight := none } : State).endStage a .outOfRange false).notifyAxis .axisClamped a
        else (({ s with inFlight := none } : State).endMember a .ended .memberEnded false).slewSingle a g
          (some ((s.axis a).stagedRecord st.epoch g c)) := by
      unfold State.takeStageSingle
      rw [hres]
      dsimp only
      rw [show (({ s with inFlight := none } : State).axis a).stagedTarget c = g from htarget]
      rfl
    rw [htake] at hexec
    refine ⟨fun hblock => ?_, fun hsoft hmem hk hm => ?_⟩
    · have hb : (s.axis a).stageBlocked g = true := Bool.or_eq_true_iff.mpr (hblock.imp (outsideSoft_iff _ _).mpr id)
      rw [if_pos hb, hout] at hexec
      exact hexec
    · have hinside : (s.axis a).outsideSoft g = false := Bool.eq_false_iff.mpr fun c => by
        obtain ⟨lo, hi, h, hlu⟩ := (outsideSoft_iff _ _).mp c
        have := hsoft lo hi h
        omega
      have hb : ¬ (s.axis a).stageBlocked g = true := by
        unfold Axis.stageBlocked
        rw [hinside, hmem]
        exact Bool.false_ne_true
      have hself : (({ s with inFlight := none } : State).endMember a .ended .memberEnded false).axis a = s.axis a :=
        State.endMember_axis_single (s := { s with inFlight := none }) hst ho a .ended .memberEnded false
      have hserial := (({ s with inFlight := none } : State).endsStages_endMember a .ended .memberEnded false).serial
      rw [if_neg hb] at hexec
      generalize ({ s with inFlight := none } : State).endMember a .ended .memberEnded false = w at *
      have hmay : (w.axis a).mayTake g = true := by
        rw [hself]
        exact Axis.mayTake_of_allows hk fun lo hi h => hsoft lo hi h
      unfold State.slewSingle at hexec
      rw [hself] at hexec
      refine ⟨_, w.newTarget g (some ((s.axis a).stagedRecord st.epoch g c)) (s.axis a).record.limitSq (s.axis a).record.accel2,
        (s.axis a).stagedRecord st.epoch g c, hexec, ?_, rfl, rfl, rfl, hserial, rfl, rfl, rfl, hsteps, hturns⟩
      rw [State.slewTo_moves _ _ _ hmay (by rw [hself]; exact hm), if_pos rfl, hself]
      rfl

end Sys2Proof.Machine
end

section
/-! PROOFS. Track and Stop (04 R76, R77, R81, 09 R187: O34): an axis enters TRACKING, an axis comes to rest, a return sequence that
loses a homing. -/

namespace Sys2Proof.Machine

/-! ## An axis joins the roll (R12) -/

section Join

variable (s : State) (a : AxisId)

theorem State.leaves_rollJoin : s.Leaves (s.rollJoin a) := by
  unfold State.rollJoin
  split
  · exact ⟨rfl, fun _ h => h, fun _ _ _ => rfl⟩
  · exact .refl s

theorem State.rollJoin_axis (b : AxisId) : (s.rollJoin a).axis b = s.axis b := by
  unfold State.rollJoin
  split <;> rfl

theorem State.rollJoin_clock : (s.rollJoin a).clock.epoch = s.clock.epoch := by
  unfold State.rollJoin
  split <;> rfl

variable {s} in
theorem State.mem_rollJoin (h : s.clock.state = .settling) : a ∈ (s.rollJoin a).clock.roll := by
  unfold State.rollJoin
  split
  · exact List.mem_append_right _ (List.mem_singleton.mpr rfl)
  · rename_i c
    by_contra hn
    exact c ⟨h, hn⟩

theorem State.leaves_settledReport (e : Int) : s.Leaves (s.settledReport a e) := by
  unfold State.settledReport
  split
  · exact s.leaves_rollLeave a
  · exact .refl s

theorem State.settledReport_axis (e : Int) (b : AxisId) : (s.settledReport a e).axis b = s.axis b := by
  unfold State.settledReport
  split
  · exact s.rollLeave_axis a b
  · rfl

end Join

/-! ## Entering TRACKING (R77) -/

/-- The axis as Track takes it. -/
def Axis.startTracking (x : Axis) (l : StageOutcome) (e : Int) : Axis :=
  { x with
    state := .tracking, tracking := some (x.newTracking e), stopping := none, stagedAt := none, target := none, stage := none
    lastStage := l }

section Track

variable (s : State) (a : AxisId)

/-- The axis's part in a stage or group motion and its slew end. -/
def State.freed : State := (s.endPart a).endSlew a false

theorem State.works_freed : s.Works (s.freed a) := (s.endsStages_endPart a).toWorks.trans (State.works_endSlew ..)

theorem State.freed_self : ∃ l, (s.freed a).axis a = { s.axis a with stage := none, lastStage := l, target := none } := by
  obtain ⟨l, hl⟩ := s.endPart_self a
  refine ⟨l, ?_⟩
  unfold State.freed
  rw [State.endSlew_axis_eq, if_pos rfl, hl]

variable {a} in
theorem State.freed_other {b : AxisId} (h : b ≠ a) : (s.axis b).StageEnds ((s.freed a).axis b) := by
  unfold State.freed
  rw [State.endSlew_axis_eq, if_neg h]
  exact (s.endsStages_endPart a).axis b

/-- The tracking record the axis enters TRACKING with. -/
theorem State.freed_newTracking : ((s.freed a).axis a).newTracking (s.freed a).clock.epoch = (s.axis a).newTracking s.clock.epoch := by
  obtain ⟨l, hl⟩ := s.freed_self a
  rw [hl, (s.works_freed a).clock]
  rfl

/-- The axis follows its channel. -/
def State.beginTracking : State :=
  (s.freed a).modAxis a fun x =>
    { x with state := .tracking, tracking := some (((s.freed a).axis a).newTracking (s.freed a).clock.epoch), stopping := none
             stagedAt := none }

theorem State.works_beginTracking : s.Works (s.beginTracking a) := (s.works_freed a).trans (State.works_modAxis ..)

theorem State.beginTracking_self : ∃ l, (s.beginTracking a).axis a = (s.axis a).startTracking l s.clock.epoch := by
  obtain ⟨l, hl⟩ := s.freed_self a
  refine ⟨l, ?_⟩
  unfold State.beginTracking
  rw [State.modAxis_axis_self, State.freed_newTracking, hl]
  rfl

variable {a} in
theorem State.beginTracking_other {b : AxisId} (h : b ≠ a) : (s.axis b).StageEnds ((s.beginTracking a).axis b) := by
  unfold State.beginTracking
  rw [State.modAxis_axis_of_ne _ _ h]
  exact s.freed_other h

/-- Entering TRACKING before the angle is asked for. -/
def State.joinTracking : State :=
  if (((s.freed a).axis a).newTracking (s.freed a).clock.epoch).settled then
    ((s.beginTracking a).rollJoin a).settledReport a ((s.beginTracking a).rollJoin a).clock.epoch
  else (s.beginTracking a).rollJoin a

theorem State.leaves_joinTracking : s.Leaves (s.joinTracking a) := by
  have hjoin := (s.works_beginTracking a).leaves.trans (State.leaves_rollJoin _ a)
  unfold State.joinTracking
  split
  · exact hjoin.trans (State.leaves_settledReport ..)
  · exact hjoin

theorem State.joinTracking_axis (b : AxisId) : (s.joinTracking a).axis b = (s.beginTracking a).axis b := by
  unfold State.joinTracking
  split
  · rw [State.settledReport_axis, State.rollJoin_axis]
  · rw [State.rollJoin_axis]

theorem State.joinTracking_epoch : (s.joinTracking a).clock.epoch = s.clock.epoch := by
  rw [(s.leaves_joinTracking a).clock]

variable {s a}

theorem State.trackAxis_eq (h : (s.axis a).known = true) :
    s.trackAxis a = (s.joinTracking a).requestAngle a s.clock.epoch .track true := by
  have heq : s.trackAxis a = (s.joinTracking a).requestAngle a (s.joinTracking a).clock.epoch .track true := by
    unfold State.trackAxis
    rw [h]
    rfl
  rw [heq, State.joinTracking_epoch]

/-- An axis with its position unknown is not taken. -/
theorem State.trackAxis_unknown (h : (s.axis a).known = false) : s.trackAxis a = s := by
  unfold State.trackAxis
  rw [h]
  rfl

variable (s a) in
theorem State.leaves_trackAxis : s.Leaves (s.trackAxis a) := by
  cases h : (s.axis a).known with
  | false =>
    rw [State.trackAxis_unknown h]
    exact .refl s
  | true =>
    rw [State.trackAxis_eq h]
    exact (s.leaves_joinTracking a).trans (State.works_requestAngle ..).leaves

theorem State.trackAxis_self (h : (s.axis a).known = true) : ∃ l, (s.trackAxis a).axis a =
    ((s.axis a).startTracking l s.clock.epoch).asking (s.axisInFlight a) true := by
  obtain ⟨l, hl⟩ := s.beginTracking_self a
  refine ⟨l, ?_⟩
  rw [State.trackAxis_eq h, State.requestAngle_axis, if_pos rfl, State.joinTracking_axis, hl,
    State.axisInFlight_congr (s.leaves_joinTracking a).inFlight]

theorem State.trackAxis_other {b : AxisId} (h : b ≠ a) : (s.axis b).StageEnds ((s.trackAxis a).axis b) := by
  cases hk : (s.axis a).known with
  | false =>
    rw [State.trackAxis_unknown hk]
    exact .refl _
  | true =>
    rw [State.trackAxis_eq hk, State.requestAngle_axis, if_neg h, State.joinTracking_axis]
    exact s.beginTracking_other h

theorem State.endSlew_evals (s : State) (a : AxisId) (q : Bool) : (s.endSlew a q).evals = s.evals := by
  unfold State.endSlew
  split
  · dsimp only
    split <;> rfl
  · rfl

theorem State.rollLeave_evals (s : State) (a : AxisId) : (s.rollLeave a).evals = s.evals := by
  unfold State.rollLeave
  split
  · exact State.settleTest_evals _
  · rfl

theorem State.settledReport_evals (s : State) (a : AxisId) (e : Int) : (s.settledReport a e).evals = s.evals := by
  unfold State.settledReport
  split
  · exact s.rollLeave_evals a
  · rfl

variable (s a) in
theorem State.joinTracking_evals : (s.joinTracking a).evals = s.evals := by
  have hfreed : (s.freed a).evals = s.evals := (State.endSlew_evals ..).trans (s.endsStages_endPart a).evals
  have hroll : ((s.beginTracking a).rollJoin a).evals = s.evals := by
    unfold State.rollJoin
    split <;> exact hfreed
  unfold State.joinTracking
  split
  · rw [State.settledReport_evals, hroll]
  · exact hroll

theorem State.trackAxis_evals (h : (s.axis a).known = true) :
    (s.trackAxis a).evals = evalsWith a (s.axis a).record.binding s.clock.epoch .track s.evals := by
  obtain ⟨l, hl⟩ := s.beginTracking_self a
  rw [State.trackAxis_eq h, State.requestAngle_eq, State.joinTracking_axis, hl, State.joinTracking_evals]
  rfl

/-- An axis that acquires stands on the roll while the clock settles (R12). -/
theorem State.trackAxis_roll (h : (s.axis a).known = true) (hs : ((s.axis a).newTracking s.clock.epoch).settled = false)
    (hc : s.clock.state = .settling) : a ∈ (s.trackAxis a).clock.roll := by
  have hclock : (s.trackAxis a).clock = ((s.beginTracking a).rollJoin a).clock := by
    rw [State.trackAxis_eq h, (State.works_requestAngle ..).clock]
    unfold State.joinTracking
    rw [State.freed_newTracking, hs]
    rfl
  rw [hclock]
  exact State.mem_rollJoin a (by rw [(s.works_beginTracking a).clock]; exact hc)

end Track

/-! ## The tracking record of Track (R77, R83) -/

theorem held_none {x : Axis} (h : x.record.soft = none) (k : Int) : x.held k = (k, false) := by
  unfold Axis.held
  rw [h]

theorem held_some {x : Axis} {lo hi : Int} (h : x.record.soft = some (lo, hi)) (hlt : lo < hi) (k : Int) :
    (x.held k).1 = max lo (min hi k) ∧ ((x.held k).2 = true ↔ k < lo ∨ hi < k) := by
  unfold Axis.held
  rw [h]
  dsimp only
  split
  · exact ⟨by dsimp only; omega, by simp; omega⟩
  · split
    · exact ⟨by dsimp only; omega, by simp; omega⟩
    · exact ⟨by dsimp only; omega, by simp; omega⟩

/-- The record of an axis staged at this epoch, and of one that acquires. -/
theorem newTracking_cases (x : Axis) (e : Int) :
    (x.newTracking e).target = (x.held x.extended).1 ∧ (x.newTracking e).lagging = false ∧ (x.newTracking e).clamped = false ∧
      (x.newTracking e).uncovered = false ∧
      (∀ y, x.stagedAt = some y → y.epoch = e → (x.newTracking e).acquire = false ∧ (x.newTracking e).settled = true ∧
        (x.newTracking e).angle = y.angle ∧ (x.newTracking e).last = some y.result) ∧
      (x.stagedAt.map StagedAt.epoch ≠ some e → (x.newTracking e).acquire = true ∧ (x.newTracking e).settled = false) := by
  unfold Axis.newTracking
  cases h : x.stagedAt with
  | none => exact ⟨rfl, rfl, rfl, rfl, fun _ c => absurd c (by simp), fun _ => ⟨rfl, rfl⟩⟩
  | some sa =>
    dsimp only
    by_cases he : sa.epoch = e
    · rw [if_pos he]
      refine ⟨rfl, rfl, rfl, rfl, fun y hy _ => ?_, fun c => absurd (congrArg some he) c⟩
      cases hy
      exact ⟨rfl, rfl, rfl, rfl⟩
    · rw [if_neg he]
      refine ⟨rfl, rfl, rfl, rfl, fun y hy hye => ?_, fun _ => ⟨rfl, rfl⟩⟩
      cases hy
      exact absurd hye he

/-! ## The return sequence loses a homing (R187) -/

section HomingLost

theorem State.clearMarks_only (s : State) : s.clearMarks = { s with axes := s.clearMarks.axes } := by
  unfold State.clearMarks
  refine foldl_keeps (P := fun t => t = { s with axes := t.axes }) (fun t _ h => ?_) _ s rfl
  rw [h]
  rfl

theorem State.clearMarks_axis (s : State) (a : AxisId) : s.clearMarks.axis a = { s.axis a with resumeMark := false } := by
  have hget := foldl_get State.axis (f := fun s a => s.modAxis a fun x => { x with resumeMark := false })
    (g := fun _ x => { x with resumeMark := false }) (P := fun _ => True) (fun _ _ h => h)
    (fun t a b _ => State.modAxis_axis t a b _) a allAxes s (by decide) trivial
  rwa [if_pos (mem_allAxes a)] at hget

/-- The axes after the marks are cleared, whatever clock, power and notices follow. -/
theorem State.abandoned_axis (s : State) (c : Clock) (d : DrivePower) (k : NoticeKind) (r : Resource) (n : Option Nat) (u : Bool)
    (b : AxisId) : (((s.clearMarks.withClock c).withPower d).notify k r n u).axis b = { s.axis b with resumeMark := false } := by
  rw [State.axis_notify, State.axis_of_axes (State.withPower_axes ..), State.axis_of_axes (State.withClock_axes ..), s.clearMarks_axis]

/-- A return sequence abandoned: the marks and the flag are cleared and RESUME_ABANDONED is told. -/
theorem State.abandonReturn_eq {s : State} {q : ReturnRecord} (h : s.power.sequence = some q) (n : Option AxisId) :
    s.abandonReturn n = (((s.clearMarks.withClock { s.clock with wasRunning := false }).withPower
      { s.power with sequence := none, outcome := .abandoned }).notify .resumeAbandoned .sky (n.map Fin.val)) := by
  unfold State.abandonReturn
  rw [h]
  dsimp only
  rw [s.clearMarks_only]
  rfl

theorem State.abandonReturn_none {s : State} (h : s.power.sequence = none) (n : Option AxisId) : s.abandonReturn n = s := by
  unfold State.abandonReturn
  rw [h]

variable (s : State) (a : AxisId)

theorem State.homingLost_cases : (s.homingLost a = s ∧ ∀ q, s.power.sequence = some q → (a, false) ∉ q.members) ∨
    ∃ q, s.power.sequence = some q ∧ (a, false) ∈ q.members ∧ s.homingLost a = s.abandonReturn (some a) := by
  unfold State.homingLost
  cases h : s.power.sequence with
  | none => exact .inl ⟨rfl, fun _ c => absurd c (by simp)⟩
  | some q =>
    dsimp only
    by_cases hm : (a, false) ∈ q.members
    · exact .inr ⟨q, rfl, hm, if_pos hm⟩
    · exact .inl ⟨if_neg hm, fun r hr => by cases hr; exact hm⟩

/-- What the loss of a homing may change: resume marks, the flag of a running sky, the return record, and RESUME_ABANDONED. -/
structure State.Abandons (s t : State) : Prop where
  only : t = { s with
    axes := t.axes, clock := { s.clock with wasRunning := t.clock.wasRunning }, ports := t.ports
    power := { s.power with sequence := t.power.sequence, outcome := t.power.outcome } }
  axis : ∀ b, t.axis b = { s.axis b with resumeMark := (t.axis b).resumeMark }
  entry : ∀ q k, k ≠ .resumeAbandoned → t.entry q k = s.entry q k

theorem State.Abandons.refl (s : State) : s.Abandons s := ⟨rfl, fun _ => rfl, fun _ _ _ => rfl⟩

theorem State.abandons_abandonReturn (n : Option AxisId) : s.Abandons (s.abandonReturn n) := by
  cases h : s.power.sequence with
  | none =>
    rw [State.abandonReturn_none h]
    exact .refl s
  | some q =>
    rw [State.abandonReturn_eq h]
    refine ⟨?_, fun b => ?_, fun q k hk => ?_⟩
    · rw [notify_ports, s.clearMarks_only]
      rfl
    · rw [s.abandoned_axis]
    · rw [State.notify_entry_of_ne _ hk, s.clearMarks_only]
      rfl

theorem State.abandons_homingLost : s.Abandons (s.homingLost a) := by
  rcases s.homingLost_cases a with ⟨h, _⟩ | ⟨q, _, _, h⟩
  · rw [h]
    exact .refl s
  · rw [h]
    exact s.abandons_abandonReturn _

/-- R187: the end of a homing other than by completion, as `State.homingEnds` states it. -/
theorem State.homingEnds_homingLost : s.homingEnds (s.homingLost a) a := by
  intro q hq
  rcases s.homingLost_cases a with ⟨h, hn⟩ | ⟨r, hr, hm, h⟩
  · rw [h]
    exact ⟨fun _ => hq, fun c => absurd c (hn q hq)⟩
  · obtain rfl : q = r := Option.some.inj (hq.symm.trans hr)
    rw [h, State.abandonReturn_eq hq]
    refine ⟨fun c => absurd hm c, fun _ => ⟨?_, ?_, ?_, fun b => ?_, fun p hp => ?_⟩⟩
    · rw [State.notify_power]
      rfl
    · rw [State.notify_power]
      rfl
    · rw [State.notify_clock]
      rfl
    · rw [s.abandoned_axis]
    · refine ⟨_, State.notify_entry_routed _ ?_ _ _, NoticeEntry.after_subject ..⟩
      rw [s.clearMarks_only]
      exact hp

/-- The end of a homing, told of a state before that has the same return record and routing, and of a state after that kept the
effects. -/
theorem State.homingEnds.alike {s s' t t' : State} {a : AxisId} (h : s'.homingEnds t' a) (hs : s'.power.sequence = s.power.sequence)
    (hr : ∀ k r, s'.routedPorts k r = s.routedPorts k r) (hp : t.power = t'.power) (hc : t.clock.wasRunning = t'.clock.wasRunning)
    (hm : ∀ b, (t.axis b).resumeMark = (t'.axis b).resumeMark) (he : ∀ q, t.entry q .resumeAbandoned = t'.entry q .resumeAbandoned) :
    s.homingEnds t a := by
  unfold State.homingEnds at *
  change ∀ q, s.power.sequence = some q → ((a, false) ∉ q.members → t.power.sequence = some q) ∧
    ((a, false) ∈ q.members → t.power.sequence = none ∧ t.power.outcome = .abandoned ∧ t.clock.wasRunning = false ∧
      (∀ b, (t.axis b).resumeMark = false) ∧
      ∀ p ∈ s.routedPorts .resumeAbandoned .sky, ∃ e, t.entry p .resumeAbandoned = some e ∧ e.subject = some a.val)
  rw [hp, hc, ← hs, ← hr]
  simp only [hm, he]
  exact h

end HomingLost

end Sys2Proof.Machine
end

section
/-! PROOFS. Track and Stop as requests (04 R76, R77: O34). -/

namespace Sys2Proof.Machine

/-! ## Coming to rest (R76) -/

/-- The rest state a STOPPING of the axis takes (R76). -/
def Axis.restOf (x : Axis) : RestState := if x.state = .homing then .unreferenced else .standing

/-- An axis that has left its work, brought to rest: at once without speed or with IMMEDIATE, else by a deceleration. -/
def Axis.toStop (x : Axis) (decel : Option Nat) (rest : RestState) : Axis :=
  if decel = none ∨ x.speedSq = 0 then x.atRest rest
  else { x with state := .stopping, target := none, stopping := some ⟨decel, rest⟩, tracking := none }

section EnterStopping

variable (s : State) (a : AxisId) (decel : Option Nat) (q : Bool)

theorem State.enterStopping_eq :
    s.enterStopping a decel q = (s.leaveWork a q).modAxis a (·.toStop decel (s.axis a).restOf) := rfl

theorem State.leaves_enterStopping : s.Leaves (s.enterStopping a decel q) := by
  rw [State.enterStopping_eq]
  exact (s.leaves_leaveWork a q).trans (State.works_modAxis ..).leaves

theorem State.leavesRoll_enterStopping : s.leavesRoll (s.enterStopping a decel q) a := by
  rw [State.enterStopping_eq]
  exact (s.leavesRoll_leaveWork a q).alike (.refl s) (State.works_modAxis ..).settlesAlike

theorem State.enterStopping_self :
    ∃ l, (s.enterStopping a decel q).axis a = ((s.axis a).idle l).toStop decel (s.axis a).restOf := by
  obtain ⟨l, hl⟩ := s.leaveWork_self a q
  refine ⟨l, ?_⟩
  rw [State.enterStopping_eq, State.modAxis_axis_self, hl]

variable {a} in
theorem State.enterStopping_other {b : AxisId} (h : b ≠ a) : (s.axis b).StageEnds ((s.enterStopping a decel q).axis b) := by
  rw [State.enterStopping_eq, State.modAxis_axis_of_ne _ _ h]
  exact s.leaveWork_other q h

end EnterStopping

theorem Axis.toStop_rest {x : Axis} {decel : Option Nat} (h : decel = none ∨ x.speedSq = 0) (r : RestState) :
    x.toStop decel r = x.atRest r := if_pos h

theorem Axis.toStop_moving {x : Axis} {k : Nat} (h : x.speedSq ≠ 0) (r : RestState) : x.toStop (some k) r =
    { x with state := .stopping, target := none, stopping := some ⟨some k, r⟩, tracking := none } :=
  if_neg fun c => c.elim (by simp) h

theorem Axis.atRest_state (x : Axis) (r : RestState) : (x.atRest r).state = r.state := by cases r <;> rfl

/-! ## Stop (R76, R187) -/

theorem State.stopAxis_idle {s : State} {a : AxisId} (h : (s.axis a).state.stops = false) : s.stopAxis a = s := by
  unfold State.stopAxis
  rw [h]
  rfl

theorem State.stopAxis_homing {s : State} {a : AxisId} (h : (s.axis a).state = .homing) :
    s.stopAxis a = (s.enterStopping a (some (s.axis a).record.stopDecel) false).homingLost a := by
  unfold State.stopAxis
  rw [h]
  rfl

theorem State.stopAxis_moving {s : State} {a : AxisId} (h : (s.axis a).state ∈ [.slewing, .tracking]) :
    s.stopAxis a = s.enterStopping a (some (s.axis a).record.stopDecel) false := by
  unfold State.stopAxis
  rcases List.mem_pair.mp h with h | h <;> (rw [h]; rfl)

/-- An axis as a Stop leaves it, but for its resume mark. -/
theorem State.stopAxis_self {s : State} {a : AxisId} (h : (s.axis a).state.stops = true) : ∃ l b, (s.stopAxis a).axis a =
    { ((s.axis a).idle l).toStop (some (s.axis a).record.stopDecel) (s.axis a).restOf with resumeMark := b } := by
  obtain ⟨l, hl⟩ := s.enterStopping_self a (some (s.axis a).record.stopDecel) false
  by_cases hh : (s.axis a).state = .homing
  · refine ⟨l, (((s.enterStopping a (some (s.axis a).record.stopDecel) false).homingLost a).axis a).resumeMark, ?_⟩
    rw [State.stopAxis_homing hh, (State.abandons_homingLost _ a).axis a, hl]
  · refine ⟨l, (((s.axis a).idle l).toStop (some (s.axis a).record.stopDecel) (s.axis a).restOf).resumeMark, ?_⟩
    have hm : (s.axis a).state ∈ [AxisState.slewing, .tracking] := by
      revert h hh
      cases (s.axis a).state <;> decide
    rw [State.stopAxis_moving hm, hl]

theorem State.homingEnds_stopAxis {s : State} {a : AxisId} (h : (s.axis a).state = .homing) : s.homingEnds (s.stopAxis a) a := by
  have hleave := s.leaves_enterStopping a (some (s.axis a).record.stopDecel) false
  rw [State.stopAxis_homing h]
  exact (State.homingEnds_homingLost _ a).alike (by rw [hleave.power]) hleave.routedPorts rfl rfl (fun _ => rfl) fun _ => rfl

/-! ## Requests on an axis that are answered OK -/

section AxisOk

variable {s u : State} {p : Port} {tag : Byte} {q : Request} {i : Instr} {a : AxisId}

/-- A request on an axis carried out at a READY port: the reply OK, behind the restart of the group's lease. -/
theorem axisOk_answered (hi : i.request = some q) (hsend : i.sender = some (p, tag)) (hr : s.ready p)
    (e : serve p q (s.outstand p tag (requestByte q)) = now (axisOk a u)) :
    exec i s = .next ((u.restartLease (u.groupOf a)).enterReply p tag (requestByte q) .done).drain :=
  exec_answered hi hsend hr e

/-- A request on an axis that is answered OK and changes nothing else. -/
theorem axisOk_unchanged (hi : i.request = some q) (hsend : i.sender = some (p, tag)) (hr : s.ready p)
    (e : serve p q (s.outstand p tag (requestByte q)) = now (axisOk a (s.outstand p tag (requestByte q)))) :
    Answers i s ((s.restartLease (.group (s.axis a).record.group)).replied p tag (requestCode q) .done) :=
  answers_changed hi hsend hr e

/-- The end of a homing, as the request that ends it leaves it. -/
theorem homingEnds_answered {c : Byte} (h : (s.outstand p tag c).homingEnds u a) (x : Resource) (r : Reply) :
    s.homingEnds ((u.restartLease x).enterReply p tag c r) a :=
  h.alike rfl (fun _ _ => rfl) rfl rfl (fun _ => rfl) fun _ => State.enterReply_entry ..

end AxisOk

/-! ## Track (R77) -/

theorem trackable_iff (q : AxisState) : q.trackable = true ↔ q ∈ [AxisState.standing, .slewing, .stopping] := by
  cases q <;> decide

section Refusal

variable {x : Axis}

theorem trackRefusal_state (h : x.state ∉ [.standing, .slewing, .tracking, .stopping]) : x.trackRefusal = some .state := by
  unfold Axis.trackRefusal
  refine if_pos ?_
  revert h
  cases x.state <;> decide

variable (h : x.state ∈ [.standing, .slewing, .tracking, .stopping])
include h

theorem trackRefusal_taken : x.trackRefusal =
    if !x.known then some .notReferenced
    else if x.record.binding = none then some .state
    else if x.state ≠ .tracking ∧ x.activeMemory.isSome then some .range
    else none := by
  unfold Axis.trackRefusal
  refine if_neg ?_
  revert h
  cases x.state <;> decide

theorem trackRefusal_unknown (hk : x.known = false) : x.trackRefusal = some .notReferenced := by
  rw [trackRefusal_taken h, hk]
  rfl

theorem trackRefusal_unbound (hk : x.known = true) (hb : x.record.binding = none) : x.trackRefusal = some .state := by
  rw [trackRefusal_taken h, hk, hb]
  rfl

theorem trackRefusal_limit (hk : x.known = true) (hb : x.record.binding ≠ none) (hs : x.state ≠ .tracking)
    (hm : x.activeMemory ≠ none) : x.trackRefusal = some .range := by
  rw [trackRefusal_taken h, hk, if_neg (by decide), if_neg hb, if_pos ⟨hs, Option.isSome_iff_ne_none.mpr hm⟩]

theorem trackRefusal_none (hk : x.known = true) (hb : x.record.binding ≠ none) (hm : x.state = .tracking ∨ x.activeMemory = none) :
    x.trackRefusal = none := by
  rw [trackRefusal_taken h, hk, if_neg (by decide), if_neg hb, if_neg]
  rintro ⟨hs, hsome⟩
  rcases hm with hm | hm
  · exact hs hm
  · rw [hm] at hsome
    exact Bool.false_ne_true hsome

end Refusal

section TrackRequest

variable {s : State} {p : Port} {a : AxisId} (h : s.holds p (s.groupOf a) = true) (hh : s.held = false)
include h hh

theorem track_refused {st : Status} (hr : (s.axis a).trackRefusal = some st) : track p a.val s = refuse st s := by
  unfold track
  rw [onAxis_taken h hh, hr]

theorem track_already (hr : (s.axis a).trackRefusal = none) (hs : (s.axis a).state = .tracking) : track p a.val s = axisOk a s := by
  unfold track
  rw [onAxis_taken h hh, hr]
  exact if_pos hs

theorem track_starts (hr : (s.axis a).trackRefusal = none) (hs : (s.axis a).state ≠ .tracking) :
    track p a.val s = axisOk a (s.trackAxis a) := by
  unfold track
  rw [onAxis_taken h hh, hr]
  exact if_neg hs

theorem stop_refused (hs : (s.axis a).state ∈ [.unconfigured, .faulted]) : stop p a.val s = refuse .state s := by
  unfold stop
  rw [onAxis_taken h hh]
  rcases List.mem_pair.mp hs with hs | hs <;> rw [hs]

theorem stop_stands (hs : (s.axis a).state ∈ [.disabled, .unreferenced, .standing, .stopping]) : stop p a.val s = axisOk a s := by
  simp only [List.mem_cons, List.not_mem_nil, or_false] at hs
  unfold stop
  rw [onAxis_taken h hh]
  rcases hs with hs | hs | hs | hs <;> rw [hs]

theorem stop_stops (hs : (s.axis a).state ∈ [.slewing, .tracking, .homing]) : stop p a.val s = axisOk a (s.stopAxis a) := by
  simp only [List.mem_cons, List.not_mem_nil, or_false] at hs
  unfold stop
  rw [onAxis_taken h hh]
  rcases hs with hs | hs | hs <;> rw [hs]

end TrackRequest

/-- Track of an axis it takes. -/
theorem track_enters {s : State} {p : Port} {tag : Byte} {a : AxisId} {x : Axis} (hr : s.ready p) (hx : x = s.axis a)
    (hown : s.holderOf (.group x.record.group) = some p) (hhalt : s.power.halt.accepted = false) (hpow : s.power.state = .present)
    (hs : x.state ∈ [.standing, .slewing, .stopping]) (hk : x.known = true) {c : ChannelId} (hb : x.record.binding = some c)
    (hm : x.activeMemory = none) :
    ∃ (t : State) (r : Tracking), exec (.track p tag a.val) s = .next t.drain ∧
      (t.port p).reply = some (Reply.done.frame tag 58) ∧
      (t.axis a).state = .tracking ∧ (t.axis a).tracking = some r ∧ (t.axis a).target = none ∧
      (t.axis a).stopping = none ∧ (t.axis a).stage = none ∧ (t.axis a).stagedAt = none ∧
      (t.axis a).position = x.position ∧ (t.axis a).speedSq = x.speedSq ∧
      (x.record.soft = none → r.target = x.extended) ∧
      (∀ lo hi, x.record.soft = some (lo, hi) → lo < hi → r.target = max lo (min hi x.extended)) ∧
      r.lagging = false ∧ r.clamped = false ∧ r.uncovered = false ∧
      (∀ y, x.stagedAt = some y → y.epoch = s.clock.epoch →
        r.acquire = false ∧ r.settled = true ∧ r.angle = y.angle ∧ r.last = some y.result) ∧
      (x.stagedAt.map StagedAt.epoch ≠ some s.clock.epoch →
        r.acquire = true ∧ r.settled = false ∧ (s.clock.state = .settling → a ∈ t.clock.roll)) ∧
      ∃ f ∈ t.evals, f.who = .axis a .track ∧ f.channel = c ∧ f.epoch = some s.clock.epoch := by
  subst hx
  have hin : (s.axis a).state ∈ [AxisState.standing, .slewing, .tracking, .stopping] := by
    revert hs
    cases (s.axis a).state <;> decide
  have hne : (s.axis a).state ≠ .tracking := fun e => by
    rw [e] at hs
    revert hs
    decide
  have he := track_starts (holds_group_outstand hown tag 58) (not_held_outstand p tag 58 hhalt hpow)
    (trackRefusal_none hin hk (fun e => Option.some_ne_none c (hb.symm.trans e)) (.inr hm)) hne
  obtain ⟨htarget, hlag, hclamp, hunc, hstaged, hfresh⟩ := newTracking_cases (s.axis a) s.clock.epoch
  obtain ⟨l, hl⟩ := State.trackAxis_self (s := s.outstand p tag 58) (a := a) hk
  have hevals := State.trackAxis_evals (s := s.outstand p tag 58) (a := a) hk
  have hroll := State.trackAxis_roll (s := s.outstand p tag 58) (a := a) hk
  generalize (s.outstand p tag 58).trackAxis a = u at *
  have haxis : ((u.restartLease (u.groupOf a)).enterReply p tag 58 .done).axis a = u.axis a := rfl
  refine ⟨(u.restartLease (u.groupOf a)).enterReply p tag 58 .done, (s.axis a).newTracking s.clock.epoch,
    axisOk_answered (q := .track a.val) rfl rfl hr (congrArg now he), State.enterReply_reply .., ?_⟩
  rw [haxis, hl]
  refine ⟨rfl, rfl, rfl, rfl, rfl, rfl, rfl, rfl, fun h => ?_, fun lo hi h hlt => ?_, hlag, hclamp, hunc, hstaged, fun h => ?_,
    { who := .axis a .track, channel := c, epoch := some s.clock.epoch }, ?_, rfl, rfl, rfl⟩
  · rw [htarget, held_none h]
  · rw [htarget, (held_some h hlt _).1]
  · exact ⟨(hfresh h).1, (hfresh h).2, fun hc => hroll (hfresh h).2 hc⟩
  · show _ ∈ u.evals
    rw [hevals]
    exact (show ((s.outstand p tag 58).axis a).record.binding = some c from hb) ▸ mem_evalsWith_self ..

/-- Stop of an axis that moves. -/
theorem stop_brings_to_rest {s : State} {p : Port} {tag : Byte} {a : AxisId} {x : Axis} (hr : s.ready p) (hx : x = s.axis a)
    (hown : s.holderOf (.group x.record.group) = some p) (hhalt : s.power.halt.accepted = false) (hpow : s.power.state = .present)
    (hs : x.state ∈ [.slewing, .tracking, .homing]) (rest : RestState) (hrest : x.state = .homing → rest = .unreferenced)
    (hstand : x.state ≠ .homing → rest = .standing) :
    ∃ t : State, exec (.stop p tag a.val) s = .next t.drain ∧ (t.port p).reply = some (Reply.done.frame tag 59) ∧
      (t.axis a).target = none ∧ (t.axis a).tracking = none ∧ (t.axis a).homing = none ∧ (t.axis a).stage = none ∧
      (t.axis a).position = x.position ∧ (t.axis a).known = x.known ∧
      (x.speedSq ≠ 0 →
        (t.axis a).state = .stopping ∧ (t.axis a).stopping = some ⟨some x.record.stopDecel, rest⟩ ∧
        (t.axis a).speedSq = x.speedSq ∧ (t.axis a).direction = x.direction) ∧
      (x.speedSq = 0 →
        (t.axis a).state = rest.state ∧
        (t.axis a).stopping = none ∧ (t.axis a).direction = none) ∧
      (x.state = .tracking → s.leavesRoll t a) ∧
      (x.state = .homing → s.homingEnds t a) := by
  subst hx
  have hrestOf : (s.axis a).restOf = rest := by
    unfold Axis.restOf
    split
    · rename_i h
      exact (hrest h).symm
    · rename_i h
      exact (hstand h).symm
  have hstops : (s.axis a).state.stops = true := by
    revert hs
    cases (s.axis a).state <;> decide
  have he := stop_stops (holds_group_outstand hown tag 59) (not_held_outstand p tag 59 hhalt hpow) hs
  obtain ⟨l, b, hl⟩ := State.stopAxis_self (s := s.outstand p tag 59) (a := a) hstops
  have hroll (ht : (s.axis a).state = .tracking) : (s.outstand p tag 59).leavesRoll ((s.outstand p tag 59).stopAxis a) a := by
    rw [State.stopAxis_moving (s := s.outstand p tag 59) (a := a) (show (s.axis a).state ∈ _ by rw [ht]; decide)]
    exact State.leavesRoll_enterStopping ..
  have hhome (ht : (s.axis a).state = .homing) := State.homingEnds_stopAxis (s := s.outstand p tag 59) (a := a) ht
  generalize (s.outstand p tag 59).stopAxis a = u at *
  have haxis : ((u.restartLease (u.groupOf a)).enterReply p tag 59 .done).axis a = u.axis a := rfl
  have hl' : u.axis a = { ((s.axis a).idle l).toStop (some (s.axis a).record.stopDecel) rest with resumeMark := b } := by
    rw [← hrestOf]
    exact hl
  refine ⟨(u.restartLease (u.groupOf a)).enterReply p tag 59 .done, axisOk_answered (q := .stop a.val) rfl rfl hr (congrArg now he),
    State.enterReply_reply .., ?_⟩
  rw [haxis, hl']
  by_cases hv : (s.axis a).speedSq = 0
  · rw [Axis.toStop_rest (x := (s.axis a).idle l) (.inr hv)]
    exact ⟨rfl, rfl, rfl, rfl, rfl, rfl, fun c => absurd hv c, fun _ => ⟨Axis.atRest_state ((s.axis a).idle l) rest, rfl, rfl⟩,
      fun ht => (hroll ht).alike (s.settlesAlike_outstand ..) (u.settlesAlike_answered ..),
      fun ht => homingEnds_answered (hhome ht) _ _⟩
  · rw [Axis.toStop_moving (x := (s.axis a).idle l) hv]
    exact ⟨rfl, rfl, rfl, rfl, rfl, rfl, fun _ => ⟨rfl, rfl, rfl, rfl⟩, fun c => absurd c hv,
      fun ht => (hroll ht).alike (s.settlesAlike_outstand ..) (u.settlesAlike_answered ..),
      fun ht => homingEnds_answered (hhome ht) _ _⟩

/-- Settles O34: the refusals one by one, Track by `track_enters`, Stop by `stop_brings_to_rest`. -/
theorem trackAndStop : Obligations.TrackAndStop := by
  refine ⟨fun s p tag n hr hn => ⟨?_, ?_⟩, fun s p tag a x hr hx hown hhalt hpow => ?_⟩
  · exact answers_unchanged (q := .track n) rfl rfl hr (congrArg now (onAxis_unknown hn _))
  · exact answers_unchanged (q := .stop n) rfl rfl hr (congrArg now (onAxis_unknown hn _))
  have hhold (c : Byte) : (s.outstand p tag c).holds p ((s.outstand p tag c).groupOf a) = true :=
    holds_group_outstand (hx ▸ hown) tag c
  have hheld (c : Byte) := not_held_outstand p tag c hhalt hpow
  have refused {st : Status} (h : x.trackRefusal = some st) : Answers (.track p tag a.val) s (s.replied p tag 58 (.no st)) :=
    answers_unchanged (q := .track a.val) rfl rfl hr (congrArg now (track_refused (hhold 58) (hheld 58) (hx ▸ h)))
  have widen (hs : x.state ∈ [.standing, .slewing, .stopping]) : x.state ∈ [AxisState.standing, .slewing, .tracking, .stopping] ∧
      x.state ≠ .tracking := by
    revert hs
    cases x.state <;> decide
  refine ⟨fun hs => refused (trackRefusal_state hs), fun hs => ⟨fun hk => refused (trackRefusal_unknown hs hk),
    fun hk hb => refused (trackRefusal_unbound hs hk hb)⟩, fun hs hk hb => ?_, fun hs hk c hb => ⟨fun hm => ?_, fun hm => ?_⟩,
    fun hs => ?_, fun hs => ?_, fun hs rest hrest hstand => ?_⟩
  · have hin : x.state ∈ [AxisState.standing, .slewing, .tracking, .stopping] := by rw [hs]; decide
    subst hx
    exact axisOk_unchanged (q := .track a.val) rfl rfl hr
      (congrArg now (track_already (hhold 58) (hheld 58) (trackRefusal_none hin hk hb (.inl hs)) hs))
  · exact refused (trackRefusal_limit (widen hs).1 hk (by rw [hb]; exact Option.some_ne_none c) (widen hs).2 hm)
  · exact track_enters hr hx hown hhalt hpow hs hk hb hm
  · subst hx
    exact answers_unchanged (q := .stop a.val) rfl rfl hr (congrArg now (stop_refused (hhold 59) (hheld 59) hs))
  · subst hx
    exact axisOk_unchanged (q := .stop a.val) rfl rfl hr (congrArg now (stop_stands (hhold 59) (hheld 59) hs))
  · exact stop_brings_to_rest hr hx hown hhalt hpow hs rest hrest hstand

end Sys2Proof.Machine
end

section
/-! PROOFS. The tests of a tracking axis (04 R82, R85, 01 R12, R17): LAGGING and what it tells, SETTLED and the roll. -/

namespace Sys2Proof.Machine

/-! ## A lag excess (R17) -/

theorem halved_eq (n : Nat) : halved n = max 1 (n / 2) := by
  unfold halved
  split <;> omega

/-- From `s` to `t` the governor may have taken a lag excess, and LAGGING may have been told: axes, ceiling, quiet timer, and the
entries of these two kinds. -/
structure State.Lags (s t : State) : Prop where
  only : t = { s with axes := t.axes, clock := { s.clock with ceiling := t.clock.ceiling, quiet := t.clock.quiet }, ports := t.ports }
  entry : ∀ q k, k ≠ .axisLagging → k ≠ .governorEngaged → t.entry q k = s.entry q k

section Lags

variable {s t u : State}

theorem State.Lags.refl (s : State) : s.Lags s := ⟨rfl, fun _ _ _ _ => rfl⟩

theorem State.Lags.trans (h : s.Lags t) (k : t.Lags u) : s.Lags u :=
  ⟨k.only.trans (by rw [h.only]), fun q j h1 h2 => (k.entry q j h1 h2).trans (h.entry q j h1 h2)⟩

theorem State.Lags.clock (h : s.Lags t) : t.clock = { s.clock with ceiling := t.clock.ceiling, quiet := t.clock.quiet } := by
  conv_lhs => rw [h.only]

theorem State.Lags.routedPorts (h : s.Lags t) (k : NoticeKind) (r : Resource) : t.routedPorts k r = s.routedPorts k r := by
  rw [h.only]
  rfl

theorem State.Lags.settlesAlike (h : s.Lags t) : s.SettlesAlike t :=
  ⟨by rw [h.clock]; rfl, fun q => h.entry q _ (by decide) (by decide), h.routedPorts _ _, fun x hx => by
    rw [h.only]
    exact hx⟩

theorem State.lags_modAxis (s : State) (a : AxisId) (f : Axis → Axis) : s.Lags (s.modAxis a f) := ⟨rfl, fun _ _ _ _ => rfl⟩

theorem State.lags_notify (s : State) {k : NoticeKind} (h : k = .axisLagging ∨ k = .governorEngaged) (r : Resource) (n : Option Nat) :
    s.Lags (s.notify k r n) := by
  refine ⟨?_, fun q j h1 h2 => State.notify_entry_of_ne s (fun e => ?_) _ _ _ _⟩
  · rw [notify_ports]
  · rcases h with h | h
    · exact h1 (e.trans h)
    · exact h2 (e.trans h)

end Lags

section LagExcess

variable (s : State) (a : AxisId)

theorem State.lagExcess_off {s : State} (h : s.clock.governor = false) (a : AxisId) : s.lagExcess a = s := by
  unfold State.lagExcess
  rw [h]
  rfl

/-- The clock a lag excess leaves with the governor enabled. -/
def Clock.exceeded (c : Clock) : Clock :=
  { c with ceiling := some (halved (c.ceiling.getD c.scheduled.natAbs)), quiet := some 500 }

theorem State.lagExcess_first {s : State} (h : s.clock.governor = true) (hc : s.clock.ceiling = none) (a : AxisId) :
    s.lagExcess a = (s.withClock s.clock.exceeded).notify .governorEngaged .sky (some a.val) := by
  have hx : s.clock.exceeded = { s.clock with ceiling := some (halved s.clock.scheduled.natAbs), quiet := some 500 } := by
    unfold Clock.exceeded
    rw [hc]
    rfl
  unfold State.lagExcess
  rw [if_pos h, hx]
  simp only [hc]

theorem State.lagExcess_again {s : State} (h : s.clock.governor = true) {k : Nat} (hc : s.clock.ceiling = some k) (a : AxisId) :
    s.lagExcess a = s.withClock s.clock.exceeded := by
  have hx : s.clock.exceeded = { s.clock with ceiling := some (halved k), quiet := some 500 } := by
    unfold Clock.exceeded
    rw [hc]
    rfl
  unfold State.lagExcess
  rw [if_pos h, hx]
  simp only [hc]

theorem State.lags_withExceeded : s.Lags (s.withClock s.clock.exceeded) := ⟨rfl, fun _ _ _ _ => rfl⟩

theorem State.lags_lagExcess : s.Lags (s.lagExcess a) := by
  cases h : s.clock.governor with
  | false =>
    rw [State.lagExcess_off h]
    exact .refl s
  | true =>
    cases hc : s.clock.ceiling with
    | none =>
      rw [State.lagExcess_first h hc]
      exact s.lags_withExceeded.trans (State.lags_notify _ (.inr rfl) _ _)
    | some k =>
      rw [State.lagExcess_again h hc]
      exact s.lags_withExceeded

/-- R17: what a lag excess makes of the clock, and whom it tells. -/
theorem State.lagExcess_effects :
    (s.clock.governor = false → (s.lagExcess a).clock.ceiling = s.clock.ceiling ∧ (s.lagExcess a).clock.quiet = s.clock.quiet) ∧
    (s.clock.governor = true → (s.lagExcess a).clock.quiet = some 500 ∧
      (s.lagExcess a).clock.ceiling = some (max 1 ((s.clock.ceiling.getD s.clock.scheduled.natAbs) / 2)) ∧
      (s.clock.ceiling = none → ∀ q ∈ s.routedPorts .governorEngaged .sky,
        (s.lagExcess a).entry q .governorEngaged =
          some (NoticeEntry.after (s.entry q .governorEngaged) (some a.val) false))) ∧
    ∀ q, (s.lagExcess a).entry q .axisLagging = s.entry q .axisLagging := by
  refine ⟨fun h => ?_, fun h => ?_, fun q => ?_⟩
  · rw [State.lagExcess_off h]
    exact ⟨rfl, rfl⟩
  · rw [← halved_eq]
    cases hc : s.clock.ceiling with
    | none =>
      rw [State.lagExcess_first h hc, State.notify_clock]
      refine ⟨rfl, ?_, fun _ q hq => State.notify_entry_routed (s.withClock s.clock.exceeded) hq (some a.val) false⟩
      rw [State.withClock_clock]
      unfold Clock.exceeded
      rw [hc]
    | some k =>
      rw [State.lagExcess_again h hc]
      refine ⟨rfl, ?_, fun c => absurd c (by simp)⟩
      rw [State.withClock_clock]
      unfold Clock.exceeded
      rw [hc]
  · cases h : s.clock.governor with
    | false => rw [State.lagExcess_off h]
    | true =>
      cases hc : s.clock.ceiling with
      | none =>
        rw [State.lagExcess_first h hc]
        exact State.notify_entry_of_ne _ (by decide) _ _ _ _
      | some k =>
        rw [State.lagExcess_again h hc]
        rfl

end LagExcess

/-! ## LAGGING (R82) -/

/-- LAGGING after its test. -/
def Tracking.lagsAfter (t : Tracking) (limit lag : Nat) : Bool := if t.lagging then decide (limit / 2 < lag) else decide (limit < lag)

theorem Tracking.lagsAfter_iff (t : Tracking) (limit lag : Nat) : t.lagsAfter limit lag = true ↔
    (t.lagging = false ∧ limit < lag) ∨ (t.lagging = true ∧ limit / 2 < lag) := by
  unfold Tracking.lagsAfter
  cases t.lagging <;> simp

section TestLagging

variable {s : State} {a : AxisId} {t : Tracking} {lag : Nat}

theorem State.testLagging_sets (h : t.lagging = false) (hl : (s.axis a).record.lagLimit < lag) : s.testLagging a t lag =
    ((s.modAxis a fun x => { x with tracking := some { t with lagging := true } }).lagExcess a).notifyAxis .axisLagging a := by
  unfold State.testLagging
  dsimp only
  rw [h, if_pos (by simp [hl])]

theorem State.testLagging_clears (h : t.lagging = true) (hl : lag ≤ (s.axis a).record.lagLimit / 2) : s.testLagging a t lag =
    s.modAxis a fun x => { x with tracking := some { t with lagging := false } } := by
  unfold State.testLagging
  dsimp only
  rw [h, if_neg (by simp), if_pos (by simp [hl])]

theorem State.testLagging_stands (h : t.lagging = t.lagsAfter (s.axis a).record.lagLimit lag) : s.testLagging a t lag = s := by
  unfold Tracking.lagsAfter at h
  unfold State.testLagging
  dsimp only
  cases ht : t.lagging with
  | false =>
    rw [ht] at h
    have : ¬ (s.axis a).record.lagLimit < lag := by simpa using h.symm
    rw [if_neg (by simp [this]), if_neg (by simp)]
  | true =>
    rw [ht] at h
    have : (s.axis a).record.lagLimit / 2 < lag := by simpa using h.symm
    rw [if_neg (by simp), if_neg (by simp; omega)]

/-- The three outcomes of the test. -/
theorem State.testLagging_cases (t : Tracking) (lag : Nat) :
    (t.lagging = false ∧ (s.axis a).record.lagLimit < lag ∧ t.lagsAfter (s.axis a).record.lagLimit lag = true) ∨
      (t.lagging = true ∧ lag ≤ (s.axis a).record.lagLimit / 2 ∧ t.lagsAfter (s.axis a).record.lagLimit lag = false) ∨
      t.lagging = t.lagsAfter (s.axis a).record.lagLimit lag := by
  unfold Tracking.lagsAfter
  cases t.lagging with
  | false =>
    by_cases h : (s.axis a).record.lagLimit < lag
    · exact .inl ⟨rfl, h, by simpa using h⟩
    · exact .inr (.inr (by simp [h]))
  | true =>
    by_cases h : (s.axis a).record.lagLimit / 2 < lag
    · exact .inr (.inr (by simp [h]))
    · exact .inr (.inl ⟨rfl, Nat.not_lt.mp h, by simp [h]⟩)

theorem State.lags_testLagging : s.Lags (s.testLagging a t lag) := by
  rcases State.testLagging_cases (s := s) (a := a) t lag with ⟨h, hl, _⟩ | ⟨h, hl, _⟩ | h
  · rw [State.testLagging_sets h hl]
    exact ((s.lags_modAxis _ _).trans (State.lags_lagExcess ..)).trans (State.lags_notify _ (.inl rfl) _ _)
  · rw [State.testLagging_clears h hl]
    exact s.lags_modAxis _ _
  · rw [State.testLagging_stands h]
    exact .refl s

theorem State.testLagging_axis_eq (ht : (s.axis a).tracking = some t) (b : AxisId) : (s.testLagging a t lag).axis b =
    if b = a then { s.axis a with tracking := some { t with lagging := t.lagsAfter (s.axis a).record.lagLimit lag } }
    else s.axis b := by
  rcases State.testLagging_cases (s := s) (a := a) t lag with ⟨h, hl, hafter⟩ | ⟨h, hl, hafter⟩ | h
  · rw [State.testLagging_sets h hl, hafter]
    unfold State.notifyAxis
    rw [State.axis_notify, lagExcess_axis]
    exact s.modAxis_axis a b fun x => { x with tracking := some { t with lagging := true } }
  · rw [State.testLagging_clears h hl, hafter]
    exact s.modAxis_axis a b fun x => { x with tracking := some { t with lagging := false } }
  · rw [State.testLagging_stands h, ← h]
    split
    · rename_i hb
      rw [hb]
      exact Axis.tracking_eta _ ht
    · rfl

/-- The clock stands unless LAGGING is set anew, and its ceiling unless the governor takes that. -/
theorem State.testLagging_clock (h : t.lagging = true ∨ t.lagsAfter (s.axis a).record.lagLimit lag = false) :
    (s.testLagging a t lag).clock = s.clock := by
  rcases State.testLagging_cases (s := s) (a := a) t lag with ⟨h1, _, h2⟩ | ⟨h1, hl, _⟩ | h1
  · rw [h1, h2] at h
    exact absurd h (by simp)
  · rw [State.testLagging_clears h1 hl]
    rfl
  · rw [State.testLagging_stands h1]

theorem State.testLagging_ceiling (h : s.clock.governor = false) : (s.testLagging a t lag).clock.ceiling = s.clock.ceiling := by
  rcases State.testLagging_cases (s := s) (a := a) t lag with ⟨h1, hl, _⟩ | ⟨h1, hl, _⟩ | h1
  · rw [State.testLagging_sets h1 hl]
    unfold State.notifyAxis
    rw [State.notify_clock, State.lagExcess_off (s := s.modAxis a _) h]
    rfl
  · rw [State.testLagging_clears h1 hl]
    rfl
  · rw [State.testLagging_stands h1]

/-- R82, R17: LAGGING set anew is told. -/
theorem State.tellsLagging_testLagging (h : t.lagging = false) (hl : (s.axis a).record.lagLimit < lag) :
    s.tellsLagging (s.testLagging a t lag) a := by
  rw [State.testLagging_sets h hl]
  obtain ⟨hoff, hon, hentry⟩ := (s.modAxis a fun x => { x with tracking := some { t with lagging := true } }).lagExcess_effects a
  have hlags := (s.modAxis a fun x => { x with tracking := some { t with lagging := true } }).lags_lagExcess a
  have hgroup : ((s.modAxis a fun x => { x with tracking := some { t with lagging := true } }).lagExcess a).groupOf a = s.groupOf a := by
    unfold State.groupOf
    rw [lagExcess_axis, State.modAxis_axis_self]
  unfold State.notifyAxis
  rw [hgroup]
  generalize (s.modAxis a fun x => { x with tracking := some { t with lagging := true } }).lagExcess a = u at *
  refine ⟨fun q hq => State.tells_of_entry (b := false) ?_, fun hg => ?_, fun hg => ?_⟩
  · rw [State.notify_entry_routed _ (by rw [hlags.routedPorts]; exact hq), hentry q]
    rfl
  · rw [State.notify_clock]
    exact hoff hg
  · rw [State.notify_clock]
    obtain ⟨hq, hc, htold⟩ := hon hg
    refine ⟨hq, hc, fun hn q hmem => State.tells_of_entry (b := false) ?_⟩
    rw [State.notify_entry_of_ne _ (by decide)]
    exact htold hn q hmem

end TestLagging

/-! ## SETTLED (R85) -/

section TestSettled

variable (s : State) (a : AxisId) (t : Tracking) (lag : Nat)

/-- SETTLED as its test finds it. -/
def Axis.settlesNow (x : Axis) (t : Tracking) (lag : Nat) : Bool := !t.uncovered && decide (lag ≤ x.record.settleTolerance)

theorem State.testSettled_result {e : Int} (he : t.lastEpoch = some e) : s.testSettled a t lag true =
    if (s.axis a).settlesNow t lag then
      (s.modAxis a fun x => { x with tracking := x.tracking.map fun t => { t with settled := true } }).settledReport a e
    else s.modAxis a fun x => { x with tracking := x.tracking.map fun t => { t with settled := false } } := by
  unfold State.testSettled
  dsimp only
  rw [he]
  dsimp only
  change (if ((s.axis a).settlesNow t lag && _) = true then _ else _) = _
  rw [Bool.true_or, Bool.and_true]
  change (if (s.axis a).settlesNow t lag = true then
    (s.modAxis a fun x => { x with tracking := x.tracking.map fun t' => { t' with settled := (s.axis a).settlesNow t lag } }).settledReport a e
    else s.modAxis a fun x => { x with tracking := x.tracking.map fun t' => { t' with settled := (s.axis a).settlesNow t lag } }) = _
  cases (s.axis a).settlesNow t lag <;> rfl

end TestSettled

end Sys2Proof.Machine
end

section
/-! PROOFS. TRACK results (04 R78, R79, R82 to R85: O28): the tracking record a result leaves, and the tests after it. -/

namespace Sys2Proof.Machine

/-! ## The tests after a result -/

/-- LAGGING told, of states before and after that agree in what it reads and tells. -/
theorem State.tellsLagging.alike {s s' t t' : State} {a : AxisId} (h : s'.tellsLagging t' a) (hg : s'.groupOf a = s.groupOf a)
    (hr : ∀ k r, s'.routedPorts k r = s.routedPorts k r) (hc : s'.clock = s.clock)
    (hs : ∀ q k, k = .axisLagging ∨ k = .governorEngaged → s'.entry q k = s.entry q k)
    (ht : ∀ q k, k = .axisLagging ∨ k = .governorEngaged → t.entry q k = t'.entry q k) (h1 : t.clock.ceiling = t'.clock.ceiling)
    (h2 : t.clock.quiet = t'.clock.quiet) : s.tellsLagging t a := by
  obtain ⟨hlag, hoff, hon⟩ := h
  rw [hg] at hlag
  rw [hc] at hoff hon
  unfold State.tellsLagging
  rw [h1, h2]
  refine ⟨fun q hq => ?_, hoff, fun hgov => ?_⟩
  · rw [← hr] at hq
    exact (hlag q hq).of_entries (hs q _ (.inl rfl)).symm (ht q _ (.inl rfl))
  · obtain ⟨hq, hceil, htold⟩ := hon hgov
    refine ⟨hq, hceil, fun hn q hmem => ?_⟩
    rw [← hr] at hmem
    exact (htold hn q hmem).of_entries (hs q _ (.inr rfl)).symm (ht q _ (.inr rfl))

/-- The tracking record as the tests leave it. -/
def Axis.tested (x : Axis) (r : Tracking) (lag : Nat) : Tracking :=
  { r with lagging := r.lagsAfter x.record.lagLimit lag, settled := x.settlesNow r lag }

/-- What the tests of an axis after a result do: the flags, the governor, the roll. -/
structure State.TestedAfter (w u : State) (a : AxisId) (r : Tracking) (e : Int) (lag : Nat) : Prop where
  axis : ∀ b, u.axis b = if b = a then { w.axis a with tracking := some ((w.axis a).tested r lag) } else w.axis b
  inFlight : u.inFlight = w.inFlight
  entry : ∀ q k, k ≠ .axisLagging → k ≠ .governorEngaged → k ≠ .clockSettled → u.entry q k = w.entry q k
  still : r.lagging = true ∨ r.lagsAfter (w.axis a).record.lagLimit lag = false → (w.axis a).settlesNow r lag = false →
    u.clock = w.clock
  ceiling : r.lagging = true ∨ r.lagsAfter (w.axis a).record.lagLimit lag = false ∨ w.clock.governor = false →
    u.clock.ceiling = w.clock.ceiling
  tells : r.lagging = false → (w.axis a).record.lagLimit < lag → w.tellsLagging u a
  leaves : (w.axis a).settlesNow r lag = true → e = w.clock.epoch → w.leavesRoll u a
  stays : (w.axis a).settlesNow r lag = false ∨ e ≠ w.clock.epoch ∨ w.clock.state ≠ .settling →
    u.clock.roll = w.clock.roll ∧ u.clock.state = w.clock.state

section Tested

variable {w : State} {a : AxisId} {r : Tracking} {e : Int} {lag : Nat}

/-- The report of SETTLED after the test of LAGGING. -/
theorem testedAfter_tests (ht : (w.axis a).tracking = some r) (he : r.lastEpoch = some e) :
    w.TestedAfter ((w.testLagging a r lag).testSettled a r lag true) a r e lag := by
  have hlags := State.lags_testLagging (s := w) (a := a) (t := r) (lag := lag)
  have haxis := State.testLagging_axis_eq (lag := lag) ht
  have hclock := State.testLagging_clock (s := w) (a := a) (t := r) (lag := lag)
  have hceil := State.testLagging_ceiling (s := w) (a := a) (t := r) (lag := lag)
  have htells := State.tellsLagging_testLagging (s := w) (a := a) (t := r) (lag := lag)
  have hsettled := (w.testLagging a r lag).testSettled_result a r lag he
  generalize (w.testLagging a r lag).testSettled a r lag true = u at *
  generalize w.testLagging a r lag = v at *
  have hself : v.axis a = { w.axis a with tracking := some { r with lagging := r.lagsAfter (w.axis a).record.lagLimit lag } } :=
    (haxis a).trans (if_pos rfl)
  have hnow : (v.axis a).settlesNow r lag = (w.axis a).settlesNow r lag := by rw [hself]; rfl
  rw [hnow] at hsettled
  have hepoch : v.clock.epoch = w.clock.epoch := by rw [hlags.clock]
  have hstate : v.clock.state = w.clock.state := by rw [hlags.clock]
  have hroll : v.clock.roll = w.clock.roll := by rw [hlags.clock]
  have hleave : v.Leaves u := by
    rw [hsettled]
    split
    · exact (State.works_modAxis ..).leaves.trans (State.leaves_settledReport ..)
    · exact (State.works_modAxis ..).leaves
  have hstays (h : (w.axis a).settlesNow r lag = false ∨ e ≠ w.clock.epoch ∨ w.clock.state ≠ .settling) : u.clock = v.clock := by
    rw [hsettled]
    split
    · rename_i hs
      rcases h with h | h | h
      · rw [h] at hs
        exact absurd hs Bool.false_ne_true
      · unfold State.settledReport
        rw [if_neg (by rw [State.modAxis_clock, hepoch]; exact h)]
        rfl
      · unfold State.settledReport
        rw [State.rollLeave_off (by rw [State.modAxis_clock, hstate]; exact fun c => h c.1), ite_self]
        rfl
    · rfl
  refine ⟨fun b => ?_, ?_, fun q k h1 h2 h3 => (hleave.entry q k h3).trans (hlags.entry q k h1 h2), fun h1 h2 =>
    (hstays (.inl h2)).trans (hclock h1), fun h => ?_, fun h1 h2 => ?_, fun h1 h2 => ?_, fun h => ?_⟩
  · rw [hsettled]
    by_cases hb : b = a
    · subst hb
      rw [if_pos rfl]
      split
      · rename_i hs
        rw [State.settledReport_axis, State.modAxis_axis_self, hself]
        unfold Axis.tested
        rw [hs]
        rfl
      · rename_i hs
        rw [State.modAxis_axis_self, hself]
        unfold Axis.tested
        rw [Bool.eq_false_iff.mpr hs]
        rfl
    · rw [if_neg hb]
      split
      · rw [State.settledReport_axis, State.modAxis_axis_of_ne _ _ hb, haxis, if_neg hb]
      · rw [State.modAxis_axis_of_ne _ _ hb, haxis, if_neg hb]
  · rw [hleave.inFlight, hlags.only]
  · have hc : u.clock.ceiling = v.clock.ceiling := by rw [hleave.clock]
    rw [hc]
    rcases h with h | h | h
    · exact congrArg Clock.ceiling (hclock (.inl h))
    · exact congrArg Clock.ceiling (hclock (.inr h))
    · exact hceil h
  · refine (htells h1 h2).alike rfl (fun _ _ => rfl) rfl (fun _ _ _ => rfl) (fun q k hk => hleave.entry q k ?_) ?_ ?_
    · rcases hk with rfl | rfl <;> decide
    · rw [hleave.clock]
    · rw [hleave.clock]
  · rw [hsettled, if_pos h1]
    unfold State.settledReport
    rw [if_pos (by rw [State.modAxis_clock, hepoch]; exact h2)]
    exact (State.leavesRoll_rollLeave _ a).alike (hlags.settlesAlike.trans (State.works_modAxis ..).settlesAlike) (.refl _)
  · rw [hstays h]
    exact ⟨hroll, hstate⟩

theorem testTracking_taken (ht : (w.axis a).tracking = some r) (he : r.lastEpoch = some e) (ha : r.acquire = false)
    (hlag : lag = ((w.axis a).difference r.target (w.axis a).extended).natAbs) : w.TestedAfter (w.testTracking a true) a r e lag := by
  have heq : w.testTracking a true = (w.testLagging a r lag).testSettled a r lag true := by
    have hl : (w.axis a).lag = some lag := by
      unfold Axis.lag
      rw [ht]
      dsimp only
      rw [ha, if_neg Bool.false_ne_true, hlag]
    unfold State.testTracking
    rw [hl, ht]
  rw [heq]
  exact testedAfter_tests ht he

theorem testTracking_acquiring (ht : (w.axis a).tracking = some r) (ha : r.acquire = true) : w.testTracking a true = w := by
  have hl : (w.axis a).lag = none := by
    unfold Axis.lag
    rw [ht]
    dsimp only
    rw [ha, if_pos rfl]
  unfold State.testTracking
  rw [hl, ht]

end Tested

end Sys2Proof.Machine
end

section
/-! PROOFS. TRACK results (04 R78, R79, R82 to R85: O28): the record a result leaves, its notice, and the tests that follow it. -/

namespace Sys2Proof.Machine

/-! ## The tracking angle (R78, R79) -/

/-- The nearest equivalent lies whole turns from its base, the greater where two are equally near. -/
theorem nearestEquivalent_spec {n : Int} (hn : 0 < n) (base at_ : Int) :
    n ∣ nearestEquivalent n base at_ - base ∧ 2 * (nearestEquivalent n base at_ - at_) ≤ n ∧
      -n < 2 * (nearestEquivalent n base at_ - at_) := by
  have hpos : 0 ≤ (base - at_).emod n := Int.emod_nonneg _ (ne_of_gt hn)
  have hlt : (base - at_).emod n < n := Int.emod_lt_of_pos _ hn
  have hmod : (base - at_).emod n = base - at_ - n * ((base - at_) / n) := Int.emod_def _ _
  unfold nearestEquivalent
  dsimp only
  split
  · exact ⟨⟨-((base - at_) / n), by rw [hmod]; ring⟩, by omega, by omega⟩
  · exact ⟨⟨-((base - at_) / n) - 1, by rw [hmod]; ring⟩, by omega, by omega⟩

theorem acquired_limited {x : Axis} (h : x.record.kind = .limited) (n : Int) : x.acquired n = n := by
  unfold Axis.acquired
  rw [h]

/-- The angle an acquiring CONTINUOUS axis takes: whole turns from the reduced one, its steps within half a turn of the position. -/
theorem acquired_continuous {x : Axis} (h : x.record.kind = .continuous) (hn : 0 < x.record.stepsPerTurn) (n : Int) :
    (∃ k : Int, x.acquired n = n + k * 2 ^ 32) ∧ 2 * (x.stepsOf (x.acquired n) - x.extended) ≤ x.record.stepsPerTurn ∧
      -(x.record.stepsPerTurn : Int) < 2 * (x.stepsOf (x.acquired n) - x.extended) := by
  have heq : x.acquired n = x.angleFor n (nearestEquivalent x.record.stepsPerTurn (x.stepsOf n) x.extended) := by
    unfold Axis.acquired
    rw [h]
  obtain ⟨hdvd, hle, hlt⟩ := nearestEquivalent_spec (by exact_mod_cast hn : (0 : Int) < x.record.stepsPerTurn) (x.stepsOf n) x.extended
  obtain ⟨hsteps, hturns⟩ := angleFor_spec (x := x) (fun c => absurd (h.symm.trans c) (by decide)) fun _ => hdvd
  rw [heq, hsteps]
  exact ⟨hturns, hle, hlt⟩

section Covered

variable (x : Axis) (t : Tracking) (c : Covered)

theorem trackCovered_acquired (h : t.acquire = true) : (x.trackCovered t c).angle = x.acquired c.reduced := by
  unfold Axis.trackCovered
  dsimp only
  rw [h, if_pos rfl]

theorem trackCovered_followed (h : t.acquire = false) {l : Covered} (hl : t.last = some l) : (x.trackCovered t c).angle =
    t.angle + (if l.stamp = c.stamp then c.raw - l.raw else shortest (c.reduced - l.reduced)) := by
  unfold Axis.trackCovered
  dsimp only
  rw [h, hl, if_neg Bool.false_ne_true]
  rfl

/-- The target of a covered result is its angle in steps, held; CLAMPED says whether it was. -/
theorem trackCovered_held : ((x.trackCovered t c).target, (x.trackCovered t c).clamped) = x.held (x.stepsOf (x.trackCovered t c).angle) :=
  rfl

end Covered

/-! ## The record written and its notice -/

/-- From `s` to `w` a result has left its tracking record at an axis, with at most a notice of kind `k`. -/
structure State.Records (s w : State) (a : AxisId) (r : Tracking) (k : NoticeKind) : Prop where
  axis : ∀ b, w.axis b = if b = a then { s.axis a with tracking := some r } else s.axis b
  clock : w.clock = s.clock
  inFlight : w.inFlight = s.inFlight
  routedPorts : ∀ j c, w.routedPorts j c = s.routedPorts j c
  entry : ∀ q j, j ≠ k → w.entry q j = s.entry q j
  signals : w.signals = s.signals

section Records

variable {s w u : State} {a : AxisId} {r : Tracking} {k : NoticeKind} {e : Int} {lag : Nat}

theorem State.records_modAxis (s : State) (a : AxisId) (r : Tracking) (k : NoticeKind) :
    s.Records (s.modAxis a fun x => { x with tracking := some r }) a r k :=
  ⟨fun b => s.modAxis_axis a b _, rfl, rfl, fun _ _ => rfl, fun _ _ _ => rfl, rfl⟩

theorem State.Records.notify (h : s.Records w a r k) (c : Resource) (n : Option Nat) : s.Records (w.notify k c n) a r k where
  axis b := (State.axis_notify ..).trans (h.axis b)
  clock := (State.notify_clock ..).trans h.clock
  inFlight := (State.notify_inFlight ..).trans h.inFlight
  routedPorts j d := (State.notify_routedPorts ..).trans (h.routedPorts j d)
  entry q j hj := (State.notify_entry_of_ne w hj c n false q).trans (h.entry q j hj)
  signals := (State.notify_signals ..).trans h.signals

theorem State.Records.self (h : s.Records w a r k) : w.axis a = { s.axis a with tracking := some r } := (h.axis a).trans (if_pos rfl)

theorem State.Records.groupOf (h : s.Records w a r k) : w.groupOf a = s.groupOf a := by
  unfold State.groupOf
  rw [h.self]

theorem State.Records.settlesAlike (h : s.Records w a r k) (hk : k ≠ .clockSettled) : s.SettlesAlike w :=
  ⟨by rw [h.clock], fun q => h.entry q _ hk.symm, h.routedPorts _ _, fun x hx => by
    rw [h.signals]
    exact hx⟩

/-- What the tests say of the state after the record, said of the state before it. -/
theorem State.Records.tested_axis (h : s.Records w a r k) (ht : w.TestedAfter u a r e lag) (b : AxisId) :
    u.axis b = if b = a then { s.axis a with tracking := some ((s.axis a).tested r lag) } else s.axis b := by
  rw [ht.axis, h.self, h.axis]
  split <;> rfl

theorem State.Records.tellsLagging (h : s.Records w a r k) (hk : k ≠ .axisLagging) (hk' : k ≠ .governorEngaged)
    (ht : w.tellsLagging u a) : s.tellsLagging u a := by
  refine ht.alike h.groupOf h.routedPorts h.clock (fun q j hj => h.entry q j ?_) (fun _ _ _ => rfl) rfl rfl
  rcases hj with rfl | rfl
  · exact hk.symm
  · exact hk'.symm

theorem State.Records.leavesRoll (h : s.Records w a r k) (hk : k ≠ .clockSettled) (ht : w.leavesRoll u a) : s.leavesRoll u a :=
  ht.alike (h.settlesAlike hk) (.refl u)

end Records

/-! ## A result taken -/

/-- The record an uncovered result leaves (R84). -/
def Tracking.uncoveredAt (t : Tracking) (e : Int) : Tracking := { t with uncovered := true, settled := false, lastEpoch := some e }

section Result

variable {s : State} {f : InFlight} {a : AxisId} {t : Tracking}

theorem State.completeEvaluation_track (hf : s.inFlight = some f) (hw : f.who = .axis a .track) (hd : (s.axis a).discard = false)
    (hst : (s.axis a).state = .tracking) (ht : (s.axis a).tracking = some t) :
    s.completeEvaluation = ({ s with inFlight := none } : State).takeTrack a t f := by
  have hdeliver : ({ s with inFlight := none } : State).deliverAxis a .track f =
      ({ s with inFlight := none } : State).takeTrack a t f := by
    unfold State.deliverAxis
    rw [show ({ s with inFlight := none } : State).axis a = s.axis a from rfl]
    dsimp only
    rw [hd, ht]
    dsimp only
    rw [if_neg Bool.false_ne_true, if_pos hst]
  unfold State.completeEvaluation
  rw [hf]
  dsimp only
  rw [hw]
  exact hdeliver

/-- R84: an uncovered result, its notice CHANNEL_GAP where UNCOVERED was clear. -/
theorem State.takeTrack_uncovered {st : UncoveredReason} (hres : f.result = .error st) : ∃ w, s.Records w a (t.uncoveredAt f.epoch) .channelGap ∧
    s.takeTrack a t f = w.testTracking a true ∧
    (t.uncovered = false → ∀ q ∈ s.routedPorts .channelGap .sky,
      w.entry q .channelGap = some (NoticeEntry.after (s.entry q .channelGap) (some f.channel.val) false)) := by
  have hrec := s.records_modAxis a (t.uncoveredAt f.epoch) .channelGap
  cases hu : t.uncovered with
  | true =>
    refine ⟨_, hrec, ?_, fun c => absurd c.symm Bool.false_ne_true⟩
    unfold State.takeTrack
    rw [hres]
    dsimp only
    rw [hu, if_pos rfl]
    rfl
  | false =>
    refine ⟨_, hrec.notify .sky (some f.channel.val), ?_, fun _ q hq => State.notify_entry_routed
      (s.modAxis a fun x => { x with tracking := some (t.uncoveredAt f.epoch) }) hq _ _⟩
    unfold State.takeTrack
    rw [hres]
    dsimp only
    rw [hu, if_neg Bool.false_ne_true]
    rfl

/-- R79, R83: a covered result, its notice AXIS_CLAMPED where CLAMPED is set from clear. -/
theorem State.takeTrack_covered {c : Covered} (hres : f.result = .ok c) :
    ∃ w, s.Records w a ((s.axis a).trackCovered t c) .axisClamped ∧ s.takeTrack a t f = w.testTracking a true ∧
    (((s.axis a).trackCovered t c).clamped = true → t.clamped = false → ∀ q ∈ s.routedPorts .axisClamped (s.groupOf a),
      w.entry q .axisClamped = some (NoticeEntry.after (s.entry q .axisClamped) (some a.val) false)) ∧
    (((s.axis a).trackCovered t c).clamped = false ∨ t.clamped = true → ∀ q, w.entry q .axisClamped = s.entry q .axisClamped) := by
  have hrec := s.records_modAxis a ((s.axis a).trackCovered t c) .axisClamped
  have heq : s.takeTrack a t f =
      (if ((s.axis a).trackCovered t c).clamped && !t.clamped then
        (s.modAxis a fun x => { x with tracking := some ((s.axis a).trackCovered t c) }).notifyAxis .axisClamped a
      else s.modAxis a fun x => { x with tracking := some ((s.axis a).trackCovered t c) }).testTracking a true := by
    unfold State.takeTrack
    rw [hres]
  by_cases hnew : ((s.axis a).trackCovered t c).clamped = true ∧ t.clamped = false
  · obtain ⟨hc, ht⟩ := hnew
    rw [heq, if_pos (by rw [hc, ht]; rfl)]
    unfold State.notifyAxis
    rw [hrec.groupOf]
    refine ⟨_, hrec.notify (s.groupOf a) (some a.val), rfl, fun _ _ q hq => State.notify_entry_routed
      (s.modAxis a fun x => { x with tracking := some ((s.axis a).trackCovered t c) }) hq _ _, fun h => ?_⟩
    rw [hc, ht] at h
    exact absurd h (by simp)
  · rw [heq, if_neg (by simpa using hnew)]
    exact ⟨_, hrec, rfl, fun h1 h2 => absurd ⟨h1, h2⟩ hnew, fun _ _ => rfl⟩

end Result

end Sys2Proof.Machine
end

section
/-! PROOFS. TRACK results settled (O28). -/

namespace Sys2Proof.Machine

section

variable {s : State} {f : InFlight} {a : AxisId} {t : Tracking}

/-- The tests after an uncovered result (R82 to R85): none where the axis still acquires. -/
theorem testTracking_uncovered {w : State} {e : Int} (hrec : s.Records w a (t.uncoveredAt e) .channelGap) :
    ∃ v : Tracking, (∀ b, (w.testTracking a true).axis b = if b = a then { s.axis a with tracking := some v } else s.axis b) ∧
      (v = { t.uncoveredAt e with lagging := v.lagging }) ∧ (w.testTracking a true).inFlight = s.inFlight ∧
      (∀ q, (w.testTracking a true).entry q .channelGap = w.entry q .channelGap) ∧
      (t.acquire = true → v.lagging = t.lagging) ∧
      (t.acquire = false → v.lagging = t.lagsAfter (s.axis a).record.lagLimit
        ((s.axis a).difference t.target (s.axis a).extended).natAbs) ∧
      (t.acquire = false → t.lagging = false → v.lagging = true → s.tellsLagging (w.testTracking a true) a) ∧
      (t.acquire = true ∨ t.lagging = true ∨ v.lagging = false → (w.testTracking a true).clock = s.clock) ∧
      (w.testTracking a true).clock.roll = s.clock.roll := by
  have hself : (w.axis a).tracking = some (t.uncoveredAt e) := by rw [hrec.self]
  cases hacq : t.acquire with
  | true =>
    rw [testTracking_acquiring hself hacq]
    exact ⟨t.uncoveredAt e, hrec.axis, rfl, hrec.inFlight, fun _ => rfl, fun _ => rfl, fun c => absurd c.symm Bool.false_ne_true,
      fun c => absurd c.symm Bool.false_ne_true, fun _ => hrec.clock, by rw [hrec.clock]⟩
  | false =>
    have htest := testTracking_taken hself rfl hacq rfl
    have hlag : (w.axis a).difference t.target (w.axis a).extended = (s.axis a).difference t.target (s.axis a).extended := by
      rw [hrec.self]
      rfl
    change w.TestedAfter _ a _ e ((w.axis a).difference t.target (w.axis a).extended).natAbs at htest
    rw [hlag] at htest
    have hrecord : (w.axis a).record = (s.axis a).record := by rw [hrec.self]
    have haxis := hrec.tested_axis htest
    obtain ⟨_, hflight, hentry, hstill, _, htells, _, hstays⟩ := htest
    rw [hrecord] at hstill htells
    refine ⟨_, haxis, ?_, hflight.trans hrec.inFlight, fun q => hentry q _ (by decide) (by decide) (by decide),
      fun c => absurd c Bool.false_ne_true, fun _ => rfl, fun _ hl hv => ?_, fun h => ?_, ?_⟩
    · rfl
    · refine hrec.tellsLagging (by decide) (by decide) (htells hl ?_)
      rcases (Tracking.lagsAfter_iff ..).mp hv with h | h
      · exact h.2
      · exact absurd (h.1.symm.trans hl) (by decide)
    · refine (hstill ?_ rfl).trans hrec.clock
      rcases h with h | h | h
      · exact absurd h Bool.false_ne_true
      · exact .inl h
      · exact .inr h
    · rw [(hstays (.inl rfl)).1, hrec.clock]

/-- The tests after a covered result (R82, R85), told of the state before it. -/
theorem testTracking_covered {w : State} {c : Covered} {r : Tracking} {lag : Nat} (hrec : s.Records w a r .axisClamped)
    (hr : r = (s.axis a).trackCovered t c) (hlag : lag = ((s.axis a).difference r.target (s.axis a).extended).natAbs) :
    (∀ b, (w.testTracking a true).axis b =
      if b = a then { s.axis a with tracking := some ((s.axis a).tested r lag) } else s.axis b) ∧
    (w.testTracking a true).inFlight = s.inFlight ∧
    (∀ q, (w.testTracking a true).entry q .axisClamped = w.entry q .axisClamped) ∧
    (t.lagging = true ∨ lag ≤ (s.axis a).record.lagLimit ∨ s.clock.governor = false →
      (w.testTracking a true).clock.ceiling = s.clock.ceiling) ∧
    (t.lagging = false → (s.axis a).record.lagLimit < lag → s.tellsLagging (w.testTracking a true) a) ∧
    ((s.axis a).settlesNow r lag = true → c.epoch = s.clock.epoch → s.leavesRoll (w.testTracking a true) a) ∧
    ((s.axis a).settlesNow r lag = false ∨ c.epoch ≠ s.clock.epoch ∨ s.clock.state ≠ .settling →
      (w.testTracking a true).clock.roll = s.clock.roll ∧ (w.testTracking a true).clock.state = s.clock.state) := by
  have htest : w.TestedAfter (w.testTracking a true) a r c.epoch lag := by
    refine testTracking_taken (by rw [hrec.self]) (by rw [hr]; rfl) (by rw [hr]; rfl) ?_
    rw [hlag, hrec.self]
    rfl
  have hlagging : r.lagging = t.lagging := by rw [hr]; rfl
  have hrecord : (w.axis a).record = (s.axis a).record := by rw [hrec.self]
  have hsettles : (w.axis a).settlesNow r lag = (s.axis a).settlesNow r lag := by
    unfold Axis.settlesNow
    rw [hrecord]
  have haxis := hrec.tested_axis htest
  obtain ⟨_, hflight, hentry, _, hceil, htells, hleaves, hstays⟩ := htest
  rw [hrecord, hrec.clock, hlagging] at hceil
  rw [hrecord, hlagging] at htells
  rw [hsettles, hrec.clock] at hleaves hstays
  refine ⟨haxis, hflight.trans hrec.inFlight, fun q => hentry q _ (by decide) (by decide) (by decide), fun h => hceil ?_,
    fun h1 h2 => hrec.tellsLagging (by decide) (by decide) (htells h1 h2), fun h1 h2 => hrec.leavesRoll (by decide) (hleaves h1 h2),
    hstays⟩
  rcases h with h | h | h
  · exact .inl h
  · cases hl : t.lagging with
    | true => exact .inl rfl
    | false =>
      refine .inr (.inl (Bool.eq_false_iff.mpr fun hc => ?_))
      rcases (Tracking.lagsAfter_iff ..).mp hc with ⟨_, h'⟩ | ⟨h', _⟩
      · omega
      · exact Bool.false_ne_true ((hl.symm.trans hlagging.symm).trans h')
  · exact .inr (.inr h)

end

/-- Settles O28: the record and its notice by `State.takeTrack_uncovered` and `State.takeTrack_covered`, the tests by
`testTracking_taken`. -/
theorem trackingFollowsItsResults : Obligations.TrackingFollowsItsResults := by
  refine ⟨fun x n m hp hm => stepsOf_spec x n m ?_, shortest_spec, fun s f a t hrun hf hw hd hst ht => ?_⟩
  · cases hs : x.record.sense with
    | plus =>
      rw [hp hs]
      simp [Dir.sign]
    | minus =>
      rw [hm hs]
      simp [Dir.sign]
  have hexec : exec .evaluationComplete s = .next (({ s with inFlight := none } : State).takeTrack a t f).drain := by
    rw [← State.completeEvaluation_track hf hw hd hst ht]
    exact exec_event_running (f := fun s => s.completeEvaluation) rfl hrun
  refine ⟨fun r hres => ?_, fun c hres => ?_⟩
  · obtain ⟨w, hrec, htake, hgap⟩ := State.takeTrack_uncovered (s := { s with inFlight := none }) (a := a) (t := t) hres
    obtain ⟨v, haxis, hv, hflight, hentry, hacq, hlag, htells, hclock, hroll⟩ := testTracking_uncovered hrec
    rw [htake] at hexec
    generalize w.testTracking a true = u at *
    have hself : u.axis a = { s.axis a with tracking := some v } := (haxis a).trans (if_pos rfl)
    refine ⟨u, v, hexec, hflight, by rw [hself], by rw [hv]; rfl, by rw [hv]; rfl, by rw [hv]; rfl, by rw [hv]; rfl, by rw [hv]; rfl,
      by rw [hv]; rfl, by rw [hv]; rfl, by rw [hv]; rfl, by rw [hself], hacq, fun h => ?_, htells, hclock, fun hu q hq => ?_, hroll,
      fun b hb => (haxis b).trans (if_neg hb)⟩
    · rw [hlag h]
      exact Tracking.lagsAfter_iff ..
    · refine ⟨_, (hentry q).trans (hgap hu q hq), ?_⟩
      unfold NoticeEntry.after
      split <;> rfl
  · obtain ⟨w, hrec, htake, htold, hquiet⟩ := State.takeTrack_covered (s := { s with inFlight := none }) (a := a) (t := t) hres
    obtain ⟨haxis, hflight, hentry, hceil, htells, hleaves, hstays⟩ := testTracking_covered (t := t) (c := c) hrec rfl rfl
    rw [htake] at hexec
    generalize w.testTracking a true = u at *
    have hself : u.axis a = { s.axis a with tracking := some ((s.axis a).tested ((s.axis a).trackCovered t c)
        ((s.axis a).difference ((s.axis a).trackCovered t c).target (s.axis a).extended).natAbs) } := (haxis a).trans (if_pos rfl)
    refine ⟨u, (s.axis a).tested ((s.axis a).trackCovered t c)
      ((s.axis a).difference ((s.axis a).trackCovered t c).target (s.axis a).extended).natAbs, hexec, hflight, by rw [hself], rfl, rfl,
      rfl, rfl, fun hq hk => ?_, fun hq hk hn => ?_, fun l hq hl => ?_,
      fun lo hi hs hlt => ?_, fun hs => ?_, fun h1 h2 q hq => State.tells_of_entry ((hentry q).trans (htold h1 h2 q hq)),
      fun h q => (hentry q).trans (hquiet h q), by rw [hself], fun b hb => (haxis b).trans (if_neg hb), fun lag hlag => ?_⟩
    · exact (trackCovered_acquired _ t c hq).trans (acquired_limited hk _)
    · have hangle := trackCovered_acquired (s.axis a) t c hq
      change (∃ k : Int, ((s.axis a).trackCovered t c).angle = _) ∧ 2 * ((s.axis a).stepsOf ((s.axis a).trackCovered t c).angle - _) ≤ _ ∧
        _ < 2 * ((s.axis a).stepsOf ((s.axis a).trackCovered t c).angle - _)
      rw [hangle]
      exact acquired_continuous hk hn _
    · exact trackCovered_followed _ t c hq hl
    · exact held_some hs hlt _
    · have hheld := held_none hs ((s.axis a).stepsOf ((s.axis a).trackCovered t c).angle)
      exact ⟨congrArg Prod.fst hheld, congrArg Prod.snd hheld⟩
    · cases (hlag : lag = ((s.axis a).difference ((s.axis a).trackCovered t c).target (s.axis a).extended).natAbs)
      exact ⟨Tracking.lagsAfter_iff .., hceil, htells, decide_eq_true_iff, hleaves, hstays⟩

end Sys2Proof.Machine
end

section
/-! PROOFS. Parts that end at one moment (04 R86, R92): the records they fail, and the stages pending they end with ENDED. -/

namespace Sys2Proof.Machine

/-- A fold over a list with `a` in it reaches what the step at `a` brings about, other steps do not hinder, and every step keeps. -/
theorem foldl_reaches {σ ι : Type} {f : σ → ι → σ} {P Q : σ → Prop} {a : ι} (hP : ∀ t x, x ≠ a → P t → P (f t x))
    (hQ : ∀ t x, Q t → Q (f t x)) (h : ∀ t, P t → Q (f t a)) : ∀ {l : List ι} {s : σ}, a ∈ l → P s → Q (l.foldl f s)
  | x :: l, s, hmem, hs => by
    rw [List.foldl_cons]
    by_cases hx : x = a
    · subst hx
      exact foldl_keeps (P := Q) (fun t y ht => hQ t y ht) l _ (h s hs)
    · exact foldl_reaches hP hQ h ((List.mem_cons.mp hmem).resolve_left (Ne.symm hx)) (hP s x hx hs)

theorem mem_allGroups (g : GroupId) : g ∈ allGroups := by
  revert g
  decide

/-! ## Stages end with ENDED (R74, R86) -/

/-- The axis with its stage pending, if any, ended. -/
def Axis.dropStage (x : Axis) : Axis :=
  { x with stage := none, lastStage := if x.stage = none then x.lastStage else .ended }

theorem Axis.dropStage_of_none {x : Axis} (h : x.stage = none) : x.dropStage = x := by
  unfold Axis.dropStage
  rw [if_pos h, ← h]

/-- Stages end, each with ENDED. -/
structure State.DropsStages (s t : State) : Prop extends State.EndsStages s t where
  drops : ∀ b, t.axis b = s.axis b ∨ t.axis b = (s.axis b).dropStage

section DropsStages

variable {s t u : State}

theorem State.DropsStages.refl (s : State) : s.DropsStages s := ⟨.refl s, fun _ => .inl rfl⟩

theorem State.DropsStages.trans (h : s.DropsStages t) (k : t.DropsStages u) : s.DropsStages u := by
  refine ⟨h.toEndsStages.trans k.toEndsStages, fun b => ?_⟩
  rcases h.drops b with hb | hb
  · rw [← hb]
    exact k.drops b
  · have hk := k.drops b
    rw [Axis.dropStage_of_none (x := t.axis b) (by rw [hb]; rfl), or_self] at hk
    exact .inr (hk.trans hb)

/-- A stage ended with ENDED stays so. -/
theorem State.DropsStages.keeps {x : Axis} {b : AxisId} (h : s.DropsStages t) (hb : s.axis b = x.dropStage) : t.axis b = x.dropStage := by
  have hd := h.drops b
  rw [Axis.dropStage_of_none (x := s.axis b) (by rw [hb]; rfl), or_self] at hd
  exact hd.trans hb

theorem State.endStage_ended (s : State) (a : AxisId) (q : Bool) : (s.endStage a .ended q).axis a = (s.axis a).dropStage := by
  rw [State.endStage_axis]
  unfold Axis.dropStage
  split
  · rename_i h
    rw [if_neg h.2]
  · rename_i h
    have hnone : (s.axis a).stage = none := by
      by_contra c
      exact h ⟨rfl, c⟩
    rw [if_pos hnone, ← hnone]

theorem State.dropsStages_endStage (s : State) (a : AxisId) (q : Bool) : s.DropsStages (s.endStage a .ended q) := by
  refine ⟨s.endsStages_endStage a .ended q, fun b => ?_⟩
  by_cases hb : b = a
  · rw [hb, State.endStage_ended]
    exact .inr rfl
  · rw [State.endStage_axis, if_neg fun c => hb c.1]
    exact .inl rfl

theorem State.dropsStages_foldl {α : Type} {f : State → α → State} (hf : ∀ (s : State) a, s.DropsStages (f s a)) (l : List α)
    (s : State) : s.DropsStages (l.foldl f s) :=
  foldl_keeps (P := s.DropsStages) (fun t a h => h.trans (hf t a)) l s (.refl s)

/-- A member's stage pending ends where its group owns it. -/
def State.endOwnStage (s : State) (g : GroupId) (q : Bool) (x : Member) : State :=
  match (s.axis x.axis).stage with
  | some st => if st.owner = .group g then s.endStage x.axis .ended q else s
  | none => s

theorem State.endOwnStage_owned {g : GroupId} {x : Member} {st : StagePending} (h : (s.axis x.axis).stage = some st)
    (ho : st.owner = .group g) (q : Bool) : s.endOwnStage g q x = s.endStage x.axis .ended q := by
  unfold State.endOwnStage
  rw [h]
  exact if_pos ho

theorem State.dropsStages_endOwnStage (s : State) (g : GroupId) (q : Bool) (x : Member) : s.DropsStages (s.endOwnStage g q x) := by
  unfold State.endOwnStage
  split
  · split
    · exact s.dropsStages_endStage _ _
    · exact .refl s
  · exact .refl s

theorem State.endMemberStages_eq (s : State) (g : GroupId) (m : GroupMotion) (q : Bool) : s.endMemberStages g m q =
    if m.state = .evaluating then m.members.foldl (fun s x => s.endOwnStage g q x) s else s := rfl

theorem State.dropsStages_endMemberStages (s : State) (g : GroupId) (m : GroupMotion) (q : Bool) :
    s.DropsStages (s.endMemberStages g m q) := by
  rw [State.endMemberStages_eq]
  split
  · exact State.dropsStages_foldl (fun s x => s.dropsStages_endOwnStage g q x) _ s
  · exact .refl s

/-- R86: a record that fails out of EVALUATING ends the stages pending it owns. -/
theorem State.endMemberStages_self {s : State} {g : GroupId} {m : GroupMotion} {y : Member} {st : StagePending} (hm : m.state = .evaluating)
    (hy : y ∈ m.members) (hs : (s.axis y.axis).stage = some st) (ho : st.owner = .group g) (q : Bool) :
    (s.endMemberStages g m q).axis y.axis = (s.axis y.axis).dropStage := by
  rw [State.endMemberStages_eq, if_pos hm]
  refine foldl_reaches (P := fun t => s.DropsStages t) (Q := fun t => t.axis y.axis = (s.axis y.axis).dropStage)
    (fun t x _ h => h.trans (t.dropsStages_endOwnStage g q x)) (fun t x h => (t.dropsStages_endOwnStage g q x).keeps h) (fun t h => ?_)
    hy (.refl s)
  rcases h.drops y.axis with hsame | hdrop
  · rw [State.endOwnStage_owned (by rw [hsame]; exact hs) ho, State.endStage_ended, hsame]
  · exact (t.dropsStages_endOwnStage g q y).keeps hdrop

theorem State.dropsStages_setMotion (s : State) (g : GroupId) (m : Option GroupMotion) : s.DropsStages (s.setMotion g m) :=
  ⟨s.endsStages_setMotion g m, fun _ => .inl rfl⟩

theorem State.dropsStages_raise (s : State) (x : Signal) : s.DropsStages (s.raise x) := ⟨s.endsStages_raise x, fun _ => .inl rfl⟩

theorem State.dropsStages_failMotion (s : State) (g : GroupId) (m : GroupMotion) (c : EndCause) (q : Bool) :
    s.DropsStages (s.failMotion g m c q) := by
  have h := (s.dropsStages_setMotion g (some (m.failed c))).trans (State.dropsStages_endMemberStages _ g m q)
  rw [State.failMotion_eq]
  split
  · exact h
  · exact h.trans (State.dropsStages_raise ..)

theorem State.failMotion_stage {s : State} {g : GroupId} {m : GroupMotion} {y : Member} {st : StagePending} (hm : m.state = .evaluating)
    (hy : y ∈ m.members) (hs : (s.axis y.axis).stage = some st) (ho : st.owner = .group g) (c : EndCause) (q : Bool) :
    (s.failMotion g m c q).axis y.axis = (s.axis y.axis).dropStage := by
  have h := State.endMemberStages_self (s := s.setMotion g (some (m.failed c))) hm hy hs ho q
  rw [State.failMotion_eq]
  split
  · exact h
  · exact h

theorem State.dropsStages_endMember (s : State) (a : AxisId) (o : MemberOutcome) (c : EndCause) (q : Bool) :
    s.DropsStages (s.endMember a o c q) := by
  unfold State.endMember
  split
  · exact .refl s
  · exact s.dropsStages_failMotion _ _ _ _

end DropsStages

/-! ## The records that fail (R86) -/

section Motions

theorem State.endStage_motions (s : State) (a : AxisId) (o : StageOutcome) (q : Bool) : (s.endStage a o q).motions = s.motions := by
  unfold State.endStage
  split
  · rfl
  · dsimp only
    split
    · rfl
    · rfl
    · rfl
    · split <;> rfl

theorem State.endMemberStages_motions (s : State) (g : GroupId) (m : GroupMotion) (q : Bool) :
    (s.endMemberStages g m q).motions = s.motions := by
  rw [State.endMemberStages_eq]
  split
  · refine foldl_keeps (P := fun t => t.motions = s.motions) (fun t x h => ?_) _ s rfl
    unfold State.endOwnStage
    split
    · split
      · exact (t.endStage_motions _ _ _).trans h
      · exact h
    · exact h
  · rfl

theorem State.setMotion_get (s : State) (g h : GroupId) (m : Option GroupMotion) :
    (s.setMotion g m).motions[h] = if h = g then m else s.motions[h] := by
  change (s.motions.set g.val m)[h.val] = _
  rw [Vector.getElem_set]
  by_cases hg : h = g
  · rw [if_pos hg, if_pos (congrArg Fin.val hg.symm)]
  · rw [if_neg hg, if_neg fun c => hg (Fin.ext c.symm)]
    rfl

theorem State.failMotion_motions (s : State) (g h : GroupId) (m : GroupMotion) (c : EndCause) (q : Bool) :
    (s.failMotion g m c q).motions[h] = if h = g then some (m.failed c) else s.motions[h] := by
  have heq : (s.failMotion g m c q).motions = (s.setMotion g (some (m.failed c))).motions := by
    rw [State.failMotion_eq]
    split
    · exact State.endMemberStages_motions ..
    · exact State.endMemberStages_motions ..
  exact (congrArg (fun v : Vector (Option GroupMotion) 8 => v[h]) heq).trans (s.setMotion_get g h _)

theorem State.failMotion_raises (s : State) (g : GroupId) (m : GroupMotion) (c : EndCause) :
    .failed (.motion m.serial) ∈ (s.failMotion g m c false).signals := by
  rw [State.failMotion_eq]
  simp [State.raise]

/-- The members of which `out` holds end with ENDED. -/
def GroupMotion.ending (m : GroupMotion) (out : Member → Bool) : GroupMotion :=
  { m with members := m.members.map fun x => if out x then { x with outcome := .ended } else x }

/-- From `s` to `t` the record `m` of a group has failed: its motion says so, and the stages pending it owned have ended. -/
structure State.SaysFailed (s t : State) (g : GroupId) (m : GroupMotion) : Prop where
  raised : .failed (.motion m.serial) ∈ t.signals
  stages : m.state = .evaluating → ∀ y ∈ m.members, ∀ z, (s.axis y.axis).stage = some z → z.owner = .group g →
    t.axis y.axis = (s.axis y.axis).dropStage

theorem State.SaysFailed.keeps {s t u : State} {g : GroupId} {m : GroupMotion} (h : s.SaysFailed t g m) (k : t.DropsStages u) :
    s.SaysFailed u g m :=
  ⟨k.raised _ h.raised, fun hm y hy z hz ho => k.keeps (h.stages hm y hy z hz ho)⟩

theorem State.saysFailed_failMotion {s t : State} (h : s.DropsStages t) (g : GroupId) (m : GroupMotion) (out : Member → Bool)
    (c : EndCause) : s.SaysFailed (t.failMotion g (m.ending out) c false) g m := by
  refine ⟨t.failMotion_raises g (m.ending out) c, fun hm y hy z hz ho => ?_⟩
  rcases h.drops y.axis with hsame | hdrop
  · obtain ⟨y', hy', hax⟩ : ∃ y' ∈ (m.ending out).members, y'.axis = y.axis := by
      refine ⟨_, List.mem_map_of_mem hy, ?_⟩
      split <;> rfl
    rw [← hax] at hsame hz ⊢
    rw [← hsame] at hz ⊢
    exact State.failMotion_stage (m := m.ending out) hm hy' hz ho c false
  · exact (t.dropsStages_failMotion _ _ _ _).keeps hdrop

/-! ### The parts of several axes -/

section Hit

variable (hit : AxisId → Bool)

/-- A member whose part ends with that of a hit axis. -/
def Member.isHit (x : Member) (state : MotionState) : Bool := x.outcome.active state && hit x.axis

/-- A record in progress with a hit member. -/
def GroupMotion.isHit (m : GroupMotion) : Bool := m.state.open_ && m.members.any (·.isHit hit m.state)

/-- A record after the parts of the hit axes have ended. -/
def GroupMotion.afterHit (m : GroupMotion) : GroupMotion :=
  if m.isHit hit then (m.ending (·.isHit hit m.state)).failed .memberEnded else m

/-- One record as the parts of the hit axes end. -/
def State.endRecord (s : State) (q : Bool) (g : GroupId) : State :=
  match s.motions[g] with
  | some m => if m.isHit hit then s.failMotion g (m.ending (·.isHit hit m.state)) .memberEnded q else s
  | none => s

theorem State.endMembers_eq (s : State) (q : Bool) : s.endMembers hit q = allGroups.foldl (fun s g => s.endRecord hit q g) s := rfl

variable {hit} {s : State} {g : GroupId} {q : Bool}

theorem State.endRecord_hit {m : GroupMotion} (h : s.motions[g] = some m) (hm : m.isHit hit = true) :
    s.endRecord hit q g = s.failMotion g (m.ending (·.isHit hit m.state)) .memberEnded q := by
  unfold State.endRecord
  rw [h]
  exact if_pos hm

theorem State.dropsStages_endRecord (s : State) (q : Bool) (g : GroupId) : s.DropsStages (s.endRecord hit q g) := by
  unfold State.endRecord
  split
  · split
    · exact s.dropsStages_failMotion _ _ _ _
    · exact .refl s
  · exact .refl s

theorem State.endRecord_motions (s : State) (q : Bool) (g h : GroupId) :
    (s.endRecord hit q g).motions[h] = if h = g then s.motions[g].map (·.afterHit hit) else s.motions[h] := by
  unfold State.endRecord
  cases hm : s.motions[g] with
  | none =>
    dsimp only
    split
    · rename_i hg
      rw [hg, hm]
      rfl
    · rfl
  | some m =>
    dsimp only [Option.map_some]
    unfold GroupMotion.afterHit
    by_cases hh : m.isHit hit = true
    · rw [if_pos hh, if_pos hh]
      exact s.failMotion_motions g h _ _ q
    · rw [if_neg hh, if_neg hh]
      split
      · rename_i hg
        rw [hg, hm]
      · rfl

theorem State.dropsStages_endMembers (s : State) (hit : AxisId → Bool) (q : Bool) : s.DropsStages (s.endMembers hit q) := by
  rw [State.endMembers_eq]
  exact State.dropsStages_foldl (fun s g => s.dropsStages_endRecord q g) _ s

/-- R86: every record in progress with a hit member fails, the others stand. -/
theorem State.endMembers_motions (s : State) (hit : AxisId → Bool) (q : Bool) (h : GroupId) :
    (s.endMembers hit q).motions[h] = s.motions[h].map (·.afterHit hit) := by
  have hget := foldl_get (fun (s : State) (h : GroupId) => s.motions[h]) (f := fun s g => s.endRecord hit q g)
    (g := fun _ m => m.map (·.afterHit hit)) (P := fun _ => True) (fun _ _ h => h)
    (fun t a b _ => t.endRecord_motions q a b) h allGroups s (by decide) trivial
  exact hget.trans (if_pos (mem_allGroups h))

/-- A record that fails so says that its motion failed, and ends the stages pending it owns. -/
theorem State.saysFailed_endMembers {u : State} {m : GroupMotion} (hu : s.DropsStages u) (h : u.motions[g] = some m)
    (hm : m.isHit hit = true) : s.SaysFailed (u.endMembers hit false) g m := by
  rw [State.endMembers_eq]
  refine foldl_reaches (P := fun t => s.DropsStages t ∧ t.motions[g] = some m) (Q := fun t => s.SaysFailed t g m)
    (fun t x hx ⟨ht, hg⟩ => ⟨ht.trans (t.dropsStages_endRecord false x), ?_⟩)
    (fun t x ht => ht.keeps (t.dropsStages_endRecord false x)) (fun t ⟨ht, hg⟩ => ?_) (mem_allGroups g) ⟨hu, h⟩
  · exact (t.endRecord_motions false x g).trans ((if_neg (Ne.symm hx)).trans hg)
  · rw [State.endRecord_hit hg hm]
    exact State.saysFailed_failMotion ht g m _ _

end Hit

end Motions

end Sys2Proof.Machine
end

section
/-! PROOFS. Axes that have no part in a motion (04 R86): Track and Stop leave the records of the groups. What a Stop of several axes
leaves of each (04 R76, R92). -/

namespace Sys2Proof.Machine

/-! ## An axis with no part in a motion in progress -/

theorem State.motionOf_congr {s t : State} (h : t.motions = s.motions) (a : AxisId) : t.motionOf a = s.motionOf a := by
  unfold State.motionOf
  rw [h]

/-- An axis has a part in a record in progress where the record is hit by that axis alone. -/
theorem State.motionOf_none_of {s : State} {a : AxisId} (h : ∀ (g : GroupId) m, s.motions[g] = some m → m.isHit (· == a) = false) :
    s.motionOf a = none := by
  unfold State.motionOf
  refine List.findSome?_eq_none_iff.mpr fun g _ => ?_
  cases hm : s.motions[g] with
  | none => rfl
  | some m =>
    dsimp only
    refine if_neg fun c => Bool.false_ne_true ((h g m hm).symm.trans ?_)
    rw [← c]
    unfold GroupMotion.isHit Member.isHit
    simp only [Bool.and_comm]

theorem GroupMotion.isHit_mono {m : GroupMotion} {hit hit' : AxisId → Bool} (h : ∀ a, hit a = true → hit' a = true)
    (hm : m.isHit hit' = false) : m.isHit hit = false := by
  refine Bool.eq_false_iff.mpr fun c => Bool.false_ne_true (hm.symm.trans ?_)
  unfold GroupMotion.isHit Member.isHit at *
  simp only [Bool.and_eq_true, List.any_eq_true] at *
  obtain ⟨ho, y, hy, ha, hh⟩ := c
  exact ⟨ho, y, hy, ha, h _ hh⟩

theorem GroupMotion.afterHit_isHit (m : GroupMotion) (hit : AxisId → Bool) : (m.afterHit hit).isHit hit = false := by
  unfold GroupMotion.afterHit
  cases h : m.isHit hit with
  | true => rfl
  | false => exact h

theorem State.motionOf_endMembers {s : State} {hit : AxisId → Bool} {a : AxisId} (h : hit a = true) (q : Bool) :
    (s.endMembers hit q).motionOf a = none := by
  refine State.motionOf_none_of fun g m hm => ?_
  rw [State.endMembers_motions] at hm
  obtain ⟨m', _, rfl⟩ := Option.map_eq_some_iff.mp hm
  exact GroupMotion.isHit_mono (fun b hb => by rwa [eq_of_beq hb]) (m'.afterHit_isHit hit)

theorem State.endMember_none {s : State} {a : AxisId} (h : s.motionOf a = none) (o : MemberOutcome) (c : EndCause) (q : Bool) :
    s.endMember a o c q = s := by
  unfold State.endMember
  rw [h]

section Frames

theorem State.endSlew_motions (s : State) (a : AxisId) (q : Bool) : (s.endSlew a q).motions = s.motions := by
  unfold State.endSlew
  split
  · dsimp only
    split <;> rfl
  · rfl

theorem State.rollLeave_motions (s : State) (a : AxisId) : (s.rollLeave a).motions = s.motions := by
  unfold State.rollLeave
  split
  · exact State.settleTest_motions _
  · rfl

theorem State.rollJoin_motions (s : State) (a : AxisId) : (s.rollJoin a).motions = s.motions := by
  unfold State.rollJoin
  split <;> rfl

theorem State.settledReport_motions (s : State) (a : AxisId) (e : Int) : (s.settledReport a e).motions = s.motions := by
  unfold State.settledReport
  split
  · exact s.rollLeave_motions a
  · rfl

theorem State.Abandons.motions {s t : State} (h : s.Abandons t) : t.motions = s.motions := by rw [h.only]

variable {s : State} {a : AxisId} (h : s.motionOf a = none)
include h

theorem State.freed_motions : (s.freed a).motions = s.motions := by
  unfold State.freed State.endPart
  rw [State.endSlew_motions, State.endStage_motions, State.endMember_none h]

theorem State.trackAxis_motions : (s.trackAxis a).motions = s.motions := by
  have hbegin : ((s.beginTracking a).rollJoin a).motions = s.motions := (State.rollJoin_motions ..).trans (State.freed_motions h)
  have hjoin : (s.joinTracking a).motions = s.motions := by
    unfold State.joinTracking
    split
    · exact (State.settledReport_motions ..).trans hbegin
    · exact hbegin
  cases hk : (s.axis a).known with
  | false => rw [State.trackAxis_unknown hk]
  | true =>
    rw [State.trackAxis_eq hk, State.requestAngle_eq]
    exact hjoin

theorem State.leaveWork_motions (q : Bool) : (s.leaveWork a q).motions = s.motions := by
  rw [State.leaveWork_eq, State.rollLeave_motions]
  unfold State.dropWork
  rw [State.modAxis_motions, State.endSlew_motions, State.endStage_motions, State.endMember_none h]

theorem State.stopAxis_motions : (s.stopAxis a).motions = s.motions := by
  have hstop (d : Option Nat) : (s.enterStopping a d false).motions = s.motions := by
    rw [State.enterStopping_eq]
    exact State.leaveWork_motions h false
  unfold State.stopAxis
  split
  · rfl
  · dsimp only
    split
    · exact (State.abandons_homingLost _ a).motions.trans (hstop _)
    · exact hstop _

end Frames

/-- The records stand while axes with no part in any are taken one by one. -/
theorem State.foldl_motions {f : State → AxisId → State} (hf : ∀ {s : State} {a}, s.motionOf a = none → (f s a).motions = s.motions)
    {l : List AxisId} {s : State} (h : ∀ a ∈ l, s.motionOf a = none) : (l.foldl f s).motions = s.motions := by
  induction l generalizing s with
  | nil => rfl
  | cons a l ih =>
    have ha := hf (h a List.mem_cons_self)
    rw [List.foldl_cons, ih fun b hb => (State.motionOf_congr ha b).trans (h b (List.mem_cons_of_mem _ hb)), ha]

/-! ## The axis that leaves its work -/

/-- Its stage pending, if any, ends with ENDED. -/
theorem State.leaveWork_dropped (s : State) (a : AxisId) (q : Bool) :
    (s.leaveWork a q).axis a = (s.axis a).idle (s.axis a).dropStage.lastStage := by
  have hdrop : ((s.endMember a .ended .memberEnded q).endStage a .ended q).axis a = (s.axis a).dropStage := by
    rw [State.endStage_ended]
    rcases (s.dropsStages_endMember a .ended .memberEnded q).drops a with h | h
    · rw [h]
    · rw [h]
      exact Axis.dropStage_of_none rfl
  rw [State.leaveWork_eq, State.rollLeave_axis]
  unfold State.dropWork
  rw [State.modAxis_axis_self, State.endSlew_axis_eq, if_pos rfl, hdrop]
  rfl

/-! ## A Stop of several axes (R92) -/

/-- Two axes but for the stage pending and the resume mark. -/
def Axis.Spared (x y : Axis) : Prop := y = { x with stage := y.stage, lastStage := y.lastStage, resumeMark := y.resumeMark }

theorem Axis.Spared.refl (x : Axis) : x.Spared x := rfl

theorem Axis.Spared.trans {x y z : Axis} (h : x.Spared y) (k : y.Spared z) : x.Spared z := by
  unfold Axis.Spared at *
  rw [k, h]

theorem Axis.StageEnds.spared {x y : Axis} (h : x.StageEnds y) : x.Spared y := by
  rcases h with rfl | ⟨_, o, rfl⟩ <;> rfl

/-- An axis as a Stop leaves it, but for stage pending and resume mark. -/
def Axis.stopped (x : Axis) : Axis := (x.idle .ended).toStop (some x.record.stopDecel) x.restOf

theorem Axis.stopped_rest {x : Axis} (h : x.speedSq = 0) : x.stopped = (x.idle .ended).atRest x.restOf := if_pos (.inr h)

theorem Axis.stopped_moving {x : Axis} (h : x.speedSq ≠ 0) : x.stopped =
    { x.idle .ended with state := .stopping, target := none, stopping := some ⟨some x.record.stopDecel, x.restOf⟩, tracking := none } :=
  if_neg fun c => c.elim (by simp) h

theorem Axis.stopped_spared {x y : Axis} (h : x.Spared y) : x.stopped.Spared y.stopped := by
  rw [h]
  unfold Axis.Spared Axis.stopped Axis.toStop
  by_cases hv : x.speedSq = 0
  · rw [if_pos (.inr hv), if_pos (.inr hv)]
    rfl
  · rw [if_neg fun c => c.elim (by simp) hv, if_neg fun c => c.elim (by simp) hv]
    rfl

theorem Axis.stopped_stops (x : Axis) : x.stopped.state.stops = false := by
  unfold Axis.stopped Axis.toStop
  split
  · rw [Axis.atRest_state]
    cases x.restOf <;> rfl
  · rfl

section StopSeveral

variable {s : State} {a b : AxisId}

theorem State.stopAxis_stopped (h : (s.axis a).state.stops = true) : (s.axis a).stopped.Spared ((s.stopAxis a).axis a) := by
  obtain ⟨l, m, hl⟩ := State.stopAxis_self h
  rw [hl]
  unfold Axis.Spared Axis.stopped Axis.toStop
  by_cases hv : (s.axis a).speedSq = 0
  · rw [if_pos (.inr hv), if_pos (.inr hv)]
    rfl
  · rw [if_neg fun c => c.elim (by simp) hv, if_neg fun c => c.elim (by simp) hv]
    rfl

theorem State.stopAxis_other (h : b ≠ a) : (s.axis b).Spared ((s.stopAxis a).axis b) := by
  have henter := (s.enterStopping_other (some (s.axis a).record.stopDecel) false h).spared
  unfold State.stopAxis
  split
  · exact .refl _
  · dsimp only
    split
    · refine henter.trans ?_
      unfold Axis.Spared
      rw [(State.abandons_homingLost _ a).axis b]
    · exact henter

/-- A stage that has ended with ENDED, or none, stays as it is. -/
theorem State.stopAxis_stage {x : Axis} (h : (s.axis b).stage = none ∧ (s.axis b).lastStage = x.dropStage.lastStage) :
    ((s.stopAxis a).axis b).stage = none ∧ ((s.stopAxis a).axis b).lastStage = x.dropStage.lastStage := by
  have hdrop : (s.axis b).dropStage.lastStage = x.dropStage.lastStage := by
    rw [Axis.dropStage_of_none h.1]
    exact h.2
  have henter (d : Option Nat) : ((s.enterStopping a d false).axis b).stage = none ∧
      ((s.enterStopping a d false).axis b).lastStage = x.dropStage.lastStage := by
    by_cases hb : b = a
    · subst hb
      rw [State.enterStopping_eq, State.modAxis_axis_self, State.leaveWork_dropped, hdrop]
      unfold Axis.toStop
      split <;> exact ⟨rfl, rfl⟩
    · rw [(s.enterStopping_other d false hb).of_none h.1]
      exact h
  unfold State.stopAxis
  split
  · exact h
  · dsimp only
    split
    · rw [(State.abandons_homingLost _ a).axis b]
      exact henter _
    · exact henter _

/-- What the Stop of a list of axes leaves of one of them. -/
theorem State.foldl_stopAxis_mem {l : List AxisId} (hmem : a ∈ l) (h : (s.axis a).state.stops = true) :
    (s.axis a).stopped.Spared ((l.foldl State.stopAxis s).axis a) := by
  refine foldl_reaches (P := fun t : State => (s.axis a).Spared (t.axis a)) (Q := fun t : State => (s.axis a).stopped.Spared (t.axis a))
    (fun t x hx ht => ht.trans (State.stopAxis_other (Ne.symm hx))) (fun t x ht => ?_) (fun t ht => ?_) hmem (.refl _)
  · by_cases hx : a = x
    · subst hx
      rw [State.stopAxis_idle (by rw [ht]; exact (s.axis a).stopped_stops)]
      exact ht
    · exact ht.trans (State.stopAxis_other hx)
  · exact (Axis.stopped_spared ht).trans (State.stopAxis_stopped (by rw [ht]; exact h))

theorem State.foldl_stopAxis_other {l : List AxisId} (hmem : a ∉ l) : (s.axis a).Spared ((l.foldl State.stopAxis s).axis a) := by
  induction l generalizing s with
  | nil => exact .refl _
  | cons b l ih =>
    rw [List.mem_cons, not_or] at hmem
    exact (State.stopAxis_other hmem.1).trans (ih hmem.2)

end StopSeveral

end Sys2Proof.Machine
end

section
/-! PROOFS. Several axes leave the settle roll one after the other (01 R12, R13), as at a Stop of a group (04 R81, R92). -/

namespace Sys2Proof.Machine

/-- The clock with axes taken off its roll. -/
def Clock.without (c : Clock) (l : List AxisId) : Clock := { c with roll := c.roll.filter (· ∉ l) }

/-- The axes of a list leave the roll: the others stay on it, and with the last one settling completes. -/
structure State.LeavesRolls (s t : State) (l : List AxisId) : Prop where
  off : s.clock.state ≠ .settling ∨ s.clock.roll = [] → s.SettlesAlike t
  some : s.clock.state = .settling → (∃ b ∈ s.clock.roll, b ∉ l) → (s.withClock (s.clock.without l)).SettlesAlike t
  all : s.clock.state = .settling → s.clock.roll ≠ [] → (∀ b ∈ s.clock.roll, b ∈ l) → s.completesSettling t

section

variable {s s' t t' u : State} {l l' : List AxisId}

theorem State.SettlesAlike.roll (h : s.SettlesAlike t) : t.clock.roll = s.clock.roll := congrArg (·.2.1) h.clock

theorem State.SettlesAlike.state (h : s.SettlesAlike t) : t.clock.state = s.clock.state := congrArg (·.1) h.clock

theorem State.SettlesAlike.without (h : s.SettlesAlike t) (l : List AxisId) :
    (s.withClock (s.clock.without l)).SettlesAlike (t.withClock (t.clock.without l)) := by
  have hc := h.clock
  simp only [Clock.roster, Prod.mk.injEq] at hc
  obtain ⟨h1, h2, h3, h4, h5, h6, h7⟩ := hc
  refine ⟨?_, h.entry, h.routed, h.raised⟩
  simp only [Clock.roster, State.withClock_clock, Clock.without, h1, h2, h3, h4, h5, h6, h7]

/-- Settling that completes, told of states before and after that settle alike. -/
theorem State.completesSettling.alike (h : s'.completesSettling t') (hs : s.SettlesAlike s') (ht : t'.SettlesAlike t) :
    s.completesSettling t := by
  have hsc := hs.clock
  have htc := ht.clock
  simp only [Clock.roster, Prod.mk.injEq] at hsc htc
  obtain ⟨s1, s2, s3, s4, s5, s6, s7⟩ := hsc
  obtain ⟨t1, t2, t3, t4, t5, t6, t7⟩ := htc
  obtain ⟨c1, c2, c3, c4, c5, hsays⟩ := h
  rw [s4] at c1
  rw [s5] at c4
  rw [s6] at c5
  rw [s7] at hsays
  exact ⟨t1.trans c1, t3.trans c2, t2.trans c3, t5.trans c4, t6.trans c5,
    hsays.of_entries hs.routed.symm (fun q => (hs.entry q).symm) ht.entry ht.raised⟩

theorem State.LeavesRolls.alike (h : s'.LeavesRolls t' l) (hs : s.SettlesAlike s') (ht : t'.SettlesAlike t) : s.LeavesRolls t l := by
  obtain ⟨hoff, hsome, hall⟩ := h
  rw [hs.state, hs.roll] at hoff hsome hall
  exact ⟨fun h => (hs.trans (hoff h)).trans ht, fun h1 h2 => ((hs.without l).trans (hsome h1 h2)).trans ht,
    fun h1 h2 h3 => (hall h1 h2 h3).alike hs ht⟩

theorem State.leavesRolls_nil (s : State) : s.LeavesRolls s [] := by
  refine ⟨fun _ => .refl s, fun _ _ => ⟨?_, fun _ => rfl, rfl, fun _ h => h⟩, fun _ h1 h2 => ?_⟩
  · simp [Clock.roster, Clock.without]
  · obtain ⟨b, hb⟩ := List.exists_mem_of_ne_nil _ h1
    exact absurd (h2 b hb) List.not_mem_nil

theorem State.leavesRolls_rollLeave (s : State) (a : AxisId) : s.LeavesRolls (s.rollLeave a) [a] := by
  refine ⟨fun h => ?_, fun h1 ⟨b, hb, hne⟩ => ?_, fun h1 h2 h3 => ?_⟩
  · rw [State.rollLeave_off]
    · exact .refl s
    · rintro ⟨h1, h2⟩
      rcases h with h | h
      · exact h h1
      · rw [h] at h2
        exact List.not_mem_nil h2
  · by_cases ha : a ∈ s.clock.roll
    · have hrest : s.clock.roll.filter (· ≠ a) ≠ [] :=
        List.ne_nil_of_mem (List.mem_filter.mpr ⟨hb, decide_eq_true fun c => hne (by rw [c]; exact List.mem_singleton_self a)⟩)
      rw [State.rollLeave_on h1 ha, State.settleTest_of_not fun c => hrest c.2]
      have hlist : s.clock.roll.filter (· ∉ [a]) = s.clock.roll.filter (· ≠ a) := by simp
      unfold Clock.without
      rw [hlist]
      exact .refl _
    · have hlist : s.clock.roll.filter (· ∉ [a]) = s.clock.roll :=
        List.filter_eq_self.mpr fun b hb => by
          rw [decide_eq_true_iff, List.mem_singleton]
          rintro rfl
          exact ha hb
      rw [State.rollLeave_off fun c => ha c.2]
      unfold Clock.without
      rw [hlist]
      exact .refl s
  · obtain ⟨b, hb⟩ := List.exists_mem_of_ne_nil _ h2
    have hba := List.mem_singleton.mp (h3 b hb)
    rw [hba] at hb
    exact ((State.leavesRoll_rollLeave s a).1 h1 hb).2 fun c hc => List.mem_singleton.mp (h3 c hc)

/-- Axes leave the roll after others. -/
theorem State.LeavesRolls.append (h : s.LeavesRolls t l) (k : t.LeavesRolls u l') : s.LeavesRolls u (l ++ l') := by
  refine ⟨fun hoff => ?_, fun hset ⟨b, hb, hn⟩ => ?_, fun hset hne hall => ?_⟩
  · have ht := h.off hoff
    exact ht.trans (k.off (by rw [ht.state, ht.roll]; exact hoff))
  · rw [List.mem_append, not_or] at hn
    have ht := h.some hset ⟨b, hb, hn.1⟩
    have hroll : t.clock.roll = s.clock.roll.filter (· ∉ l) := ht.roll
    have hu := k.some (ht.state.trans hset) ⟨b, by rw [hroll]; exact List.mem_filter.mpr ⟨hb, decide_eq_true hn.1⟩, hn.2⟩
    have hboth : (s.clock.without l).without l' = s.clock.without (l ++ l') := by
      unfold Clock.without
      simp only [List.filter_filter, List.mem_append, not_or, Bool.decide_and, Bool.and_comm]
    have := (ht.without l').trans hu
    rwa [State.withClock_clock, hboth] at this
  · by_cases hl : ∃ b ∈ s.clock.roll, b ∉ l
    · have ht := h.some hset hl
      have hroll : t.clock.roll = s.clock.roll.filter (· ∉ l) := ht.roll
      obtain ⟨b, hb, hn⟩ := hl
      have hu := k.all (ht.state.trans hset)
        (by rw [hroll]; exact List.ne_nil_of_mem (List.mem_filter.mpr ⟨hb, decide_eq_true hn⟩)) fun c hc => by
          rw [hroll] at hc
          obtain ⟨hc, hcl⟩ := List.mem_filter.mp hc
          exact (List.mem_append.mp (hall c hc)).resolve_left (of_decide_eq_true hcl)
      have hv : (s.withClock (s.clock.without l)).completesSettling u := hu.alike ht (.refl u)
      exact hv
    · have ht := h.all hset hne fun b hb => by
        by_contra c
        exact hl ⟨b, hb, c⟩
      exact ht.alike (.refl s) (k.off (.inr ht.2.2.1))

/-- What became of the roll, by the axes. -/
theorem State.LeavesRolls.mem_roll (h : s.LeavesRolls t l) (hset : s.clock.state = .settling) (b : AxisId) :
    b ∈ t.clock.roll ↔ b ∈ s.clock.roll ∧ b ∉ l := by
  by_cases hne : s.clock.roll = []
  · rw [(h.off (.inr hne)).roll, hne]
    simp
  · by_cases hl : ∃ b ∈ s.clock.roll, b ∉ l
    · have hroll : t.clock.roll = s.clock.roll.filter (· ∉ l) := (h.some hset hl).roll
      rw [hroll, List.mem_filter, decide_eq_true_iff]
    · have hall : ∀ b ∈ s.clock.roll, b ∈ l := fun b hb => by
        by_contra c
        exact hl ⟨b, hb, c⟩
      rw [(h.all hset hne hall).2.2.1]
      exact ⟨fun c => absurd c List.not_mem_nil, fun c => absurd (hall b c.1) c.2⟩

end

/-! ## The Stop of a list of axes -/

section StopRolls

variable {s : State}

theorem State.Abandons.settlesAlike {t : State} (h : s.Abandons t) : s.SettlesAlike t := by
  refine ⟨by rw [h.only]; rfl, fun q => h.entry q _ (by decide), by rw [h.only]; rfl, fun x hx => ?_⟩
  rw [h.only]
  exact hx

theorem State.leavesRolls_enterStopping (s : State) (a : AxisId) (d : Option Nat) (q : Bool) :
    s.LeavesRolls (s.enterStopping a d q) [a] := by
  rw [State.enterStopping_eq, State.leaveWork_eq]
  exact (State.leavesRolls_rollLeave _ a).alike (s.works_dropWork a q).settlesAlike (State.works_modAxis ..).settlesAlike

theorem State.leavesRolls_stopAxis {a : AxisId} (h : (s.axis a).state.stops = true) : s.LeavesRolls (s.stopAxis a) [a] := by
  have henter := s.leavesRolls_enterStopping a (some (s.axis a).record.stopDecel) false
  unfold State.stopAxis
  rw [h, if_neg (by decide)]
  dsimp only
  split
  · exact henter.alike (.refl s) (State.abandons_homingLost _ a).settlesAlike
  · exact henter

theorem State.leavesRolls_foldl_stopAxis {l : List AxisId} (hl : l.Nodup) (h : ∀ a ∈ l, (s.axis a).state.stops = true) :
    s.LeavesRolls (l.foldl State.stopAxis s) l := by
  induction l generalizing s with
  | nil => exact s.leavesRolls_nil
  | cons a l ih =>
    obtain ⟨ha, hl⟩ := List.nodup_cons.mp hl
    refine (State.leavesRolls_stopAxis (h a List.mem_cons_self)).append (ih hl fun b hb => ?_)
    have hspared := State.stopAxis_other (s := s) (a := a) (b := b) (by rintro rfl; exact ha hb)
    rw [hspared]
    exact h b (List.mem_cons_of_mem _ hb)

end StopRolls

end Sys2Proof.Machine
end

section
/-! PROOFS. Track Group and Stop Group (04 R91, R92, R86: O39). -/

namespace Sys2Proof.Machine

/-! ## What the requests read -/

section Pass

variable {x : Axis}

theorem trackPass_unbound (h : x.record.binding = none) : x.trackPass = some .unbound := if_pos h

theorem trackPass_bound (h : x.record.binding ≠ none) : x.trackPass =
    if !x.known then some .notReferenced
    else if !x.state.trackable then some .notStanding
    else if x.activeMemory.isSome then some .limit
    else none := if_neg h

theorem trackPass_unknown (h : x.record.binding ≠ none) (hk : x.known = false) : x.trackPass = some .notReferenced := by
  rw [trackPass_bound h, hk]
  rfl

theorem trackPass_busy (h : x.record.binding ≠ none) (hk : x.known = true) (hs : x.state ∉ [.standing, .slewing, .stopping]) :
    x.trackPass = some .notStanding := by
  rw [trackPass_bound h, hk, Bool.eq_false_iff.mpr fun c => hs ((trackable_iff _).mp c)]
  rfl

theorem trackPass_able (h : x.record.binding ≠ none) (hk : x.known = true) (hs : x.state ∈ [.standing, .slewing, .stopping]) :
    x.trackPass = if x.activeMemory.isSome then some .limit else none := by
  rw [trackPass_bound h, hk, (trackable_iff _).mpr hs]
  rfl

/-- An axis not passed over has its position known. -/
theorem known_of_trackPass (h : x.trackPass = none) : x.known = true := by
  by_cases hb : x.record.binding = none
  · rw [trackPass_unbound hb] at h
    cases h
  · cases hk : x.known with
    | true => rfl
    | false =>
      rw [trackPass_unknown hb hk] at h
      cases h

/-- A remembered limit is active. -/
theorem activeMemory_isSome_iff (x : Axis) : x.activeMemory.isSome = true ↔
    (x.limitMemory = some .plus ∧ x.limP.accepted = true) ∨ (x.limitMemory = some .minus ∧ x.limN.accepted = true) := by
  rw [Option.isSome_iff_exists]
  constructor
  · rintro ⟨side, h⟩
    have := (activeMemory_iff x side).mp h
    cases side with
    | plus => exact .inl this
    | minus => exact .inr this
  · rintro (h | h)
    · exact ⟨.plus, (activeMemory_iff x .plus).mpr h⟩
    · exact ⟨.minus, (activeMemory_iff x .minus).mpr h⟩

end Pass

theorem active_iff (o : MemberOutcome) (m : MotionState) :
    o.active m = true ↔ o ∈ [.evaluating, .ready, .moving] ∨ (o = .uncovered ∧ m = .evaluating) := by
  cases o with
  | uncovered => cases m <;> decide
  | _ => simp [MemberOutcome.active]

theorem stops_iff (q : AxisState) : q.stops = true ↔ q ∈ [AxisState.slewing, .tracking, .homing] := by
  cases q <;> decide

theorem open_iff (q : MotionState) : q.open_ = true ↔ q ∈ [MotionState.evaluating, .moving] := by
  cases q <;> decide

theorem State.mem_membersOf (s : State) (g : GroupId) (a : AxisId) : a ∈ s.membersOf g ↔ (s.axis a).record.group = g := by
  unfold State.membersOf
  rw [List.mem_filter, beq_iff_eq]
  exact ⟨fun h => h.2, fun h => ⟨mem_allAxes a, h⟩⟩

theorem State.membersOf_nodup (s : State) (g : GroupId) : (s.membersOf g).Nodup := List.Nodup.filter _ (by decide)

/-! ## The record of a motion that fails as parts of its members end (R86) -/

theorem GroupMotion.isHit_iff (m : GroupMotion) (l : List AxisId) : m.isHit (l.contains ·) = true ↔
    m.state ∈ [.evaluating, .moving] ∧ ∃ y ∈ m.members, y.outcome.active m.state = true ∧ y.axis ∈ l := by
  unfold GroupMotion.isHit Member.isHit
  simp only [Bool.and_eq_true, List.any_eq_true, open_iff, List.contains_iff_mem]

/-- The failed record, written out. -/
theorem GroupMotion.ending_failed (m : GroupMotion) {out : Member → Bool} {P : Member → Prop} [DecidablePred P]
    (h : ∀ y ∈ m.members, out y = true ↔ P y) : (m.ending out).failed .memberEnded =
      { m with
        state := .failed, cause := some .memberEnded
        members := m.members.map fun y =>
          { y with
            outcome := if P y then .ended else y.outcome
            target := if m.state = .evaluating then none else y.target
            staged := if m.state = .evaluating then none else y.staged } } := by
  have hmembers : ((m.ending out).members.map (·.dropped m.state)) = m.members.map fun y =>
      { y with
        outcome := if P y then .ended else y.outcome
        target := if m.state = .evaluating then none else y.target
        staged := if m.state = .evaluating then none else y.staged } := by
    unfold GroupMotion.ending
    rw [List.map_map]
    refine List.map_congr_left fun y hy => ?_
    have hy := h y hy
    simp only [Function.comp_apply, Member.dropped]
    by_cases hP : P y
    · rw [if_pos hP, if_pos (hy.mpr hP)]
      split <;> rfl
    · rw [if_neg hP, if_neg fun c => hP (hy.mp c)]
      split <;> rfl
  exact congrArg (fun l => ({ m with state := .failed, cause := some .memberEnded, members := l } : GroupMotion)) hmembers

theorem GroupMotion.afterHit_of {m : GroupMotion} {hit : AxisId → Bool} (h : m.isHit hit = true) :
    m.afterHit hit = (m.ending (·.isHit hit m.state)).failed .memberEnded := if_pos h

theorem GroupMotion.afterHit_of_not {m : GroupMotion} {hit : AxisId → Bool} (h : m.isHit hit = false) : m.afterHit hit = m :=
  if_neg fun c => Bool.false_ne_true (h.symm.trans c)

theorem Member.isHit_iff (y : Member) (l : List AxisId) (q : MotionState) :
    y.isHit (l.contains ·) q = true ↔ y.outcome.active q = true ∧ y.axis ∈ l := by
  unfold Member.isHit
  rw [Bool.and_eq_true, List.contains_iff_mem]

/-! ## Track Group (R91) -/

section TrackSeveral

variable {s : State} {a : AxisId}

/-- An axis that Track has taken into TRACKING, with its evaluation requested. -/
structure Axis.Follows (x : Axis) (t : State) (a : AxisId) (e : Int) : Prop where
  epoch : t.clock.epoch = e
  state : (t.axis a).state = .tracking
  tracking : (t.axis a).tracking ≠ none
  position : (t.axis a).position = x.position
  binding : (t.axis a).record.binding = x.record.binding
  asks : ∀ c, x.record.binding = some c → { who := .axis a .track, channel := c, epoch := some e } ∈ t.evals

theorem State.trackAxis_epoch (s : State) (a : AxisId) : (s.trackAxis a).clock.epoch = s.clock.epoch := by
  rw [(s.leaves_trackAxis a).clock]

theorem State.trackAxis_follows {x : Axis} (hx : x.Spared (s.axis a)) (hk : x.known = true) :
    x.Follows (s.trackAxis a) a s.clock.epoch := by
  have hknown : (s.axis a).known = true := by
    rw [hx]
    exact hk
  obtain ⟨l, hl⟩ := State.trackAxis_self hknown
  refine ⟨s.trackAxis_epoch a, by rw [hl]; rfl, by rw [hl]; exact Option.some_ne_none _, by rw [hl, hx]; rfl, by rw [hl, hx]; rfl,
    fun c hc => ?_⟩
  rw [State.trackAxis_evals hknown, show (s.axis a).record.binding = some c by rw [hx]; exact hc]
  exact mem_evalsWith_self ..

theorem Axis.Follows.trackAxis {x : Axis} {e : Int} (h : x.Follows s a e) (b : AxisId) : x.Follows (s.trackAxis b) a e := by
  obtain ⟨hepoch, hstate, htrack, hpos, hbind, hask⟩ := h
  cases hk : (s.axis b).known with
  | false =>
    rw [State.trackAxis_unknown hk]
    exact ⟨hepoch, hstate, htrack, hpos, hbind, hask⟩
  | true =>
    by_cases hb : a = b
    · subst hb
      obtain ⟨l, hl⟩ := State.trackAxis_self hk
      refine ⟨(s.trackAxis_epoch a).trans hepoch, by rw [hl]; rfl, by rw [hl]; exact Option.some_ne_none _, ?_, ?_, fun c hc => ?_⟩
      · rw [hl, ← hpos]
        rfl
      · rw [hl, ← hbind]
        rfl
      · rw [State.trackAxis_evals hk, hbind, hc, hepoch]
        exact mem_evalsWith_self ..
    · have hother := (State.trackAxis_other (s := s) hb).sameButStage
      refine ⟨(s.trackAxis_epoch b).trans hepoch, ?_, ?_, ?_, ?_, fun c hc => ?_⟩
      · rw [hother]
        exact hstate
      · rw [hother]
        exact htrack
      · rw [hother]
        exact hpos
      · rw [hother]
        exact hbind
      · rw [State.trackAxis_evals hk]
        exact mem_evalsWith_of_mem (beq_eq_false_iff_ne.mpr (by simpa using hb)) _ _ _ (hask c hc)

theorem State.foldl_trackAxis_mem {l : List AxisId} (hmem : a ∈ l) {x : Axis} (hx : x.Spared (s.axis a)) (hk : x.known = true) :
    x.Follows (l.foldl State.trackAxis s) a s.clock.epoch := by
  refine foldl_reaches (P := fun t : State => t.clock.epoch = s.clock.epoch ∧ x.Spared (t.axis a))
    (Q := fun t : State => x.Follows t a s.clock.epoch)
    (fun t b hb ⟨he, ht⟩ => ⟨(t.trackAxis_epoch b).trans he, ht.trans (State.trackAxis_other (Ne.symm hb)).spared⟩)
    (fun t b ht => ht.trackAxis b) (fun t ⟨he, ht⟩ => ?_) hmem ⟨rfl, hx⟩
  rw [← he]
  exact State.trackAxis_follows ht hk

theorem State.foldl_trackAxis_other {l : List AxisId} (hmem : a ∉ l) : (s.axis a).StageEnds ((l.foldl State.trackAxis s).axis a) := by
  induction l generalizing s with
  | nil => exact .refl _
  | cons b l ih =>
    rw [List.mem_cons, not_or] at hmem
    exact (State.trackAxis_other hmem.1).trans (ih hmem.2)

end TrackSeveral

/-- The members Track Group starts. -/
def State.trackStarted (s : State) (g : GroupId) : List AxisId :=
  (s.membersOf g).filter fun a => (s.axis a).state ≠ .tracking ∧ (s.axis a).trackPass = none

/-- The reply of Track Group. -/
def State.trackList (s : State) (g : GroupId) : List Byte :=
  encList (fun a : AxisId => u8 a.val) (s.trackStarted g) ++
    encList (fun a : AxisId => u8 a.val) ((s.membersOf g).filter fun a => (s.axis a).state = .tracking) ++
    encList (fun y : AxisId × PassReason => u8 y.1.val ++ u8 y.2.code)
      (((s.membersOf g).filter fun a => (s.axis a).state ≠ .tracking).filterMap fun a => (s.axis a).trackPass.map fun r => (a, r))

theorem State.mem_trackStarted (s : State) (g : GroupId) (a : AxisId) : a ∈ s.trackStarted g ↔
    (s.axis a).record.group = g ∧ (s.axis a).state ≠ .tracking ∧ (s.axis a).trackPass = none := by
  unfold State.trackStarted
  rw [List.mem_filter, State.mem_membersOf, decide_eq_true_iff]

/-- The state Track Group leaves. -/
def State.trackGroup (s : State) (g : GroupId) : State :=
  (s.trackStarted g).foldl State.trackAxis (s.endMembers ((s.trackStarted g).contains ·) false)

theorem trackGroup_taken {s : State} {p : Port} {g : GroupId} (h : s.holds p (.group g) = true) (hh : s.held = false) :
    trackGroup p g.val s = answerData (s.trackList g) ((s.trackGroup g).restartLease (.group g)) := by
  have hne (a : AxisId) : ((s.axis a).state != .tracking) = decide ((s.axis a).state ≠ .tracking) := by
    cases (s.axis a).state <;> rfl
  have heq (a : AxisId) : ((s.axis a).state == .tracking) = decide ((s.axis a).state = .tracking) := by
    cases (s.axis a).state <;> rfl
  have hstarted : (((s.membersOf g).filter fun a => (s.axis a).state != .tracking).filter fun a => (s.axis a).trackPass.isNone) =
      s.trackStarted g := by
    rw [List.filter_filter]
    refine List.filter_congr fun a _ => ?_
    rw [hne, Bool.eq_iff_iff]
    simp [and_comm]
  unfold Machine.trackGroup
  rw [onGroup_taken h hh]
  dsimp only
  rw [hstarted]
  simp only [hne, heq]
  rfl

section TrackGroupEffects

variable {s : State} {g : GroupId} {a : AxisId}

theorem State.trackGroup_starts (h : a ∈ s.trackStarted g) : (s.axis a).Follows (s.trackGroup g) a s.clock.epoch := by
  have hends := s.dropsStages_endMembers ((s.trackStarted g).contains ·) false
  obtain ⟨_, _, hpass⟩ := (s.mem_trackStarted g a).mp h
  have := State.foldl_trackAxis_mem h (hends.axis a).spared (known_of_trackPass hpass)
  rwa [hends.clock] at this

theorem State.trackGroup_leaves (h : a ∉ s.trackStarted g) : (s.axis a).StageEnds ((s.trackGroup g).axis a) :=
  ((s.dropsStages_endMembers ((s.trackStarted g).contains ·) false).axis a).trans (State.foldl_trackAxis_other h)

theorem State.trackGroup_motions (s : State) (g h : GroupId) :
    (s.trackGroup g).motions[h] = s.motions[h].map (·.afterHit ((s.trackStarted g).contains ·)) := by
  have heq : (s.trackGroup g).motions = (s.endMembers ((s.trackStarted g).contains ·) false).motions :=
    State.foldl_motions State.trackAxis_motions fun a ha => State.motionOf_endMembers (List.contains_iff_mem.mpr ha) false
  exact (congrArg (fun v : Vector (Option GroupMotion) 8 => v[h]) heq).trans (s.endMembers_motions _ false h)

end TrackGroupEffects

end Sys2Proof.Machine
end

section
/-! PROOFS. Stop Group (04 R92, R86, R81) and the settling of O39. -/

namespace Sys2Proof.Machine

/-! ## A record that still evaluates fails at Stop Group (R92) -/

/-- The members of a record in EVALUATING that end at a Stop Group. -/
def Member.leftBehind (y : Member) (stopped : AxisId → Bool) (q : MotionState) : Bool := y.outcome == .evaluating || y.isHit stopped q

/-- A record after Stop Group has taken its EVALUATING. -/
def GroupMotion.afterStop (m : GroupMotion) (stopped : AxisId → Bool) : GroupMotion :=
  if m.state = .evaluating then (m.ending (·.leftBehind stopped m.state)).failed .memberEnded else m

section EndEvaluating

variable {s : State} {g : GroupId} {stopped : AxisId → Bool}

theorem State.endEvaluating_of {m : GroupMotion} (h : s.motions[g] = some m) (hm : m.state = .evaluating) :
    s.endEvaluating g stopped = s.failMotion g (m.ending (·.leftBehind stopped m.state)) .memberEnded false := by
  unfold State.endEvaluating
  rw [h]
  exact if_pos hm

theorem State.endEvaluating_of_not (h : ∀ m, s.motions[g] = some m → m.state ≠ .evaluating) : s.endEvaluating g stopped = s := by
  unfold State.endEvaluating
  cases hg : s.motions[g] with
  | none => rfl
  | some m => exact if_neg (h m hg)

theorem State.dropsStages_endEvaluating (s : State) (g : GroupId) (stopped : AxisId → Bool) :
    s.DropsStages (s.endEvaluating g stopped) := by
  unfold State.endEvaluating
  split
  · split
    · exact s.dropsStages_failMotion _ _ _ _
    · exact .refl s
  · exact .refl s

theorem State.endEvaluating_self {m : GroupMotion} (h : s.motions[g] = some m) :
    (s.endEvaluating g stopped).motions[g] = some (m.afterStop stopped) := by
  unfold GroupMotion.afterStop
  by_cases hm : m.state = .evaluating
  · rw [State.endEvaluating_of h hm, if_pos hm]
    exact (s.failMotion_motions g g _ _ false).trans (if_pos rfl)
  · rw [if_neg hm, State.endEvaluating_of_not fun k hk => by cases h.symm.trans hk; exact hm]
    exact h

theorem State.endEvaluating_other {h : GroupId} (hg : h ≠ g) : (s.endEvaluating g stopped).motions[h] = s.motions[h] := by
  cases hm : s.motions[g] with
  | none => rw [State.endEvaluating_of_not fun k hk => by cases hm.symm.trans hk]
  | some m =>
    by_cases he : m.state = .evaluating
    · rw [State.endEvaluating_of hm he]
      exact (s.failMotion_motions g h _ _ false).trans (if_neg hg)
    · rw [State.endEvaluating_of_not fun k hk => by cases hm.symm.trans hk; exact he]

end EndEvaluating

theorem GroupMotion.isHit_failed (m : GroupMotion) (c : EndCause) (hit : AxisId → Bool) : (m.failed c).isHit hit = false := rfl

/-! ## The state Stop Group leaves -/

/-- The members Stop Group stops. -/
def State.stopList (s : State) (g : GroupId) : List AxisId :=
  (s.membersOf g).filter fun a => (s.axis a).state ∈ [.slewing, .tracking, .homing]

/-- The parts end, before the axes stop. -/
def State.stopParts (s : State) (g : GroupId) : State :=
  (s.endEvaluating g ((s.stopList g).contains ·)).endMembers ((s.stopList g).contains ·) false

def State.stopGroup (s : State) (g : GroupId) : State := (s.stopList g).foldl State.stopAxis (s.stopParts g)

theorem stopGroup_taken {s : State} {p : Port} {g : GroupId} (h : s.holds p (.group g) = true) (hh : s.held = false) :
    stopGroup p g.val s =
      answerData (encList (fun a : AxisId => u8 a.val) (s.stopList g)) ((s.stopGroup g).restartLease (.group g)) := by
  have hstops : ((s.membersOf g).filter fun a => (s.axis a).state.stops) = s.stopList g :=
    List.filter_congr fun a _ => by
      rw [Bool.eq_iff_iff, decide_eq_true_iff]
      exact stops_iff _
  unfold Machine.stopGroup
  rw [onGroup_taken h hh]
  dsimp only
  rw [hstops]
  rfl

section StopGroup

variable {s : State} {g : GroupId}

theorem State.mem_stopList (s : State) (g : GroupId) (a : AxisId) :
    a ∈ s.stopList g ↔ (s.axis a).record.group = g ∧ (s.axis a).state ∈ [.slewing, .tracking, .homing] := by
  unfold State.stopList
  rw [List.mem_filter, State.mem_membersOf, decide_eq_true_iff]

theorem State.dropsStages_stopParts (s : State) (g : GroupId) : s.DropsStages (s.stopParts g) :=
  (s.dropsStages_endEvaluating g _).trans (State.dropsStages_endMembers ..)

theorem State.stopParts_stops {a : AxisId} (h : a ∈ s.stopList g) : ((s.stopParts g).axis a).state.stops = true := by
  rw [((s.dropsStages_stopParts g).axis a).sameButStage]
  exact (stops_iff _).mpr ((s.mem_stopList g a).mp h).2

theorem State.stopGroup_stops {a : AxisId} (h : a ∈ s.stopList g) : (s.axis a).stopped.Spared ((s.stopGroup g).axis a) :=
  (Axis.stopped_spared ((s.dropsStages_stopParts g).axis a).spared).trans (State.foldl_stopAxis_mem h (State.stopParts_stops h))

theorem State.stopGroup_leaves {a : AxisId} (h : a ∉ s.stopList g) : (s.axis a).Spared ((s.stopGroup g).axis a) :=
  ((s.dropsStages_stopParts g).axis a).spared.trans (State.foldl_stopAxis_other h)

theorem State.stopGroup_motions (s : State) (g h : GroupId) : (s.stopGroup g).motions[h] = (s.stopParts g).motions[h] := by
  have heq : (s.stopGroup g).motions = (s.stopParts g).motions :=
    State.foldl_motions State.stopAxis_motions fun a ha => State.motionOf_endMembers (List.contains_iff_mem.mpr ha) false
  exact congrArg (fun v : Vector (Option GroupMotion) 8 => v[h]) heq

/-- The records of the groups after the parts have ended: of the group stopped, and of another. -/
theorem State.stopParts_self {m : GroupMotion} (h : s.motions[g] = some m) :
    (s.stopParts g).motions[g] = some ((m.afterStop ((s.stopList g).contains ·)).afterHit ((s.stopList g).contains ·)) := by
  refine ((s.endEvaluating g ((s.stopList g).contains ·)).endMembers_motions _ false g).trans ?_
  rw [State.endEvaluating_self h]
  rfl

theorem State.stopParts_other {h : GroupId} {m : GroupMotion} (hm : s.motions[h] = some m) (hg : h ≠ g) :
    (s.stopParts g).motions[h] = some (m.afterHit ((s.stopList g).contains ·)) := by
  refine ((s.endEvaluating g ((s.stopList g).contains ·)).endMembers_motions _ false h).trans ?_
  rw [State.endEvaluating_other hg, hm]
  rfl

/-- The record of a motion as the parts leave it, by whether its group's evaluating is stopped. -/
theorem State.stopParts_motions {h : GroupId} {m : GroupMotion} (hm : s.motions[h] = some m) :
    (h = g ∧ m.state = .evaluating → (s.stopParts g).motions[h] =
      some ((m.ending (·.leftBehind ((s.stopList g).contains ·) m.state)).failed .memberEnded)) ∧
    (¬ (h = g ∧ m.state = .evaluating) → (s.stopParts g).motions[h] = some (m.afterHit ((s.stopList g).contains ·))) := by
  refine ⟨fun ⟨hg, he⟩ => ?_, fun hn => ?_⟩
  · subst hg
    rw [State.stopParts_self hm]
    unfold GroupMotion.afterStop
    rw [if_pos he, GroupMotion.afterHit_of_not (GroupMotion.isHit_failed ..)]
  · by_cases hg : h = g
    · subst hg
      rw [State.stopParts_self hm]
      unfold GroupMotion.afterStop
      rw [if_neg fun c => hn ⟨rfl, c⟩]
    · exact State.stopParts_other hm hg

/-- A record that fails at Stop Group says so and has ended the stages it owned. -/
theorem State.saysFailed_stopParts {h : GroupId} {m : GroupMotion} (hm : s.motions[h] = some m)
    (hends : (h = g ∧ m.state = .evaluating) ∨ m.isHit ((s.stopList g).contains ·) = true) : s.SaysFailed (s.stopParts g) h m := by
  by_cases hg : h = g ∧ m.state = .evaluating
  · obtain ⟨rfl, he⟩ := hg
    have hfail := State.saysFailed_failMotion (.refl s) h m (·.leftBehind ((s.stopList h).contains ·) m.state) .memberEnded
    rw [← State.endEvaluating_of hm he] at hfail
    exact hfail.keeps (State.dropsStages_endMembers ..)
  · have hstill : (s.endEvaluating g ((s.stopList g).contains ·)).motions[h] = some m := by
      by_cases hgroup : h = g
      · subst hgroup
        rw [State.endEvaluating_of_not fun k hk => by cases hm.symm.trans hk; exact fun c => hg ⟨rfl, c⟩]
        exact hm
      · exact (State.endEvaluating_other hgroup).trans hm
    exact State.saysFailed_endMembers (s.dropsStages_endEvaluating g _) hstill (hends.resolve_left hg)

theorem State.stopAxis_raised (s : State) (a : AxisId) : ∀ x ∈ s.signals, x ∈ (s.stopAxis a).signals := by
  have henter := (s.leaves_enterStopping a (some (s.axis a).record.stopDecel) false).raised
  unfold State.stopAxis
  split
  · exact fun _ h => h
  · dsimp only
    split
    · rw [(State.abandons_homingLost _ a).only]
      exact henter
    · exact henter

theorem State.stopGroup_says {h : GroupId} {m : GroupMotion} (hsays : s.SaysFailed (s.stopParts g) h m) :
    .failed (.motion m.serial) ∈ (s.stopGroup g).signals ∧
    (m.state = .evaluating → ∀ y ∈ m.members, ∀ z, (s.axis y.axis).stage = some z → z.owner = .group h →
      ((s.stopGroup g).axis y.axis).stage = none ∧ ((s.stopGroup g).axis y.axis).lastStage = .ended) := by
  obtain ⟨hraised, hstages⟩ := hsays
  refine ⟨foldl_keeps (P := fun t : State => .failed (.motion m.serial) ∈ t.signals)
    (fun t a ht => t.stopAxis_raised a _ ht) _ _ hraised, fun he y hy z hz ho => ?_⟩
  have hended : (s.axis y.axis).dropStage.lastStage = .ended := by
    unfold Axis.dropStage
    exact if_neg (by rw [hz]; exact Option.some_ne_none z)
  rw [← hended]
  refine foldl_keeps (P := fun t : State => (t.axis y.axis).stage = none ∧
    (t.axis y.axis).lastStage = (s.axis y.axis).dropStage.lastStage) (fun t a ht => State.stopAxis_stage ht) _ _ ?_
  rw [hstages he y hy z hz ho]
  exact ⟨rfl, rfl⟩

theorem State.leavesRolls_stopGroup (s : State) (g : GroupId) : s.LeavesRolls (s.stopGroup g) (s.stopList g) :=
  (State.leavesRolls_foldl_stopAxis (List.Nodup.filter _ (s.membersOf_nodup g)) fun _ ha => State.stopParts_stops ha).alike
    (s.dropsStages_stopParts g).settlesAlike (.refl _)

end StopGroup

/-- The record of a motion that fails at Stop Group, as the obligation writes it. -/
theorem State.stopGroup_fails {s : State} {g h : GroupId} {m : GroupMotion} (hm : s.motions[h] = some m)
    (hopen : m.state ∈ [.evaluating, .moving]) (hends : (h = g ∧ m.state = .evaluating) ∨
      ∃ y ∈ m.members, y.outcome.active m.state = true ∧ y.axis ∈ s.stopList g) :
    s.SaysFailed (s.stopParts g) h m ∧ (s.stopGroup g).motions[h] = some { m with
      state := .failed, cause := some .memberEnded
      members := m.members.map fun y =>
        { y with
          outcome := if (h = g ∧ m.state = .evaluating ∧ y.outcome = .evaluating) ∨
            (y.outcome.active m.state = true ∧ y.axis ∈ s.stopList g) then .ended else y.outcome
          target := if m.state = .evaluating then none else y.target
          staged := if m.state = .evaluating then none else y.staged } } := by
  have hhit (he : ∃ y ∈ m.members, y.outcome.active m.state = true ∧ y.axis ∈ s.stopList g) := (m.isHit_iff _).mpr ⟨hopen, he⟩
  obtain ⟨hown, hother⟩ := State.stopParts_motions (g := g) hm
  refine ⟨State.saysFailed_stopParts hm (hends.imp_right hhit), (s.stopGroup_motions g h).trans ?_⟩
  by_cases hg : h = g ∧ m.state = .evaluating
  · refine (hown hg).trans (congrArg some (m.ending_failed fun y _ => ?_))
    unfold Member.leftBehind
    rw [Bool.or_eq_true, Member.isHit_iff, beq_iff_eq]
    exact or_congr_left ⟨fun e => ⟨hg.1, hg.2, e⟩, fun e => e.2.2⟩
  · refine (hother hg).trans (congrArg some ((GroupMotion.afterHit_of (hhit (hends.resolve_left hg))).trans
      (m.ending_failed fun y _ => ?_)))
    rw [Member.isHit_iff]
    exact ⟨.inr, fun e => e.resolve_left fun c => hg ⟨c.1, c.2.1⟩⟩

/-- A record of which no part ends stands. -/
theorem State.stopGroup_stands {s : State} {g h : GroupId} {m : GroupMotion} (hm : s.motions[h] = some m)
    (hn : m.state ∉ [.evaluating, .moving] ∨ ((h ≠ g ∨ m.state ≠ .evaluating) ∧
      ∀ y ∈ m.members, y.outcome.active m.state = true → y.axis ∉ s.stopList g)) : (s.stopGroup g).motions[h] = some m := by
  refine (s.stopGroup_motions g h).trans (((State.stopParts_motions (g := g) hm).2 fun ⟨hg, he⟩ => ?_).trans
    (congrArg some (GroupMotion.afterHit_of_not (Bool.eq_false_iff.mpr fun c => ?_))))
  · rcases hn with hn | ⟨hn, _⟩
    · rw [he] at hn
      exact hn (by decide)
    · exact hn.elim (fun c => c hg) fun c => c he
  · obtain ⟨hopen, y, hy, hact, hstop⟩ := (m.isHit_iff _).mp c
    rcases hn with hn | ⟨_, hn⟩
    · exact hn hopen
    · exact hn y hy hact hstop

/-- Settles O39: Track Group by `trackGroup_taken` and its effects, Stop Group by `stopGroup_taken` and its effects. -/
theorem trackGroupAndStopGroup : Obligations.TrackGroupAndStopGroup := by
  refine ⟨fun x => ⟨trackPass_unbound, trackPass_unknown, fun hb hk => ⟨trackPass_busy hb hk, fun hs => ⟨fun hm => ?_, fun hp hn => ?_⟩⟩⟩,
    active_iff, fun s p tag hr => ⟨fun n hn => ⟨?_, ?_⟩, fun g hown hhalt hpow => ⟨?_, ?_⟩⟩⟩
  · rw [trackPass_able hb hk hs]
    exact if_pos ((activeMemory_isSome_iff x).mpr hm)
  · rw [trackPass_able hb hk hs]
    refine if_neg fun c => ?_
    rcases (activeMemory_isSome_iff x).mp c with ⟨h1, h2⟩ | ⟨h1, h2⟩
    · exact Bool.false_ne_true ((hp h1).symm.trans h2)
    · exact Bool.false_ne_true ((hn h1).symm.trans h2)
  · exact answers_unchanged (q := .trackGroup n) rfl rfl hr (congrArg now (onGroup_unknown hn _))
  · exact answers_unchanged (q := .stopGroup n) rfl rfl hr (congrArg now (onGroup_unknown hn _))
  · have he := trackGroup_taken (holds_outstand hown tag 67) (not_held_outstand p tag 67 hhalt hpow)
    have hstarts (a : AxisId) := (s.outstand p tag 67).mem_trackStarted g a
    have hfollows (a : AxisId) := State.trackGroup_starts (s := s.outstand p tag 67) (g := g) (a := a)
    have hleaves (a : AxisId) := State.trackGroup_leaves (s := s.outstand p tag 67) (g := g) (a := a)
    have hmotions := (s.outstand p tag 67).trackGroup_motions g
    generalize (s.outstand p tag 67).trackGroup g = u at *
    refine ⟨(u.restartLease (.group g)).enterReply p tag 67 (Reply.okData ((s.outstand p tag 67).trackList g)),
      exec_answered (q := .trackGroup g.val) rfl rfl hr (congrArg now he), fun started already hs ha =>
      ⟨?_, fun h m hm hopen hpart => ?_⟩, fun a hg hpass hst => ?_, fun a ha => ?_⟩
    · subst hs ha
      exact State.enterReply_reply ..
    · have hhit : m.isHit (((s.outstand p tag 67).trackStarted g).contains ·) = true :=
        (m.isHit_iff _).mpr ⟨hopen, by rw [hs] at hpart; exact hpart⟩
      refine (hmotions h).trans ?_
      rw [show (s.outstand p tag 67).motions[h] = some m from hm]
      refine congrArg some ((GroupMotion.afterHit_of hhit).trans (m.ending_failed fun y _ => ?_))
      rw [hs]
      exact y.isHit_iff _ _
    · obtain ⟨_, hstate, htrack, hpos, _, hasks⟩ := hfollows a ((hstarts a).mpr ⟨hg, hst, hpass⟩)
      exact ⟨hstate, htrack, hpos, fun c hc => ⟨_, hasks c hc, rfl, rfl, rfl⟩⟩
    · refine (hleaves a fun c => ?_).sameButStage
      obtain ⟨hg, hst, hpass⟩ := (hstarts a).mp c
      rcases ha with ha | ha | ha
      · exact ha hg
      · exact ha hpass
      · exact hst ha
  · have he := stopGroup_taken (holds_outstand hown tag 68) (not_held_outstand p tag 68 hhalt hpow)
    have hstops (a : AxisId) := (s.outstand p tag 68).mem_stopList g a
    have hstopped (a : AxisId) := State.stopGroup_stops (s := s.outstand p tag 68) (g := g) (a := a)
    have hleaves (a : AxisId) := State.stopGroup_leaves (s := s.outstand p tag 68) (g := g) (a := a)
    have hfails (h : GroupId) (m : GroupMotion) := State.stopGroup_fails (s := s.outstand p tag 68) (g := g) (h := h) (m := m)
    have hstand (h : GroupId) (m : GroupMotion) := State.stopGroup_stands (s := s.outstand p tag 68) (g := g) (h := h) (m := m)
    have hsaid (h : GroupId) (m : GroupMotion) := State.stopGroup_says (s := s.outstand p tag 68) (g := g) (h := h) (m := m)
    have hrolls := (s.outstand p tag 68).leavesRolls_stopGroup g
    generalize (s.outstand p tag 68).stopGroup g = u at *
    have haxis (a : AxisId) (r : Reply) : ((u.restartLease (.group g)).enterReply p tag 68 r).axis a = u.axis a := rfl
    refine ⟨(u.restartLease (.group g)).enterReply p tag 68
      (Reply.okData (encList (fun a : AxisId => u8 a.val) ((s.outstand p tag 68).stopList g))), s.stopList g,
      exec_answered (q := .stopGroup g.val) rfl rfl hr (congrArg now he), rfl,
      State.enterReply_reply .., fun a rest hg hst hrest => ?_, fun a ha => ?_, fun h m hm hopen hends => ?_, fun h m hm hstands => ?_,
      fun hset => ?_⟩
    · have hax := hstopped a ((hstops a).mpr ⟨hg, hst⟩)
      rw [show (s.outstand p tag 68).axis a = s.axis a from rfl] at hax
      rw [haxis, hax, hrest]
      by_cases hv : (s.axis a).speedSq = 0
      · rw [Axis.stopped_rest hv]
        exact ⟨rfl, rfl, rfl, rfl, fun c => absurd hv c, fun _ => ⟨Axis.atRest_state ((s.axis a).idle .ended) _, rfl⟩⟩
      · rw [Axis.stopped_moving hv]
        exact ⟨rfl, rfl, rfl, rfl, fun _ => ⟨rfl, rfl, rfl⟩, fun c => absurd c hv⟩
    · have hax := hleaves a fun c => ha.elim (fun e => e ((hstops a).mp c).1) fun e => e ((hstops a).mp c).2
      rw [haxis, hax]
      exact ⟨rfl, rfl, rfl⟩
    · obtain ⟨hsays, hfailed⟩ := hfails h m hm hopen hends
      obtain ⟨hraised, hstages⟩ := hsaid h m hsays
      exact ⟨hraised, hfailed, hstages⟩
    · exact hstand h m hm hstands
    · have hroll := hrolls.alike (s.settlesAlike_outstand p tag 68) (u.settlesAlike_answered (.group g) p tag 68
        (Reply.okData (encList (fun a : AxisId => u8 a.val) ((s.outstand p tag 68).stopList g))))
      exact ⟨hroll.mem_roll hset, hroll.all hset⟩

end Sys2Proof.Machine
end

section
/-! PROOFS. Faults (04 R93, 05 R107, 09 R175, R176, R187): an axis leaves its work and enters FAULTED, a further cause joins, and what
each tells. -/

namespace Sys2Proof.Machine

/-! ## A quiet part stays quiet -/

section Quiet

variable {s : State} {a : AxisId} {y : Axis}

theorem State.groupSettled_setAxis (hg : y.record.group = (s.axis a).record.group)
    (hs : y.state = .tracking ↔ (s.axis a).state = .tracking) (ht : y.tracking = (s.axis a).tracking) (g : GroupId) :
    (s.setAxis a y).groupSettled g = s.groupSettled g := by
  have hstate : (y.state != .tracking) = ((s.axis a).state != .tracking) := by
    rw [Bool.eq_iff_iff, bne_iff_ne, bne_iff_ne]
    exact not_congr hs
  have hmembers : (s.setAxis a y).membersOf g = s.membersOf g := by
    refine List.filter_congr fun b _ => ?_
    rw [State.setAxis_axis]
    split
    · rename_i hb
      rw [hb, hg]
    · rfl
  unfold State.groupSettled
  rw [hmembers, State.setAxis_clock]
  congr 2
  funext b
  rw [State.setAxis_axis]
  split
  · rename_i hb
    rw [hb, hstate, ht]
  · rfl

theorem State.settledRunners_setAxis (hg : y.record.group = (s.axis a).record.group)
    (hs : y.state = .tracking ↔ (s.axis a).state = .tracking) (ht : y.tracking = (s.axis a).tracking) :
    (s.setAxis a y).settledRunners = s.settledRunners := by
  have hmet (c : Cue) : (s.setAxis a y).settledMet c = s.settledMet c := by
    unfold State.settledMet
    cases groupIdOf c.settledGroup with
    | none => rfl
    | some g => exact State.groupSettled_setAxis hg hs ht g
  refine List.filter_congr fun r _ => ?_
  rw [show (s.setAxis a y).waitingOn r = s.waitingOn r from rfl]
  cases s.waitingOn r with
  | none => rfl
  | some c =>
    dsimp only
    rw [hmet c]

/-- An axis changed in nothing that settling reads, and not set to move from rest. -/
theorem State.Quiet.setAxis (h : s.Quiet) (hg : y.record.group = (s.axis a).record.group)
    (hs : y.state = .tracking ↔ (s.axis a).state = .tracking) (ht : y.tracking = (s.axis a).tracking)
    (hm : y.state.moving = true → 0 < y.speedSq) : (s.setAxis a y).Quiet := by
  obtain ⟨hsignals, hrunners, hmotion⟩ := h
  refine ⟨hsignals, (State.settledRunners_setAxis hg hs ht).trans hrunners, fun b hb => ?_⟩
  rw [State.setAxis_axis] at hb ⊢
  split
  · rename_i hba
    rw [if_pos hba] at hb
    exact hm hb
  · rename_i hba
    rw [if_neg hba] at hb
    exact hmotion b hb

theorem State.Quiet.setAxis_alike (h : s.Quiet) (hr : y.record = (s.axis a).record) (hs : y.state = (s.axis a).state)
    (ht : y.tracking = (s.axis a).tracking) (hv : y.speedSq = (s.axis a).speedSq) : (s.setAxis a y).Quiet :=
  h.setAxis (by rw [hr]) (by rw [hs]) ht fun hm => by
    rw [hv]
    exact h.2.2 a (hs ▸ hm)

end Quiet

theorem State.setAxis_same (s : State) (a : AxisId) : s.setAxis a (s.axis a) = s := by
  unfold State.setAxis State.axis
  congr 1
  exact Vector.set_getElem_self ..

/-! ## What a fault tells (R175, R176) -/

section Tells

variable {s t u : State} {a : AxisId}

/-- The event and the notice of a fault, told of a state before it from which the axis and the entries stand. -/
theorem State.tellsFault_faultNotice (h : s.Leaves t) (hg : (t.axis a).record.group = (s.axis a).record.group) :
    s.tellsFault (t.faultNotice a) a := by
  have hgroup : t.groupOf a = .group (s.axis a).record.group := congrArg Resource.group hg
  unfold State.faultNotice State.notifyAxis
  rw [show (t.event (.axisFault a)).groupOf a = t.groupOf a from rfl, hgroup]
  refine ⟨by simp, fun q hq => State.tells_of_entry (b := false) ?_⟩
  have hroute : q ∈ (t.event (.axisFault a)).routedPorts .axisFault (.group (s.axis a).record.group) := by
    rw [show (t.event (.axisFault a)).routedPorts = t.routedPorts from rfl, h.routedPorts]
    exact hq
  rw [State.notify_entry_routed (t.event (.axisFault a)) hroute]
  exact congrArg (fun e => some (NoticeEntry.after e (some a.val) false)) (h.entry q _ (by decide))

theorem State.tellsFault.keeps (h : s.tellsFault t a) (hsig : ∀ x ∈ t.signals, x ∈ u.signals)
    (he : ∀ q, u.entry q .axisFault = t.entry q .axisFault) : s.tellsFault u a :=
  ⟨hsig _ h.1, fun q hq => (h.2 q hq).of_entries rfl (he q)⟩

theorem State.faultNotice_axis (s : State) (a b : AxisId) : (s.faultNotice a).axis b = s.axis b := State.axis_notify ..

theorem State.faultNotice_power (s : State) (a : AxisId) : (s.faultNotice a).power = s.power := State.notify_power ..

theorem State.faultNotice_clock (s : State) (a : AxisId) : (s.faultNotice a).clock = s.clock := State.notify_clock ..

theorem State.faultNotice_routedPorts (s : State) (a : AxisId) (k : NoticeKind) (r : Resource) :
    (s.faultNotice a).routedPorts k r = s.routedPorts k r := State.notify_routedPorts ..

theorem State.settlesAlike_faultNotice (s : State) (a : AxisId) : s.SettlesAlike (s.faultNotice a) :=
  (s.works_event (.axisFault a)).settlesAlike.trans (State.settlesAlike_notify _ (by decide) _ _ _)

end Tells

/-! ## An axis leaves its work faulted -/

/-- The axis leaves its work, is changed by `f`, and the fault is told. -/
def State.faultWith (s : State) (a : AxisId) (f : Axis → Axis) : State := ((s.leaveWork a false).modAxis a f).faultNotice a

section FaultWith

variable (s : State) (a : AxisId) (f : Axis → Axis)

theorem State.faultWith_axis : (s.faultWith a f).axis a = f ((s.axis a).idle (s.axis a).dropStage.lastStage) := by
  unfold State.faultWith
  rw [State.faultNotice_axis, State.modAxis_axis_self, State.leaveWork_dropped]

variable {f} in
theorem State.tellsFault_faultWith (hf : ∀ y, (f y).record = y.record) : s.tellsFault (s.faultWith a f) a := by
  refine State.tellsFault_faultNotice ((s.leaves_leaveWork a false).trans (State.works_modAxis ..).leaves) ?_
  rw [State.modAxis_axis_self, hf, State.leaveWork_dropped]
  rfl

theorem State.leavesRoll_faultWith : s.leavesRoll (s.faultWith a f) a :=
  (s.leavesRoll_leaveWork a false).alike (.refl s)
    ((State.works_modAxis ..).settlesAlike.trans (State.settlesAlike_faultNotice ..))

theorem State.faultWith_power : (s.faultWith a f).power = s.power :=
  (State.faultNotice_power ..).trans (s.leaves_leaveWork a false).power

theorem State.faultWith_routedPorts (k : NoticeKind) (r : Resource) : (s.faultWith a f).routedPorts k r = s.routedPorts k r :=
  (State.faultNotice_routedPorts ..).trans ((s.leaves_leaveWork a false).routedPorts k r)

/-- A fault that ends a homing: a return sequence is told. -/
theorem State.homingEnds_faultWith : s.homingEnds ((s.faultWith a f).homingLost a) a :=
  (State.homingEnds_homingLost _ a).alike (by rw [State.faultWith_power]) (State.faultWith_routedPorts s a f) rfl rfl (fun _ => rfl)
    fun _ => rfl

variable {f} in
theorem State.tellsFault_homingLost (hf : ∀ y, (f y).record = y.record) : s.tellsFault ((s.faultWith a f).homingLost a) a := by
  have hab := (s.faultWith a f).abandons_homingLost a
  refine (s.tellsFault_faultWith a hf).keeps (fun x hx => ?_) fun q => hab.entry q _ (by decide)
  rw [hab.only]
  exact hx

theorem State.faultLost_axis : ∃ b, ((s.faultWith a f).homingLost a).axis a =
    { f ((s.axis a).idle (s.axis a).dropStage.lastStage) with resumeMark := b } := by
  refine ⟨(((s.faultWith a f).homingLost a).axis a).resumeMark, ?_⟩
  rw [((s.faultWith a f).abandons_homingLost a).axis a, State.faultWith_axis]

end FaultWith

/-! ## The faults by name -/

section Named

variable (s : State) (a : AxisId)

/-- The axis a hard-limit stop faults (R93, R108). -/
def Axis.atLimit (x : Axis) (side : LimitSide) : Axis :=
  { x.faulted .hardLimit none with limitMemory := if x.known then some side else x.limitMemory }

theorem State.hardLimitStop_eq (side : LimitSide) : s.hardLimitStop a side = s.faultWith a (·.atLimit side) := by
  have hat (x : Axis) : (if x.known then { x with limitMemory := some side } else x).faulted .hardLimit none = x.atLimit side := by
    unfold Axis.atLimit
    by_cases h : x.known = true
    · rw [if_pos h, if_pos h]
      rfl
    · rw [if_neg h, if_neg h]
      rfl
  unfold State.hardLimitStop State.enterFaulted State.faultWith
  dsimp only
  rw [State.modAxis_modAxis]
  simp only [hat]

theorem State.failHoming_eq : s.failHoming a =
    (s.faultWith a fun x => x.faulted .homeNotFound ((s.axis a).homing.map (·.reversals))).homingLost a := rfl

theorem State.driveFault_homing {s : State} {a : AxisId} (h : (s.axis a).state = .homing) : s.driveFault a =
    (s.faultWith a fun x => x.faultPosition.faulted .driveFault none).homingLost a := by
  unfold State.driveFault
  rw [h]
  rfl

theorem State.driveFault_other {s : State} {a : AxisId} (h : (s.axis a).state ≠ .homing) : s.driveFault a =
    s.faultWith a fun x => x.faultPosition.faulted .driveFault none := by
  unfold State.driveFault
  dsimp only
  rw [if_neg (by simpa using h)]
  rfl

/-- The fault record with a cause joined (R176). -/
def FaultRecord.joined (f : FaultRecord) (c : FaultCause) : FaultRecord :=
  if f.first = some c ∨ c ∈ f.further then { f with autoClear := none }
  else { f with further := f.further ++ [c], autoClear := none }

/-- A cause recorded on an axis. -/
def Axis.faultJoined (x : Axis) (c : FaultCause) : Axis := { x with fault := x.fault.joined c }

theorem State.furtherCause_eq {c : FaultCause} (h : c ≠ .driveFault) :
    s.furtherCause a c = (s.modAxis a (·.faultJoined c)).faultNotice a := by
  have heq : s.furtherCause a c = (s.modAxis a fun x => if c = .driveFault then (x.faultJoined c).faultPosition else x.faultJoined c).faultNotice a :=
    rfl
  rw [heq]
  simp only [if_neg h]

theorem State.furtherCause_drive : s.furtherCause a .driveFault =
    (s.modAxis a fun x => (x.faultJoined .driveFault).faultPosition).faultNotice a := rfl

end Named

section Joined

variable {f : FaultRecord} {c : FaultCause}

theorem FaultRecord.joined_first (f : FaultRecord) (c : FaultCause) : (f.joined c).first = f.first := by
  unfold FaultRecord.joined
  split <;> rfl

theorem FaultRecord.joined_autoClear (f : FaultRecord) (c : FaultCause) : (f.joined c).autoClear = none := by
  unfold FaultRecord.joined
  split <;> rfl

theorem FaultRecord.joined_had (h : f.first = some c ∨ c ∈ f.further) : (f.joined c).further = f.further := by
  unfold FaultRecord.joined
  rw [if_pos h]

theorem FaultRecord.joined_new (h1 : f.first ≠ some c) (h2 : c ∉ f.further) : (f.joined c).further = f.further ++ [c] := by
  unfold FaultRecord.joined
  rw [if_neg fun h => h.elim h1 h2]

end Joined

theorem Axis.losePosition_record (x : Axis) : x.losePosition.record = x.record := by
  unfold Axis.losePosition
  split
  · rfl
  · split <;> rfl

theorem Axis.faultPosition_record (x : Axis) : x.faultPosition.record = x.record := by
  unfold Axis.faultPosition
  split
  · rfl
  · exact x.losePosition_record

/-- What the loss of the position changes (R110). -/
theorem Axis.losePosition_eq (x : Axis) : ∃ p m e, x.losePosition = { x with known := false, position := p, limitMemory := m, stagedAt := e } ∧
    (x.known = true ∨ x.state ≠ .homing → p = ⟨0, 0⟩) ∧ (x.known = false → x.state = .homing → p = x.position) := by
  unfold Axis.losePosition
  cases hk : x.known with
  | true => exact ⟨_, _, _, if_pos rfl, fun _ => rfl, fun c => absurd c.symm Bool.false_ne_true⟩
  | false =>
    by_cases hh : x.state = .homing
    · refine ⟨x.position, x.limitMemory, x.stagedAt, ?_, fun c => c.elim (fun c => absurd c Bool.false_ne_true) fun c => absurd hh c,
        fun _ _ => rfl⟩
      rw [if_neg Bool.false_ne_true, if_pos hh, ← hk]
    · refine ⟨⟨0, 0⟩, x.limitMemory, x.stagedAt, ?_, fun _ => rfl, fun _ c => absurd c hh⟩
      rw [if_neg Bool.false_ne_true, if_neg hh, ← hk]

/-- What a drive fault leaves of the position (R175). -/
theorem Axis.faultPosition_eq (x : Axis) : ∃ k p m e, x.faultPosition = { x with known := k, position := p, limitMemory := m, stagedAt := e } ∧
    (x.record.keepPosition = false → k = false ∧ (x.known = true ∨ x.state ≠ .homing → p = ⟨0, 0⟩) ∧
      (x.known = false → x.state = .homing → p = x.position)) ∧
    (x.record.keepPosition = true → k = x.known ∧ p = x.position) := by
  unfold Axis.faultPosition
  cases hk : x.record.keepPosition with
  | true => exact ⟨x.known, x.position, x.limitMemory, x.stagedAt, if_pos rfl, fun c => absurd c.symm Bool.false_ne_true, fun _ => ⟨rfl, rfl⟩⟩
  | false =>
    obtain ⟨p, m, e, heq, hzero, hkeep⟩ := x.losePosition_eq
    exact ⟨false, p, m, e, (if_neg Bool.false_ne_true).trans heq, fun _ => ⟨rfl, hzero, hkeep⟩, fun c => absurd c Bool.false_ne_true⟩

end Sys2Proof.Machine
end

section
/-! PROOFS. The limit inputs and FLT (04 R93, R94, 05 R105, R106, 09 R175, R176, R178: O53). -/

namespace Sys2Proof.Machine

/-! ## The levels -/

/-- The limit input of a side alone changes. -/
theorem Axis.setLimit_eq (x : Axis) (side : LimitSide) (k : Filter) :
    x.setLimit side k = { x with limP := (x.setLimit side k).limP, limN := (x.setLimit side k).limN } := by
  cases side <;> rfl

section After

variable {s t : State} {a : AxisId} {y : Axis}

/-- A fault told from a state in which the axis alone had changed, within its group. -/
theorem State.tellsFault.before (h : (s.setAxis a y).tellsFault t a) (hr : y.record = (s.axis a).record) : s.tellsFault t a := by
  unfold State.tellsFault at *
  rw [State.setAxis_axis_self, hr] at h
  exact h

theorem State.leavesRoll.before (h : (s.setAxis a y).leavesRoll t a) : s.leavesRoll t a :=
  h.alike (s.works_setAxis a y).settlesAlike (.refl t)

theorem State.homingEnds.before (h : (s.setAxis a y).homingEnds t a) : s.homingEnds t a :=
  h.alike rfl (fun _ _ => rfl) rfl rfl (fun _ => rfl) fun _ => rfl

end After

/-! ## A limit met (R93, R105, R106) -/

section Limit

variable {s : State} {a : AxisId} {y : Axis}

/-- R93: the stop at a limit of an axis that alone has changed, in nothing the stop leaves standing. -/
theorem State.stopsAtLimit_hardLimitStop (hp : y.position = (s.axis a).position) (hr : y.record = (s.axis a).record)
    (hk : y.known = (s.axis a).known) (side : LimitSide) : s.stopsAtLimit ((s.setAxis a y).hardLimitStop a side) a side := by
  have hax := (s.setAxis a y).faultWith_axis a (·.atLimit side)
  have htells := (s.setAxis a y).tellsFault_faultWith a (f := (·.atLimit side)) fun _ => rfl
  have hroll := (s.setAxis a y).leavesRoll_faultWith a (·.atLimit side)
  rw [State.setAxis_axis_self] at hax
  rw [State.hardLimitStop_eq]
  generalize (s.setAxis a y).faultWith a (·.atLimit side) = t at *
  unfold State.stopsAtLimit
  rw [hax]
  exact ⟨rfl, rfl, rfl, rfl, hp, hk, rfl, rfl, rfl, fun h => if_pos (hk.trans h), htells.before hr, fun _ => hroll.before⟩

/-- R107: the failure of a search whose axis alone has changed, in nothing the failure leaves standing. -/
theorem State.failsSearch_failHoming {h : Homing} {p : Position} (hh : y.homing = some h) (hp : y.position = p)
    (hr : y.record = (s.axis a).record) (hk : y.known = (s.axis a).known) (hm : y.limitMemory = (s.axis a).limitMemory) :
    s.failsSearch ((s.setAxis a y).failHoming a) a h.reversals p := by
  have heq := (s.setAxis a y).failHoming_eq a
  rw [State.setAxis_axis_self, hh] at heq
  obtain ⟨b, hb⟩ := (s.setAxis a y).faultLost_axis a (·.faulted .homeNotFound (some h.reversals))
  have htells := (s.setAxis a y).tellsFault_homingLost a (f := (·.faulted .homeNotFound (some h.reversals))) fun _ => rfl
  have hends := (s.setAxis a y).homingEnds_faultWith a (·.faulted .homeNotFound (some h.reversals))
  rw [State.setAxis_axis_self] at hb
  change (s.setAxis a y).failHoming a = ((s.setAxis a y).faultWith a (·.faulted .homeNotFound (some h.reversals))).homingLost a at heq
  rw [heq]
  generalize ((s.setAxis a y).faultWith a (·.faulted .homeNotFound (some h.reversals))).homingLost a = t at *
  unfold State.failsSearch
  rw [hb]
  exact ⟨rfl, rfl, rfl, rfl, hp, hk, hm, rfl, hends.before, htells.before hr⟩

/-- The axis an edge taken before the limit leaves (R106). -/
def Axis.atLimitFound (x : Axis) (side : LimitSide) : Axis :=
  { x.faulted .hardLimit none with known := true, limitMemory := some side }

theorem State.homingLimit_found {h : Homing} (hp : h.phase = .seek) (he : h.edge ≠ none) (side : LimitSide) :
    s.homingLimit a h side = (s.faultWith a (·.atLimitFound side)).homingLost a := by
  obtain ⟨e, he⟩ := Option.ne_none_iff_exists'.mp he
  unfold State.homingLimit
  rw [hp, he]
  dsimp only
  unfold State.enterFaulted State.faultWith
  rw [State.modAxis_modAxis]
  rfl

theorem State.homingLimit_turns {h : Homing} (hp : h.phase = .seek) (he : h.edge = none) (hr : h.reversals = 0) (side : LimitSide) :
    s.homingLimit a h side = s.modAxis a fun x => { x.still with homing := some h.turned } := by
  unfold State.homingLimit
  rw [hp, he]
  exact if_pos hr

theorem State.homingLimit_fails {h : Homing} (hc : h.phase = .clear ∨ (h.edge = none ∧ h.reversals ≠ 0)) (side : LimitSide) :
    s.homingLimit a h side = s.failHoming a := by
  unfold State.homingLimit
  cases hp : h.phase with
  | clear => rfl
  | seek =>
    obtain ⟨he, hr⟩ := hc.resolve_left fun c => by cases hp.symm.trans c
    rw [he]
    exact if_neg hr

theorem State.limitMet_moving (hs : (s.axis a).state ∈ [.slewing, .tracking, .stopping]) (side : LimitSide) :
    s.limitMet a side = s.hardLimitStop a side := by
  simp only [List.mem_cons, List.not_mem_nil, or_false] at hs
  unfold State.limitMet
  rcases hs with hs | hs | hs <;> rw [hs]

theorem State.limitMet_homing {h : Homing} (hs : (s.axis a).state = .homing) (hh : (s.axis a).homing = some h) (side : LimitSide) :
    s.limitMet a side = s.homingLimit a h side := by
  unfold State.limitMet
  rw [hs, hh]

end Limit

/-! ## A cause that falls together with a fault taken first (R176) -/

section Further

variable {s : State} {a : AxisId} {y : Axis}

theorem State.lateLimit_hard (hs : (s.axis a).state = .faulted) (side : LimitSide) : s.lateLimit a side (some .hardLimit) =
    (s.modAxis a fun x => { x with
      limitMemory := if x.known then some side else x.limitMemory, fault := x.fault.joined .hardLimit }).faultNotice a := by
  unfold State.lateLimit
  dsimp only
  rw [if_pos hs, State.furtherCause_eq _ _ (by decide), State.modAxis_modAxis]
  refine congrArg (fun f => (s.modAxis a f).faultNotice a) (funext fun x => ?_)
  unfold Axis.faultJoined
  by_cases h : x.known = true
  · rw [if_pos h, if_pos h]
  · rw [if_neg h, if_neg h]

theorem State.lateLimit_live (hs : (s.axis a).state ≠ .faulted) (side : LimitSide) (late : Option LateCause) :
    s.lateLimit a side late = s := by
  unfold State.lateLimit State.lateHoming
  cases late with
  | none => rfl
  | some c =>
    cases c with
    | hardLimit => exact if_neg hs
    | homeNotFound b => exact if_neg hs

/-- A cause told of an axis that has changed within its group. -/
theorem State.tellsFault_modAxis {f : Axis → Axis} (hf : (f (s.axis a)).record = (s.axis a).record) :
    s.tellsFault ((s.modAxis a f).faultNotice a) a :=
  State.tellsFault_faultNotice (State.works_modAxis ..).leaves (by rw [State.modAxis_axis_self, hf])

end Further

/-! ## FLT (R175, R178) -/

section Flt

variable {s : State} {a : AxisId}

/-- What a drive fault leaves, but for the resume mark, and whom it tells. -/
theorem State.driveFault_effects (s : State) (a : AxisId) :
    (∃ l b, (s.driveFault a).axis a = { ((s.axis a).idle l).faultPosition.faulted .driveFault none with resumeMark := b }) ∧
      s.tellsFault (s.driveFault a) a ∧ ((s.axis a).state = .homing → s.homingEnds (s.driveFault a) a) ∧
      ((s.axis a).state ≠ .homing → s.leavesRoll (s.driveFault a) a) := by
  have hrecord (x : Axis) : (x.faultPosition.faulted .driveFault none).record = x.record := x.faultPosition_record
  by_cases h : (s.axis a).state = .homing
  · rw [State.driveFault_homing h]
    obtain ⟨b, hb⟩ := s.faultLost_axis a fun x => x.faultPosition.faulted .driveFault none
    exact ⟨⟨_, b, hb⟩, s.tellsFault_homingLost a hrecord, fun _ => s.homingEnds_faultWith a _, fun c => absurd h c⟩
  · rw [State.driveFault_other h]
    exact ⟨⟨_, _, s.faultWith_axis a _⟩, s.tellsFault_faultWith a hrecord, fun c => absurd c h, fun _ => s.leavesRoll_faultWith a _⟩

theorem State.driveTrouble_faulted (hf : (s.axis a).flt.accepted = true) (hp : s.drivePresent = true) (hs : (s.axis a).state = .faulted) :
    s.driveTrouble a = s.furtherCause a .driveFault := if_pos ⟨hf, hp, hs⟩

theorem State.driveTrouble_live (hf : (s.axis a).flt.accepted = true) (hp : s.drivePresent = true) (hs : (s.axis a).state.live = true) :
    s.driveTrouble a = s.driveFault a := by
  unfold State.driveTrouble State.checkDrive
  rw [if_neg fun c => by rw [c.2.2] at hs; exact Bool.false_ne_true hs, if_pos ⟨hf, hp, hs⟩]

theorem State.checkDrive_none (h : (s.axis a).flt.accepted = false) : s.checkDrive a = s :=
  if_neg fun c => Bool.false_ne_true (h.symm.trans c.1)

theorem State.driveTrouble_none (h : (s.axis a).flt.accepted = false ∨ s.drivePresent = false ∨
    (s.axis a).state ∈ [.unconfigured, .disabled]) : s.driveTrouble a = s := by
  have hlive : ¬ ((s.axis a).flt.accepted = true ∧ s.drivePresent = true ∧ (s.axis a).state.live = true) := by
    rintro ⟨h1, h2, h3⟩
    rcases h with h | h | h
    · exact Bool.false_ne_true (h.symm.trans h1)
    · exact Bool.false_ne_true (h.symm.trans h2)
    · rcases List.mem_pair.mp h with h | h <;> (rw [h] at h3; exact Bool.false_ne_true h3)
  unfold State.driveTrouble State.checkDrive
  rw [if_neg hlive, if_neg]
  rintro ⟨h1, h2, h3⟩
  rcases h with h | h | h
  · exact Bool.false_ne_true (h.symm.trans h1)
  · exact Bool.false_ne_true (h.symm.trans h2)
  · rw [h3] at h
    revert h
    decide

/-- The timer does not run where a condition fails. -/
theorem State.autoTimer_stops (h : (s.axis a).autoClears s.drivePresent = false) :
    s.autoTimer a = s.modAxis a fun x => { x with fault := { x.fault with autoClear := none } } := by
  unfold State.autoTimer
  dsimp only
  rw [h, if_neg Bool.false_ne_true]
  split
  · rename_i hnone
    unfold State.modAxis
    rw [← hnone]
    exact (s.setAxis_same a).symm
  · rfl

theorem State.autoTimer_runs (h : (s.axis a).autoClears s.drivePresent = true) : s.autoTimer a =
    s.modAxis a fun x => { x with fault := { x.fault with autoClear := some (x.fault.autoClear.getD 100) } } := by
  unfold State.autoTimer
  dsimp only
  rw [h, if_pos rfl]
  split
  · rename_i hnone
    exact congrArg (s.setAxis a) (by dsimp only; rw [hnone]; rfl)
  · rename_i hsome
    obtain ⟨k, hk⟩ := Option.ne_none_iff_exists'.mp hsome
    have hsame : { s.axis a with fault := { (s.axis a).fault with autoClear := some ((s.axis a).fault.autoClear.getD 100) } } =
        s.axis a := by
      rw [hk, Option.getD_some, ← hk]
    exact ((congrArg (s.setAxis a) hsame).trans (s.setAxis_same a)).symm

theorem Axis.autoClears_iff (x : Axis) (present : Bool) : x.autoClears present = true ↔
    x.record.auto = true ∧ x.state = .faulted ∧ x.fault.first = some .driveFault ∧ x.fault.further = [] ∧ present = true ∧
      x.flt.accepted = false := by
  unfold Axis.autoClears
  simp only [Bool.and_eq_true, beq_iff_eq, List.isEmpty_iff, Bool.not_eq_true', and_assoc]

/-- The timer of an axis with FLT active does not run. -/
theorem State.autoTimer_active (h : (s.axis a).flt.accepted = true) :
    s.autoTimer a = s.modAxis a fun x => { x with fault := { x.fault with autoClear := none } } :=
  State.autoTimer_stops (Bool.eq_false_iff.mpr fun c =>
    Bool.false_ne_true (((Axis.autoClears_iff _ _).mp c).2.2.2.2.2.symm.trans h))

theorem State.fltChanged_eq {v : Bool} (h : (s.axis a).flt.accepted ≠ v) :
    s.fltChanged a v = ((s.setAxis a { s.axis a with flt := ⟨v, 0⟩ }).driveTrouble a).autoTimer a := if_neg h

end Flt

end Sys2Proof.Machine
end

section
/-! PROOFS. The limit inputs, FLT and the automatic clearing settled (O53). -/

namespace Sys2Proof.Machine

/-! ## A change of a limit input -/

section LimitChanged

variable {s : State} {a : AxisId} {side : LimitSide}

theorem State.limitChanged_same {v : Bool} (h : (s.axis a).limitLevel side = v) (late : Option LateCause) :
    s.limitChanged a side v late = s := if_pos h

theorem State.limitChanged_set (h : (s.axis a).limitLevel side ≠ true) (late : Option LateCause) : s.limitChanged a side true late =
    if (s.axis a).direction.map Dir.side = some side then (s.setAxis a ((s.axis a).setLimit side ⟨true, 0⟩)).limitMet a side
    else (s.setAxis a ((s.axis a).setLimit side ⟨true, 0⟩)).lateLimit a side late := by
  have hdir : ((s.modAxis a (·.setLimit side ⟨true, 0⟩)).axis a).direction = (s.axis a).direction := by
    rw [State.modAxis_axis_self, Axis.setLimit_eq]
  unfold State.limitChanged
  rw [if_neg h]
  dsimp only
  rw [if_pos rfl, hdir]
  rfl

theorem State.limitChanged_cleared (h : (s.axis a).limitLevel side ≠ false) (late : Option LateCause) :
    s.limitChanged a side false late = s.setAxis a { (s.axis a).setLimit side ⟨false, 0⟩ with
      limitMemory := if (s.axis a).limitMemory = some side then none else (s.axis a).limitMemory } := by
  have hmem : ((s.axis a).setLimit side ⟨false, 0⟩).limitMemory = (s.axis a).limitMemory := by rw [Axis.setLimit_eq]
  unfold State.limitChanged
  rw [if_neg h]
  dsimp only
  rw [if_neg Bool.false_ne_true, State.modAxis_axis_self, hmem]
  split
  · rw [State.modAxis_modAxis]
    rfl
  · rw [← hmem]
    rfl

end LimitChanged

/-- R176: a cause joined to those of a FAULTED axis. -/
theorem State.joined_effects {t : State} {a : AxisId} {x y : Axis} {c : FaultCause} (ht : t.axis a = y)
    (hs : y.state = .faulted) (hf : y.fault = x.fault.joined c) : (t.axis a).state = .faulted ∧
      (t.axis a).fault.first = x.fault.first ∧ (t.axis a).fault.autoClear = none ∧
      (x.fault.first = some c ∨ c ∈ x.fault.further → (t.axis a).fault.further = x.fault.further) ∧
      (x.fault.first ≠ some c → c ∉ x.fault.further → (t.axis a).fault.further = x.fault.further ++ [c]) := by
  rw [ht, hf]
  exact ⟨hs, FaultRecord.joined_first .., FaultRecord.joined_autoClear .., FaultRecord.joined_had, FaultRecord.joined_new⟩

section Limits

variable {s : State} {a : AxisId} {side : LimitSide} {late : Option LateCause} (hrun : s.phase = .running)
include hrun

theorem exec_limitInputChange (v : Bool) : exec (.limitInputChange a side v late) s = .next (s.limitChanged a side v late).drain :=
  exec_event_running (f := fun s => s.limitChanged a side v late) rfl hrun

/-- R93, R94: a limit that the axis does not move toward. -/
theorem limit_not_toward (hv : (s.axis a).limitLevel side ≠ true) (hd : (s.axis a).direction.map Dir.side ≠ some side) :
    (late = none ∨ (s.axis a).state ≠ .faulted →
      Answers (.limitInputChange a side true late) s (s.setAxis a ((s.axis a).setLimit side ⟨true, 0⟩))) ∧
    (late = some .hardLimit → (s.axis a).state = .faulted →
      ∃ t : State, exec (.limitInputChange a side true late) s = .next t.drain ∧ (t.axis a).state = .faulted ∧
        (t.axis a).fault.first = (s.axis a).fault.first ∧ (t.axis a).fault.autoClear = none ∧
        ((s.axis a).fault.first = some .hardLimit ∨ .hardLimit ∈ (s.axis a).fault.further →
          (t.axis a).fault.further = (s.axis a).fault.further) ∧
        ((s.axis a).fault.first ≠ some .hardLimit → .hardLimit ∉ (s.axis a).fault.further →
          (t.axis a).fault.further = (s.axis a).fault.further ++ [.hardLimit]) ∧
        (t.axis a).limitMemory = (if (s.axis a).known then some side else (s.axis a).limitMemory) ∧ s.tellsFault t a) ∧
    (∀ b, late = some (.homeNotFound b) → (s.axis a).state = .faulted →
      exec (.limitInputChange a side true late) s =
        exec (.homingSearchExhausted a (some b)) (s.setAxis a ((s.axis a).setLimit side ⟨true, 0⟩))) := by
  have hset := (s.axis a).setLimit_eq side ⟨true, 0⟩
  have heq := (State.limitChanged_set hv late).trans (if_neg hd)
  have hexec := exec_limitInputChange hrun (a := a) (side := side) (late := late) true
  generalize (s.axis a).setLimit side ⟨true, 0⟩ = y at *
  have hself : (s.setAxis a y).axis a = y := State.setAxis_axis_self ..
  have hstate : y.state = (s.axis a).state := by rw [hset]
  refine ⟨fun h => ?_, fun hl hs => ?_, fun b hl hs => ?_⟩
  · have hlate : (s.setAxis a y).lateLimit a side late = s.setAxis a y := by
      rcases h with h | h
      · rw [h]
        rfl
      · exact State.lateLimit_live (by rw [hself, hstate]; exact h) side late
    exact answers_event (f := fun s => s.limitChanged a side true late) rfl hrun (heq.trans hlate) fun hq =>
      hq.setAxis_alike (by rw [hset]) hstate (by rw [hset]) (by rw [hset])
  · subst hl
    rw [heq, State.lateLimit_hard (by rw [hself, hstate]; exact hs)] at hexec
    refine ⟨_, hexec, ?_⟩
    have htells := State.tellsFault_modAxis (s := s.setAxis a y) (a := a) (f := fun x => { x with
      limitMemory := if x.known then some side else x.limitMemory, fault := x.fault.joined .hardLimit }) rfl
    have hax : (((s.setAxis a y).modAxis a fun x => { x with
        limitMemory := if x.known then some side else x.limitMemory, fault := x.fault.joined .hardLimit }).faultNotice a).axis a =
        { y with limitMemory := if y.known then some side else y.limitMemory, fault := y.fault.joined .hardLimit } := by
      rw [State.faultNotice_axis, State.modAxis_axis_self, hself]
    generalize ((s.setAxis a y).modAxis a fun x => { x with
      limitMemory := if x.known then some side else x.limitMemory, fault := x.fault.joined .hardLimit }).faultNotice a = t at *
    obtain ⟨h1, h2, h3, h4, h5⟩ := State.joined_effects (x := s.axis a) (c := .hardLimit) hax (hstate.trans hs) (by rw [hset])
    refine ⟨h1, h2, h3, h4, h5, ?_, htells.before (by rw [hset])⟩
    rw [hax, hset]
  · have hexhaust : (s.setAxis a y).searchExhausted a (some b) = (s.setAxis a y).lateLimit a side late := by
      unfold State.searchExhausted
      rw [hself, hstate, hs, hl]
      rfl
    rw [hexec, heq, ← hexhaust]
    exact (exec_event_running (i := .homingSearchExhausted a (some b)) (s := s.setAxis a y)
      (f := fun s => s.searchExhausted a (some b)) rfl hrun).symm

/-- R93, R105, R106: a limit that the axis moves toward. -/
theorem limit_toward (hv : (s.axis a).limitLevel side ≠ true) (hd : (s.axis a).direction.map Dir.side = some side) :
    ((s.axis a).state ∈ [.slewing, .tracking, .stopping] →
      ∃ t : State, exec (.limitInputChange a side true late) s = .next t.drain ∧ s.stopsAtLimit t a side) ∧
    ∀ h, (s.axis a).state = .homing → (s.axis a).homing = some h →
      (h.phase = .seek → h.edge = none → h.reversals = 0 →
        exec (.limitInputChange a side true late) s = .next
          (s.setAxis a { (s.axis a).setLimit side ⟨true, 0⟩ with
            speedSq := 0, direction := none, pause := none
            homing := some { h with reversals := 1, direction := h.direction.flip, travel := 0 } }).drain) ∧
      (h.phase = .clear ∨ (h.edge = none ∧ h.reversals ≠ 0) →
        ∃ t : State, exec (.limitInputChange a side true late) s = .next t.drain ∧
          s.failsSearch t a h.reversals (s.axis a).position) ∧
      (h.phase = .seek → h.edge ≠ none →
        ∃ t : State, exec (.limitInputChange a side true late) s = .next t.drain ∧ (t.axis a).state = .faulted ∧
          (t.axis a).fault.first = some .hardLimit ∧ (t.axis a).known = true ∧
          (t.axis a).position = (s.axis a).position ∧ (t.axis a).limitMemory = some side ∧ s.homingEnds t a ∧ s.tellsFault t a) := by
  have hset := (s.axis a).setLimit_eq side ⟨true, 0⟩
  have heq := (State.limitChanged_set hv late).trans (if_pos hd)
  have hexec := exec_limitInputChange hrun (a := a) (side := side) (late := late) true
  generalize (s.axis a).setLimit side ⟨true, 0⟩ = y at *
  have hself : (s.setAxis a y).axis a = y := State.setAxis_axis_self ..
  have hstate : y.state = (s.axis a).state := by rw [hset]
  rw [heq] at hexec
  refine ⟨fun hs => ?_, fun h hs hh => ?_⟩
  · rw [State.limitMet_moving (by rw [hself, hstate]; exact hs)] at hexec
    exact ⟨_, hexec, State.stopsAtLimit_hardLimitStop (by rw [hset]) (by rw [hset]) (by rw [hset]) side⟩
  rw [State.limitMet_homing (h := h) (by rw [hself, hstate]; exact hs) (by rw [hself, hset]; exact hh)] at hexec
  refine ⟨fun hp he hr => ?_, fun hc => ?_, fun hp he => ?_⟩
  · rw [State.homingLimit_turns hp he hr] at hexec
    rw [hexec]
    unfold State.modAxis
    rw [hself, State.setAxis_setAxis]
    rfl
  · rw [State.homingLimit_fails hc] at hexec
    exact ⟨_, hexec, State.failsSearch_failHoming (by rw [hset]; exact hh) (by rw [hset]) (by rw [hset]) (by rw [hset]) (by rw [hset])⟩
  · rw [State.homingLimit_found hp he] at hexec
    refine ⟨_, hexec, ?_⟩
    obtain ⟨b, hb⟩ := (s.setAxis a y).faultLost_axis a (·.atLimitFound side)
    have htells := (s.setAxis a y).tellsFault_homingLost a (f := (·.atLimitFound side)) fun _ => rfl
    have hends := (s.setAxis a y).homingEnds_faultWith a (·.atLimitFound side)
    rw [hself] at hb
    generalize ((s.setAxis a y).faultWith a (·.atLimitFound side)).homingLost a = t at *
    rw [hb]
    exact ⟨rfl, rfl, rfl, by rw [hset]; rfl, rfl, hends.before, htells.before (by rw [hset])⟩

end Limits

/-! ## A change of FLT -/

section Flts

variable {s : State} {a : AxisId} (hrun : s.phase = .running)
include hrun

theorem exec_fltInputChange {v : Bool} (h : (s.axis a).flt.accepted ≠ v) : exec (.fltInputChange a v) s =
    .next (((s.setAxis a { s.axis a with flt := ⟨v, 0⟩ }).driveTrouble a).autoTimer a).drain := by
  rw [← State.fltChanged_eq h]
  exact exec_event_running (f := fun s => s.fltChanged a v) rfl hrun

/-- R175: FLT active faults a live axis. -/
theorem flt_faults (h : (s.axis a).flt.accepted ≠ true) (hp : s.power.state = .present)
    (hs : (s.axis a).state ∈ [.unreferenced, .homing, .standing, .slewing, .tracking, .stopping]) :
    ∃ t : State, exec (.fltInputChange a true) s = .next t.drain ∧ (t.axis a).state = .faulted ∧
      (t.axis a).flt = ⟨true, 0⟩ ∧
      (t.axis a).fault = { first := some .driveFault, further := [], reversals := none, autoClear := none } ∧
      (t.axis a).speedSq = 0 ∧ (t.axis a).target = none ∧ (t.axis a).tracking = none ∧ (t.axis a).homing = none ∧
      ((s.axis a).record.keepPosition = false → (t.axis a).known = false ∧
        ((s.axis a).known = true ∨ (s.axis a).state ≠ .homing → (t.axis a).position = ⟨0, 0⟩) ∧
        ((s.axis a).known = false → (s.axis a).state = .homing → (t.axis a).position = (s.axis a).position)) ∧
      ((s.axis a).state = .homing → s.homingEnds t a) ∧
      ((s.axis a).record.keepPosition = true → (t.axis a).known = (s.axis a).known ∧ (t.axis a).position = (s.axis a).position) ∧
      s.tellsFault t a ∧ ((s.axis a).state = .tracking → s.leavesRoll t a) := by
  have hexec := exec_fltInputChange hrun h
  obtain ⟨y, hy⟩ : ∃ y : Axis, y = { s.axis a with flt := ⟨true, 0⟩ } := ⟨_, rfl⟩
  have hself : (s.setAxis a y).axis a = y := State.setAxis_axis_self ..
  have hlive : y.state.live = true := by
    rw [hy]
    revert hs
    cases (s.axis a).state <;> decide
  rw [← hy, State.driveTrouble_live (s := s.setAxis a y) (by rw [hself, hy]) (beq_iff_eq.mpr hp) (by rw [hself]; exact hlive)] at hexec
  obtain ⟨⟨l, b, hb⟩, htells, hends, hroll⟩ := (s.setAxis a y).driveFault_effects a
  obtain ⟨k, p, m, e, hlost, hdrop, hkeep⟩ := (y.idle l).faultPosition_eq
  rw [hself, hlost] at hb
  rw [hself] at hends hroll
  generalize (s.setAxis a y).driveFault a = u at *
  rw [State.autoTimer_active (by rw [hb, hy]; rfl)] at hexec
  have hwork := u.works_modAxis a fun x => { x with fault := { x.fault with autoClear := none } }
  have hax := u.modAxis_axis_self a fun x => { x with fault := { x.fault with autoClear := none } }
  have hother (c : AxisId) (hc : c ≠ a) := u.modAxis_axis_of_ne (fun x => { x with fault := { x.fault with autoClear := none } }) hc
  rw [hb] at hax
  generalize (u.modAxis a fun x => { x with fault := { x.fault with autoClear := none } }) = t at *
  have hmarks (c : AxisId) : (t.axis c).resumeMark = (u.axis c).resumeMark := by
    by_cases hc : c = a
    · rw [hc, hax, hb]
    · rw [hother c hc]
  have hrecord : y.record = (s.axis a).record := by rw [hy]
  subst hy
  refine ⟨t, hexec, ?_⟩
  rw [hax]
  exact ⟨rfl, rfl, rfl, rfl, rfl, rfl, rfl, hdrop,
    fun hh => ((hends hh).alike rfl (fun _ _ => rfl) hwork.power (by rw [hwork.clock]) hmarks fun q => hwork.entry q _).before, hkeep,
    (htells.keeps hwork.raised fun q => hwork.entry q _).before hrecord,
    fun hh => ((hroll (by dsimp only; rw [hh]; decide)).alike (.refl _) hwork.settlesAlike).before⟩

/-- R176: FLT active on a FAULTED axis. -/
theorem flt_joins (h : (s.axis a).flt.accepted ≠ true) (hp : s.power.state = .present) (hs : (s.axis a).state = .faulted) :
    ∃ t : State, exec (.fltInputChange a true) s = .next t.drain ∧ (t.axis a).state = .faulted ∧
      (t.axis a).fault.first = (s.axis a).fault.first ∧ (t.axis a).fault.autoClear = none ∧
      ((s.axis a).fault.first = some .driveFault ∨ .driveFault ∈ (s.axis a).fault.further →
        (t.axis a).fault.further = (s.axis a).fault.further) ∧
      ((s.axis a).fault.first ≠ some .driveFault → .driveFault ∉ (s.axis a).fault.further →
        (t.axis a).fault.further = (s.axis a).fault.further ++ [.driveFault]) ∧
      ((s.axis a).record.keepPosition = false → (t.axis a).known = false ∧ (t.axis a).position = ⟨0, 0⟩) ∧
      ((s.axis a).record.keepPosition = true → (t.axis a).known = (s.axis a).known ∧ (t.axis a).position = (s.axis a).position) ∧
      s.tellsFault t a := by
  have hexec := exec_fltInputChange hrun h
  obtain ⟨y, hy⟩ : ∃ y : Axis, y = { s.axis a with flt := ⟨true, 0⟩ } := ⟨_, rfl⟩
  have hself : (s.setAxis a y).axis a = y := State.setAxis_axis_self ..
  rw [← hy, State.driveTrouble_faulted (s := s.setAxis a y) (by rw [hself, hy]) (beq_iff_eq.mpr hp) (by rw [hself, hy]; exact hs),
    State.furtherCause_drive] at hexec
  have htells := State.tellsFault_modAxis (s := s.setAxis a y) (a := a) (f := fun x => (x.faultJoined .driveFault).faultPosition)
    (Axis.faultPosition_record _)
  have hb : (((s.setAxis a y).modAxis a fun x => (x.faultJoined .driveFault).faultPosition).faultNotice a).axis a =
      (y.faultJoined .driveFault).faultPosition := by
    rw [State.faultNotice_axis, State.modAxis_axis_self, hself]
  obtain ⟨k, p, m, e, hlost, hdrop, hkeep⟩ := (y.faultJoined .driveFault).faultPosition_eq
  rw [hlost] at hb
  generalize ((s.setAxis a y).modAxis a fun x => (x.faultJoined .driveFault).faultPosition).faultNotice a = u at *
  rw [State.autoTimer_active (by rw [hb, hy]; rfl)] at hexec
  have hwork := u.works_modAxis a fun x => { x with fault := { x.fault with autoClear := none } }
  have hax := u.modAxis_axis_self a fun x => { x with fault := { x.fault with autoClear := none } }
  rw [hb] at hax
  generalize (u.modAxis a fun x => { x with fault := { x.fault with autoClear := none } }) = t at *
  have hkeeps := (htells.keeps hwork.raised fun q => hwork.entry q _).before (s := s) (by rw [hy])
  subst hy
  obtain ⟨h1, h2, h3, h4, h5⟩ := State.joined_effects (x := s.axis a) (c := .driveFault) hax hs (by
    unfold Axis.faultJoined
    rw [← FaultRecord.joined_autoClear (s.axis a).fault .driveFault])
  refine ⟨t, hexec, h1, h2, h3, h4, h5, fun hk => ?_, fun hk => ?_, hkeeps⟩
  · rw [hax]
    obtain ⟨hknown, hzero, _⟩ := hdrop hk
    exact ⟨hknown, hzero (.inr fun c => by cases hs.symm.trans c)⟩
  · rw [hax]
    exact hkeep hk

/-- An FLT that faults nothing changes its level, and with it the automatic clearing. -/
theorem flt_timer {v : Bool} (h : (s.axis a).flt.accepted ≠ v)
    (hn : v = false ∨ s.power.state ≠ .present ∨ (s.axis a).state ∈ [.unconfigured, .disabled]) :
    ((s.axis a).record.auto = true → (s.axis a).state = .faulted → (s.axis a).fault.first = some .driveFault →
      (s.axis a).fault.further = [] → s.power.state = .present → v = false →
      Answers (.fltInputChange a v) s (s.setAxis a { s.axis a with
        flt := ⟨v, 0⟩, fault := { (s.axis a).fault with autoClear := some ((s.axis a).fault.autoClear.getD 100) } })) ∧
    ((s.axis a).record.auto = false ∨ (s.axis a).state ≠ .faulted ∨ (s.axis a).fault.first ≠ some .driveFault ∨
      (s.axis a).fault.further ≠ [] ∨ s.power.state ≠ .present ∨ v = true →
      Answers (.fltInputChange a v) s (s.setAxis a { s.axis a with
        flt := ⟨v, 0⟩, fault := { (s.axis a).fault with autoClear := none } })) := by
  obtain ⟨y, hy⟩ : ∃ y : Axis, y = { s.axis a with flt := ⟨v, 0⟩ } := ⟨_, rfl⟩
  have hself : (s.setAxis a y).axis a = y := State.setAxis_axis_self ..
  have hnone : (s.setAxis a y).driveTrouble a = s.setAxis a y := by
    refine State.driveTrouble_none ?_
    rw [hself, hy]
    exact hn.imp_right fun c => c.imp_left fun c => beq_eq_false_iff_ne.mpr c
  have heq := State.fltChanged_eq h
  rw [← hy, hnone] at heq
  refine ⟨fun h1 h2 h3 h4 h5 h6 => ?_, fun hc => ?_⟩
  · rw [State.autoTimer_runs (s := s.setAxis a y) (by
      rw [hself, hy]
      exact (Axis.autoClears_iff _ _).mpr ⟨h1, h2, h3, h4, beq_iff_eq.mpr h5, h6⟩)] at heq
    unfold State.modAxis at heq
    rw [hself, State.setAxis_setAxis, hy] at heq
    exact answers_event (f := fun s => s.fltChanged a v) rfl hrun heq fun hq => hq.setAxis_alike rfl rfl rfl rfl
  · rw [State.autoTimer_stops (s := s.setAxis a y) (by
      rw [hself, hy]
      refine Bool.eq_false_iff.mpr fun c => ?_
      obtain ⟨h1, h2, h3, h4, h5, h6⟩ := (Axis.autoClears_iff _ _).mp c
      rcases hc with hc | hc | hc | hc | hc | hc
      · exact Bool.false_ne_true (hc.symm.trans h1)
      · exact hc h2
      · exact hc h3
      · exact hc h4
      · exact hc (beq_iff_eq.mp h5)
      · exact Bool.false_ne_true (h6.symm.trans hc))] at heq
    unfold State.modAxis at heq
    rw [hself, State.setAxis_setAxis, hy] at heq
    exact answers_event (f := fun s => s.fltChanged a v) rfl hrun heq fun hq => hq.setAxis_alike rfl rfl rfl rfl

/-- The automatic clearing (R178). -/
theorem autoClear_expires :
    ((s.axis a).state ≠ .faulted ∨ (s.axis a).fault.autoClear = none → Answers (.autoClearExpiry a) s s) ∧
    ((s.axis a).state = .faulted → (s.axis a).fault.autoClear ≠ none → (s.axis a).flt.accepted = false →
      Answers (.autoClearExpiry a) s
        (s.setAxis a { s.axis a with
          fault := { first := none, further := [], reversals := none, autoClear := none }
          state := if (s.axis a).known then .standing else .unreferenced })) := by
  refine ⟨fun h => ?_, fun hs hc hf => ?_⟩
  · refine answers_event (f := fun s => s.autoClearExpiry a) rfl hrun (if_neg ?_) id
    rintro ⟨h1, h2⟩
    rcases h with h | h
    · exact h h1
    · rw [h] at h2
      exact Bool.false_ne_true h2
  · have hclear : s.autoClearExpiry a = (s.modAxis a fun x =>
        { x with fault := FaultRecord.reset, state := if x.known then .standing else .unreferenced }).checkDrive a :=
      if_pos ⟨hs, Option.isSome_iff_ne_none.mpr hc⟩
    have hsettled (b : Bool) : (if b = true then AxisState.standing else .unreferenced) ≠ .tracking ∧
        (if b = true then AxisState.standing else .unreferenced).moving = false := by cases b <;> decide
    refine answers_event (f := fun s => s.autoClearExpiry a) rfl hrun (hclear.trans (State.checkDrive_none ?_)) fun hq => ?_
    · rw [State.modAxis_axis_self]
      exact hf
    · obtain ⟨htrack, hmove⟩ := hsettled (s.axis a).known
      refine hq.setAxis rfl ⟨fun c => absurd c htrack, fun c => ?_⟩ rfl fun c => absurd (hmove.symm.trans c) Bool.false_ne_true
      rw [hs] at c
      cases c

end Flts

/-- Settles O53: the limits by `limit_not_toward` and `limit_toward`, FLT by `flt_faults`, `flt_joins` and `flt_timer`, the
automatic clearing by `autoClear_expires`. -/
theorem limitsAndDriveFaultsStopTheAxis : Obligations.LimitsAndDriveFaultsStopTheAxis := by
  intro s a x side v late f hrun hx hplus hminus
  subst hx
  have hf (k : Filter) : f (s.axis a) k = (s.axis a).setLimit side k := by
    cases side with
    | plus => rw [hplus rfl]; rfl
    | minus => rw [hminus rfl]; rfl
  obtain ⟨hstands, hclears⟩ := autoClear_expires hrun (a := a)
  refine ⟨fun h => answers_event (f := fun s => s.limitChanged a side v late) rfl hrun (State.limitChanged_same h late) id, fun h => ?_,
    fun h => answers_event (f := fun s => s.fltChanged a v) rfl hrun (if_pos h) id, fun h => ?_, hstands, hclears⟩
  · rw [hf, hf]
    refine ⟨fun hv hd => ?_, fun hv hd => ?_, fun b hv hd => ?_, fun hv => ?_, fun hv hd => ?_⟩
    · subst hv
      exact (limit_not_toward hrun h hd).1
    · subst hv
      exact (limit_not_toward hrun h hd).2.1
    · subst hv
      exact (limit_not_toward hrun h hd).2.2 b
    · subst hv
      have hset := (s.axis a).setLimit_eq side ⟨false, 0⟩
      exact answers_event (f := fun s => s.limitChanged a side false late) rfl hrun (State.limitChanged_cleared h late) fun hq =>
        hq.setAxis_alike (by rw [hset]) (by rw [hset]) (by rw [hset]) (by rw [hset])
    · subst hv
      exact limit_toward hrun h hd
  · refine ⟨fun hv hp hs => ?_, fun hv hp hs => ?_, fun hp => ?_, fun hv hp => ⟨fun h1 h2 h3 h4 => ?_, fun hc => ?_⟩, fun hv hs => ?_⟩
    · subst hv
      exact flt_faults hrun h hp hs
    · subst hv
      exact flt_joins hrun h hp hs
    · exact (flt_timer hrun h (.inr (.inl hp))).2 (.inr (.inr (.inr (.inr (.inl hp)))))
    · subst hv
      exact (flt_timer hrun h (.inl rfl)).1 h1 h2 h3 h4 hp rfl
    · subst hv
      refine (flt_timer hrun h (.inl rfl)).2 ?_
      rcases hc with hc | hc | hc | hc
      · exact .inl hc
      · exact .inr (.inl hc)
      · exact .inr (.inr (.inl hc))
      · exact .inr (.inr (.inr (.inl hc)))
    · subst hv
      exact (flt_timer hrun h (.inr (.inr hs))).2 (.inr (.inr (.inr (.inr (.inr rfl)))))

end Sys2Proof.Machine
end

section
/-! PROOFS. The loss of drive power (09 R183, R184, R110, 01 R9: O55). -/

namespace Sys2Proof.Machine

/-! ## Folds over a list of axes, each once -/

theorem foldl_keeps_of_ne {σ ι : Type} {f : σ → ι → σ} {Q : σ → Prop} {a : ι} (hQ : ∀ t x, x ≠ a → Q t → Q (f t x)) :
    ∀ {l : List ι} {s : σ}, a ∉ l → Q s → Q (l.foldl f s)
  | [], _, _, hs => hs
  | x :: l, s, ha, hs => by
    rw [List.mem_cons, not_or] at ha
    rw [List.foldl_cons]
    exact foldl_keeps_of_ne hQ ha.2 (hQ s x (Ne.symm ha.1) hs)

/-- A fold over a list that holds `a` once reaches what the step at `a` brings about and the other steps do not hinder. -/
theorem foldl_reaches_once {σ ι : Type} {f : σ → ι → σ} {P Q : σ → Prop} {a : ι} (hP : ∀ t x, x ≠ a → P t → P (f t x))
    (hQ : ∀ t x, x ≠ a → Q t → Q (f t x)) (h : ∀ t, P t → Q (f t a)) :
    ∀ {l : List ι} {s : σ}, l.Nodup → a ∈ l → P s → Q (l.foldl f s)
  | x :: l, s, hl, hmem, hs => by
    obtain ⟨hx, hl⟩ := List.nodup_cons.mp hl
    rw [List.foldl_cons]
    by_cases hxa : x = a
    · subst hxa
      exact foldl_keeps_of_ne hQ hx (h s hs)
    · exact foldl_reaches_once hP hQ h hl ((List.mem_cons.mp hmem).resolve_left (Ne.symm hxa)) (hP s x hxa hs)

/-! ## One axis without drive power (R183) -/

section Unpowered

variable {x : Axis}

theorem Axis.unpowered_idle (h : x.state ∈ [.unconfigured, .disabled]) : x.unpowered = x := by
  unfold Axis.unpowered
  rcases List.mem_pair.mp h with h | h <;> rw [h]

theorem Axis.unpowered_faulted (h : x.state = .faulted) :
    x.unpowered = { x.losePosition with fault := { x.fault with autoClear := none } } := by
  unfold Axis.unpowered
  rw [h]

theorem Axis.unpowered_unreferenced (h : x.state = .unreferenced) : x.unpowered = x.losePosition := by
  unfold Axis.unpowered
  rw [h]

theorem Axis.unpowered_tracking (h : x.state = .tracking) :
    x.unpowered = { x.losePosition.still with state := .unreferenced, resumeMark := true } := by
  unfold Axis.unpowered
  rw [h]

theorem Axis.unpowered_moving (h : x.state ∈ [.homing, .standing, .slewing, .stopping]) :
    x.unpowered = { x.losePosition.still with state := .unreferenced } := by
  simp only [List.mem_cons, List.not_mem_nil, or_false] at h
  unfold Axis.unpowered
  rcases h with h | h | h | h <;> rw [h]

theorem Axis.unpowered_stage (h : x.stage = none) : x.unpowered.stage = none := by
  have hlost : x.losePosition.stage = none := by
    obtain ⟨p, m, e, heq, _⟩ := x.losePosition_eq
    rw [heq]
    exact h
  cases hs : x.state with
  | unconfigured =>
    rw [Axis.unpowered_idle (by rw [hs]; decide)]
    exact h
  | disabled =>
    rw [Axis.unpowered_idle (by rw [hs]; decide)]
    exact h
  | faulted =>
    rw [Axis.unpowered_faulted hs]
    exact hlost
  | unreferenced =>
    rw [Axis.unpowered_unreferenced hs]
    exact hlost
  | tracking =>
    rw [Axis.unpowered_tracking hs]
    exact hlost
  | _ =>
    rw [Axis.unpowered_moving (by rw [hs]; decide)]
    exact hlost

end Unpowered

/-- What a loss of drive power makes of an axis (R183, R110). -/
structure Axis.LosesPower (x y : Axis) : Prop where
  idle : x.state ∈ [.unconfigured, .disabled] → y.state = x.state ∧ y.known = x.known ∧ y.position = x.position
  live : x.state ∈ [.unreferenced, .homing, .standing, .slewing, .tracking, .stopping] →
    y.state = .unreferenced ∧ y.known = false ∧ (x.known = true ∨ x.state ≠ .homing → y.position = ⟨0, 0⟩) ∧
      (x.known = false → x.state = .homing → y.position = x.position) ∧ y.target = none ∧ y.tracking = none ∧
      y.homing = none ∧ y.stopping = none ∧ y.stage = none ∧ (x.state ≠ .unreferenced → y.speedSq = 0)
  faulted : x.state = .faulted → y.state = .faulted ∧ y.known = false ∧ y.fault = { x.fault with autoClear := none }
  marked : x.state = .tracking → y.resumeMark = true
  unmarked : x.state ≠ .tracking → y.resumeMark = x.resumeMark

theorem Axis.losesPower_unpowered (x : Axis) (l : StageOutcome) : x.LosesPower (x.idle l).unpowered := by
  obtain ⟨p, m, e, hlost, hzero, hkeep⟩ := (x.idle l).losePosition_eq
  constructor
  case idle =>
    intro h
    rw [Axis.unpowered_idle (x := x.idle l) h]
    exact ⟨rfl, rfl, rfl⟩
  case live =>
    intro h
    by_cases hu : x.state = .unreferenced
    · rw [Axis.unpowered_unreferenced (x := x.idle l) hu, hlost]
      exact ⟨hu, rfl, hzero, hkeep, rfl, rfl, rfl, rfl, rfl, fun c => absurd hu c⟩
    · by_cases ht : x.state = .tracking
      · rw [Axis.unpowered_tracking (x := x.idle l) ht, hlost]
        exact ⟨rfl, rfl, hzero, hkeep, rfl, rfl, rfl, rfl, rfl, fun _ => rfl⟩
      · have hm : (x.idle l).state ∈ [AxisState.homing, .standing, .slewing, .stopping] := by
          change x.state ∈ _
          revert h hu ht
          cases x.state <;> decide
        rw [Axis.unpowered_moving hm, hlost]
        exact ⟨rfl, rfl, hzero, hkeep, rfl, rfl, rfl, rfl, rfl, fun _ => rfl⟩
  case faulted =>
    intro h
    rw [Axis.unpowered_faulted (x := x.idle l) h, hlost]
    exact ⟨h, rfl, rfl⟩
  case marked =>
    intro h
    rw [Axis.unpowered_tracking (x := x.idle l) h]
  case unmarked =>
    intro h
    have hmark : (x.idle l).losePosition.resumeMark = x.resumeMark := by rw [hlost]; rfl
    cases hs : (x.idle l).state with
    | unconfigured => rw [Axis.unpowered_idle (by rw [hs]; decide)]; rfl
    | disabled => rw [Axis.unpowered_idle (by rw [hs]; decide)]; rfl
    | faulted => rw [Axis.unpowered_faulted hs]; exact hmark
    | unreferenced => rw [Axis.unpowered_unreferenced hs]; exact hmark
    | tracking => exact absurd hs h
    | _ => rw [Axis.unpowered_moving (by rw [hs]; decide)]; exact hmark

/-! ## Every axis without drive power -/

section UnpowerAxis

variable {s : State} {a b : AxisId}

theorem State.leaves_unpowerAxis (s : State) (a : AxisId) : s.Leaves (s.unpowerAxis a) :=
  (s.leaves_leaveWork a true).trans (State.works_modAxis ..).leaves

theorem State.unpowerAxis_self (s : State) (a : AxisId) : ∃ l, (s.unpowerAxis a).axis a = ((s.axis a).idle l).unpowered := by
  obtain ⟨l, hl⟩ := s.leaveWork_self a true
  refine ⟨l, ?_⟩
  unfold State.unpowerAxis
  rw [State.modAxis_axis_self, hl]

theorem State.unpowerAxis_other (h : b ≠ a) : (s.axis b).StageEnds ((s.unpowerAxis a).axis b) := by
  unfold State.unpowerAxis
  rw [State.modAxis_axis_of_ne _ _ h]
  exact s.leaveWork_other true h

theorem State.unpowerAxis_motions (h : s.motionOf a = none) : (s.unpowerAxis a).motions = s.motions :=
  State.leaveWork_motions h true

/-- With the sky halted nothing of the clock changes. -/
theorem State.unpowerAxis_clock (h : s.clock.state ≠ .settling) : (s.unpowerAxis a).clock = s.clock := by
  have hdrop := (s.works_dropWork a true).clock
  unfold State.unpowerAxis
  rw [State.modAxis_clock, State.leaveWork_eq, State.rollLeave_off fun c => h (by rw [← hdrop]; exact c.1), hdrop]

theorem State.foldl_unpowerAxis (s : State) (a : AxisId) : ∃ l, (allAxes.foldl State.unpowerAxis s).axis a = ((s.axis a).idle l).unpowered := by
  refine foldl_reaches_once (P := fun t : State => (s.axis a).StageEnds (t.axis a))
    (Q := fun t : State => ∃ l, t.axis a = ((s.axis a).idle l).unpowered)
    (fun t x hx ht => ht.trans (State.unpowerAxis_other (Ne.symm hx))) (fun t x hx ⟨l, ht⟩ => ⟨l, ?_⟩) (fun t ht => ?_)
    (by decide) (mem_allAxes a) (.refl _)
  · rw [(State.unpowerAxis_other (s := t) (Ne.symm hx)).of_none (by rw [ht]; exact Axis.unpowered_stage rfl), ht]
  · obtain ⟨l, hl⟩ := t.unpowerAxis_self a
    refine ⟨l, hl.trans (congrArg Axis.unpowered ?_)⟩
    rcases ht with ht | ⟨_, o, ht⟩
    · rw [ht]
    · rw [ht]
      rfl

end UnpowerAxis

/-! ## Runners suspended (R156) -/

theorem mem_allPorts (r : Port) : r ∈ allPorts := by
  cases r <;> decide

theorem State.suspendAll_only (s : State) : s.suspendAll = { s with runners := s.suspendAll.runners } := by
  unfold State.suspendAll
  refine foldl_keeps (P := fun t => t = { s with runners := t.runners }) (fun t _ h => ?_) _ s rfl
  rw [h]
  rfl

theorem State.suspendAll_runner (s : State) (r : Port) : s.suspendAll.runner r = (s.runner r).suspend .halt := by
  have hmod (t : State) (a b : Port) : (t.modRunner a (·.suspend .halt)).runner b =
      if b = a then (t.runner a).suspend .halt else t.runner b := by
    by_cases h : b = a
    · rw [h, if_pos rfl, State.modRunner_runner_self]
    · rw [if_neg h, State.modRunner_runner_of_ne _ _ h]
  have hget := foldl_get State.runner (f := fun s r => s.modRunner r (·.suspend .halt)) (g := fun _ x => x.suspend .halt)
    (P := fun _ => True) (fun _ _ h => h) (fun t a b _ => hmod t a b) r allPorts s (by decide) trivial
  exact hget.trans (if_pos (mem_allPorts r))

theorem Runner.haltedTo_suspend (x : Runner) : x.haltedTo (x.suspend .halt) := by
  have hwait : x.state.waiting = true ↔ x.state ∈ [.waitingTrigger, .waitingCompletion] := by
    cases x.state <;> simp [RunnerState.waiting]
  unfold Runner.haltedTo Runner.suspend
  exact ⟨fun h => if_pos (hwait.mpr h), fun h => if_neg fun c => h (hwait.mp c)⟩

/-! ## The loss (R184, R9, R86) -/

/-- The state without drive power, the sky halted and the parts of all members ended. -/
def State.lossParts (s : State) : State :=
  ((s.withPower { s.power with
    state := .absent, outcome := if s.power.sequence.isSome then .none else s.power.outcome, sequence := none }).haltClock
      .drivePower).endMembers (fun _ => true) true

theorem State.powerLoss_eq (s : State) :
    s.powerLoss = ((allAxes.foldl State.unpowerAxis s.lossParts).suspendAll).notify .drivePowerLost .sky none := rfl

/-- The clock a loss of drive power leaves (R9). -/
def Clock.lossHalted (c : Clock) : Clock :=
  { c with state := .halted, reason := .drivePower, settleTimer := none, roll := [], wasRunning := c.wasRunningAfter .drivePower }

theorem State.haltClock_drivePower (s : State) : s.haltClock .drivePower = s.withClock s.clock.lossHalted := by
  unfold State.haltClock
  rw [if_neg fun c => by cases c.2]
  rfl

theorem Clock.wasRunningAfter_iff (c : Clock) : c.wasRunningAfter .drivePower = true ↔
    c.wasRunning = true ∨ c.state = .running ∨ (c.state = .settling ∧ c.resumeTo = .running) := by
  unfold Clock.wasRunningAfter
  by_cases h : c.state = .running ∨ (c.state = .settling ∧ c.resumeTo = .running)
  · rw [if_pos ⟨rfl, h⟩]
    exact ⟨fun _ => .inr h, fun _ => rfl⟩
  · rw [if_neg fun k => h k.2]
    exact ⟨.inl, fun k => k.resolve_right h⟩

section Loss

variable (s : State)

/-- The state from which the parts end. -/
def State.lossHalted : State :=
  (s.withPower { s.power with
    state := .absent, outcome := if s.power.sequence.isSome then .none else s.power.outcome, sequence := none }).withClock
      s.clock.lossHalted

theorem State.lossParts_eq : s.lossParts = s.lossHalted.endMembers (fun _ => true) true := by
  unfold State.lossParts
  rw [State.haltClock_drivePower]
  rfl

theorem State.dropsStages_lossParts : s.lossHalted.DropsStages s.lossParts := by
  rw [State.lossParts_eq]
  exact State.dropsStages_endMembers ..

/-- The axes without power. -/
def State.lossAxes : State := allAxes.foldl State.unpowerAxis s.lossParts

theorem State.lossAxes_leaves : s.lossHalted.Leaves s.lossAxes :=
  foldl_keeps (P := fun t => s.lossHalted.Leaves t) (fun t a h => h.trans (t.leaves_unpowerAxis a)) _ _ s.dropsStages_lossParts.leaves

theorem State.lossAxes_clock : s.lossAxes.clock = s.clock.lossHalted := by
  refine foldl_keeps (P := fun t : State => t.clock = s.clock.lossHalted) (fun t a h => ?_) _ _ s.dropsStages_lossParts.clock
  rw [State.unpowerAxis_clock (by rw [h]; exact fun c => by cases c), h]

theorem State.lossAxes_axis (a : AxisId) : (s.axis a).LosesPower (s.lossAxes.axis a) := by
  obtain ⟨l, hl⟩ := s.lossParts.foldl_unpowerAxis a
  have hidle : (s.lossParts.axis a).idle l = (s.axis a).idle l := by
    rcases s.dropsStages_lossParts.axis a with h | ⟨_, o, h⟩
    · rw [h]
      rfl
    · rw [h]
      rfl
  unfold State.lossAxes
  rw [hl, hidle]
  exact (s.axis a).losesPower_unpowered l

/-- R86: every record in progress with a member that has a part fails. -/
theorem State.lossAxes_motions (g : GroupId) : s.lossAxes.motions[g] = s.motions[g].map (·.afterHit fun _ => true) := by
  have heq : s.lossAxes.motions = s.lossParts.motions :=
    State.foldl_motions State.unpowerAxis_motions fun a _ => by
      rw [State.lossParts_eq]
      exact State.motionOf_endMembers rfl true
  refine (congrArg (fun v : Vector (Option GroupMotion) 8 => v[g]) heq).trans ?_
  rw [State.lossParts_eq]
  exact s.lossHalted.endMembers_motions _ true g

end Loss

/-- A member with a part ends with ENDED as its record fails. -/
theorem GroupMotion.afterHit_all {m : GroupMotion} {z : Member} (hm : m.state ∈ [.evaluating, .moving]) (hz : z ∈ m.members)
    (ho : z.outcome ∈ [.evaluating, .ready, .moving]) : (m.afterHit fun _ => true).state = .failed ∧
      (m.afterHit fun _ => true).cause = some .memberEnded ∧
      ∃ y ∈ (m.afterHit fun _ => true).members, y.axis = z.axis ∧ y.outcome = .ended := by
  have hpart : z.isHit (fun _ => true) m.state = true := by
    unfold Member.isHit
    rw [(active_iff _ _).mpr (.inl ho)]
    rfl
  have hhit : m.isHit (fun _ => true) = true := by
    unfold GroupMotion.isHit
    rw [Bool.and_eq_true, List.any_eq_true]
    exact ⟨(open_iff _).mpr hm, z, hz, hpart⟩
  rw [GroupMotion.afterHit_of hhit]
  refine ⟨rfl, rfl, ({ z with outcome := .ended } : Member).dropped m.state, ?_, ?_, ?_⟩
  · refine List.mem_map_of_mem (List.mem_map.mpr ⟨z, hz, ?_⟩)
    rw [if_pos hpart]
  · unfold Member.dropped
    split <;> rfl
  · unfold Member.dropped
    split <;> rfl

/-- R182 to R184: DRIVE_POWER_OK goes inactive with drive power present. -/
theorem drivePower_lost {s : State} (hrun : s.phase = .running) (hok : s.power.ok.accepted = true) (hp : s.power.state = .present) :
    ∃ t : State, exec .drivePowerOkInactive s = .next t.drain ∧ t.power.ok = ⟨false, 0⟩ ∧ t.power.state = .absent ∧
      t.power.sequence = none ∧ t.clock.state = .halted ∧ t.clock.reason = .drivePower ∧ t.clock.roll = [] ∧
      t.clock.epoch = s.clock.epoch ∧ t.clock.scheduled = s.clock.scheduled ∧
      (t.clock.wasRunning = true ↔ s.clock.wasRunning = true ∨ s.clock.state = .running ∨
        (s.clock.state = .settling ∧ s.clock.resumeTo = .running)) ∧
      (∀ r, (s.runner r).haltedTo (t.runner r)) ∧
      (∀ q, q ∈ s.routedPorts .drivePowerLost .sky → (t.port q).notices[22] ≠ none) ∧
      (s.power.sequence ≠ none → t.power.outcome = .none) ∧ (s.power.sequence = none → t.power.outcome = s.power.outcome) ∧
      (∀ (g : GroupId) (m : GroupMotion) (z : Member), s.motions[g] = some m → m.state ∈ [.evaluating, .moving] → z ∈ m.members →
        z.outcome ∈ [.evaluating, .ready, .moving] →
        ∃ n y, t.motions[g] = some n ∧ n.state = .failed ∧ n.cause = some .memberEnded ∧ y ∈ n.members ∧ y.axis = z.axis ∧
          y.outcome = .ended) ∧
      ∀ a, (s.axis a).LosesPower (t.axis a) := by
  obtain ⟨w, hw⟩ : ∃ w : State, w = s.withPower { s.power with ok := ⟨false, 0⟩ } := ⟨_, rfl⟩
  have hexec : exec .drivePowerOkInactive s = .next w.powerLoss.drain := by
    have heq : s.drivePowerInactive = w.powerLoss := by
      unfold State.drivePowerInactive
      rw [if_pos hok, ← hw]
      dsimp only
      rw [show w.power.state = .present by rw [hw]; exact hp]
    rw [← heq]
    exact exec_event_running (f := fun s => s.drivePowerInactive) rfl hrun
  have hpower := w.lossAxes_leaves.power
  have hrunners := w.lossAxes_leaves.runners
  have hrouted := w.lossAxes_leaves.routedPorts
  have hclock := w.lossAxes_clock
  have haxis := w.lossAxes_axis
  have hmotions := w.lossAxes_motions
  rw [w.powerLoss_eq] at hexec
  change exec .drivePowerOkInactive s = .next ((w.lossAxes.suspendAll).notify .drivePowerLost .sky none).drain at hexec
  generalize w.lossAxes = u at *
  have hsuspend := u.suspendAll_only
  have hrunner := u.suspendAll_runner
  generalize u.suspendAll = v at *
  have hvclock : v.clock = w.clock.lossHalted := by
    rw [hsuspend]
    exact hclock
  have hvpower : v.power = w.lossHalted.power := by
    rw [hsuspend]
    exact hpower
  have hvmotions (g : GroupId) : v.motions[g] = w.motions[g].map (·.afterHit fun _ => true) := by
    rw [hsuspend]
    exact hmotions g
  have hvaxis (a : AxisId) : v.axis a = u.axis a := by
    rw [hsuspend]
    rfl
  have hvrouted (q : Port) : q ∈ s.routedPorts .drivePowerLost .sky → q ∈ v.routedPorts .drivePowerLost .sky := by
    rw [hsuspend]
    intro hq
    rw [show ({ u with runners := v.runners } : State).routedPorts = u.routedPorts from rfl, hrouted, hw]
    exact hq
  refine ⟨_, hexec, ?_⟩
  have htaxis (a : AxisId) : (v.notify .drivePowerLost .sky none).axis a = v.axis a := State.axis_notify ..
  have htold (q : Port) (hq : q ∈ v.routedPorts .drivePowerLost .sky) := State.notify_entry_routed v hq none false
  have htrunner (r : Port) : (v.notify .drivePowerLost .sky none).runner r = v.runner r := by
    unfold State.runner
    rw [State.notify_runners]
  have htmotions (g : GroupId) : (v.notify .drivePowerLost .sky none).motions[g] = v.motions[g] :=
    congrArg (fun v : Vector (Option GroupMotion) 8 => v[g]) (State.notify_motions ..)
  have htclock : (v.notify .drivePowerLost .sky none).clock = w.clock.lossHalted := (State.notify_clock ..).trans hvclock
  have htpower : (v.notify .drivePowerLost .sky none).power = w.lossHalted.power := (State.notify_power ..).trans hvpower
  generalize v.notify .drivePowerLost .sky none = t at *
  rw [htclock, htpower]
  subst hw
  refine ⟨rfl, rfl, rfl, rfl, rfl, rfl, rfl, rfl, Clock.wasRunningAfter_iff s.clock, fun r => ?_, fun q hq => ?_, fun hq => ?_,
    fun hq => ?_, fun g m z hm hopen hz ho => ?_, fun a => ?_⟩
  · have hr : u.runner r = s.runner r := by
      unfold State.runner
      rw [hrunners]
      rfl
    rw [htrunner, hrunner, hr]
    exact (s.runner r).haltedTo_suspend
  · exact fun c => Option.some_ne_none _ ((htold q (hvrouted q hq)).symm.trans c)
  · exact if_pos (Option.isSome_iff_ne_none.mpr hq)
  · exact if_neg (by
      rw [State.withPower_power, hq]
      exact Bool.false_ne_true)
  · obtain ⟨h1, h2, y, hy, h3, h4⟩ := GroupMotion.afterHit_all hopen hz ho
    refine ⟨_, y, ?_, h1, h2, hy, h3, h4⟩
    rw [htmotions, hvmotions]
    exact congrArg (Option.map _) hm
  · rw [htaxis, hvaxis]
    exact haxis a

end Sys2Proof.Machine
end

section
/-! PROOFS. The first step of a return of drive power (09 R185: O55): FLT and the automatic clearing of every axis. -/

namespace Sys2Proof.Machine

/-! ## What a return leaves standing -/

/-- From `s` to `t` drive power, the flag, the routing, what was raised and told stand, and the sky but for a settling. -/
structure State.Recovers (s t : State) : Prop where
  power : t.power = s.power
  routed : ∀ k r, t.routedPorts k r = s.routedPorts k r
  raised : ∀ x ∈ s.signals, x ∈ t.signals
  told : ∀ q k, k ≠ .clockSettled → s.entry q k ≠ none → t.entry q k ≠ none
  flag : t.clock.wasRunning = s.clock.wasRunning
  sky : s.clock.state ≠ .settling → t.clock.state = s.clock.state

section Recovers

variable {s t u : State}

theorem State.Recovers.refl (s : State) : s.Recovers s := ⟨rfl, fun _ _ => rfl, fun _ h => h, fun _ _ _ h => h, rfl, fun _ => rfl⟩

theorem State.Recovers.trans (h : s.Recovers t) (k : t.Recovers u) : s.Recovers u where
  power := k.power.trans h.power
  routed j r := (k.routed j r).trans (h.routed j r)
  raised x hx := k.raised x (h.raised x hx)
  told q j hj he := k.told q j hj (h.told q j hj he)
  flag := k.flag.trans h.flag
  sky hs := (k.sky (by rw [h.sky hs]; exact hs)).trans (h.sky hs)

theorem State.Works.recovers (h : s.Works t) : s.Recovers t where
  power := h.power
  routed := h.routedPorts
  raised := h.raised
  told q k _ he := by rwa [h.entry]
  flag := by rw [h.clock]
  sky _ := by rw [h.clock]

theorem State.Leaves.recovers (h : s.Leaves t) (hs : s.clock.state ≠ .settling → t.clock.state = s.clock.state) : s.Recovers t where
  power := h.power
  routed := h.routedPorts
  raised := h.raised
  told q k hk he := by rwa [h.entry q k hk]
  flag := by rw [h.clock]
  sky := hs

theorem State.recovers_notify (s : State) (k : NoticeKind) (r : Resource) (n : Option Nat) (b : Bool) : s.Recovers (s.notify k r n b) where
  power := State.notify_power ..
  routed := State.notify_routedPorts s k r n b
  raised x hx := by rwa [State.notify_signals]
  told q j _ he := by
    rw [State.notify_entry]
    split
    · exact Option.some_ne_none _
    · exact he
  flag := by rw [State.notify_clock]
  sky _ := by rw [State.notify_clock]

theorem State.recovers_faultNotice (s : State) (a : AxisId) : s.Recovers (s.faultNotice a) :=
  (s.works_event (.axisFault a)).recovers.trans (State.recovers_notify ..)

theorem State.recovers_leaveWork (s : State) (a : AxisId) (q : Bool) : s.Recovers (s.leaveWork a q) :=
  (s.leaves_leaveWork a q).recovers fun h => ((s.leavesRoll_leaveWork a q).2 (.inl h)).1

theorem State.recovers_faultWith (s : State) (a : AxisId) (f : Axis → Axis) : s.Recovers (s.faultWith a f) :=
  ((s.recovers_leaveWork a false).trans (State.works_modAxis ..).recovers).trans (State.recovers_faultNotice ..)

end Recovers

/-! ## One axis at the return -/

/-- What the first step of a return makes of an axis. -/
structure Axis.Returns (x y : Axis) : Prop where
  mark : y.resumeMark = x.resumeMark
  record : y.record = x.record
  idle : x.flt.accepted = false ∨ x.state ∈ [.unconfigured, .disabled] →
    y = { x with stage := y.stage, lastStage := y.lastStage, fault := y.fault }
  timer : x.flt.accepted = false → x.state = .faulted → x.record.auto = true → x.fault.first = some .driveFault →
    x.fault.further = [] → x.fault.autoClear = none → y.fault = { x.fault with autoClear := some 100 }
  faults : x.flt.accepted = true → x.state ∉ [.unconfigured, .disabled] → y.state = .faulted ∧ y.fault.autoClear = none ∧
    (x.record.keepPosition = true → y.known = x.known ∧ y.position = x.position) ∧
    (x.record.keepPosition = false → y.known = false ∧ (x.known = true ∨ x.state ≠ .homing → y.position = ⟨0, 0⟩)) ∧
    (x.state ≠ .faulted → y.fault.first = some .driveFault ∧ y.fault.further = []) ∧
    (x.state = .faulted → y.fault.first = x.fault.first ∧
      y.fault.further = if x.fault.first = some .driveFault ∨ .driveFault ∈ x.fault.further then x.fault.further
        else x.fault.further ++ [.driveFault])

section Returns

variable {x x' y y' : Axis}

theorem Axis.Returns.after (h : x'.Returns y) (hx : x.StageEnds x') : x.Returns y := by
  rcases hx with rfl | ⟨_, o, rfl⟩
  · exact h
  · exact ⟨h.mark, h.record, h.idle, h.timer, h.faults⟩

theorem Axis.Returns.before (h : x.Returns y) (hy : y.StageEnds y') : x.Returns y' := by
  rcases hy with rfl | ⟨_, o, rfl⟩
  · exact h
  · refine ⟨h.mark, h.record, fun hi => ?_, h.timer, h.faults⟩
    have := h.idle hi
    generalize y.fault = f at *
    rw [this]

/-- An axis that no fault meets: its timer alone. -/
theorem Axis.returns_timer (h : x.flt.accepted = false ∨ x.state ∈ [.unconfigured, .disabled]) :
    x.Returns { x with fault := { x.fault with
      autoClear := if x.autoClears true then some (x.fault.autoClear.getD 100) else none } } := by
  refine ⟨rfl, rfl, fun _ => rfl, fun h1 h2 h3 h4 h5 h6 => ?_, fun h1 h2 => ?_⟩
  · dsimp only
    rw [if_pos ((Axis.autoClears_iff _ _).mpr ⟨h3, h2, h4, h5, rfl, h1⟩), h6]
    rfl
  · rcases h with h | h
    · exact absurd (h.symm.trans h1) Bool.false_ne_true
    · exact absurd h h2

/-- A FAULTED axis that the fault joins. -/
theorem Axis.returns_joined (hf : x.flt.accepted = true) (hs : x.state = .faulted) : x.Returns
    { (x.faultJoined .driveFault).faultPosition with
      fault := { (x.faultJoined .driveFault).faultPosition.fault with autoClear := none } } := by
  obtain ⟨k, p, m, e, heq, hlose, hkeep⟩ := (x.faultJoined .driveFault).faultPosition_eq
  rw [heq]
  refine ⟨rfl, rfl, fun h => ?_, fun h => ?_, fun _ _ => ⟨hs, rfl, hkeep, fun h => ?_, fun h => absurd hs h, fun _ => ⟨?_, ?_⟩⟩⟩
  · rcases h with h | h
    · exact absurd (h.symm.trans hf) Bool.false_ne_true
    · rw [hs] at h
      exact absurd h (by decide)
  · exact absurd (h.symm.trans hf) Bool.false_ne_true
  · obtain ⟨h1, h2, _⟩ := hlose h
    exact ⟨h1, h2⟩
  · exact FaultRecord.joined_first ..
  · split
    · rename_i h
      exact FaultRecord.joined_had h
    · rename_i h
      exact FaultRecord.joined_new (fun c => h (.inl c)) fun c => h (.inr c)

/-- A live axis that the fault stops. -/
theorem Axis.returns_faulted (hf : x.flt.accepted = true) (hs : x.state.live = true) (l : StageOutcome) : x.Returns
    { (x.idle l).faultPosition.faulted .driveFault none with
      fault := { ((x.idle l).faultPosition.faulted .driveFault none).fault with autoClear := none } } := by
  have hnot : x.state ∉ [.unconfigured, .disabled] ∧ x.state ≠ .faulted := by
    revert hs
    cases x.state <;> decide
  obtain ⟨k, p, m, e, heq, hlose, hkeep⟩ := (x.idle l).faultPosition_eq
  rw [heq]
  refine ⟨rfl, rfl, fun h => ?_, fun h => absurd (h.symm.trans hf) Bool.false_ne_true, fun _ _ => ⟨rfl, rfl, hkeep, fun h => ?_,
    fun _ => ⟨rfl, rfl⟩, fun h => absurd h hnot.2⟩⟩
  · rcases h with h | h
    · exact absurd (h.symm.trans hf) Bool.false_ne_true
    · exact absurd h hnot.1
  · obtain ⟨h1, h2, _⟩ := hlose h
    exact ⟨h1, h2⟩

end Returns

/-! ## The step on one axis -/

/-- A fault of the return told: its event and its notice. -/
def State.faultTold (s t : State) (a : AxisId) : Prop :=
  .event (.axisFault a) none ∈ t.signals ∧
    ∀ q ∈ s.routedPorts .axisFault (.group (s.axis a).record.group), t.entry q .axisFault ≠ none

section ReturnAxis

variable {s : State} {a b : AxisId}

theorem State.tellsFault.told {t : State} (h : s.tellsFault t a) : s.faultTold t a := by
  refine ⟨h.1, fun q hq => ?_⟩
  obtain ⟨e, he, _⟩ := h.2 q hq
  exact fun c => Option.some_ne_none e (he.symm.trans c)

theorem State.faultTold.keeps {t u : State} (h : s.faultTold t a) (k : t.Recovers u) : s.faultTold u a :=
  ⟨k.raised _ h.1, fun q hq => k.told q _ (by decide) (h.2 q hq)⟩

theorem State.homingLost_none (h : s.power.sequence = none) (a : AxisId) : s.homingLost a = s := by
  unfold State.homingLost
  rw [h]

/-- A drive fault with no return sequence. -/
theorem State.driveFault_alone (h : s.power.sequence = none) (a : AxisId) :
    s.driveFault a = s.faultWith a fun x => x.faultPosition.faulted .driveFault none := by
  by_cases hs : (s.axis a).state = .homing
  · rw [State.driveFault_homing hs, State.homingLost_none (by rw [State.faultWith_power]; exact h)]
  · exact State.driveFault_other hs

theorem State.faultWith_other (h : b ≠ a) (f : Axis → Axis) : (s.axis b).StageEnds ((s.faultWith a f).axis b) := by
  unfold State.faultWith
  rw [State.faultNotice_axis, State.modAxis_axis_of_ne _ _ h]
  exact s.leaveWork_other false h

/-- The timer alone, with drive power present. -/
theorem State.autoTimer_eq (hp : s.drivePresent = true) (a : AxisId) : s.autoTimer a = s.modAxis a fun x =>
    { x with fault := { x.fault with autoClear := if x.autoClears true then some (x.fault.autoClear.getD 100) else none } } := by
  cases h : (s.axis a).autoClears true with
  | true =>
    rw [State.autoTimer_runs (hp ▸ h)]
    unfold State.modAxis
    dsimp only
    rw [h]
    rfl
  | false =>
    rw [State.autoTimer_stops (hp ▸ h)]
    unfold State.modAxis
    dsimp only
    rw [h]
    rfl

/-- The step on one axis, by what FLT meets there. -/
theorem State.returnAxis_cases (hp : s.drivePresent = true) (hq : s.power.sequence = none) (a : AxisId) :
    s.Recovers (s.returnAxis a) ∧ (∀ b, b ≠ a → (s.axis b).StageEnds ((s.returnAxis a).axis b)) ∧
      (s.axis a).Returns ((s.returnAxis a).axis a) ∧
      ((s.axis a).flt.accepted = true → (s.axis a).state ∉ [.unconfigured, .disabled] → s.faultTold (s.returnAxis a) a) := by
  have htimer (t : State) := (t.works_modAxis a fun x => { x with fault := { x.fault with autoClear := none } })
  have hother (t : State) (b : AxisId) (h : b ≠ a) := t.modAxis_axis_of_ne (fun x => { x with fault := { x.fault with autoClear := none } }) h
  have hself (t : State) := t.modAxis_axis_self a fun x => { x with fault := { x.fault with autoClear := none } }
  by_cases hidle : (s.axis a).flt.accepted = false ∨ (s.axis a).state ∈ [.unconfigured, .disabled]
  · have heq : s.returnAxis a = s.autoTimer a := by
      unfold State.returnAxis
      rw [State.driveTrouble_none (hidle.imp_right .inr)]
    rw [heq, State.autoTimer_eq hp]
    refine ⟨(State.works_modAxis ..).recovers, fun b hb => ?_, ?_, fun h1 h2 => ?_⟩
    · rw [State.modAxis_axis_of_ne _ _ hb]
      exact .refl _
    · rw [State.modAxis_axis_self]
      exact Axis.returns_timer hidle
    · exact absurd hidle fun c => c.elim (fun c => Bool.false_ne_true (c.symm.trans h1)) h2
  · rw [not_or, Bool.not_eq_false] at hidle
    obtain ⟨hf, hstate⟩ := hidle
    by_cases hs : (s.axis a).state = .faulted
    · have hnotice := (s.works_modAxis a fun x => (x.faultJoined .driveFault).faultPosition).recovers.trans
        (State.recovers_faultNotice _ a)
      have htells := State.tellsFault_modAxis (s := s) (a := a) (f := fun x => (x.faultJoined .driveFault).faultPosition)
        (Axis.faultPosition_record _)
      have hax (b : AxisId) := ((s.modAxis a fun x => (x.faultJoined .driveFault).faultPosition).faultNotice_axis a b).trans
        (s.modAxis_axis a b fun x => (x.faultJoined .driveFault).faultPosition)
      unfold State.returnAxis
      rw [State.driveTrouble_faulted hf hp hs, State.furtherCause_drive]
      generalize (s.modAxis a fun x => (x.faultJoined .driveFault).faultPosition).faultNotice a = u at *
      have hu := (hax a).trans (if_pos rfl)
      have hflt : (u.axis a).flt = (s.axis a).flt := by
        obtain ⟨k, p, m, e, heq, _⟩ := ((s.axis a).faultJoined .driveFault).faultPosition_eq
        rw [hu, heq]
        rfl
      rw [State.autoTimer_active (by rw [hflt]; exact hf)]
      refine ⟨hnotice.trans (htimer u).recovers, fun b hb => ?_, ?_, fun _ _ => htells.told.keeps (htimer u).recovers⟩
      · rw [hother u b hb, hax, if_neg hb]
        exact .refl _
      · rw [hself, hu]
        exact Axis.returns_joined hf hs
    · have hlive : (s.axis a).state.live = true := by
        revert hstate hs
        cases (s.axis a).state <;> decide
      have hrec := s.recovers_faultWith a fun x => x.faultPosition.faulted .driveFault none
      have htells := s.tellsFault_faultWith a (f := fun x => x.faultPosition.faulted .driveFault none) fun y => y.faultPosition_record
      have hax := s.faultWith_axis a fun x => x.faultPosition.faulted .driveFault none
      have hends (b : AxisId) (hb : b ≠ a) := State.faultWith_other (s := s) hb fun x => x.faultPosition.faulted .driveFault none
      unfold State.returnAxis
      rw [State.driveTrouble_live hf hp hlive, State.driveFault_alone hq]
      generalize s.faultWith a (fun x => x.faultPosition.faulted .driveFault none) = u at *
      have hflt : (u.axis a).flt = (s.axis a).flt := by
        obtain ⟨k, p, m, e, heq, _⟩ := ((s.axis a).idle (s.axis a).dropStage.lastStage).faultPosition_eq
        rw [hax, heq]
        rfl
      rw [State.autoTimer_active (by rw [hflt]; exact hf)]
      refine ⟨hrec.trans (htimer u).recovers, fun b hb => ?_, ?_, fun _ _ => htells.told.keeps (htimer u).recovers⟩
      · rw [hother u b hb]
        exact hends b hb
      · rw [hself, hax]
        exact Axis.returns_faulted hf hlive _

end ReturnAxis

/-! ## The step on every axis -/

/-- The first step of a return. -/
theorem State.foldl_returnAxis {s : State} (hp : s.drivePresent = true) (hq : s.power.sequence = none) :
    s.Recovers (allAxes.foldl State.returnAxis s) ∧ ∀ a, (s.axis a).Returns ((allAxes.foldl State.returnAxis s).axis a) ∧
      ((s.axis a).flt.accepted = true → (s.axis a).state ∉ [.unconfigured, .disabled] →
        s.faultTold (allAxes.foldl State.returnAxis s) a) := by
  have hpresent {t : State} (h : s.Recovers t) : t.drivePresent = true ∧ t.power.sequence = none := by
    unfold State.drivePresent
    rw [h.power]
    exact ⟨hp, hq⟩
  have hcases (t : State) (x : AxisId) (h : s.Recovers t) := State.returnAxis_cases (hpresent h).1 (hpresent h).2 x
  refine ⟨foldl_keeps (P := fun t => s.Recovers t) (fun t x h => h.trans (hcases t x h).1) _ _ (.refl s), fun a => ?_⟩
  refine (foldl_reaches_once (P := fun t : State => s.Recovers t ∧ (s.axis a).StageEnds (t.axis a))
    (Q := fun t : State => s.Recovers t ∧ (s.axis a).Returns (t.axis a) ∧
      ((s.axis a).flt.accepted = true → (s.axis a).state ∉ [.unconfigured, .disabled] → s.faultTold t a))
    (fun t x hx ⟨h, he⟩ => ⟨h.trans (hcases t x h).1, he.trans ((hcases t x h).2.1 a (Ne.symm hx))⟩)
    (fun t x hx ⟨h, hr, ht⟩ => ?_) (fun t ⟨h, he⟩ => ?_) (by decide) (mem_allAxes a) ⟨.refl s, .refl _⟩).2
  · obtain ⟨hrec, hothers, _, _⟩ := hcases t x h
    exact ⟨h.trans hrec, hr.before (hothers a (Ne.symm hx)), fun h1 h2 => (ht h1 h2).keeps hrec⟩
  · obtain ⟨hrec, _, hself, htold⟩ := hcases t a h
    refine ⟨h.trans hrec, hself.after he, fun h1 h2 => ?_⟩
    have hsame := he.sameButStage
    obtain ⟨hev, hnote⟩ := htold (by rw [hsame]; exact h1) (by rw [hsame]; exact h2)
    refine ⟨hev, fun q hmem => hnote q ?_⟩
    rw [h.routed, hsame]
    exact hmem

end Sys2Proof.Machine
end

section
/-! PROOFS. What a return of drive power sets off (09 R185 to R187: O55): axes home, or the resume is taken, or it is dropped. -/

namespace Sys2Proof.Machine

/-! ## Axes home (R185, R99) -/

section Rehome

variable {s : State} {a b : AxisId}

theorem State.works_beginHoming (s : State) (a : AxisId) (st : HomingStarter) : s.Works (s.beginHoming a st) :=
  ((s.endsStages_endMemberships a).trans (State.endsStages_endStage ..)).toWorks.trans (State.works_modAxis ..)

theorem State.beginHoming_other (h : b ≠ a) (st : HomingStarter) : (s.axis b).StageEnds ((s.beginHoming a st).axis b) := by
  unfold State.beginHoming
  rw [State.modAxis_axis_of_ne _ _ h]
  exact ((s.endsStages_endMemberships a).trans (State.endsStages_endStage ..)).axis b

/-- An axis in HOMING for a starter, its resume mark as it was. -/
def Axis.homesFor (x : Axis) (st : HomingStarter) (mark : Bool) : Prop :=
  x.state = .homing ∧ x.homing.map Homing.starter = some st ∧ x.resumeMark = mark

theorem Axis.homesFor.after {x y : Axis} {st : HomingStarter} {m : Bool} (h : x.homesFor st m) (k : x.StageEnds y) : y.homesFor st m := by
  rw [k.sameButStage]
  exact h

theorem State.beginHoming_self (s : State) (a : AxisId) (st : HomingStarter) :
    ((s.beginHoming a st).axis a).homesFor st (s.axis a).resumeMark := by
  have hends := ((s.endsStages_endMemberships a).trans (State.endsStages_endStage _ a .ended false)).axis a
  unfold State.beginHoming
  generalize (s.endMemberships a).endStage a .ended false = u at *
  have hmark : (u.axis a).resumeMark = (s.axis a).resumeMark := by rw [hends.sameButStage]
  obtain ⟨p, m, e, hlost, _⟩ := (u.axis a).losePosition_eq
  rw [State.modAxis_axis_self, hlost]
  exact ⟨rfl, rfl, hmark⟩

theorem State.works_rehome (s : State) (l : List AxisId) : s.Works (s.rehome l) :=
  foldl_keeps (P := fun t => s.Works t) (fun t a h => h.trans (t.works_beginHoming a _)) l s (.refl s)

theorem State.rehome_other {l : List AxisId} (h : a ∉ l) : (s.axis a).StageEnds ((s.rehome l).axis a) :=
  foldl_keeps_of_ne (Q := fun t : State => (s.axis a).StageEnds (t.axis a))
    (fun _ _ hx ht => ht.trans (State.beginHoming_other (Ne.symm hx) _)) h (.refl _)

theorem State.rehome_mem {l : List AxisId} (hl : l.Nodup) (h : a ∈ l) :
    ((s.rehome l).axis a).homesFor .returnPolicy (s.axis a).resumeMark :=
  foldl_reaches_once (P := fun t : State => (s.axis a).StageEnds (t.axis a))
    (Q := fun t : State => (t.axis a).homesFor .returnPolicy (s.axis a).resumeMark)
    (fun _ _ hx ht => ht.trans (State.beginHoming_other (Ne.symm hx) _))
    (fun _ _ hx ht => ht.after (State.beginHoming_other (Ne.symm hx) _))
    (fun t ht => by
      have := t.beginHoming_self a .returnPolicy
      rwa [show (t.axis a).resumeMark = (s.axis a).resumeMark by rw [ht.sameButStage]] at this) hl h (.refl _)

theorem State.mem_eligible (s : State) (a : AxisId) : a ∈ s.eligible ↔
    s.power.halt.accepted = false ∧ (s.axis a).state = .unreferenced ∧ (s.axis a).record.sensor = true := by
  unfold State.eligible State.haltAsserted
  cases s.power.halt.accepted with
  | true => simp
  | false =>
    rw [if_neg Bool.false_ne_true, List.mem_filter, Bool.and_eq_true, beq_iff_eq]
    exact ⟨fun h => ⟨rfl, h.2⟩, fun h => ⟨mem_allAxes a, h.2⟩⟩

theorem State.eligible_nodup (s : State) : s.eligible.Nodup := by
  unfold State.eligible
  split
  · exact List.nodup_nil
  · exact List.Nodup.filter _ (by decide)

theorem State.mem_markedAxes (s : State) (a : AxisId) : a ∈ s.markedAxes ↔ (s.axis a).resumeMark = true := by
  unfold State.markedAxes
  rw [List.mem_filter]
  exact ⟨fun h => h.2, fun h => ⟨mem_allAxes a, h⟩⟩

end Rehome

/-! ## The resume is taken (R186) -/

/-- The axes the resume takes, as Track would accept them. -/
theorem Axis.resumable_iff (x : Axis) : x.resumable = true ↔
    x.resumeMark = true ∧ x.state ∈ [.standing, .slewing, .stopping] ∧ x.known = true ∧ x.record.binding ≠ none ∧
      ∀ side, x.limitMemory = some side → x.limitLevel side = false := by
  have hmemory : x.activeMemory = none ↔ ∀ side, x.limitMemory = some side → x.limitLevel side = false := by
    rw [Option.eq_none_iff_forall_not_mem]
    constructor
    · exact fun h side hm => Bool.eq_false_iff.mpr fun hl => h side ((activeMemory_iff x side).mpr ⟨hm, hl⟩)
    · rintro h side hs
      obtain ⟨hm, hl⟩ := (activeMemory_iff x side).mp hs
      exact Bool.false_ne_true ((h side hm).symm.trans hl)
  unfold Axis.resumable
  rw [Bool.and_eq_true, Bool.and_eq_true, trackable_iff, and_assoc]
  refine and_congr_right fun _ => and_congr_right fun hs => ?_
  have hin : x.state ∈ [.standing, .slewing, .tracking, .stopping] ∧ x.state ≠ .tracking := by
    revert hs
    cases x.state <;> decide
  rw [Option.isNone_iff_eq_none, ← hmemory, trackRefusal_taken hin.1]
  cases x.known with
  | false => simp
  | true =>
    by_cases hb : x.record.binding = none
    · simp [hb]
    · simp [hb, hin.2]

section Resume

variable {s : State} {a b : AxisId}

theorem State.resumeAxis_idle (h : (s.axis a).resumable = false) : s.resumeAxis a = s :=
  if_neg fun c => Bool.false_ne_true (h.symm.trans c)

theorem State.resumeAxis_taken (h : (s.axis a).resumable = true) : s.resumeAxis a = s.trackAxis a := if_pos h

theorem State.resumeAxis_other (h : b ≠ a) : (s.axis b).StageEnds ((s.resumeAxis a).axis b) := by
  unfold State.resumeAxis
  split
  · exact State.trackAxis_other h
  · exact .refl _

theorem State.trackAxis_state (h : s.clock.state ≠ .settling) (a : AxisId) : (s.trackAxis a).clock.state = s.clock.state := by
  have hbegin : ((s.beginTracking a).rollJoin a).clock = s.clock := by
    unfold State.rollJoin
    rw [(s.works_beginTracking a).clock, if_neg fun c => h c.1]
    exact (s.works_beginTracking a).clock
  have hjoin : (s.joinTracking a).clock = s.clock := by
    unfold State.joinTracking State.settledReport
    split
    · rw [State.rollLeave_off (by rw [hbegin]; exact fun c => h c.1), ite_self]
      exact hbegin
    · exact hbegin
  cases hk : (s.axis a).known with
  | false => rw [State.trackAxis_unknown hk]
  | true => rw [State.trackAxis_eq hk, (State.works_requestAngle ..).clock, hjoin]

theorem State.recovers_resumeAxis (s : State) (a : AxisId) : s.Recovers (s.resumeAxis a) := by
  unfold State.resumeAxis
  split
  · exact (s.leaves_trackAxis a).recovers fun h => State.trackAxis_state h a
  · exact .refl s

/-- The axes of the resume set, taken one by one. -/
def State.resumeAll (s : State) (q : ReturnRecord) : State :=
  q.resume.foldl State.resumeAxis (s.endMembers (fun a => q.resume.contains a && (s.axis a).resumable) false)

variable {q : ReturnRecord}

theorem State.recovers_resumeAll (s : State) (q : ReturnRecord) : s.Recovers (s.resumeAll q) :=
  foldl_keeps (P := fun t => s.Recovers t) (fun t a h => h.trans (t.recovers_resumeAxis a)) _ _
    (s.endsStages_endMembers _ _).toWorks.recovers

theorem Axis.StageEnds.resumable {x y : Axis} (h : x.StageEnds y) : y.resumable = x.resumable := by
  rw [h.sameButStage]
  rfl

theorem State.resumeAll_other (h : a ∉ q.resume ∨ (s.axis a).resumable = false) : (s.axis a).StageEnds ((s.resumeAll q).axis a) := by
  have hends := (s.endsStages_endMembers (fun a => q.resume.contains a && (s.axis a).resumable) false).axis a
  rcases h with h | h
  · exact foldl_keeps_of_ne (Q := fun t : State => (s.axis a).StageEnds (t.axis a))
      (fun _ _ hx ht => ht.trans (State.resumeAxis_other (Ne.symm hx))) h hends
  · refine foldl_keeps (P := fun t : State => (s.axis a).StageEnds (t.axis a)) (fun t x ht => ?_) _ _ hends
    by_cases hx : a = x
    · subst hx
      rw [State.resumeAxis_idle (ht.resumable.trans h)]
      exact ht
    · exact ht.trans (State.resumeAxis_other hx)

theorem State.resumeAll_mem (hmem : a ∈ q.resume) (h : (s.axis a).resumable = true) : ((s.resumeAll q).axis a).state = .tracking := by
  have hends := (s.endsStages_endMembers (fun a => q.resume.contains a && (s.axis a).resumable) false).axis a
  refine foldl_reaches (P := fun t : State => (s.axis a).StageEnds (t.axis a)) (Q := fun t : State => (t.axis a).state = .tracking)
    (fun t x hx ht => ht.trans (State.resumeAxis_other (Ne.symm hx))) (fun t x ht => ?_) (fun t ht => ?_) hmem hends
  · by_cases hx : a = x
    · subst hx
      have hnot : (t.axis a).resumable = false := Bool.eq_false_iff.mpr fun c => by
        obtain ⟨_, hs, _⟩ := ((t.axis a).resumable_iff).mp c
        rw [ht] at hs
        revert hs
        decide
      rw [State.resumeAxis_idle hnot]
      exact ht
    · rw [(State.resumeAxis_other hx).sameButStage]
      exact ht
  · have hres := ht.resumable.trans h
    obtain ⟨_, _, hk, _⟩ := ((t.axis a).resumable_iff).mp hres
    obtain ⟨l, hl⟩ := State.trackAxis_self hk
    rw [State.resumeAxis_taken hres, hl]
    rfl

/-- The sky runs on, where it is to. -/
def State.runWhere (s : State) (b : Bool) : State := if b then s.runClock else s

theorem State.runWhere_only (s : State) (b : Bool) : s.runWhere b = s.withClock (s.runWhere b).clock := by
  unfold State.runWhere
  cases b with
  | false => rfl
  | true =>
    cases h : s.clock.state with
    | halted => rw [if_pos rfl, State.runClock_halted h]; rfl
    | running => rw [if_pos rfl, State.runClock_running h]; rfl
    | settling => rw [if_pos rfl, State.runClock_settling h]; rfl

theorem State.runWhere_state (h : s.clock.state ≠ .settling) (b : Bool) :
    (s.runWhere b).clock.state = if b then .running else s.clock.state := by
  unfold State.runWhere
  cases b with
  | false => rfl
  | true =>
    cases hs : s.clock.state with
    | halted => rw [if_pos rfl, State.runClock_halted hs]; rfl
    | running => rw [if_pos rfl, State.runClock_running hs, hs]; rfl
    | settling => exact absurd hs h

theorem State.resumeReturn_eq (s : State) (q : ReturnRecord) : s.resumeReturn q =
    (((s.resumeAll q).runWhere q.wasRunning).clearMarks.withClock
      { ((s.resumeAll q).runWhere q.wasRunning).clearMarks.clock with wasRunning := false }).withPower
        { ((s.resumeAll q).runWhere q.wasRunning).clearMarks.power with sequence := none, outcome := .resumed } := rfl

end Resume

end Sys2Proof.Machine
end

section
/-! PROOFS. The policies at a return of drive power (09 R185 to R187: O55). -/

namespace Sys2Proof.Machine

/-! ## The frame of what follows the first step -/

/-- What was raised and told stands, and the routing. -/
structure State.StillTold (s t : State) : Prop where
  raised : ∀ x ∈ s.signals, x ∈ t.signals
  told : ∀ q k, k ≠ .clockSettled → s.entry q k ≠ none → t.entry q k ≠ none
  routed : ∀ k r, t.routedPorts k r = s.routedPorts k r

section StillTold

variable {s t u : State}

theorem State.StillTold.trans (h : s.StillTold t) (k : t.StillTold u) : s.StillTold u :=
  ⟨fun x hx => k.raised x (h.raised x hx), fun q j hj he => k.told q j hj (h.told q j hj he), fun j r => (k.routed j r).trans (h.routed j r)⟩

theorem State.Recovers.stillTold (h : s.Recovers t) : s.StillTold t := ⟨h.raised, h.told, h.routed⟩

theorem State.stillTold_withClock (s : State) (c : Clock) : s.StillTold (s.withClock c) := ⟨fun _ h => h, fun _ _ _ h => h, fun _ _ => rfl⟩

theorem State.stillTold_withPower (s : State) (d : DrivePower) : s.StillTold (s.withPower d) :=
  ⟨fun _ h => h, fun _ _ _ h => h, fun _ _ => rfl⟩

end StillTold

/-- Every resume mark cleared, under a new clock and new drive power. -/
def State.unmark (s : State) (c : Clock) (d : DrivePower) : State := (s.clearMarks.withClock c).withPower d

section Unmark

variable (s : State) (c : Clock) (d : DrivePower)

theorem State.unmark_axis (a : AxisId) : (s.unmark c d).axis a = { s.axis a with resumeMark := false } := by
  unfold State.unmark
  rw [State.axis_of_axes (State.withPower_axes ..), State.axis_of_axes (State.withClock_axes ..), s.clearMarks_axis]

theorem State.stillTold_unmark : s.StillTold (s.unmark c d) := by
  unfold State.unmark
  rw [s.clearMarks_only]
  exact ⟨fun _ h => h, fun _ _ _ h => h, fun _ _ => rfl⟩

theorem State.dropResume_eq (o : ReturnOutcome) :
    s.dropResume o = s.unmark { s.clock with wasRunning := false } { s.power with outcome := o } := by
  unfold State.dropResume State.unmark
  rw [s.clearMarks_only]
  rfl

theorem State.resumeReturn_unmark (q : ReturnRecord) : s.resumeReturn q = ((s.resumeAll q).runWhere q.wasRunning).unmark
    { ((s.resumeAll q).runWhere q.wasRunning).clock with wasRunning := false }
    { (s.resumeAll q).power with sequence := none, outcome := .resumed } := by
  rw [State.resumeReturn_eq]
  unfold State.unmark
  rw [((s.resumeAll q).runWhere q.wasRunning).clearMarks_only, (s.resumeAll q).runWhere_only]
  rfl

end Unmark

/-! ## What the policies leave of the axes -/

/-- From `s` to `t` the policy of a return has been applied, short of what it does to single axes. -/
structure State.ReturnEnds (s t : State) : Prop where
  told : s.StillTold t
  power : t.power.state = s.power.state ∧ t.power.keptResume = s.power.keptResume ∧ t.power.keptRunning = s.power.keptRunning
  spared : ∀ a, (s.axis a).state ≠ .unreferenced → (s.axis a).resumable = false → (s.axis a).Spared (t.axis a)

section Policies

variable {s : State}

theorem Axis.spared_unmarked (x : Axis) : x.Spared { x with resumeMark := false } := rfl

theorem Axis.Spared.state {x y : Axis} (h : x.Spared y) : y.state = x.state := by rw [h]

/-- HOLD. -/
theorem State.dropResume_ends (s : State) (o : ReturnOutcome) : s.ReturnEnds (s.dropResume o) ∧
    (s.dropResume o).clock.wasRunning = false ∧ (s.dropResume o).power = { s.power with outcome := o } ∧
    ∀ a, (s.dropResume o).axis a = { s.axis a with resumeMark := false } := by
  rw [State.dropResume_eq]
  have hax := s.unmark_axis { s.clock with wasRunning := false } { s.power with outcome := o }
  exact ⟨⟨s.stillTold_unmark _ _, ⟨rfl, rfl, rfl⟩, fun a _ _ => by
    rw [hax]
    exact (s.axis a).spared_unmarked⟩, rfl, rfl, hax⟩

/-- Axes home: the eligible ones are in HOMING, the others stand. -/
theorem State.rehome_ends (s : State) : s.StillTold (s.rehome s.eligible) ∧ (s.rehome s.eligible).power = s.power ∧
    (s.rehome s.eligible).clock = s.clock ∧
    (∀ a ∈ s.eligible, ((s.rehome s.eligible).axis a).homesFor .returnPolicy (s.axis a).resumeMark) ∧
    ∀ a, a ∉ s.eligible → (s.axis a).StageEnds ((s.rehome s.eligible).axis a) :=
  ⟨(s.works_rehome _).recovers.stillTold, (s.works_rehome _).power, (s.works_rehome _).clock,
    fun _ ha => State.rehome_mem s.eligible_nodup ha, fun _ ha => State.rehome_other ha⟩

/-- REHOME. -/
theorem State.rehomed_ends {t u : State} (ht : t = s.dropResume .rehomed) (hu : u = t.rehome t.eligible) :
    s.ReturnEnds u ∧ u.clock.wasRunning = false ∧ u.power.outcome = .rehomed ∧ (∀ a, (u.axis a).resumeMark = false) ∧
      (∀ a ∈ s.eligible, (u.axis a).homesFor .returnPolicy false) ∧ ∀ a, a ∉ s.eligible → (u.axis a).state = (s.axis a).state := by
  obtain ⟨⟨htold, hkept, hspared⟩, hflag, hpower, hax⟩ := s.dropResume_ends .rehomed
  rw [← ht] at htold hkept hspared hflag hpower hax
  have helig (a : AxisId) : a ∈ t.eligible ↔ a ∈ s.eligible := by
    rw [State.mem_eligible, State.mem_eligible, hpower, hax]
  obtain ⟨hstill, hpow, hclock, hhome, hother⟩ := t.rehome_ends
  rw [← hu] at hstill hpow hclock hhome hother
  have hspare (a : AxisId) (ha : a ∉ s.eligible) : (s.axis a).Spared (u.axis a) ∧ (u.axis a).resumeMark = false := by
    have hends := hother a fun c => ha ((helig a).mp c)
    refine ⟨Axis.Spared.trans ?_ hends.spared, ?_⟩
    · rw [hax]
      exact (s.axis a).spared_unmarked
    · rw [hends.sameButStage, hax]
  have hhomes (a : AxisId) (ha : a ∈ s.eligible) : (u.axis a).homesFor .returnPolicy false := by
    have := hhome a ((helig a).mpr ha)
    rwa [hax] at this
  refine ⟨⟨htold.trans hstill, by rw [hpow]; exact hkept, fun a hs _ => (hspare a fun c => hs ((s.mem_eligible a).mp c).2.1).1⟩,
    by rw [hclock]; exact hflag, by rw [hpow, hpower], fun a => ?_, hhomes, fun a ha => (hspare a ha).1.state⟩
  by_cases ha : a ∈ s.eligible
  · exact (hhomes a ha).2.2
  · exact (hspare a ha).2

/-- The record REHOME_AND_RESUME forms (R186). -/
def State.formed (s : State) : ReturnRecord :=
  { members := s.eligible.map fun a => (a, false), resume := s.markedAxes, wasRunning := s.clock.wasRunning }

/-- The state in which the sequence is formed. -/
def State.forming (s : State) : State := s.withPower { s.power with sequence := some s.formed, outcome := .pending }

theorem State.formSequence_halted (h : s.power.halt.accepted = true) : s.formSequence = s.forming.abandonReturn none := if_pos h

theorem State.formSequence_resumes (h : s.power.halt.accepted = false) (he : s.eligible = []) :
    s.formSequence = s.forming.resumeReturn s.formed := by
  have hif : s.formSequence = if s.power.halt.accepted = true then s.forming.abandonReturn none
      else if s.eligible.isEmpty then s.forming.resumeReturn s.formed else s.forming.rehome s.eligible := rfl
  rw [hif, if_neg (by rw [h]; exact Bool.false_ne_true), if_pos (by rw [he]; rfl)]

theorem State.formSequence_homes (h : s.power.halt.accepted = false) (he : s.eligible ≠ []) :
    s.formSequence = s.forming.rehome s.forming.eligible := by
  have hif : s.formSequence = if s.power.halt.accepted = true then s.forming.abandonReturn none
      else if s.eligible.isEmpty then s.forming.resumeReturn s.formed else s.forming.rehome s.eligible := rfl
  rw [hif, if_neg (by rw [h]; exact Bool.false_ne_true), if_neg fun c => he (List.isEmpty_iff.mp c)]
  rfl

/-- REHOME_AND_RESUME while HALT is asserted (R187). -/
theorem State.halted_ends (h : s.power.halt.accepted = true) : s.ReturnEnds s.formSequence ∧
    s.formSequence.power.sequence = none ∧ s.formSequence.power.outcome = .abandoned ∧ s.formSequence.clock.wasRunning = false ∧
    s.formSequence.clock.state = s.clock.state ∧
    (∀ q ∈ s.routedPorts .resumeAbandoned .sky, ∃ e, s.formSequence.entry q .resumeAbandoned = some e ∧ e.subject = none) ∧
    ∀ a, s.formSequence.axis a = { s.axis a with resumeMark := false } := by
  obtain ⟨u, hu⟩ : ∃ u : State, u = s.forming.unmark { s.clock with wasRunning := false }
    { s.forming.power with sequence := none, outcome := .abandoned } := ⟨_, rfl⟩
  have heq : s.formSequence = u.notify .resumeAbandoned .sky none := by
    rw [State.formSequence_halted h, State.abandonReturn_eq (s := s.forming) (q := s.formed) rfl, hu]
    rfl
  have hax (a : AxisId) : s.formSequence.axis a = { s.axis a with resumeMark := false } := by
    rw [heq, State.axis_notify, hu]
    exact s.forming.unmark_axis _ _ a
  have hstill : s.StillTold u := by
    rw [hu]
    exact (s.stillTold_withPower _).trans (s.forming.stillTold_unmark _ _)
  have hpower : s.formSequence.power = { s.forming.power with sequence := none, outcome := .abandoned } := by
    rw [heq, State.notify_power, hu]
    rfl
  have hclock : s.formSequence.clock = { s.clock with wasRunning := false } := by
    rw [heq, State.notify_clock, hu]
    rfl
  refine ⟨⟨?_, by rw [hpower]; exact ⟨rfl, rfl, rfl⟩, fun a _ _ => by rw [hax]; exact (s.axis a).spared_unmarked⟩, by rw [hpower],
    by rw [hpower], by rw [hclock], by rw [hclock], fun q hq => ?_, hax⟩
  · rw [heq]
    exact hstill.trans (State.recovers_notify ..).stillTold
  · rw [heq]
    exact ⟨_, State.notify_entry_routed u (by rw [hstill.routed]; exact hq) none false, NoticeEntry.after_subject ..⟩

/-- REHOME_AND_RESUME with no axis to home (R186). -/
theorem State.resumed_ends (h : s.power.halt.accepted = false) (he : s.eligible = []) : s.ReturnEnds s.formSequence ∧
    s.formSequence.power.sequence = none ∧ s.formSequence.power.outcome = .resumed ∧ s.formSequence.clock.wasRunning = false ∧
    (s.clock.state ≠ .settling → s.formSequence.clock.state = if s.clock.wasRunning then .running else s.clock.state) ∧
    (∀ a, (s.formSequence.axis a).resumeMark = false) ∧
    (∀ a, (s.axis a).resumable = true → (s.formSequence.axis a).state = .tracking) ∧
    ∀ a, (s.axis a).resumable = false → (s.formSequence.axis a).state = (s.axis a).state := by
  obtain ⟨u, hu⟩ : ∃ u, u = s.forming.resumeAll s.formed := ⟨_, rfl⟩
  have hrec : s.forming.Recovers u := hu ▸ s.forming.recovers_resumeAll s.formed
  have hmem (a : AxisId) (ha : (s.axis a).resumable = true) : (u.axis a).state = .tracking :=
    hu ▸ State.resumeAll_mem (s := s.forming) ((s.mem_markedAxes a).mpr (((s.axis a).resumable_iff).mp ha).1) ha
  have hother (a : AxisId) (ha : (s.axis a).resumable = false) : (s.axis a).StageEnds (u.axis a) :=
    hu ▸ State.resumeAll_other (s := s.forming) (q := s.formed) (.inr ha)
  have heq : s.formSequence = (u.runWhere s.clock.wasRunning).unmark { (u.runWhere s.clock.wasRunning).clock with wasRunning := false }
      { u.power with sequence := none, outcome := .resumed } := by
    rw [State.formSequence_resumes h he, State.resumeReturn_unmark, ← hu]
    rfl
  have hax (a : AxisId) : s.formSequence.axis a = { u.axis a with resumeMark := false } := by
    rw [heq, State.unmark_axis, u.runWhere_only]
    rfl
  have hpower : s.formSequence.power = { s.forming.power with sequence := none, outcome := .resumed } := by
    rw [heq, ← hrec.power]
    rfl
  refine ⟨⟨?_, by rw [hpower]; exact ⟨rfl, rfl, rfl⟩, fun a _ ha => ?_⟩, by rw [hpower], by rw [hpower], by rw [heq]; rfl, fun hs => ?_,
    fun a => by rw [hax], fun a ha => by rw [hax]; exact hmem a ha, fun a ha => ?_⟩
  · rw [heq, u.runWhere_only]
    exact ((s.stillTold_withPower _).trans hrec.stillTold).trans ((u.stillTold_withClock _).trans (State.stillTold_unmark ..))
  · rw [hax]
    exact (hother a ha).spared.trans (u.axis a).spared_unmarked
  · have hstate : u.clock.state = s.clock.state := hrec.sky hs
    have hrun := State.runWhere_state (s := u) (by rw [hstate]; exact hs) s.clock.wasRunning
    rw [hstate] at hrun
    rw [heq]
    exact hrun
  · rw [hax]
    exact (hother a ha).spared.state

/-- REHOME_AND_RESUME with axes to home (R186). -/
theorem State.homes_ends (h : s.power.halt.accepted = false) (he : s.eligible ≠ []) : s.ReturnEnds s.formSequence ∧
    s.formSequence.power = s.forming.power ∧ (∀ a ∈ s.eligible, (s.formSequence.axis a).homesFor .returnPolicy (s.axis a).resumeMark) ∧
    ∀ a, a ∉ s.eligible → (s.formSequence.axis a).state = (s.axis a).state := by
  rw [State.formSequence_homes h he]
  obtain ⟨hstill, hpow, _, hhome, hother⟩ := s.forming.rehome_ends
  refine ⟨⟨(s.stillTold_withPower _).trans hstill, by rw [hpow]; exact ⟨rfl, rfl, rfl⟩, fun a hs _ =>
    (hother a fun c => hs ((s.mem_eligible a).mp c).2.1).spared⟩, hpow, hhome, fun a ha => (hother a ha).spared.state⟩

end Policies

end Sys2Proof.Machine
end

section
/-! PROOFS. The loss and the return of drive power settled (O55). -/

namespace Sys2Proof.Machine

/-! ## The state in which the policy is applied -/

/-- Every axis after the first step of a return. -/
def State.recovered (s : State) : State := allAxes.foldl State.returnAxis (s.withPower { s.power with state := .present })

/-- The return told and what it keeps recorded. -/
def State.atReturn (s : State) : State :=
  (s.recovered.notify .drivePowerReturned .sky none).withPower
    { (s.recovered.notify .drivePowerReturned .sky none).power with
      keptResume := (s.recovered.notify .drivePowerReturned .sky none).markedAxes
      keptRunning := (s.recovered.notify .drivePowerReturned .sky none).clock.wasRunning }

/-- The policy in force applied. -/
def State.endReturn (s : State) : State :=
  if s.power.policy = .hold then s.dropResume .held
  else if s.power.policy = .rehome then (s.dropResume .rehomed).rehome (s.dropResume .rehomed).eligible
  else s.formSequence

section EndReturn

variable {s : State}

theorem State.endReturn_hold (h : s.power.policy = .hold) : s.endReturn = s.dropResume .held := if_pos h

theorem State.endReturn_rehome (h : s.power.policy = .rehome) :
    s.endReturn = (s.dropResume .rehomed).rehome (s.dropResume .rehomed).eligible := by
  unfold State.endReturn
  rw [h, if_neg (by decide), if_pos rfl]

theorem State.endReturn_resume (h : s.power.policy = .rehomeAndResume) : s.endReturn = s.formSequence := by
  unfold State.endReturn
  rw [h, if_neg (by decide), if_neg (by decide)]

theorem State.powerReturn_eq {n : Nat} (h : s.power.state = .returning n) : s.powerReturn = s.atReturn.endReturn := by
  unfold State.powerReturn
  rw [h]
  unfold State.endReturn State.atReturn State.recovered
  dsimp only
  generalize allAxes.foldl State.returnAxis _ = u
  cases ((u.notify .drivePowerReturned .sky none).withPower _).power.policy <;> rfl

end EndReturn

/-- What the first step of a return leaves, told of the state before it. -/
structure State.Returned (s r : State) : Prop where
  axis : ∀ a, (s.axis a).Returns (r.axis a)
  told : ∀ a, (s.axis a).flt.accepted = true → (s.axis a).state ∉ [.unconfigured, .disabled] → s.faultTold r a
  power : r.power = { s.power with state := .present, keptResume := r.power.keptResume, keptRunning := r.power.keptRunning }
  resume : ∀ a, a ∈ r.power.keptResume ↔ (s.axis a).resumeMark = true
  running : r.power.keptRunning = s.clock.wasRunning
  flag : r.clock.wasRunning = s.clock.wasRunning
  sky : s.clock.state ≠ .settling → r.clock.state = s.clock.state
  routed : ∀ k c, r.routedPorts k c = s.routedPorts k c
  note : ∀ q ∈ s.routedPorts .drivePowerReturned .sky, r.entry q .drivePowerReturned ≠ none

theorem State.returned_atReturn {s : State} (hq : s.power.sequence = none) : s.Returned s.atReturn := by
  obtain ⟨hrec, haxes⟩ := State.foldl_returnAxis (s := s.withPower { s.power with state := .present }) rfl hq
  have hnote := State.recovers_notify s.recovered .drivePowerReturned .sky none false
  have htold (q : Port) (h : q ∈ s.recovered.routedPorts .drivePowerReturned .sky) := State.notify_entry_routed s.recovered h none false
  have hax (a : AxisId) : (s.recovered.notify .drivePowerReturned .sky none).axis a = s.recovered.axis a := State.axis_notify ..
  unfold State.atReturn
  change (s.withPower { s.power with state := .present }).Recovers s.recovered at hrec
  change ∀ a, (s.axis a).Returns (s.recovered.axis a) ∧ _ at haxes
  change ∀ a, _ ∧ (_ → _ → (s.withPower _).faultTold s.recovered a) at haxes
  generalize s.recovered = u at *
  generalize u.notify .drivePowerReturned .sky none = v at *
  have hboth := hrec.trans hnote
  refine ⟨fun a => ?_, fun a h1 h2 => ?_, ?_, fun a => ?_, hboth.flag, hboth.flag, hboth.sky, hboth.routed, fun q hmem c => ?_⟩
  · have := (haxes a).1
    rw [← hax] at this
    exact this
  · obtain ⟨hev, hn⟩ := ((haxes a).2 h1 h2).keeps hnote
    exact ⟨hev, hn⟩
  · rw [State.withPower_power, hboth.power]
    rfl
  · rw [State.withPower_power]
    refine (v.mem_markedAxes a).trans ?_
    rw [hax, (haxes a).1.mark]
  · have := htold q (by rw [hrec.routed]; exact hmem)
    exact Option.some_ne_none _ (this.symm.trans c)

/-! ## What the policy leaves of an axis -/

section AfterPolicy

variable {s r t : State} {a : AxisId}

theorem Axis.not_resumable {x : Axis} (h : x.state ∉ [.standing, .slewing, .stopping]) : x.resumable = false :=
  Bool.eq_false_iff.mpr fun c => h (x.resumable_iff.mp c).2.1

/-- An axis that FLT does not meet is as it was, but for its stage and its fault record. -/
theorem Axis.Returns.unmet {x y : Axis} (h : x.Returns y) (hf : x.flt.accepted = false) : y.state = x.state ∧ y.resumable = x.resumable ∧
    y.record = x.record ∧ y.resumeMark = x.resumeMark := by
  rw [h.idle (.inl hf)]
  exact ⟨rfl, rfl, rfl, rfl⟩

/-- An axis that FLT meets at the return, after the policy (R175, R176). -/
theorem State.Returned.faulted (h : s.Returned r) (k : r.ReturnEnds t) (hf : (s.axis a).flt.accepted = true) :
    ((s.axis a).state ∈ [.unconfigured, .disabled] →
      (t.axis a).state = (s.axis a).state ∧ (t.axis a).known = (s.axis a).known ∧ (t.axis a).position = (s.axis a).position) ∧
    ((s.axis a).state ∉ [.unconfigured, .disabled] →
      (t.axis a).state = .faulted ∧ .event (.axisFault a) none ∈ t.signals ∧ (t.axis a).fault.autoClear = none ∧
      (∀ q ∈ s.routedPorts .axisFault (.group (s.axis a).record.group), t.entry q .axisFault ≠ none) ∧
      ((s.axis a).record.keepPosition = true → (t.axis a).known = (s.axis a).known ∧ (t.axis a).position = (s.axis a).position) ∧
      ((s.axis a).record.keepPosition = false →
        (t.axis a).known = false ∧ ((s.axis a).known = true ∨ (s.axis a).state ≠ .homing → (t.axis a).position = ⟨0, 0⟩)) ∧
      ((s.axis a).state ≠ .faulted → (t.axis a).fault.first = some .driveFault ∧ (t.axis a).fault.further = []) ∧
      ((s.axis a).state = .faulted → (t.axis a).fault.first = (s.axis a).fault.first ∧
        (t.axis a).fault.further =
          if (s.axis a).fault.first = some .driveFault ∨ .driveFault ∈ (s.axis a).fault.further then (s.axis a).fault.further
          else (s.axis a).fault.further ++ [.driveFault])) := by
  have hret := h.axis a
  refine ⟨fun hs => ?_, fun hs => ?_⟩
  · have hidle := hret.idle (.inr hs)
    have hstate : (r.axis a).state = (s.axis a).state := by rw [hidle]
    have hout : (s.axis a).state ≠ .unreferenced ∧ (s.axis a).state ∉ [.standing, .slewing, .stopping] := by
      revert hs
      cases (s.axis a).state <;> decide
    rw [k.spared a (by rw [hstate]; exact hout.1) (Axis.not_resumable (by rw [hstate]; exact hout.2)), hidle]
    exact ⟨rfl, rfl, rfl⟩
  · obtain ⟨h1, h2, h3, h4, h5, h6⟩ := hret.faults hf hs
    obtain ⟨hev, hnote⟩ := h.told a hf hs
    have hspared := k.spared a (by rw [h1]; decide) (Axis.not_resumable (by rw [h1]; decide))
    rw [hspared]
    exact ⟨h1, k.told.raised _ hev, h2, fun q hq => k.told.told q _ (by decide) (hnote q hq), h3, h4, h5, h6⟩

/-- A FAULTED axis whose automatic clearing starts at the return (R178). -/
theorem State.Returned.clears (h : s.Returned r) (k : r.ReturnEnds t) (hf : (s.axis a).flt.accepted = false)
    (hs : (s.axis a).state = .faulted) (hauto : (s.axis a).record.auto = true) (hfirst : (s.axis a).fault.first = some .driveFault)
    (hfurther : (s.axis a).fault.further = []) (hnone : (s.axis a).fault.autoClear = none) :
    (t.axis a).fault = { (s.axis a).fault with autoClear := some 100 } := by
  have hstate := ((h.axis a).unmet hf).1.trans hs
  rw [k.spared a (by rw [hstate]; decide) (Axis.not_resumable (by rw [hstate]; decide))]
  exact (h.axis a).timer hf hs hauto hfirst hfurther hnone

/-- The axes a return homes, told of the state before its first step. -/
theorem State.Returned.mem_eligible (h : s.Returned r) (a : AxisId) : a ∈ r.eligible ↔
    s.power.halt.accepted = false ∧ (s.axis a).flt.accepted = false ∧ (s.axis a).state = .unreferenced ∧
      (s.axis a).record.sensor = true := by
  have hret := h.axis a
  rw [State.mem_eligible, h.power, hret.record]
  refine and_congr_right fun _ => ?_
  cases hf : (s.axis a).flt.accepted with
  | false =>
    rw [(hret.unmet hf).1]
    exact ⟨fun c => ⟨rfl, c⟩, fun c => c.2⟩
  | true =>
    refine ⟨fun ⟨hu, _⟩ => ?_, fun c => absurd c.1.symm Bool.false_ne_true⟩
    by_cases hs : (s.axis a).state ∈ [.unconfigured, .disabled]
    · rw [hret.idle (.inr hs)] at hu
      rw [show (s.axis a).state = .unreferenced from hu] at hs
      exact absurd hs (by decide)
    · rw [(hret.faults hf hs).1] at hu
      cases hu

end AfterPolicy

/-- What each policy leaves, told of the state before the return. -/
structure State.PolicyEnds (s r t : State) : Prop where
  ends : r.ReturnEnds t
  dropped : s.power.policy ≠ .rehomeAndResume → t.clock.wasRunning = false ∧ ∀ a, (t.axis a).resumeMark = false
  held : s.power.policy = .hold → t.power.outcome = .held
  rehomed : s.power.policy = .rehome → t.power.outcome = .rehomed
  halted : s.power.policy = .rehomeAndResume → s.power.halt.accepted = true →
    t.power.sequence = none ∧ t.power.outcome = .abandoned ∧ t.clock.wasRunning = false ∧ t.clock.state = r.clock.state ∧
      (∀ q ∈ s.routedPorts .resumeAbandoned .sky, ∃ e, t.entry q .resumeAbandoned = some e ∧ e.subject = none) ∧
      ∀ a, (t.axis a).resumeMark = false ∧ (t.axis a).state = (r.axis a).state
  resumed : s.power.policy = .rehomeAndResume → s.power.halt.accepted = false → r.eligible = [] →
    t.power.sequence = none ∧ t.power.outcome = .resumed ∧ t.clock.wasRunning = false ∧
      (r.clock.state ≠ .settling → t.clock.state = if r.clock.wasRunning then .running else r.clock.state) ∧
      (∀ a, (t.axis a).resumeMark = false) ∧ (∀ a, (r.axis a).resumable = true → (t.axis a).state = .tracking) ∧
      ∀ a, (r.axis a).resumable = false → (t.axis a).state = (r.axis a).state
  stays : ∀ a, s.power.policy = .hold ∨ a ∉ r.eligible → (r.axis a).resumable = false → (t.axis a).state = (r.axis a).state
  homes : s.power.policy ≠ .hold → s.power.halt.accepted = false → ∀ a ∈ r.eligible, (t.axis a).state = .homing ∧
    (t.axis a).homing.map Homing.starter = some .returnPolicy ∧
    (s.power.policy = .rehomeAndResume → t.power.outcome = .pending ∧ t.power.sequence = some r.formed)

theorem State.Returned.policy {s r : State} (h : s.Returned r) : s.PolicyEnds r r.endReturn := by
  have hpolicy : r.power.policy = s.power.policy := by rw [h.power]
  have hhalt : r.power.halt = s.power.halt := by rw [h.power]
  have other {p q : ReturnPolicy} (hp : s.power.policy = p) (hne : p ≠ q) : s.power.policy ≠ q := hp ▸ hne
  cases hp : s.power.policy with
  | hold =>
    obtain ⟨hends, hflag, hpower, hax⟩ := r.dropResume_ends .held
    rw [State.endReturn_hold (hpolicy.trans hp)]
    have hmark (a : AxisId) : ((r.dropResume .held).axis a).resumeMark = false := by rw [hax]
    have hstate (a : AxisId) : ((r.dropResume .held).axis a).state = (r.axis a).state := by rw [hax]
    refine ⟨hends, fun _ => ⟨hflag, hmark⟩, fun _ => by rw [hpower], fun c => ?_, fun c => ?_, fun c => ?_, fun a _ _ => hstate a, fun c => ?_⟩
    · cases hp.symm.trans c
    · cases hp.symm.trans c
    · cases hp.symm.trans c
    · exact absurd hp c
  | rehome =>
    obtain ⟨hends, hflag, hout, hmark, hhome, hstay⟩ := State.rehomed_ends (s := r) rfl rfl
    rw [State.endReturn_rehome (hpolicy.trans hp)]
    refine ⟨hends, fun _ => ⟨hflag, hmark⟩, fun c => ?_, fun _ => hout, fun c => ?_, fun c => ?_, fun a c _ => hstay a ?_, fun _ _ a ha => ?_⟩
    · cases hp.symm.trans c
    · cases hp.symm.trans c
    · cases hp.symm.trans c
    · exact c.resolve_left (other hp (by decide))
    · exact ⟨(hhome a ha).1, (hhome a ha).2.1, fun c => by cases hp.symm.trans c⟩
  | rehomeAndResume =>
    rw [State.endReturn_resume (hpolicy.trans hp)]
    have nothing {q : ReturnPolicy} {A : Prop} (hne : ReturnPolicy.rehomeAndResume ≠ q) (c : s.power.policy = q) : A :=
      absurd c (other hp hne)
    cases hh : s.power.halt.accepted with
    | true =>
      obtain ⟨hends, hseq, hout, hflag, hclock, htold, hax⟩ := State.halted_ends (s := r) (by rw [hhalt]; exact hh)
      have hstate (a : AxisId) : (r.formSequence.axis a).state = (r.axis a).state := by rw [hax]
      refine ⟨hends, fun c => absurd hp c, nothing (by decide), nothing (by decide), fun _ _ => ⟨hseq, hout, hflag, hclock,
        fun q hq => htold q (by rw [h.routed]; exact hq), fun a => ⟨by rw [hax], hstate a⟩⟩,
        fun _ c => absurd (hh.symm.trans c).symm Bool.false_ne_true, fun a _ _ => hstate a,
        fun _ c => absurd (hh.symm.trans c).symm Bool.false_ne_true⟩
    | false =>
      by_cases he : r.eligible = []
      · obtain ⟨hends, hrest⟩ := State.resumed_ends (by rw [hhalt]; exact hh) he
        refine ⟨hends, fun c => absurd hp c, nothing (by decide), nothing (by decide),
          fun _ c => absurd (hh.symm.trans c) Bool.false_ne_true, fun _ _ _ => hrest, fun a _ ha => hrest.2.2.2.2.2.2 a ha,
          fun _ _ a ha => ?_⟩
        rw [he] at ha
        exact absurd ha List.not_mem_nil
      · obtain ⟨hends, hpower, hhome, hstay⟩ := State.homes_ends (by rw [hhalt]; exact hh) he
        refine ⟨hends, fun c => absurd hp c, nothing (by decide), nothing (by decide),
          fun _ c => absurd (hh.symm.trans c) Bool.false_ne_true, fun _ _ c => absurd c he,
          fun a c _ => hstay a (c.resolve_left (other hp (by decide))),
          fun _ _ a ha => ⟨(hhome a ha).1, (hhome a ha).2.1, fun _ => ⟨by rw [hpower]; rfl, by rw [hpower]; rfl⟩⟩⟩

/-- Settles O55: the loss by `drivePower_lost`, the return by its first step (`State.returned_atReturn`) and the ends of the three
policies. -/
theorem drivePowerIsLostAndReturns : Obligations.DrivePowerIsLostAndReturns := by
  intro s hrun
  refine ⟨fun h => ?_, fun h => ?_, fun h hs => ?_, fun n h hs => ?_, fun h hs => ?_, fun h => ?_, fun n hs hq => ?_⟩
  · exact answers_event (f := fun s => s.drivePowerActive) rfl hrun (if_pos h) id
  · exact answers_event (f := fun s => s.drivePowerInactive) rfl hrun (if_neg (by rw [h]; exact Bool.false_ne_true)) id
  · have heq : s.drivePowerActive = s.withPower { s.power with ok := ⟨true, 0⟩, state := .returning 500 } := by
      unfold State.drivePowerActive
      rw [if_neg (by rw [h]; exact Bool.false_ne_true)]
      dsimp only
      rw [show (s.withPower { s.power with ok := ⟨true, 0⟩ }).power.state = .absent from hs]
      rfl
    exact answers_event (f := fun s => s.drivePowerActive) rfl hrun heq fun hq => hq.congr rfl rfl rfl rfl rfl
  · have heq : s.drivePowerInactive = s.withPower { s.power with ok := ⟨false, 0⟩, state := .absent } := by
      unfold State.drivePowerInactive
      rw [if_pos h]
      dsimp only
      rw [show (s.withPower { s.power with ok := ⟨false, 0⟩ }).power.state = .returning n from hs]
      rfl
    exact answers_event (f := fun s => s.drivePowerInactive) rfl hrun heq fun hq => hq.congr rfl rfl rfl rfl rfl
  · obtain ⟨t, hexec, h1, h2, h3, h4, h5, h6, h7, h8, h9, h10, h11, h12, h13, h14, haxis⟩ := drivePower_lost hrun h hs
    refine ⟨t, hexec, h1, h2, h3, h4, h5, h6, h7, h8, h9, h10, h11, h12, h13, h14, fun a x y hx hy => ?_⟩
    subst hx hy
    obtain ⟨hidle, hlive, hfaulted, hmarked, hunmarked⟩ := haxis a
    exact ⟨hidle, hlive, hfaulted, hmarked, hunmarked⟩
  · have heq : s.powerReturn = s := by
      unfold State.powerReturn
      cases hs : s.power.state with
      | returning n => exact absurd hs (h n)
      | _ => rfl
    exact answers_event (f := fun s => s.powerReturn) rfl hrun heq id
  · have hret := State.returned_atReturn hq
    have hexec : exec .drivePowerReturn s = .next s.atReturn.endReturn.drain := by
      rw [← State.powerReturn_eq hs]
      exact exec_event_running (f := fun s => s.powerReturn) rfl hrun
    have hends := hret.policy
    generalize s.atReturn = r at *
    generalize r.endReturn = t at *
    have hpower := hends.ends.power
    refine ⟨t, hexec, ?_, ?_, fun a => ?_, fun q hmem => ?_, hends.dropped, hends.held, hends.rehomed, fun a x y hx hy hf => ?_,
      fun a x hx hf hst hauto hfirst hfurther hnone => ?_, fun hpol hhalt => ?_, fun hpol hhalt hnone => ?_, fun a x hx hf => ?_⟩
    · rw [hpower.1, hret.power]
    · rw [hpower.2.2]
      exact hret.running
    · rw [hpower.2.1]
      exact hret.resume a
    · exact hends.ends.told.told q _ (by decide) (hret.note q hmem)
    · subst hx hy
      exact hret.faulted hends.ends hf
    · subst hx
      exact hret.clears hends.ends hf hst hauto hfirst hfurther hnone
    · obtain ⟨hseq, hout, hflag, hclock, htold, hax⟩ := hends.halted hpol hhalt
      refine ⟨hseq, hout, hflag, fun hset => hclock.trans (hret.sky hset), htold, fun a => ⟨(hax a).1, fun hf => ?_⟩⟩
      exact (hax a).2.trans ((hret.axis a).unmet hf).1
    · have helig : r.eligible = [] := List.eq_nil_iff_forall_not_mem.mpr fun a ha => by
        obtain ⟨_, hf, hu, hsens⟩ := (hret.mem_eligible a).mp ha
        exact Bool.false_ne_true ((hnone a hu hf).symm.trans hsens)
      obtain ⟨hseq, hout, hflag, hclock, hmark, htrack, hstay⟩ := hends.resumed hpol hhalt helig
      refine ⟨hseq, hout, hflag, fun hset => ?_, fun a x hx => ?_⟩
      · have hstate := hret.sky hset
        rw [hclock (by rw [hstate]; exact hset), hret.flag, hstate]
      · subst hx
        refine ⟨hmark a, fun hf => ⟨fun hres => htrack a ?_, fun hres => ?_⟩⟩
        · rw [((hret.axis a).unmet hf).2.1]
          exact (Axis.resumable_iff _).mpr hres
        · refine (hstay a ?_).trans ((hret.axis a).unmet hf).1
          rw [((hret.axis a).unmet hf).2.1]
          refine Bool.eq_false_iff.mpr fun c => ?_
          obtain ⟨h1, h2, h3, h4, h5⟩ := (Axis.resumable_iff _).mp c
          rcases hres with hres | hres | hres | hres | ⟨side, hm, hl⟩
          · exact Bool.false_ne_true (hres.symm.trans h1)
          · exact hres h2
          · exact Bool.false_ne_true (hres.symm.trans h3)
          · exact h4 hres
          · exact Bool.false_ne_true ((h5 side hm).symm.trans hl)
    · subst hx
      have hunmet := (hret.axis a).unmet hf
      refine ⟨fun hor hu hmark => ?_, fun hpol hsens hhalt hu => ?_⟩
      · refine (hends.stays a (hor.imp_right fun c ha => ?_) (hunmet.2.1.trans ?_)).trans (hunmet.1.trans hu)
        · obtain ⟨h1, _, _, h4⟩ := (hret.mem_eligible a).mp ha
          rcases c with c | c
          · exact Bool.false_ne_true (c.symm.trans h4)
          · exact Bool.false_ne_true (h1.symm.trans c)
        · exact Axis.not_resumable (by rw [hu]; decide)
      · have ha := (hret.mem_eligible a).mpr ⟨hhalt, hf, hu, hsens⟩
        obtain ⟨hstate, hstarter, hform⟩ := hends.homes hpol hhalt a ha
        refine ⟨hstate, hstarter, fun hp => ⟨(hform hp).1, r.formed, (hform hp).2, List.mem_map_of_mem ha, hret.flag, fun b => ?_⟩⟩
        exact (r.mem_markedAxes b).trans (by rw [(hret.axis b).mark])

end Sys2Proof.Machine
end

section
/-! PROOFS. The requests on the channels (02 R27 to R35): what each does past its claim check, and those that need no
more (O24, O25). -/

namespace Sys2Proof.Machine

/-! ## Requests of the holder of SKY

`sky_*`: the request function once its claim check is passed (R112). -/

section Sky

variable {s : State} {p : Port} (h : s.holds p .sky = true)
include h

theorem sky_appendSegments_unknown {n : Nat} (hn : 12 ≤ n) (rs : List RawSegment) :
    appendSegments p n rs s = refuse .badValue s := by
  simp [appendSegments, h, channelOf_none hn]

theorem sky_appendSegments_count {rs : List RawSegment} (hl : rs.length = 0 ∨ 6 < rs.length) (c : ChannelId) :
    appendSegments p c.val rs s = refuse .badValue s := by
  simp only [appendSegments, h, channelOf_val, if_pos hl]
  rfl

theorem sky_appendSegments {rs : List RawSegment} (hpos : 1 ≤ rs.length) (hmax : rs.length ≤ 6) (c : ChannelId) :
    appendSegments p c.val rs s =
      match firstFault 0 rs with
      | some (st, i) => refuseAt st i s
      | none =>
        match firstMisplaced 0 (s.channel c).lastEnd rs with
        | some i => refuseAt .range i s
        | none =>
          if Config.channelMax < (s.channel c).segments.length + rs.length ∨ s.freeSegments < rs.length then refuse .full s
          else
            answerData (beNat 4 (s.freeStamp 1024 s.stampCounter) ++
                u8 ((rs.foldl (fun s r => s.storeSegment c r fun g l => l ++ [g]) s).channel c).segments.length)
              ((rs.foldl (fun s r => s.storeSegment c r fun g l => l ++ [g]) s).restartLease .sky) := by
  simp only [appendSegments, h, channelOf_val, if_neg (show ¬ (rs.length = 0 ∨ 6 < rs.length) by omega)]
  rfl

theorem sky_insertSegment_unknown {n : Nat} (hn : 12 ≤ n) (r : RawSegment) :
    insertSegment p n r s = refuse .badValue s := by
  simp [insertSegment, h, channelOf_none hn]

theorem sky_deleteSpan_unknown {n : Nat} (hn : 12 ≤ n) (x0 x1 : Int) : deleteSpan p n x0 x1 s = refuse .badValue s := by
  simp [deleteSpan, h, channelOf_none hn]

theorem sky_deleteSpan (c : ChannelId) (x0 x1 : Int) : deleteSpan p c.val x0 x1 s =
    if x1 ≤ x0 then refuse .badValue s
    else if x0 < Config.epochMin ∨ Config.epochMax < x0 ∨ x1 < Config.epochMin + 1 ∨ 2 ^ 50 < x1 then refuse .range s
    else s.keepSegments c fun g => !decide (g.start < x1 ∧ x0 < g.stop) := by
  simp only [deleteSpan, h, channelOf_val]
  rfl

theorem sky_clearChannel_unknown {n : Nat} (hn : 12 ≤ n) : clearChannel p n s = refuse .badValue s := by
  simp [clearChannel, h, channelOf_none hn]

theorem sky_clearChannel (c : ChannelId) : clearChannel p c.val s = s.keepSegments c fun _ => false := by
  simp [clearChannel, h]

theorem sky_setChannelKind_unknown {n : Nat} (hn : 12 ≤ n) (x : Nat) : setChannelKind p n x s = refuse .badValue s := by
  simp [setChannelKind, h, channelOf_none hn]

theorem sky_setChannelKind_bad {x : Nat} (hx : 1 < x) (c : ChannelId) : setChannelKind p c.val x s = refuse .badValue s := by
  match x, hx with
  | x + 2, _ => simp [setChannelKind, h, channelKindOf]

theorem sky_setChannelKind (c : ChannelId) (k : ChannelKind) : setChannelKind p c.val k.code s =
    if (s.channel c).kind = k then answerOk (s.restartLease .sky)
    else if s.boundAxes c ≠ [] then refuse .state s
    else answerOk ((s.setChannel c { s.channel c with kind := k }).restartLease .sky) := by
  cases k <;> simp [setChannelKind, h, channelKindOf, ChannelKind.code]

theorem sky_setChannelEnable_unknown {n : Nat} (hn : 12 ≤ n) (x : Nat) : setChannelEnable p n x s = refuse .badValue s := by
  simp [setChannelEnable, h, channelOf_none hn]

theorem sky_setChannelEnable (c : ChannelId) (x : Nat) : setChannelEnable p c.val x s =
    if 1 < x then refuse .badValue s
    else answerOk ((s.setChannel c { s.channel c with enabled := x == 1 }).restartLease .sky) := by
  simp [setChannelEnable, h]

end Sky

/-! ## Clear Channel (R33) -/

/-- A channel emptied returns its places to the store. -/
theorem State.freeSegments_emptied {s : State} {c : ChannelId} {ch : Channel} (h : s.segmentsLawful) (hnil : ch.segments = []) :
    (s.setChannel c ch).freeSegments = s.freeSegments + (s.channel c).segments.length := by
  have htotal := s.segmentTotal_setChannel c ch
  have hbound : s.segmentTotal ≤ 1024 := h.2
  rw [hnil, List.length_nil] at htotal
  rw [State.freeSegments_eq, State.freeSegments_eq]
  omega

/-- Settles O24: a filter that keeps nothing, and the total of the store before and after it. -/
theorem clearChannelRemovesEverySegment : Obligations.ClearChannelRemovesEverySegment := by
  intro s p tag hr hs
  have hh (n : Nat) := holds_outstand hs tag (requestByte (.clearChannel n))
  refine ⟨fun n hn => ?_, fun c => ⟨?_, fun hlaw => ?_⟩⟩
  · exact answers_unchanged (q := .clearChannel n) rfl rfl hr (congrArg now (sky_clearChannel_unknown (hh n) hn))
  · have he := sky_clearChannel (hh c.val) c
    simp only [State.keepSegments, List.filter_false] at he
    exact answers_changed (q := .clearChannel c.val) rfl rfl hr (congrArg now he)
  · exact State.freeSegments_emptied hlaw rfl

/-! ## Kind and enabled flag (R34, R35) -/

theorem State.boundAxes_eq_nil {s : State} {c : ChannelId} :
    s.boundAxes c = [] ↔ ∀ a, (s.axis a).record.binding ≠ some c := by
  simp [State.boundAxes, List.filter_eq_nil_iff, mem_allAxes]

/-- Settles O25: the number and the value checked, then the kind by the axes bound, the flag at once. -/
theorem channelSettings : Obligations.ChannelSettings := by
  intro s p tag n x hr hs
  have hkind := holds_outstand hs tag (requestByte (.setChannelKind n x))
  have henable := holds_outstand hs tag (requestByte (.setChannelEnable n x))
  refine ⟨fun hbad => ?_, fun c hn => ⟨fun hx => ?_, fun k hk => ?_⟩⟩
  · by_cases hn : n < 12
    · obtain ⟨c, rfl⟩ : ∃ c : ChannelId, n = c.val := ⟨⟨n, hn⟩, rfl⟩
      have hx : 1 < x := by omega
      exact ⟨answers_unchanged (q := .setChannelKind c.val x) rfl rfl hr (congrArg now (sky_setChannelKind_bad hkind hx c)),
        answers_unchanged (q := .setChannelEnable c.val x) rfl rfl hr
          (congrArg now ((sky_setChannelEnable henable c x).trans (if_pos hx)))⟩
    · have hn : 12 ≤ n := by omega
      exact ⟨answers_unchanged (q := .setChannelKind n x) rfl rfl hr (congrArg now (sky_setChannelKind_unknown hkind hn x)),
        answers_unchanged (q := .setChannelEnable n x) rfl rfl hr (congrArg now (sky_setChannelEnable_unknown henable hn x))⟩
  · subst hn
    exact answers_changed (q := .setChannelEnable c.val x) rfl rfl hr
      (congrArg now ((sky_setChannelEnable henable c x).trans (if_neg (by omega))))
  · subst hn hk
    have he := sky_setChannelKind hkind c k
    refine ⟨fun hsame => ?_, fun hnew hbound => ?_, fun hnew hfree => ?_⟩
    · exact answers_changed (q := .setChannelKind c.val k.code) rfl rfl hr (congrArg now (he.trans (if_pos hsame)))
    · have hsome : s.boundAxes c ≠ [] := fun hnil => hbound.elim fun a ha => State.boundAxes_eq_nil.mp hnil a ha
      exact answers_unchanged (q := .setChannelKind c.val k.code) rfl rfl hr
        (congrArg now ((he.trans (if_neg hnew)).trans (if_pos hsome)))
    · have hnil : s.boundAxes c = [] := State.boundAxes_eq_nil.mpr hfree
      exact answers_changed (q := .setChannelKind c.val k.code) rfl rfl hr
        (congrArg now ((he.trans (if_neg hnew)).trans (if_neg (not_not.mpr hnil))))

end Sys2Proof.Machine
end

section
/-! PROOFS. Offered segments checked (02 R28 to R31, 10 R199: O21). -/

namespace Sys2Proof.Machine

/-! ## The check of one segment (R28) -/

theorem segmentFault_of_not_formed {r : RawSegment} (h : ¬ formedSegment r) : segmentFault r = some .badValue := by
  unfold formedSegment at h
  exact if_pos (by omega)

/-- The bounds of a segment, as its check computes them where its form passes. -/
theorem segmentFault_formed {r : RawSegment} (h : formedSegment r) :
    (boundedSegment r → segmentFault r = none) ∧ (¬ boundedSegment r → segmentFault r = some .range) := by
  obtain ⟨hflag, hspan, hmost⟩ := h
  have hmin : Config.epochMin = -(2 ^ 50) := rfl
  have hmax : Config.epochMax = 2 ^ 50 - 1 := rfl
  unfold segmentFault boundedSegment
  generalize (if r.flag = 1 then (r.a2.natAbs : Int) else 0) = curvature
  rw [if_neg (show ¬ (1 < r.flag ∨ r.span = 0 ∨ 2 ^ 42 < r.span) by omega)]
  refine ⟨fun hbound => ?_, fun hbound => ?_⟩
  · rw [if_neg (by omega), if_neg (by rw [dayUnits]; omega), if_neg (by rw [dayUnits]; omega)]
  · split_ifs with hplace hrate hangle
    · rfl
    · rfl
    · rfl
    · rw [dayUnits] at hrate hangle
      omega

theorem segmentFault_of_not_bounded {r : RawSegment} (h : formedSegment r) (hb : ¬ boundedSegment r) :
    segmentFault r = some .range := (segmentFault_formed h).2 hb

theorem segmentFault_eq_none {r : RawSegment} (h : formedSegment r) (hb : boundedSegment r) : segmentFault r = none :=
  (segmentFault_formed h).1 hb

/-! ## The check of a list (R30) -/

/-- The first segment that fails, named by its place. -/
theorem firstFault_at {st : Status} : ∀ {rs : List RawSegment} {i k : Nat} {r : RawSegment}, rs[i]? = some r →
    (∀ j x, j < i → rs[j]? = some x → segmentFault x = none) → segmentFault r = some st → firstFault k rs = some (st, k + i)
  | [], _, _, _, hr, _, _ => by simp at hr
  | x :: xs, 0, k, r, hr, _, hst => by
    obtain rfl : x = r := by simpa using hr
    simp [firstFault, hst]
  | x :: xs, i + 1, k, r, hr, hbefore, hst => by
    have hx : segmentFault x = none := hbefore 0 x (Nat.succ_pos i) rfl
    have hrest := firstFault_at (k := k + 1) (rs := xs) hr
      (fun j y hj hy => hbefore (j + 1) y (Nat.succ_lt_succ hj) hy) hst
    rw [firstFault, hx, hrest, Nat.add_assoc, Nat.add_comm 1]

theorem firstFault_eq_none {rs : List RawSegment} (h : ∀ r ∈ rs, segmentFault r = none) (k : Nat) : firstFault k rs = none := by
  induction rs generalizing k with
  | nil => rfl
  | cons x xs ih =>
    rw [firstFault, h x List.mem_cons_self]
    exact ih (fun r hr => h r (List.mem_cons_of_mem _ hr)) (k + 1)

theorem firstFault_of_checked {rs : List RawSegment} (h : ∀ r ∈ rs, formedSegment r ∧ boundedSegment r) :
    firstFault 0 rs = none :=
  firstFault_eq_none (fun r hr => (h r hr).elim segmentFault_eq_none) 0

/-! ## The requests -/

section Insert

variable {s : State} {p : Port} (h : s.holds p .sky = true)
include h

theorem sky_insertSegment_unformed {r : RawSegment} (hr : ¬ formedSegment r) (c : ChannelId) :
    insertSegment p c.val r s = refuseAt .badValue 0 s := by
  simp only [insertSegment, h, channelOf_val, segmentFault_of_not_formed hr]
  rfl

theorem sky_insertSegment_unbounded {r : RawSegment} (hf : formedSegment r) (hb : ¬ boundedSegment r) (c : ChannelId) :
    insertSegment p c.val r s = refuse .range s := by
  simp only [insertSegment, h, channelOf_val, segmentFault_of_not_bounded hf hb]
  rfl

theorem sky_appendSegments_fault {rs : List RawSegment} (hmax : rs.length ≤ 6) {i : Nat} {r : RawSegment} (hr : rs[i]? = some r)
    (hbefore : ∀ j x, j < i → rs[j]? = some x → formedSegment x ∧ boundedSegment x) {st : Status} (hst : segmentFault r = some st)
    (c : ChannelId) : appendSegments p c.val rs s = refuseAt st i s := by
  have hpos : i < rs.length := (List.getElem?_eq_some_iff.mp hr).1
  have hfirst : firstFault 0 rs = some (st, 0 + i) :=
    firstFault_at hr (fun j x hj hx => (hbefore j x hj hx).elim segmentFault_eq_none) hst
  rw [sky_appendSegments h (by omega) hmax, hfirst, Nat.zero_add]

end Insert

/-- Settles O21: each refusal by the first check that fails. -/
theorem offeredSegmentsAreChecked : Obligations.OfferedSegmentsAreChecked := by
  intro s p tag c hr hs
  have hinsert (n : Nat) (r : RawSegment) := holds_outstand hs tag (requestByte (.insertSegment n r))
  have happend (n : Nat) (rs : List RawSegment) := holds_outstand hs tag (requestByte (.appendSegments n rs))
  refine ⟨fun r hform => ?_, fun r hform hbound => ?_, fun n hn r rs => ⟨?_, ?_⟩, fun rs hcount => ?_,
    fun rs i r hmax hi hbefore => ⟨fun hform => ?_, fun hform hbound => ?_⟩⟩
  · exact answers_unchanged (q := .insertSegment c.val r) rfl rfl hr
      (congrArg now (sky_insertSegment_unformed (hinsert c.val r) hform c))
  · exact answers_unchanged (q := .insertSegment c.val r) rfl rfl hr
      (congrArg now (sky_insertSegment_unbounded (hinsert c.val r) hform hbound c))
  · exact answers_unchanged (q := .insertSegment n r) rfl rfl hr (congrArg now (sky_insertSegment_unknown (hinsert n r) hn r))
  · exact answers_unchanged (q := .appendSegments n rs) rfl rfl hr
      (congrArg now (sky_appendSegments_unknown (happend n rs) hn rs))
  · exact answers_unchanged (q := .appendSegments c.val rs) rfl rfl hr
      (congrArg now (sky_appendSegments_count (happend c.val rs) hcount c))
  · exact answers_unchanged (q := .appendSegments c.val rs) rfl rfl hr
      (congrArg now (sky_appendSegments_fault (happend c.val rs) hmax hi hbefore (segmentFault_of_not_formed hform) c))
  · exact answers_unchanged (q := .appendSegments c.val rs) rfl rfl hr
      (congrArg now (sky_appendSegments_fault (happend c.val rs) hmax hi hbefore (segmentFault_of_not_bounded hform hbound) c))

end Sys2Proof.Machine
end

section
/-! PROOFS. Stamps (02 R27): the values the counter runs through, and the one it gives where the store has a place left. -/

namespace Sys2Proof.Machine

/-! ## The values of the counter -/

/-- The counter one step on: 2^32 − 1 is followed by 0. -/
def nextStamp : Nat → Nat := fun m => (m + 1) % 2 ^ 32

theorem nextStamp_iterate_succ (n i : Nat) : nextStamp^[i + 1] n = (n + i + 1) % 2 ^ 32 := by
  induction i with
  | zero => rfl
  | succ i ih =>
    rw [Function.iterate_succ_apply', ih]
    show ((n + i + 1) % 2 ^ 32 + 1) % 2 ^ 32 = _
    omega

/-- Within 2^32 steps the counter shows no value twice. -/
theorem nextStamp_iterate_ne (n : Nat) {i j : Nat} (hij : i < j) (hj : j - i < 2 ^ 32) :
    nextStamp^[i] n ≠ nextStamp^[j] n := by
  obtain ⟨d, rfl⟩ : ∃ d, j = d + 1 + i := ⟨j - i - 1, by omega⟩
  rw [Function.iterate_add_apply, nextStamp_iterate_succ]
  omega

/-! ## The stamps in use -/

/-- The stamps that stored segments hold. -/
def State.stamps (s : State) : List Nat := allChannels.flatMap fun c => (s.channel c).segments.map Segment.stamp

theorem State.mem_stamps {s : State} {k : Nat} : k ∈ s.stamps ↔ s.stampUsed k = true := by
  simp [State.stamps, State.stampUsed]

theorem State.stamps_length (s : State) : s.stamps.length = s.segmentTotal := by
  simp [State.stamps, State.segmentTotal, List.length_flatMap]

/-- The search goes on past a stamp in use alone. -/
theorem State.freeStamp_used {s : State} {m k : Nat} (h : s.stampUsed (s.freeStamp m k) = true) :
    ∀ i, i ≤ m → s.stampUsed (nextStamp^[i] k) = true := by
  induction m generalizing k with
  | zero =>
    intro i hi
    obtain rfl : i = 0 := by omega
    exact h
  | succ m ih =>
    by_cases hk : s.stampUsed k = true
    · rw [State.freeStamp, if_pos hk] at h
      intro i hi
      cases i with
      | zero => exact hk
      | succ i => exact ih h i (by omega)
    · rw [State.freeStamp, if_neg hk] at h
      exact absurd h hk

/-- With a place left in the store, 1,024 values hold one that is not in use. -/
theorem State.freeStamp_unused {s : State} (h : s.segmentTotal < 1024) (k : Nat) :
    s.stampUsed (s.freeStamp 1024 k) = false := by
  by_contra hused
  have hall := State.freeStamp_used (by simpa using hused)
  have hnodup : ((List.range 1024).map fun i => nextStamp^[i] k).Nodup := by
    refine List.Nodup.map_on (fun i hi j hj e => ?_) List.nodup_range
    rw [List.mem_range] at hi hj
    rcases Nat.lt_trichotomy i j with hlt | heq | hlt
    · exact absurd e (nextStamp_iterate_ne k hlt (by omega))
    · exact heq
    · exact absurd e.symm (nextStamp_iterate_ne k hlt (by omega))
  have hsub : ((List.range 1024).map fun i => nextStamp^[i] k) ⊆ s.stamps := by
    intro x hx
    obtain ⟨i, hi, rfl⟩ := List.mem_map.mp hx
    exact State.mem_stamps.mpr (hall i (Nat.le_of_lt (List.mem_range.mp hi)))
  have hcount := (hnodup.subperm hsub).length_le
  rw [s.stamps_length, List.length_map, List.length_range] at hcount
  omega

/-- The stamp given lies at most 1,024 steps on. -/
theorem State.freeStamp_iterate (s : State) (m k : Nat) : ∃ j, j ≤ m ∧ s.freeStamp m k = nextStamp^[j] k := by
  induction m generalizing k with
  | zero => exact ⟨0, Nat.le_refl 0, rfl⟩
  | succ m ih =>
    rw [State.freeStamp]
    split
    · obtain ⟨j, hj, e⟩ := ih ((k + 1) % 2 ^ 32)
      exact ⟨j + 1, Nat.succ_le_succ hj, e⟩
    · exact ⟨0, Nat.zero_le _, rfl⟩

/-- The search depends on the stamps in use among the values it looks at. -/
theorem State.freeStamp_congr {s t : State} (m k : Nat)
    (h : ∀ i, i < m → t.stampUsed (nextStamp^[i] k) = s.stampUsed (nextStamp^[i] k)) : t.freeStamp m k = s.freeStamp m k := by
  induction m generalizing k with
  | zero => rfl
  | succ m ih =>
    rw [State.freeStamp, State.freeStamp, show t.stampUsed k = s.stampUsed k from h 0 (Nat.succ_pos m),
      ih ((k + 1) % 2 ^ 32) fun i hi => h (i + 1) (Nat.succ_lt_succ hi)]

end Sys2Proof.Machine
end

section
/-! PROOFS. Insert Segment and Delete Span (02 R31, R32: O23). -/

namespace Sys2Proof.Machine

/-! ## The place of an inserted segment (R31) -/

theorem insertOrdered_eq (g : Segment) (l : List Segment) :
    insertOrdered g l = (l.takeWhile fun x => x.start < g.start) ++ g :: l.dropWhile fun x => x.start < g.start := by
  induction l with
  | nil => rfl
  | cons x xs ih =>
    rw [insertOrdered]
    split
    next hx => simp [hx, ih]
    next hx => simp [hx]

/-- In a channel in order, the segments that start before an epoch are its first ones. -/
theorem Channel.filter_start_lt {c : Channel} (h : c.ordered) (e : Int) :
    (c.segments.filter fun g => g.start < e) = c.segments.takeWhile fun g => g.start < e := by
  obtain ⟨hpair, hspan⟩ := h
  revert hpair hspan
  generalize c.segments = l
  intro hpair hspan
  induction l with
  | nil => rfl
  | cons x xs ih =>
    obtain ⟨hx, hxs⟩ := List.pairwise_cons.mp hpair
    have hrest := ih hxs fun g hg => hspan g (List.mem_cons_of_mem x hg)
    by_cases hlt : x.start < e
    · simp [hlt, hrest]
    · have hnone : xs.filter (fun g => g.start < e) = [] := by
        refine List.filter_eq_nil_iff.mpr fun g hg => ?_
        have hafter := hx g hg
        have hpos := hspan x List.mem_cons_self
        rw [Segment.stop_eq] at hafter
        simp only [decide_eq_true_eq]
        omega
      simp [hlt, hnone]

theorem any_overlaps_iff {l : List Segment} {r : RawSegment} :
    l.any (overlaps r) = true ↔ ∃ g ∈ l, r.start < g.start + g.span ∧ g.start < r.start + r.span := by
  simp only [List.any_eq_true, overlaps, decide_eq_true_eq]
  rfl

/-! ## The requests -/

section Outstand

variable (s : State) (p : Port) (tag code : Byte)

theorem State.channel_outstand (c : ChannelId) : (s.outstand p tag code).channel c = s.channel c := rfl

theorem State.stampCounter_outstand : (s.outstand p tag code).stampCounter = s.stampCounter := rfl

/-- A taken request finds the stamps as they were. -/
theorem State.freeStamp_outstand (m k : Nat) : (s.outstand p tag code).freeStamp m k = s.freeStamp m k :=
  State.freeStamp_congr m k fun _ _ => rfl

end Outstand

section Edits

variable {s : State} {p : Port} (h : s.holds p .sky = true)
include h

/-- Insert Segment of a segment whose form and bounds pass. -/
theorem sky_insertSegment {r : RawSegment} (hf : formedSegment r) (hb : boundedSegment r) (c : ChannelId) :
    insertSegment p c.val r s =
      if (s.channel c).segments.any (overlaps r) then refuse .range s
      else if Config.channelMax ≤ (s.channel c).segments.length ∨ s.freeSegments = 0 then refuse .full s
      else answerData (u8 ((s.channel c).segments.filter fun g => g.start < r.start).length ++
          beNat 4 (s.freeStamp 1024 s.stampCounter)) ((s.storeSegment c r insertOrdered).restartLease .sky) := by
  simp only [insertSegment, h, channelOf_val, segmentFault_eq_none hf hb]
  rfl

theorem sky_deleteSpan_inRange {x0 x1 : Int} (h0 : -(2 ^ 50) ≤ x0) (h01 : x0 < x1) (h1 : x1 ≤ 2 ^ 50) (c : ChannelId) :
    deleteSpan p c.val x0 x1 s =
      s.keepSegments c fun g => decide (x1 ≤ g.start ∨ g.start + g.span ≤ x0) := by
  have hmin : Config.epochMin = -(2 ^ 50) := rfl
  have hmax : Config.epochMax = 2 ^ 50 - 1 := rfl
  have hkeep : (fun g : Segment => !decide (g.start < x1 ∧ x0 < g.stop)) =
      fun g : Segment => decide (x1 ≤ g.start ∨ g.start + g.span ≤ x0) := by
    funext g
    rw [← decide_not, Segment.stop_eq]
    exact decide_eq_decide.mpr (by omega)
  rw [sky_deleteSpan h, if_neg (by omega), if_neg (by omega), hkeep]

end Edits

/-- Insert Segment and its refusals, of a segment whose form and bounds pass. -/
theorem insertSegment_answers (s : State) (p : Port) (tag : Byte) (c : ChannelId) (r : RawSegment) (hr : s.ready p)
    (hs : s.holderOf .sky = some p) (hord : (s.channel c).ordered) (hf : formedSegment r) (hb : boundedSegment r) :
    ((∃ g ∈ (s.channel c).segments, r.start < g.start + g.span ∧ g.start < r.start + r.span) →
      Answers (.insertSegment p tag c.val r) s (s.replied p tag 33 (.no .range))) ∧
    ((∀ g ∈ (s.channel c).segments, g.start + g.span ≤ r.start ∨ r.start + r.span ≤ g.start) →
      (255 ≤ (s.channel c).segments.length ∨ s.freeSegments = 0 →
        Answers (.insertSegment p tag c.val r) s (s.replied p tag 33 (.no .full))) ∧
      ((s.channel c).segments.length < 255 → 0 < s.freeSegments →
        ∃ k : Nat, s.givesStamp s.stampCounter k ∧
          Answers (.insertSegment p tag c.val r) s
            ((({ s.setChannel c { s.channel c with
                  segments := ((s.channel c).segments.takeWhile fun g => g.start < r.start) ++
                    storedSegment r k :: (s.channel c).segments.dropWhile fun g => g.start < r.start } with
                stampCounter := (k + 1) % 2 ^ 32 } : State).restartLease .sky).replied p tag 33
              (.okData (u8 ((s.channel c).segments.takeWhile fun g => g.start < r.start).length ++ beNat 4 k))))) := by
  have he := sky_insertSegment (holds_outstand hs tag (requestByte (.insertSegment c.val r))) hf hb c
  refine ⟨fun hover => ?_, fun hclear => ?_⟩
  · exact answers_unchanged (q := .insertSegment c.val r) rfl rfl hr
      (congrArg now (he.trans (if_pos (any_overlaps_iff.mpr hover))))
  · have hnone : ¬ (s.channel c).segments.any (overlaps r) = true := by
      rw [any_overlaps_iff]
      rintro ⟨g, hg, hover⟩
      have := hclear g hg
      omega
    have he := he.trans (if_neg hnone)
    refine ⟨fun hfull => ?_, fun hroom hplace => ?_⟩
    · exact answers_unchanged (q := .insertSegment c.val r) rfl rfl hr (congrArg now (he.trans (if_pos hfull)))
    · have hfits : ¬ (Config.channelMax ≤ (s.channel c).segments.length ∨ s.freeSegments = 0) :=
        not_or.mpr ⟨Nat.not_le.mpr hroom, by omega⟩
      have htotal : s.segmentTotal < 1024 := by
        rw [State.freeSegments_eq] at hplace
        omega
      have hgives := s.freeStamp_givesStamp 1024 s.stampCounter (State.freeStamp_unused htotal _)
      have he := he.trans (if_neg hfits)
      simp only [State.storeSegment, State.freeStamp_outstand, insertOrdered_eq] at he
      rw [State.channel_outstand, Channel.filter_start_lt hord, State.stampCounter_outstand] at he
      generalize s.freeStamp 1024 s.stampCounter = k at hgives he
      exact ⟨k, hgives, answers_changed (q := .insertSegment c.val r) rfl rfl hr (congrArg now he)⟩

/-- Settles O23: Insert Segment by overlap and room, Delete Span by the number, the order and the range of its epochs. -/
theorem insertAndDeleteSegments : Obligations.InsertAndDeleteSegments := by
  refine ⟨insertSegment_answers, fun s p tag n x0 x1 hr hs => ?_⟩
  have hmin : Config.epochMin = -(2 ^ 50) := rfl
  have hmax : Config.epochMax = 2 ^ 50 - 1 := rfl
  have hh := holds_outstand hs tag (requestByte (.deleteSpan n x0 x1))
  refine ⟨fun hbad => ?_, fun hn h01 hout => ?_, fun c hn h0 h01 h1 left hleft => ?_⟩
  · by_cases hn : n < 12
    · exact answers_unchanged (q := .deleteSpan n x0 x1) rfl rfl hr
        (congrArg now ((sky_deleteSpan hh ⟨n, hn⟩ x0 x1).trans (if_pos (by omega))))
    · exact answers_unchanged (q := .deleteSpan n x0 x1) rfl rfl hr
        (congrArg now (sky_deleteSpan_unknown hh (by omega) x0 x1))
  · exact answers_unchanged (q := .deleteSpan n x0 x1) rfl rfl hr
      (congrArg now ((sky_deleteSpan hh ⟨n, hn⟩ x0 x1).trans ((if_neg (by omega)).trans (if_pos (by omega)))))
  · subst hn hleft
    exact answers_changed (q := .deleteSpan c.val x0 x1) rfl rfl hr (congrArg now (sky_deleteSpan_inRange hh h0 h01 h1 c))

end Sys2Proof.Machine
end

section
/-! PROOFS. Append Segments (02 R27, R30: O22): the places checked, and the segments stamped one after another behind
the last one. -/

namespace Sys2Proof.Machine

/-! ## The places of an append (R30) -/

/-- Where the list stands before its place `i`, with `last` before its first (R30). -/
def endBehind (last : Option Int) (rs : List RawSegment) : Nat → Option Int
  | 0 => last
  | i + 1 => rs[i]?.map fun r => r.start + r.span

/-- The segment at place `i` starts at or after what stands before it. -/
def fitsBehind (last : Option Int) (rs : List RawSegment) (i : Nat) : Prop :=
  ∀ r x, rs[i]? = some r → endBehind last rs i = some x → x ≤ r.start

theorem placedAt_iff {c : Channel} {rs : List RawSegment} {i : Nat} : placedAt c rs i ↔ fitsBehind c.lastEnd rs i := by
  cases i <;> rfl

theorem fitsBehind_zero {last : Option Int} {r : RawSegment} {rs : List RawSegment} :
    fitsBehind last (r :: rs) 0 ↔ ∀ e, last = some e → e ≤ r.start :=
  ⟨fun h e he => h r e rfl he, fun h x e hx he => by cases hx; exact h e he⟩

theorem fitsBehind_succ {last : Option Int} {r : RawSegment} {rs : List RawSegment} {i : Nat} :
    fitsBehind last (r :: rs) (i + 1) ↔ fitsBehind (some (r.start + r.span)) rs i := by
  cases i <;> rfl

theorem firstMisplaced_fits {last : Option Int} {r : RawSegment} {rs : List RawSegment} (h : fitsBehind last (r :: rs) 0)
    (k : Nat) : firstMisplaced k last (r :: rs) = firstMisplaced (k + 1) (some (r.start + r.span)) rs := by
  cases last with
  | none => rfl
  | some e => exact if_neg (Int.not_lt.mpr (fitsBehind_zero.mp h e rfl))

theorem firstMisplaced_unfit {last : Option Int} {r : RawSegment} {rs : List RawSegment} (h : ¬ fitsBehind last (r :: rs) 0)
    (k : Nat) : firstMisplaced k last (r :: rs) = some k := by
  rw [fitsBehind_zero] at h
  push Not at h
  obtain ⟨e, rfl, hlt⟩ := h
  exact if_pos hlt

/-- The first misplaced segment, named by its place. -/
theorem firstMisplaced_at : ∀ {rs : List RawSegment} {last : Option Int} {i k : Nat}, i < rs.length →
    (∀ j, j < i → fitsBehind last rs j) → ¬ fitsBehind last rs i → firstMisplaced k last rs = some (k + i)
  | [], _, _, _, hi, _, _ => absurd hi (Nat.not_lt_zero _)
  | _ :: _, _, 0, k, _, _, hunfit => firstMisplaced_unfit hunfit k
  | r :: rs, last, i + 1, k, hi, hbefore, hunfit => by
    have hrest := firstMisplaced_at (k := k + 1) (Nat.lt_of_succ_lt_succ hi)
      (fun j hj => fitsBehind_succ.mp (hbefore (j + 1) (Nat.succ_lt_succ hj))) (mt fitsBehind_succ.mpr hunfit)
    rw [firstMisplaced_fits (hbefore 0 (Nat.succ_pos i)), hrest, Nat.add_assoc, Nat.add_comm 1]

theorem firstMisplaced_eq_none : ∀ {rs : List RawSegment} {last : Option Int},
    (∀ i, i < rs.length → fitsBehind last rs i) → ∀ k, firstMisplaced k last rs = none
  | [], _, _, _ => rfl
  | r :: rs, last, h, k => by
    rw [firstMisplaced_fits (h 0 (Nat.succ_pos _))]
    exact firstMisplaced_eq_none (fun i hi => fitsBehind_succ.mp (h (i + 1) (Nat.succ_lt_succ hi))) (k + 1)

/-! ## The stamps of an append (R27) -/

/-- The stamps that the store as it stands gives, one after another, from a value of the counter on. -/
def State.stampsFrom (s : State) : Nat → Nat → List Nat
  | 0, _ => []
  | m + 1, n => s.freeStamp 1024 n :: s.stampsFrom m (nextStamp (s.freeStamp 1024 n))

/-- The counter behind the stamps given. -/
def counterAfter (n : Nat) (stamps : List Nat) : Nat := (stamps.getLast?.map nextStamp).getD n

theorem counterAfter_cons (n k : Nat) (stamps : List Nat) :
    counterAfter n (k :: stamps) = counterAfter (nextStamp k) stamps := by
  rw [counterAfter, counterAfter, List.getLast?_cons]
  cases stamps.getLast? <;> rfl

@[simp] theorem State.stampsFrom_length (s : State) (m n : Nat) : (s.stampsFrom m n).length = m := by
  induction m generalizing n with
  | zero => rfl
  | succ m ih => simp [State.stampsFrom, ih]

theorem State.mem_stampsFrom {s : State} {m n x : Nat} (h : x ∈ s.stampsFrom m n) :
    ∃ i, i < 1025 * m ∧ x = nextStamp^[i] n := by
  induction m generalizing n with
  | zero => cases h
  | succ m ih =>
    obtain ⟨j, hj, hk⟩ := s.freeStamp_iterate 1024 n
    rcases List.mem_cons.mp h with rfl | h
    · exact ⟨j, by omega, hk⟩
    · obtain ⟨i, hi, rfl⟩ := ih h
      refine ⟨i + (j + 1), by omega, ?_⟩
      rw [hk, ← Function.iterate_succ_apply' nextStamp j n, ← Function.iterate_add_apply]

theorem State.stampsFrom_nodup (s : State) {m : Nat} (n : Nat) (h : 1025 * m ≤ 2 ^ 32) : (s.stampsFrom m n).Nodup := by
  induction m generalizing n with
  | zero => exact List.nodup_nil
  | succ m ih =>
    refine List.nodup_cons.mpr ⟨fun hmem => ?_, ih _ (by omega)⟩
    obtain ⟨i, hi, e⟩ := State.mem_stampsFrom hmem
    exact nextStamp_iterate_ne (s.freeStamp 1024 n) (Nat.succ_pos i) (by omega) e

/-- Each stamp behind the first is the one the counter gives, one past the stamp before it. -/
theorem State.stampsFrom_next {s : State} {m n i x y : Nat} (hx : (s.stampsFrom m n)[i]? = some x)
    (hy : (s.stampsFrom m n)[i + 1]? = some y) : y = s.freeStamp 1024 (nextStamp x) := by
  induction m generalizing n i with
  | zero => simp [State.stampsFrom] at hx
  | succ m ih =>
    rw [State.stampsFrom] at hx hy
    cases i with
    | zero =>
      obtain rfl : _ = x := by simpa using hx
      cases m with
      | zero => simp [State.stampsFrom] at hy
      | succ m => simpa [State.stampsFrom] using hy.symm
    | succ i => exact ih hx hy

/-- Each stamp behind the first is given by the counter as the store stands (R27). -/
theorem State.stampsFrom_gives {s : State} (h : s.segmentTotal < 1024) {m n i x y : Nat} (hx : (s.stampsFrom m n)[i]? = some x)
    (hy : (s.stampsFrom m n)[i + 1]? = some y) : s.givesStamp ((x + 1) % 2 ^ 32) y := by
  rw [State.stampsFrom_next hx hy]
  exact s.freeStamp_givesStamp 1024 _ (State.freeStamp_unused h _)

theorem State.stampsFrom_head {s : State} {m : Nat} (h : 1 ≤ m) (n : Nat) :
    (s.stampsFrom m n).head? = some (s.freeStamp 1024 n) := by
  obtain ⟨m, rfl⟩ := Nat.exists_eq_add_of_le' h
  rfl

theorem counterAfter_of_last {stamps : List Nat} {last : Nat} (h : stamps.getLast? = some last) (n : Nat) :
    counterAfter n stamps = (last + 1) % 2 ^ 32 := by
  rw [counterAfter, h]
  rfl

/-! ## The segments of an append -/

/-- A channel with segments behind its last one, and a value of the counter. -/
def State.appended (s : State) (c : ChannelId) (gs : List Segment) (n : Nat) : State :=
  { s.setChannel c { s.channel c with segments := (s.channel c).segments ++ gs } with stampCounter := n }

theorem State.setChannel_self (s : State) (c : ChannelId) : s.setChannel c (s.channel c) = s := by
  have hset : s.channels.set c s.channels[c] = s.channels := Vector.set_getElem_self c.isLt
  rw [State.setChannel, State.channel, hset]

theorem State.appended_nil (s : State) (c : ChannelId) : s.appended c [] s.stampCounter = s := by
  rw [State.appended, List.append_nil]
  exact s.setChannel_self c

theorem State.appended_channel (s : State) (c d : ChannelId) (gs : List Segment) (n : Nat) :
    (s.appended c gs n).channel d =
      if d = c then { s.channel c with segments := (s.channel c).segments ++ gs } else s.channel d :=
  s.setChannel_channel c d _

theorem mem_allChannels : ∀ c : ChannelId, c ∈ allChannels := by decide

theorem State.stampUsed_iff {s : State} {k : Nat} :
    s.stampUsed k = true ↔ ∃ c, ∃ g ∈ (s.channel c).segments, g.stamp = k := by
  simp [State.stampUsed, mem_allChannels]

/-- Stamps that none of the new segments holds are in use as they were. -/
theorem State.stampUsed_appended {s : State} {c : ChannelId} {gs : List Segment} {n k : Nat} (h : ∀ g ∈ gs, g.stamp ≠ k) :
    (s.appended c gs n).stampUsed k = s.stampUsed k := by
  rw [Bool.eq_iff_iff, State.stampUsed_iff, State.stampUsed_iff]
  refine exists_congr fun d => ?_
  rw [State.appended_channel]
  split
  next e =>
    subst e
    refine ⟨fun ⟨g, hg, hk⟩ => ?_, fun ⟨g, hg, hk⟩ => ⟨g, List.mem_append_left _ hg, hk⟩⟩
    exact (List.mem_append.mp hg).elim (fun hg => ⟨g, hg, hk⟩) fun hg => absurd hk (h g hg)
  next => rfl

theorem State.storeSegment_appended (s : State) (c : ChannelId) (gs : List Segment) (n : Nat) (r : RawSegment) :
    (s.appended c gs n).storeSegment c r (fun g l => l ++ [g]) =
      s.appended c (gs ++ [storedSegment r ((s.appended c gs n).freeStamp 1024 n)])
        (nextStamp ((s.appended c gs n).freeStamp 1024 n)) := by
  rw [State.storeSegment]
  simp only [State.appended_channel, if_true]
  simp [State.appended, State.setChannel, nextStamp]

/-- No segment of a list holds one of the next `d` values of the counter. -/
def aheadOf (gs : List Segment) (n d : Nat) : Prop := ∀ i, i < d → ∀ g ∈ gs, g.stamp ≠ nextStamp^[i] n

/-- The segments of an append, each with its stamp, where those stored just before it hold no value that the counter comes to. -/
theorem State.append_segments (s : State) (c : ChannelId) : ∀ (rs : List RawSegment) (gs : List Segment) (n : Nat),
    aheadOf gs n (1025 * rs.length) → 1025 * rs.length ≤ 2 ^ 32 →
    rs.foldl (fun s r => s.storeSegment c r fun g l => l ++ [g]) (s.appended c gs n) =
      s.appended c (gs ++ List.zipWith storedSegment rs (s.stampsFrom rs.length n)) (counterAfter n (s.stampsFrom rs.length n))
  | [], gs, n, _, _ => by simp [State.stampsFrom, counterAfter]
  | r :: rs, gs, n, hahead, hmax => by
    rw [List.length_cons] at hahead hmax
    obtain ⟨j, hj, hk⟩ := s.freeStamp_iterate 1024 n
    have hfree : (s.appended c gs n).freeStamp 1024 n = s.freeStamp 1024 n :=
      State.freeStamp_congr 1024 n fun i hi => State.stampUsed_appended (hahead i (by omega))
    have hnext : aheadOf (gs ++ [storedSegment r (s.freeStamp 1024 n)]) (nextStamp (s.freeStamp 1024 n)) (1025 * rs.length) := by
      intro i hi g hg
      rw [hk, ← Function.iterate_succ_apply' nextStamp j n, ← Function.iterate_add_apply]
      rcases List.mem_append.mp hg with hg | hg
      · exact hahead _ (by omega) g hg
      · obtain rfl := List.mem_singleton.mp hg
        show s.freeStamp 1024 n ≠ _
        rw [hk]
        exact nextStamp_iterate_ne n (by omega) (by omega)
    rw [List.foldl_cons, State.storeSegment_appended, hfree, State.append_segments s c rs _ _ hnext (by omega),
      List.length_cons, State.stampsFrom, counterAfter_cons, List.zipWith_cons_cons, List.append_assoc, List.singleton_append]

/-! ## The request -/

/-- A taken request finds the stamps to give as they were. -/
theorem State.stampsFrom_outstand (s : State) (p : Port) (tag code : Byte) (m n : Nat) :
    (s.outstand p tag code).stampsFrom m n = s.stampsFrom m n := by
  induction m generalizing n with
  | zero => rfl
  | succ m ih => rw [State.stampsFrom, State.stampsFrom, State.freeStamp_outstand, ih]

/-- Append Segments of a holder, of segments that pass every check, with room for them. -/
theorem sky_appendSegments_stored {s : State} {p : Port} (h : s.holds p .sky = true) {c : ChannelId} {rs : List RawSegment}
    (hpos : 1 ≤ rs.length) (hmax : rs.length ≤ 6) (hform : ∀ r ∈ rs, formedSegment r ∧ boundedSegment r)
    (hplaced : ∀ i, i < rs.length → placedAt (s.channel c) rs i)
    (hroom : (s.channel c).segments.length + rs.length ≤ 255) (hfree : rs.length ≤ s.freeSegments) :
    appendSegments p c.val rs s =
      answerData (beNat 4 (s.freeStamp 1024 s.stampCounter) ++ u8 ((s.channel c).segments.length + rs.length))
        ((s.appended c (List.zipWith storedSegment rs (s.stampsFrom rs.length s.stampCounter))
          (counterAfter s.stampCounter (s.stampsFrom rs.length s.stampCounter))).restartLease .sky) := by
  have hfault := firstFault_of_checked hform
  have hplace : firstMisplaced 0 (s.channel c).lastEnd rs = none :=
    firstMisplaced_eq_none (fun i hi => placedAt_iff.mp (hplaced i hi)) 0
  have hfits : ¬ (Config.channelMax < (s.channel c).segments.length + rs.length ∨ s.freeSegments < rs.length) :=
    not_or.mpr ⟨Nat.not_lt.mpr hroom, Nat.not_lt.mpr hfree⟩
  have hfold := s.append_segments c rs [] s.stampCounter (fun i hi g hg => by cases hg) (by omega)
  rw [State.appended_nil, List.nil_append] at hfold
  rw [sky_appendSegments h hpos hmax, hfault, hplace]
  simp only [if_neg hfits, hfold, State.appended_channel, if_true]
  simp

/-- Settles O22: the refusals in their order, and the stamps of `State.stampsFrom`. -/
theorem appendPlacesSegmentsBehindTheLast : Obligations.AppendPlacesSegmentsBehindTheLast := by
  intro s p tag c rs hr hs hpos hmax hform
  have hh := holds_outstand hs tag (requestByte (.appendSegments c.val rs))
  have hfault := firstFault_of_checked hform
  refine ⟨fun i hi hbefore hunfit => ?_, fun hplaced => ⟨fun hfull => ?_, fun hroom hfree => ?_⟩⟩
  · have hplace := firstMisplaced_at (k := 0) hi (fun j hj => placedAt_iff.mp (hbefore j hj)) (mt placedAt_iff.mpr hunfit)
    have he := sky_appendSegments hh hpos hmax c
    rw [hfault, State.channel_outstand, hplace, Nat.zero_add] at he
    exact answers_unchanged (q := .appendSegments c.val rs) rfl rfl hr (congrArg now he)
  · have hplace := firstMisplaced_eq_none (fun i hi => placedAt_iff.mp (hplaced i hi)) 0
    have he := sky_appendSegments hh hpos hmax c
    rw [hfault, State.channel_outstand, hplace] at he
    exact answers_unchanged (q := .appendSegments c.val rs) rfl rfl hr (congrArg now (he.trans (if_pos hfull)))
  · have htotal : s.segmentTotal < 1024 := by
      rw [State.freeSegments_eq] at hfree
      omega
    have he := sky_appendSegments_stored hh hpos hmax hform hplaced hroom hfree
    rw [State.channel_outstand, State.stampCounter_outstand, State.freeStamp_outstand, State.stampsFrom_outstand] at he
    have hlength := s.stampsFrom_length rs.length s.stampCounter
    have hnodup := s.stampsFrom_nodup s.stampCounter (show 1025 * rs.length ≤ 2 ^ 32 by omega)
    have hfirst := State.stampsFrom_head (s := s) hpos s.stampCounter
    have hnext (i x y : Nat) := State.stampsFrom_gives htotal (m := rs.length) (n := s.stampCounter) (i := i) (x := x) (y := y)
    have hgiven := s.freeStamp_givesStamp 1024 s.stampCounter (State.freeStamp_unused htotal _)
    obtain ⟨last, hlast⟩ : ∃ last, (s.stampsFrom rs.length s.stampCounter).getLast? = some last :=
      Option.isSome_iff_exists.mp (List.getLast?_isSome.mpr (List.ne_nil_of_length_pos (by omega)))
    rw [counterAfter_of_last hlast] at he
    generalize s.stampsFrom rs.length s.stampCounter = stamps at *
    generalize s.freeStamp 1024 s.stampCounter = first at *
    exact ⟨stamps, first, last, hlength, hnodup, hfirst, hlast, hgiven, hnext,
      answers_changed (q := .appendSegments c.val rs) rfl rfl hr (congrArg now he)⟩

end Sys2Proof.Machine
end

section
/-! PROOFS. The angle of a channel at an epoch (02 R37, R38: O26): the segment that covers it, and the values rounded once. -/

namespace Sys2Proof.Machine

/-! ## The segment that covers an epoch (R37) -/

theorem findSegment_eq_none {e : Int} : ∀ {l : List Segment}, (∀ g ∈ l, e < g.start ∨ g.stop ≤ e) → ∀ k, findSegment e k l = none
  | [], _, _ => rfl
  | x :: xs, h, k => by
    have hx := h x List.mem_cons_self
    rw [findSegment, if_neg (by omega)]
    exact findSegment_eq_none (fun g hg => h g (List.mem_cons_of_mem x hg)) (k + 1)

/-- Where none of the segments overlaps the next, the one that covers the epoch is the first found. -/
theorem findSegment_covers {e : Int} : ∀ {l : List Segment} {i k : Nat} {g : Segment},
    l.Pairwise (fun x y => x.stop ≤ y.start) → l[i]? = some g → g.start ≤ e → e < g.stop → findSegment e k l = some (k + i, g)
  | [], _, _, _, _, hg, _, _ => by simp at hg
  | x :: xs, 0, k, g, _, hg, hlo, hhi => by
    obtain rfl : x = g := by simpa using hg
    exact if_pos ⟨hlo, hhi⟩
  | x :: xs, i + 1, k, g, hpair, hg, hlo, hhi => by
    obtain ⟨hx, hxs⟩ := List.pairwise_cons.mp hpair
    have hafter : x.stop ≤ g.start := hx g (List.mem_of_getElem? hg)
    rw [findSegment, if_neg (by omega), findSegment_covers (k := k + 1) hxs hg hlo hhi, Nat.add_assoc, Nat.add_comm 1]

/-- No segment starts before the first one. -/
theorem Channel.start_le_of_head {c : Channel} (h : c.ordered) {first : Segment} (hfirst : c.segments.head? = some first) :
    ∀ g ∈ c.segments, first.start ≤ g.start := by
  obtain ⟨hpair, hspan⟩ := h
  obtain ⟨rest, hrest⟩ := List.head?_eq_some_iff.mp hfirst
  rw [hrest] at hpair hspan ⊢
  intro g hg
  rcases List.mem_cons.mp hg with rfl | hg
  · exact Int.le_refl _
  · have hafter := (List.pairwise_cons.mp hpair).1 g hg
    have hpos := hspan first List.mem_cons_self
    rw [Segment.stop_eq] at hafter
    omega

section Lookup

variable {c : Channel} {e : Int}

theorem Channel.lookup_disabled (h : c.enabled = false) : c.lookup e = .uncovered .disabled := by
  simp [Channel.lookup, h]

theorem Channel.lookup_empty (h : c.enabled = true) (hnil : c.segments = []) : c.lookup e = .uncovered .empty := by
  simp [Channel.lookup, h, hnil]

/-- The lookup in an enabled channel with segments. -/
theorem Channel.lookup_enabled (h : c.enabled = true) {first last : Segment} (hfirst : c.segments.head? = some first)
    (hlast : c.segments.getLast? = some last) : c.lookup e =
      (findSegment e 0 c.segments).elim (if e < first.start ∨ last.stop ≤ e then .uncovered .outside else .uncovered .gap)
        fun x => .covered x.1 x.2 c.kind := by
  unfold Channel.lookup
  rw [h, hfirst, Channel.lastEnd, hlast]
  cases findSegment e 0 c.segments <;> rfl

theorem Channel.lookup_covered (hord : c.ordered) (h : c.enabled = true) {i : Nat} {g : Segment}
    (hg : c.segments[i]? = some g) (hlo : g.start ≤ e) (hhi : e < g.stop) : c.lookup e = .covered i g c.kind := by
  have hne : c.segments ≠ [] := List.ne_nil_of_mem (List.mem_of_getElem? hg)
  rw [Channel.lookup_enabled h (List.head?_eq_some_head hne) (List.getLast?_eq_some_getLast hne),
    findSegment_covers hord.1 hg hlo hhi, Nat.zero_add]
  rfl

theorem Channel.lookup_outside (hord : c.ordered) (h : c.enabled = true) {first last : Segment}
    (hfirst : c.segments.head? = some first) (hlast : c.segments.getLast? = some last)
    (hout : e < first.start ∨ last.stop ≤ e) : c.lookup e = .uncovered .outside := by
  have hend : c.lastEnd = some last.stop := by rw [Channel.lastEnd, hlast]; rfl
  have hnone : findSegment e 0 c.segments = none := by
    refine findSegment_eq_none (fun g hg => ?_) 0
    have hstart := Channel.start_le_of_head hord hfirst g hg
    have hstop := Channel.stop_le_lastEnd hord hend g hg
    omega
  rw [Channel.lookup_enabled h hfirst hlast, hnone]
  exact if_pos hout

theorem Channel.lookup_gap (h : c.enabled = true) {first last : Segment} (hfirst : c.segments.head? = some first)
    (hlast : c.segments.getLast? = some last) (hlo : first.start ≤ e) (hhi : e < last.stop)
    (hgap : ∀ g ∈ c.segments, e < g.start ∨ g.stop ≤ e) : c.lookup e = .uncovered .gap := by
  rw [Channel.lookup_enabled h hfirst hlast, findSegment_eq_none hgap]
  exact if_neg (by omega)

end Lookup

/-! ## Angle and rate (R38) -/

theorem Segment.angle_spec (g : Segment) (e t d a2 : Int) (ht : t = e - g.start) (hd : d = 88473600) (ha : a2 = g.a2.getD 0) :
    2 * 2 ^ 16 * d * d * g.angle e - 2 ^ 16 * d * d ≤
        2 * ((g.a0 : Int) * 2 ^ 16 * d * d + g.a1 * t * 2 ^ 16 * d + a2 * t * t) ∧
      2 * ((g.a0 : Int) * 2 ^ 16 * d * d + g.a1 * t * 2 ^ 16 * d + a2 * t * t) <
        2 * 2 ^ 16 * d * d * g.angle e + 2 ^ 16 * d * d := by
  have hround := roundDiv_spec ((g.a0 : Int) * 2 ^ 16 * (d * d) + g.a1 * t * 2 ^ 16 * d + a2 * t * t) (2 ^ 16 * (d * d))
    (by rw [hd]; decide)
  have hangle : g.angle e =
      roundDiv ((g.a0 : Int) * 2 ^ 16 * (d * d) + g.a1 * t * 2 ^ 16 * d + a2 * t * t) (2 ^ 16 * (d * d)) := by
    rw [ht, hd, ha]
    rfl
  rw [hangle]
  exact ⟨by linarith [hround.1], by linarith [hround.2]⟩

theorem Segment.rateAt_spec (g : Segment) (e t d a2 : Int) (ht : t = e - g.start) (hd : d = 88473600) (ha : a2 = g.a2.getD 0) :
    2 * 2 ^ 16 * d * g.rateAt e - 2 ^ 16 * d ≤ 2 * (g.a1 * 2 ^ 16 * d + 2 * a2 * t) ∧
      2 * (g.a1 * 2 ^ 16 * d + 2 * a2 * t) < 2 * 2 ^ 16 * d * g.rateAt e + 2 ^ 16 * d := by
  have hround := roundDiv_spec (g.a1 * 2 ^ 16 * d + 2 * a2 * t) (2 ^ 16 * d) (by rw [hd]; decide)
  have hrate : g.rateAt e = roundDiv (g.a1 * 2 ^ 16 * d + 2 * a2 * t) (2 ^ 16 * d) := by
    rw [ht, hd, ha]
    rfl
  rw [hrate]
  exact ⟨by linarith [hround.1], by linarith [hround.2]⟩

theorem reduce_cyclic_spec (raw : Int) :
    0 ≤ reduce .cyclic raw ∧ reduce .cyclic raw < 2 ^ 32 ∧ ∃ k, reduce .cyclic raw = raw - k * 2 ^ 32 := by
  have hsplit := Int.emod_add_mul_ediv raw (2 ^ 32)
  exact ⟨Int.emod_nonneg raw (by decide), Int.emod_lt_of_pos raw (by decide), raw / 2 ^ 32,
    show raw % 2 ^ 32 = _ by omega⟩

theorem reduce_bounded_spec (raw : Int) :
    -(2 ^ 31) < reduce .bounded raw ∧ reduce .bounded raw ≤ 2 ^ 31 ∧ ∃ k, reduce .bounded raw = raw - k * 2 ^ 32 := by
  obtain ⟨hlo, hhi, j, hj⟩ := shortest_spec raw
  exact ⟨hlo, hhi, -j, show shortest raw = _ by omega⟩

/-- Settles O26: the lookup by its cases, `roundDiv_spec` at the exact angle and rate, and the two reductions. -/
theorem evaluationFindsItsSegmentAndRoundsOnce : Obligations.EvaluationFindsItsSegmentAndRoundsOnce := by
  refine ⟨fun c e hord => ⟨Channel.lookup_disabled, Channel.lookup_empty, fun i g h => Channel.lookup_covered hord h,
    fun first last h hfirst hlast => ⟨Channel.lookup_outside hord h hfirst hlast, Channel.lookup_gap h hfirst hlast⟩⟩,
    fun g e t d a2 ht hd ha => ?_, fun raw => ⟨reduce_cyclic_spec raw, reduce_bounded_spec raw⟩⟩
  obtain ⟨hangleLo, hangleHi⟩ := g.angle_spec e t d a2 ht hd ha
  exact ⟨hangleLo, hangleHi, g.rateAt_spec e t d a2 ht hd ha⟩

end Sys2Proof.Machine
end

section
/-! PROOFS. The evaluator (02 R40, R42, R44, 04 R75: O27): requests that join its list, the start of the oldest, and
its completion. -/

namespace Sys2Proof.Machine

/-! ## Query Angle (R44) -/

section Query

variable (s : State) (p : Port)

theorem queryAngle_unknown {n : Nat} (hn : 12 ≤ n) (form : Nat) (e : Int) :
    queryAngle p n form e s = (s, some (.no .badValue)) := by
  rw [queryAngle, channelOf_none hn]
  rfl

theorem queryAngle_channel (c : ChannelId) (form : Nat) (e : Int) : queryAngle p c.val form e s =
    if 1 < form then (s, some (.no .badValue))
    else if form = 0 ∧ (e < Config.epochMin ∨ Config.epochMax < e) then (s, some (.no .range))
    else ({ s with evals := s.evals ++ [{ who := .port p, channel := c, epoch := if form = 0 then some e else none }] },
      none) := by
  rw [queryAngle, channelOf_val]
  rfl

theorem queryAngle_badForm (c : ChannelId) {form : Nat} (h : 1 < form) (e : Int) :
    queryAngle p c.val form e s = (s, some (.no .badValue)) :=
  (queryAngle_channel s p c form e).trans (if_pos h)

theorem queryAngle_outOfRange (c : ChannelId) {e : Int} (h : e < -(2 ^ 50) ∨ 2 ^ 50 ≤ e) :
    queryAngle p c.val 0 e s = (s, some (.no .range)) := by
  have hmin : Config.epochMin = -(2 ^ 50) := rfl
  have hmax : Config.epochMax = 2 ^ 50 - 1 := rfl
  rw [queryAngle_channel, if_neg (by omega), if_pos ⟨rfl, by omega⟩]

theorem queryAngle_epoch (c : ChannelId) {e : Int} (hlo : -(2 ^ 50) ≤ e) (hhi : e < 2 ^ 50) :
    queryAngle p c.val 0 e s = ({ s with evals := s.evals ++ [{ who := .port p, channel := c, epoch := some e }] }, none) := by
  have hmin : Config.epochMin = -(2 ^ 50) := rfl
  have hmax : Config.epochMax = 2 ^ 50 - 1 := rfl
  rw [queryAngle_channel, if_neg (by omega), if_neg (by omega)]
  rfl

theorem queryAngle_current (c : ChannelId) (e : Int) :
    queryAngle p c.val 1 e s = ({ s with evals := s.evals ++ [{ who := .port p, channel := c, epoch := none }] }, none) := by
  rw [queryAngle_channel, if_neg (by omega), if_neg (by omega)]
  rfl

end Query

/-- A request taken that gets no reply yet. -/
theorem answers_unreplied {i : Instr} {q : Request} {p : Port} {tag : Byte} {s t : State} (h : i.request = some q)
    (h' : i.sender = some (p, tag)) (hr : s.ready p) (e : serve p q (s.outstand p tag (requestByte q)) = (t, none))
    (hq : s.Quiet → t.Quiet) : Answers i s t := by
  refine answers_of ?_ hq
  rw [exec_request h h']
  unfold onRequest State.accept State.take State.running
  rw [hr.1, hr.2, e]
  rfl

/-! ## The start of an evaluation (R42) -/

theorem State.startEvaluation_idle {s : State} (h : s.inFlight.isSome ∨ s.evals = []) : s.startEvaluation = s := by
  unfold State.startEvaluation
  rcases h with h | h
  · obtain ⟨f, hf⟩ := Option.isSome_iff_exists.mp h
    rw [hf]
  · rw [h]
    cases s.inFlight <;> rfl

theorem State.startEvaluation_oldest {s : State} {f : EvalRequest} {rest : List EvalRequest} (hfree : s.inFlight = none)
    (hlist : s.evals = f :: rest) : s.startEvaluation =
      { s.setChannel f.channel ((s.channel f.channel).noteGiven ((s.channel f.channel).lookup (f.epoch.getD s.clock.epoch))) with
        evals := rest
        inFlight := some { who := f.who, channel := f.channel, epoch := f.epoch.getD s.clock.epoch,
                           found := (s.channel f.channel).lookup (f.epoch.getD s.clock.epoch) } } := by
  unfold State.startEvaluation
  rw [hfree, hlist]

/-- What an evaluation is given leaves a mark on the channel's cursor alone. -/
theorem Channel.noteGiven_cursor (c : Channel) (l : Lookup) : c.noteGiven l = { c with cursor := (c.noteGiven l).cursor } := by
  cases l <;> rfl

/-! ## The completion (R42, R75) -/

theorem State.completeEvaluation_idle {s : State} (h : s.inFlight = none) : s.completeEvaluation = s := by
  rw [State.completeEvaluation, h]

theorem State.completeEvaluation_port {s : State} {f : InFlight} {r : Port} {tag code : Byte} (h : s.inFlight = some f)
    (hwho : f.who = .port r) (hreq : (s.port r).request = .outstanding tag code) : s.completeEvaluation =
      ({ s with inFlight := none } : State).modPort r fun q =>
        { q with reply := some { tag := tag, code := code, payload := [0, 255] ++ encResult f } } := by
  rw [State.completeEvaluation, h]
  simp only [hwho, State.deliverPort]
  rw [show (({ s with inFlight := none } : State).port r).request = .outstanding tag code from hreq]
  rfl

theorem State.completeEvaluation_discarded {s : State} {f : InFlight} {a : AxisId} {use : Purpose} (h : s.inFlight = some f)
    (hwho : f.who = .axis a use) (hdrop : (s.axis a).discard = true) : s.completeEvaluation =
      ({ s with inFlight := none } : State).modAxis a fun x => { x with discard := false } := by
  rw [State.completeEvaluation, h]
  simp only [hwho, State.deliverAxis]
  exact if_pos hdrop

/-- Settles O27: Query Angle by its fields, the start by what waits, the completion by who asked. -/
theorem evaluationsAreQueuedTakenAndDelivered : Obligations.EvaluationsAreQueuedTakenAndDelivered := by
  intro s p tag hrun
  have start {t : State} (e : s.startEvaluation = t) (hq : s.Quiet → t.Quiet) : Answers .evaluationStart s t :=
    answers_event (f := fun s => s.startEvaluation) rfl hrun e hq
  have complete {t : State} (e : s.completeEvaluation = t) (hq : s.Quiet → t.Quiet) : Answers .evaluationComplete s t :=
    answers_event (f := fun s => s.completeEvaluation) rfl hrun e hq
  refine ⟨fun hready => ⟨fun n form e hbad => ?_, fun c e => ⟨fun hout => ?_, fun hlo hhi => ?_, ?_⟩⟩,
    fun hidle => start (State.startEvaluation_idle hidle) id, fun f rest e hfree hlist he => ?_,
    fun hidle => complete (State.completeEvaluation_idle hidle) id, fun f r tag' code' hf hwho hreq => ?_,
    fun f a use hf hwho hdrop => ?_⟩
  · by_cases hn : n < 12
    · have hform : 1 < form := by omega
      exact answers_unchanged (q := .queryAngle n form e) rfl rfl ⟨hrun, hready⟩ (queryAngle_badForm _ p ⟨n, hn⟩ hform e)
    · exact answers_unchanged (q := .queryAngle n form e) rfl rfl ⟨hrun, hready⟩ (queryAngle_unknown _ p (by omega) form e)
  · exact answers_unchanged (q := .queryAngle c.val 0 e) rfl rfl ⟨hrun, hready⟩ (queryAngle_outOfRange _ p c hout)
  · exact answers_unreplied (q := .queryAngle c.val 0 e) rfl rfl ⟨hrun, hready⟩ (queryAngle_epoch _ p c hlo hhi)
      fun k => k.congr rfl rfl rfl rfl rfl
  · exact answers_unreplied (q := .queryAngle c.val 1 e) rfl rfl ⟨hrun, hready⟩ (queryAngle_current _ p c e)
      fun k => k.congr rfl rfl rfl rfl rfl
  · subst he
    exact ⟨_, Channel.noteGiven_cursor _ _, start (State.startEvaluation_oldest hfree hlist)
      fun k => k.congr rfl rfl rfl rfl rfl⟩
  · exact complete (State.completeEvaluation_port hf hwho hreq) fun k => k.congr rfl rfl rfl rfl rfl
  · rw [exec_event_running (f := fun s => s.completeEvaluation) rfl hrun, State.completeEvaluation_discarded hf hwho hdrop]

end Sys2Proof.Machine
end

section
/-! PROOFS. The bytes of the replies (10 R193, R201, Tables 10-2, 10-8 and 10-11; O9): each field encoding lays its items. -/

namespace Sys2Proof.Machine

/-! ## One item (R193) -/

/-- The most significant byte first. -/
theorem laid_succ (k : Nat) (i : Int) : laid [(k + 1, i)] = BitVec.ofInt 8 (i / (256 ^ k : Nat)) :: laid [(k, i)] := by
  simp [laid, List.range_succ]

theorem beNat_laid (k n : Nat) : beNat k n = laid [(k, (n : Int))] := by
  induction k with
  | zero => rfl
  | succ k ih =>
    rw [laid_succ, beNat, ih, ← Int.natCast_ediv, BitVec.ofInt_natCast]

/-- Two's complement: whole turns of the bytes do not show. -/
theorem laid_add_mul {k m : Nat} (h : k ≤ m) (i q : Int) : laid [(k, i + (256 ^ m : Nat) * q)] = laid [(k, i)] := by
  induction k with
  | zero => rfl
  | succ k ih =>
    obtain ⟨d, rfl⟩ : ∃ d, m = k + (d + 1) := ⟨m - k - 1, by omega⟩
    have hpos : ((256 ^ k : Nat) : Int) ≠ 0 := by positivity
    have hturn : ((256 ^ (k + (d + 1)) : Nat) : Int) * q = (256 ^ k : Nat) * ((256 ^ d : Nat) * q * 2 ^ 8) := by
      push_cast
      ring
    rw [laid_succ, laid_succ, ih (by omega), hturn, Int.add_mul_ediv_left _ _ hpos]
    congr 1
    apply BitVec.eq_of_toNat_eq
    rw [BitVec.toNat_ofInt, BitVec.toNat_ofInt]
    congr 1
    exact Int.add_mul_emod_self_right _ _ _

theorem beInt_laid (k : Nat) (i : Int) : beInt k i = laid [(k, i)] := by
  have hpos : ((256 ^ k : Nat) : Int) ≠ 0 := by positivity
  have hsplit : i = i % (256 ^ k : Nat) + (256 ^ k : Nat) * (i / (256 ^ k : Nat)) := (Int.emod_add_mul_ediv i _).symm
  have hnonneg : ((i % (256 ^ k : Nat)).toNat : Int) = i % (256 ^ k : Nat) := Int.toNat_of_nonneg (Int.emod_nonneg i hpos)
  calc beInt k i = laid [(k, ((i % (256 ^ k : Nat)).toNat : Int))] := beNat_laid _ _
    _ = laid [(k, i % (256 ^ k : Nat))] := by rw [hnonneg]
    _ = laid [(k, i)] := by conv_rhs => rw [hsplit, laid_add_mul (Nat.le_refl k)]

@[simp] theorem beInt_natCast (k n : Nat) : beInt k n = beNat k n := by rw [beInt_laid, beNat_laid]

@[simp] theorem u8_eq : u8 = beNat 1 := by
  funext n
  simp [u8, beNat]

@[simp] theorem encEpoch_eq : encEpoch = beInt 7 := rfl

@[simp] theorem encRate_eq : encRate = beInt 5 := rfl

@[simp] theorem encCeiling_eq (o : Option Nat) : encCeiling o = beNat 5 (o.getD 0) := beInt_natCast _ _

@[simp] theorem encFlag_eq (b : Bool) : encFlag b = beNat 1 (if b then 1 else 0) := congrFun u8_eq _

@[simp] theorem encIndexOpt_eq (n : Option Nat) : encIndexOpt n = beNat 1 (n.getD 255) := congrFun u8_eq _

@[simp] theorem encWords_eq (w : Int × Int) : encWords w = beInt 4 w.1 ++ beInt 4 w.2 := rfl

/-- A number of one byte in a longer field stands behind bytes of 0. -/
theorem beNat_of_lt {n : Nat} (h : n < 256) (k : Nat) : beNat (k + 1) n = List.replicate k 0 ++ beNat 1 n := by
  induction k with
  | zero => rfl
  | succ k ih =>
    have hzero : n / 256 ^ (k + 1) = 0 :=
      Nat.div_eq_of_lt (Nat.lt_of_lt_of_le h (by rw [Nat.pow_succ]; exact Nat.le_mul_of_pos_left _ (Nat.pow_pos (by decide))))
    rw [beNat, hzero, ih]
    rfl

theorem beNat_zero (k : Nat) : beNat k 0 = List.replicate k 0 := by
  induction k with
  | zero => rfl
  | succ k ih =>
    rw [beNat, Nat.zero_div, ih]
    rfl

/-! ## Items by their kind

Each lays the field of its encoding before what follows. -/

@[simp] theorem laid_natItem (k n : Nat) (l : List (Nat × Int)) : laid (natItem k n :: l) = beNat k n ++ laid l := by
  rw [laid_cons, beNat_laid]
  rfl

@[simp] theorem laid_intItem (k : Nat) (i : Int) (l : List (Nat × Int)) : laid (intItem k i :: l) = beInt k i ++ laid l := by
  rw [laid_cons, beInt_laid]
  rfl

@[simp] theorem laid_flagItem (b : Bool) (l : List (Nat × Int)) :
    laid (flagItem b :: l) = beNat 1 (if b then 1 else 0) ++ laid l := laid_natItem _ _ _

@[simp] theorem flagItem_not (b : Bool) : flagItem (!b) = natItem 1 (if b then 0 else 1) := by cases b <;> rfl

@[simp] theorem laid_indexItem (n : Option Nat) (l : List (Nat × Int)) :
    laid (indexItem n :: l) = beNat 1 (n.getD 255) ++ laid l := laid_natItem _ _ _

@[simp] theorem laid_portItem (p : Port) (l : List (Nat × Int)) :
    laid (portItem p :: l) = beNat 1 (encPort p) ++ laid l := laid_natItem _ _ _

@[simp] theorem laid_wordItems (w : Int × Int) : laid (wordItems w) = beInt 4 w.1 ++ beInt 4 w.2 := by
  rw [wordItems, laid_intItem, laid_intItem, laid_nil, List.append_nil]

@[simp] theorem laid_angleItems (i : Int) : laid (angleItems i) = encAngle i := by
  have hnonneg : ((i % 2 ^ 32).toNat : Int) = i % 2 ^ 32 := Int.toNat_of_nonneg (Int.emod_nonneg i (by decide))
  rw [angleItems, laid_intItem, encAngle, beNat_laid, show i.emod (2 ^ 32) = i % 2 ^ 32 from rfl, hnonneg]
  rfl

@[simp] theorem laid_optItems {α : Type} (k : Nat) (f : α → List (Nat × Int)) (o : Option α) :
    laid (optItems k f o) = encOpt k (fun x => laid (f x)) o := by
  cases o with
  | some x => rw [laid_optItems_some, encOpt, u8_eq, beNat_laid]; rfl
  | none =>
    rw [laid_optItems_none, encOpt, u8_eq, beNat_laid, ← beNat_zero, beNat_laid]
    rfl

@[simp] theorem laid_list {α : Type} (f : α → List (Nat × Int)) (l : List α) :
    laid (listItems f l) = encList (fun x => laid (f x)) l := by
  rw [laid_listItems, encList, u8_eq, beNat_laid]
  rfl

@[simp] theorem encPortOpt_eq (p : Option Port) : encPortOpt p = encOpt 1 (fun q => beNat 1 (encPort q)) p := by
  rw [encPortOpt, u8_eq]

@[simp] theorem laid_portOptItems (p : Option Port) : laid (portOptItems p) = encOpt 1 (fun q => beNat 1 (encPort q)) p := by
  simp [portOptItems]

end Sys2Proof.Machine
end

section
/-! PROOFS. The layouts of the replies (10 R193, R201, Tables 10-2, 10-8 and 10-11; O9): each reply's bytes as its table
lists them. -/

namespace Sys2Proof.Machine

/-! ## Clock, marks and axis records (01 R3, R24, 03 R46) -/

theorem encClock_laid (s : State) : encClock s = laid s.clockItems := by
  unfold encClock State.clockItems
  cases h : s.clock.resumeTo <;> simp [laid_append, h]

theorem encMark_laid (m : Mark) : encMark m = laid m.items := by
  unfold encMark Mark.items
  simp

theorem encRecord_laid (r : AxisRecord) : encRecord r = laid r.items := by
  unfold encRecord AxisRecord.items
  cases r.kind <;> rcases r.wrap with _ | _ | _ | _ <;> simp [laid_append]

/-! ## The state of an axis (04 R64, R96) -/

theorem encTracking_laid (x : Axis) (t : Tracking) : x.encTracking t = laid (t.items x) := by
  unfold Axis.encTracking Tracking.items
  simp [laid_append]

theorem encStagedAt_laid (y : StagedAt) : encStagedAt y = laid y.items := by
  unfold encStagedAt StagedAt.items
  simp [laid_append]

theorem encFault_laid (f : FaultRecord) : encFault f = laid f.items := by
  unfold encFault FaultRecord.items
  cases f.first <;> simp [laid_append]

theorem encHoming_laid (x : Axis) (h : Homing) : x.encHoming h = laid (h.items x) := by
  unfold Axis.encHoming Homing.items
  cases h.phase <;> cases h.starter <;> simp [laid_append]

theorem Axis.targetSteps_eq (x : Axis) :
    x.targetSteps = x.tracking.elim (x.target.map Target.position) fun t => some t.target := by
  unfold Axis.targetSteps
  cases x.tracking <;> cases x.target <;> rfl

theorem encStopping_laid (r : Stopping) : encStopping r =
    laid [natItem 4 (r.decel.getD 0), natItem 1 (match r.rest with | .standing => 0 | .unreferenced => 1)] := by
  unfold encStopping
  cases r.rest <;> simp

/-- A stage pending with its owner. -/
theorem encStage_laid (st : StagePending) : encEpoch st.epoch ++ encStageOwner st.owner =
    laid (intItem 7 st.epoch ::
      match st.owner with | .single => [natItem 1 0, natItem 1 0] | .group g => [natItem 1 1, natItem 1 g.val]) := by
  cases st.owner <;> simp [encStageOwner]

theorem encState_laid (x : Axis) : x.encState = laid x.items := by
  unfold Axis.encState Axis.items Axis.activeMemory
  simp only [encStage_laid, funext encStopping_laid, funext (encTracking_laid x), funext encStagedAt_laid, encFault_laid,
    funext (encHoming_laid x), Axis.targetSteps_eq]
  rcases x.limitMemory with _ | _ | _ <;> simp [laid_append, encDirOpt, encSideOpt] <;> rfl

/-! ## Groups and claims (04 R86, 06 R113, R115) -/

theorem encOutcome_laid (o : MemberOutcome) : encOutcome o = laid o.items := by
  cases o <;> simp [encOutcome, MemberOutcome.items, MemberOutcome.code, encOpt, beNat]

theorem encMotion_laid (m : GroupMotion) : encMotion m = laid m.items := by
  unfold encMotion GroupMotion.items
  simp [laid_append, encOutcome_laid]

theorem encLeaseLength_laid (c : ClaimEntry) (l : List (Nat × Int)) :
    laid (c.lengthItem :: l) = encLeaseLength c ++ laid l := by
  unfold encLeaseLength ClaimEntry.lengthItem
  cases c.holder.bind Holder.lease <;> simp

theorem encWaiter_laid (w : Waiter) : encWaiter w = laid [portItem w.port, natItem 1 w.standing] := by
  simp [encWaiter]

theorem encWaiting_laid (c : ClaimEntry) : laid c.waitItems = encList encWaiter c.waiting := by
  rw [ClaimEntry.waitItems, laid_list, funext encWaiter_laid]

theorem encEntry_laid (c : ClaimEntry) : encEntry c = laid c.items := by
  unfold encEntry ClaimEntry.items
  simp [laid_append, encLeaseLength_laid, encWaiting_laid]

theorem encClaimed_laid (r : Resource) (c : ClaimEntry) : encClaimed r c = laid (c.claimedItems r) := by
  unfold encClaimed ClaimEntry.claimedItems
  simp [laid_append, encLeaseLength_laid, encWaiting_laid]

/-! ## Runners and cues (07 R130, R136) -/

theorem encRunner_laid (s : State) (x : Runner) : encRunner s x = laid (x.items s) := by
  unfold encRunner Runner.items
  cases x.state with
  | idle => simp [laid_append, encOpt, beNat_zero, completionRoom]
  | waitingTrigger => simp [laid_append, encOpt, beNat_zero, completionRoom]
  | waitingCompletion => simp [laid_append, encOpt, beNat_zero, completionRoom]
  | suspended c => cases c <;> simp [laid_append, encOpt, beNat_zero, completionRoom]
  | faulted c i => simp [laid_append, encOpt, beNat_zero, completionRoom]

theorem encParams_laid (a : CueAction) : a.encParams = laid a.items := by
  cases a <;> simp [CueAction.encParams, CueAction.items]

theorem byte_beNat (b : Byte) : [b] = beNat 1 b.toNat := by
  rw [← u8_eq, u8, BitVec.ofNat_toNat, BitVec.setWidth_eq]

theorem encCue_laid (i : Nat) (c : Cue) : u8 i ++ encCue c = laid (c.items i) := by
  unfold encCue Cue.items
  rw [byte_beNat]
  simp [encParams_laid]

/-! ## Links and captures (08) -/

/-- A form byte with an index of one byte in a longer field (log 14). -/
theorem form_laid (form k : Nat) {n : Nat} (h : n < 256) :
    u8 form ++ List.replicate k 0 ++ u8 n = laid [natItem 1 form, natItem (k + 1) n] := by
  simp [beNat_of_lt h k]

theorem encPort_lt (p : Port) : encPort p < 256 := by cases p <;> decide

theorem fin_lt_byte {m : Nat} (i : Fin m) (h : m ≤ 256) : i.val < 256 := Nat.lt_of_lt_of_le i.isLt h

theorem encSource_laid (x : Source) : encSource x = laid x.items := by
  cases x with
  | mark m => exact form_laid 0 1 (fin_lt_byte m (by decide))
  | trig t e => simp [encSource, Source.items]
  | axisArrived a => exact form_laid 2 1 (fin_lt_byte a (by decide))
  | axisHomed a => exact form_laid 3 1 (fin_lt_byte a (by decide))
  | axisFault a => exact form_laid 4 1 (fin_lt_byte a (by decide))
  | groupArrived g => exact form_laid 5 1 (fin_lt_byte g (by decide))
  | runnerNote r => exact form_laid 6 1 (encPort_lt r)
  | clockSettled => exact form_laid 7 1 (by decide)
  | timebaseLost => exact form_laid 8 1 (by decide)
  | clockRange => exact form_laid 9 1 (by decide)

theorem encDest_laid (x : Dest) : encDest x = laid x.items := by
  cases x with
  | runnerLink r => exact form_laid 0 4 (encPort_lt r)
  | runnerStart r i => simp [encDest, Dest.items, beNat_of_lt (encPort_lt r) 3]
  | outputPulse o w => simp [encDest, Dest.items]
  | outputSet o => exact form_laid 3 4 (fin_lt_byte o (by decide))
  | outputClear o => exact form_laid 4 4 (fin_lt_byte o (by decide))
  | capture => exact form_laid 5 4 (n := 0) (by decide)
  | clockHalt => exact form_laid 6 4 (n := 0) (by decide)

theorem encLink_laid (x : Link) : encLink x = laid x.items := by
  unfold encLink Link.items
  rw [funext encSource_laid, funext encDest_laid]
  cases x.lastStart <;> simp [laid_append, StartOutcome.code]

theorem encCapture_laid (c : Capture) : encCapture c = laid c.items := by
  unfold encCapture Capture.items
  simp [laid_append, encSource_laid, laid_flatMap, funext encWords_eq]

/-! ## The start record and snapshots (10 R203, 11 R212) -/

theorem encStart_laid (r : StartRecord) : encStart r = laid r.items := by
  unfold encStart StartRecord.items
  simp [allPorts]

theorem bit_cast (b : Bool) (n : Nat) : ((bit b n : Nat) : Int) = if b then 2 ^ n else 0 := by
  cases b <;> simp [bit]

theorem snapFlags_cast (x : Axis) : (x.snapFlags : Int) =
    (if x.known then 1 else 0) + (if x.locked then 2 else 0) + (if (x.tracking.map Tracking.lagging).getD false then 4 else 0) +
      (if (x.tracking.map Tracking.clamped).getD false then 8 else 0) +
      (if (x.tracking.map Tracking.uncovered).getD false then 16 else 0) +
      (if (x.tracking.map Tracking.settled).getD false then 32 else 0) + (if x.resumeMark then 64 else 0) := by
  unfold Axis.snapFlags
  cases x.tracking <;> simp [bit_cast]

theorem beInt_zero (k : Nat) : beInt k 0 = List.replicate k 0 := (beInt_natCast k 0).trans (beNat_zero k)

theorem encSnap_laid (x : Axis) : x.encSnap = laid x.snapItems := by
  unfold Axis.encSnap Axis.snapItems Axis.snapped
  dsimp only
  rw [← snapFlags_cast]
  split_ifs
  · simp [beInt_zero]
  · simp

theorem snapshotLines_cast (s : State) :
    ((bit s.haltAsserted 0 + bit s.drivePresent 1 + bit s.faultOut 2 : Nat) : Int) =
      (if s.power.halt.accepted then 1 else 0) + (if decide (s.power.state = .present) then 2 else 0) +
        (if s.faultOut then 4 else 0) := by
  simp [bit_cast, State.haltAsserted, State.drivePresent]

theorem snapshotBytes_laid (s : State) (n : Nat) : s.snapshotBytes n = laid (s.snapshotItems n) := by
  unfold State.snapshotBytes State.snapshotItems
  dsimp only
  rw [← snapshotLines_cast]
  generalize bit s.haltAsserted 0 + bit s.drivePresent 1 + bit s.faultOut 2 = lines
  simp [laid_flatMap, encSnap_laid]

theorem encResult_laid (f : InFlight) : encResult f = laid f.items := by
  unfold encResult InFlight.items
  cases f.result with
  | error r => simp [encOpt, beNat_zero]
  | ok c => simp [encOpt, beNat_zero, laid_append]

end Sys2Proof.Machine
end

section
/-! PROOFS. The reads of Table 10-4 (O9): what each answers, past its index, and what those that clear leave. -/

namespace Sys2Proof.Machine

/-! ## The port of a taken request -/

section Port

variable (s : State) (p q : Port) (tag code : Byte)

theorem State.outstand_port : (s.outstand p tag code).port q =
    { s.port q with request := if q = p then .outstanding tag code else (s.port q).request } := by
  unfold State.outstand
  rw [State.modPort_port]
  split <;> rfl

theorem State.outstand_standing : ((s.outstand p tag code).port q).standing = (s.port q).standing := by
  rw [State.outstand_port]

theorem State.outstand_listed : ((s.outstand p tag code).port q).listed = (s.port q).listed := by
  rw [State.outstand_port]
  rfl

theorem State.outstand_snapNumber : ((s.outstand p tag code).port q).snapNumber = (s.port q).snapNumber := by
  rw [State.outstand_port]

end Port

/-- A change of a port that leaves its request alone passes by the taking of a request. -/
theorem State.modPort_outstand {s : State} {p q : Port} {tag code : Byte} {f : PortState → PortState}
    (h : ∀ x, f { x with request := .outstanding tag code } = { f x with request := .outstanding tag code }) :
    (s.outstand p tag code).modPort q f = (s.modPort q f).outstand p tag code :=
  (modPort_comm (f := f) h s q p).symm

/-! ## Reads of an item by its number -/

section Reads

variable (s : State)

theorem readPortStatus_unknown {n : Nat} (h : 3 ≤ n) : readPortStatus n s = refuse .badValue s := by
  rw [readPortStatus, portOf_none h]

theorem readPortStatus_port (r : Port) :
    readPortStatus (encPort r) s = answerData (encPortStatus s r (s.port r)) (s.modPort r PortState.zeroed) := by
  rw [readPortStatus, portOf_encPort]

theorem readChannel_unknown {n : Nat} (h : 12 ≤ n) : readChannel n s = refuse .badValue s := by
  rw [readChannel, channelOf_none h]

theorem readChannel_channel (c : ChannelId) : readChannel c.val s = answerData
    (u8 (s.channel c).kind.code ++ encFlag (s.channel c).enabled ++ u8 (s.channel c).segments.length ++
      encOpt 7 encEpoch ((s.channel c).segments.head?.map (·.start)) ++ encOpt 7 encEpoch (s.channel c).lastEnd ++
      encList (fun a : AxisId => u8 a.val) (s.boundAxes c)) s := by
  rw [readChannel, channelOf_val]

theorem readSegment_unknown {n : Nat} (h : 12 ≤ n) (m : Nat) : readSegment n m s = refuse .badValue s := by
  rw [readSegment, channelOf_none h]

theorem readSegment_some {c : ChannelId} {n : Nat} {g : Segment} (h : (s.channel c).segments[n]? = some g) :
    readSegment c.val n s = answerData (encSegment g) s := by
  rw [readSegment, channelOf_val]
  simp only [h]

theorem readSegment_none {c : ChannelId} {n : Nat} (h : (s.channel c).segments.length ≤ n) :
    readSegment c.val n s = refuse .range s := by
  rw [readSegment, channelOf_val]
  simp only [List.getElem?_eq_none h]

theorem readAxisRecord_unknown {n : Nat} (h : 16 ≤ n) : readAxisRecord n s = refuse .badValue s := by
  rw [readAxisRecord, axisOf_none h]

/-- The lock origin as Read Axis Record codes it. -/
def LockOrigin.place : LockOrigin → Nat
  | .byRequest => 0
  | .keptAtLineReset => 1

theorem readAxisRecord_axis (a : AxisId) : readAxisRecord a.val s = answerData
    (encRecord (s.axis a).record ++ u8 (s.axis a).state.code ++ encFlag (s.axis a).locked ++ encFlag (s.axis a).known ++
      encOpt 1 (fun o : LockOrigin => u8 o.place) (s.axis a).lockOrigin ++ encWords (s.axis a).words) s := by
  rw [readAxisRecord, axisOf_val]
  rfl

theorem readAxisState_unknown {n : Nat} (h : 16 ≤ n) : readAxisState n s = refuse .badValue s := by
  rw [readAxisState, axisOf_none h]

theorem readAxisState_axis (a : AxisId) : readAxisState a.val s = answerData (s.axis a).encState s := by
  rw [readAxisState, axisOf_val]

theorem readGroup_unknown {n : Nat} (h : 8 ≤ n) : readGroup n s = refuse .badValue s := by
  rw [readGroup, groupIdOf_none h]

theorem readGroup_group (g : GroupId) : readGroup g.val s = answerData
    (encList (fun a : AxisId => u8 a.val ++ u8 (s.axis a).state.code ++ encIndexOpt ((s.axis a).record.binding.map Fin.val))
        (s.membersOf g) ++ encPortOpt (s.holderOf (.group g))) s := by
  rw [readGroup, groupIdOf_val]

theorem readGroupMotion_unknown {n : Nat} (h : 8 ≤ n) : readGroupMotion n s = refuse .badValue s := by
  rw [readGroupMotion, groupIdOf_none h]

theorem readGroupMotion_group (g : GroupId) : readGroupMotion g.val s = answerData (encOpt 18 encMotion s.motions[g]) s := by
  rw [readGroupMotion, groupIdOf_val]

theorem readProgram_unknown {n : Nat} (h : 16 ≤ n) (m : Nat) : readProgram n m s = refuse .badValue s := by
  rw [readProgram, programOf_none h]

theorem readRunner_unknown {n : Nat} (h : 3 ≤ n) : readRunner n s = refuse .badValue s := by
  rw [readRunner, portOf_none h]

theorem readRunner_port (r : Port) : readRunner (encPort r) s = answerData (encRunner s (s.runner r)) s := by
  rw [readRunner, portOf_encPort]

theorem readLink_unknown {n : Nat} (h : 24 ≤ n) : readLink n s = refuse .badValue s := by
  rw [readLink, linkOf_none h]

theorem readLink_link (l : LinkId) :
    readLink l.val s = answerData (encLink (s.link l)) (s.setLink l { s.link l with arrivals := 0 }) := by
  rw [readLink, linkOf_val]

/-- Read Program at a cue it holds, or at the start of any program (R130). -/
theorem readProgram_program {i : ProgramId} {n : Nat} (h : n < (s.program i).cues.length ∨ n = 0) :
    readProgram i.val n s = answerData
      (u8 (s.program i).state.code ++ encPortOpt (s.program i).opener ++ beNat 2 (s.program i).requirement.toNat ++
        u8 (s.program i).cues.length ++ encPortOpt (s.program i).inUse ++ beNat 2 s.freeCues ++
        encList id (cuesFrom 8 227 n ((s.program i).cues.drop n))) s := by
  have hpresence (o : Option Port) : (encPortOpt o).length = 2 := by cases o <;> rfl
  have hin : ¬ ((s.program i).cues.length ≤ n ∧ ¬ (n = 0 ∧ (s.program i).cues = [])) := by
    rintro ⟨hlen, hne⟩
    rcases h with h | rfl
    · omega
    · exact hne ⟨rfl, List.length_eq_zero_iff.mp (Nat.le_zero.mp hlen)⟩
  rw [readProgram, programOf_val]
  simp only [if_neg hin]
  simp only [List.length_append, hpresence, beNat_length, u8, List.length_singleton, Config.payloadMax]

theorem readProgram_past {i : ProgramId} {m : Nat} (h : (s.program i).cues.length ≤ m) (hm : m ≠ 0) :
    readProgram i.val m s = refuse .range s := by
  rw [readProgram, programOf_val]
  exact if_pos ⟨h, fun h => hm h.1⟩

end Reads

/-! ## Port status and notices (R198, R208) -/

theorem encPortStatus_outstand {s : State} (h : s.phase = .running) (p r : Port) (tag code : Byte) :
    encPortStatus (s.outstand p tag code) r ((s.outstand p tag code).port r) =
      u8 (s.port r).standing ++ beNat 3 s.startRecord.bitRate ++
        u8 (if r = p then 1 else (s.port r).request.code) ++ beNat 2 (s.port r).reportRate ++ beNat 2 (s.port r).snapNumber ++
        beNat 4 (s.port r).mask.toNat ++ u8 ((allKinds.filter fun k => (s.port r).notices[k.idx].isSome).length) ++
        encFlag (allKinds.any fun k => (s.port r).notices[k.idx].isSome && !(s.port r).mask.getLsbD k.idx.val) ++
        u8 (s.port r).discarded ++ u8 (s.port r).busyCount ++ u8 (s.port r).shortDiscards ++ u8 (s.port r).skipped := by
  have hattn : (s.outstand p tag code).attn r =
      allKinds.any fun k => (s.port r).notices[k.idx].isSome && !(s.port r).mask.getLsbD k.idx.val := by
    unfold State.attn
    rw [show (s.outstand p tag code).phase = .running from h,
      show (s.outstand p tag code).ports.get r = _ from s.outstand_port p r tag code]
    rfl
  have hrequest : (if r = p then RequestState.outstanding tag code else (s.port r).request).code =
      if r = p then 1 else (s.port r).request.code := by
    split <;> rfl
  unfold encPortStatus
  rw [hattn, State.outstand_port]
  simp only [hrequest]
  rfl

/-- The entries outside the mask leave, one kind after another. -/
theorem fetch_fold (l : List NoticeKind) (q : PortState) :
    l.foldl (fun (q : PortState) k => if q.mask.getLsbD k.idx.val then q else { q with notices := q.notices.set k.idx none }) q =
      { q with notices := Vector.ofFn fun j : Fin 25 =>
          if q.mask.getLsbD j.val = true ∨ j ∉ l.map NoticeKind.idx then q.notices[j] else none } := by
  induction l generalizing q with
  | nil => simp
  | cons k l ih =>
    rw [List.foldl_cons, ih]
    split
    next hk =>
      congr 2
      funext j
      by_cases hj : j = k.idx
      · subst hj
        simp [hk]
      · simp [hj]
    next hk =>
      dsimp only
      congr 2
      funext j
      by_cases hj : j = k.idx
      · subst hj
        simp [hk]
      · have hne : k.idx.val ≠ j.val := fun e => hj (Fin.ext e.symm)
        simp [hj, hne]

theorem fetched_eq (q : PortState) : q.fetched =
    { q with notices := Vector.ofFn fun k : Fin 25 => if q.mask.getLsbD k.val then q.notices[k] else none } := by
  have hall : ∀ j : Fin 25, j ∈ allKinds.map NoticeKind.idx := by decide
  rw [PortState.fetched, fetch_fold]
  simp only [hall, not_true_eq_false, or_false]

end Sys2Proof.Machine
end

section
/-! PROOFS. The reads of Table 10-4 settled (O9): the reads that change nothing, those that clear what they report,
and the layouts. -/

namespace Sys2Proof.Machine

/-! ## Reads that change nothing -/

section Unchanged

variable {s : State} {p : Port} {tag : Byte} (hr : s.ready p)
include hr

theorem answers_identify : Answers (.identify p tag) s (s.replied p tag 1 (.okData
    ([72, 71, 50, 52, 49, 54, 16, 12, 4, 0, 16, 1, 0, 24, 4] ++ u8 (encPort p) ++ u8 (s.port p).standing))) := by
  refine answers_unchanged (q := .identify) rfl rfl hr (congrArg now (?_ : _ = answerData _ _))
  rw [identify, State.outstand_standing]
  rfl

theorem answers_readClaims : Answers (.readClaims p tag) s (s.replied p tag 80 (.okData
    (allResources.flatMap (fun r => encEntry (s.claim r)) ++ u8 (s.port p).standing))) := by
  refine answers_unchanged (q := .readClaims) rfl rfl hr (congrArg now (?_ : _ = answerData _ _))
  rw [readClaims, State.outstand_standing]
  rfl

end Unchanged

/-! ## Reads that clear what they report -/

section Clearing

variable {s : State} {p : Port} {tag : Byte} (hr : s.ready p)
include hr

theorem answers_readCapture : Answers (.readCapture p tag) s
    (({ s with captures := { s.captures with records := s.captures.records.tail, overruns := 0 } } : State).replied p tag 133
      (.okData (encOpt 163 encCapture s.captures.records.head? ++ u8 (s.captures.records.length - 1) ++
        beNat 2 s.captures.next ++ u8 s.captures.overruns))) := by
  rw [← List.length_tail]
  exact answers_changed (q := .readCapture) rfl rfl hr rfl

theorem answers_readPortStatus (r : Port) : Answers (.readPortStatus p tag (encPort r)) s
    ((s.modPort r fun q => { q with discarded := 0, busyCount := 0, shortDiscards := 0, skipped := 0 }).replied p tag 4
      (.okData (u8 (s.port r).standing ++ beNat 3 s.startRecord.bitRate ++
        u8 (if r = p then 1 else (s.port r).request.code) ++ beNat 2 (s.port r).reportRate ++ beNat 2 (s.port r).snapNumber ++
        beNat 4 (s.port r).mask.toNat ++ u8 ((allKinds.filter fun k => (s.port r).notices[k.idx].isSome).length) ++
        encFlag (allKinds.any fun k => (s.port r).notices[k.idx].isSome && !(s.port r).mask.getLsbD k.idx.val) ++
        u8 (s.port r).discarded ++ u8 (s.port r).busyCount ++ u8 (s.port r).shortDiscards ++ u8 (s.port r).skipped))) := by
  have he := readPortStatus_port (s.outstand p tag (requestByte (.readPortStatus (encPort r)))) r
  rw [encPortStatus_outstand hr.1, State.modPort_outstand fun _ => rfl] at he
  exact answers_changed (q := .readPortStatus (encPort r)) rfl rfl hr (congrArg now he)

theorem answers_fetchNotices : Answers (.fetchNotices p tag) s
    ((s.modPort p fun q =>
      { q with notices := Vector.ofFn fun k : Fin 25 => if q.mask.getLsbD k.val then q.notices[k] else none }).replied
      p tag 160 (.okData (encList id (s.port p).listed))) := by
  have he : fetchNotices p (s.outstand p tag (requestByte .fetchNotices)) = answerData _ _ := rfl
  rw [State.outstand_listed, funext fetched_eq, State.modPort_outstand fun _ => rfl] at he
  exact answers_changed (q := .fetchNotices) rfl rfl hr (congrArg now he)

theorem answers_readSnapshot : Answers (.readSnapshot p tag) s
    ((s.modPort p fun q => { q with snapNumber := (q.snapNumber + 1) % 65536 }).replied p tag 3
      (.okData (s.snapshotBytes (s.port p).snapNumber))) := by
  have he : readSnapshot p (s.outstand p tag (requestByte .readSnapshot)) = answerData _ _ := rfl
  rw [State.outstand_snapNumber, State.modPort_outstand fun _ => rfl] at he
  exact answers_changed (q := .readSnapshot) rfl rfl hr (congrArg now he)

end Clearing

/-! ## Lists and sets -/

/-- The cues of a Read Program, as many whole ones as its places and its room take (log 15). -/
theorem cuesFrom_laid (k room i : Nat) (c : Cue) (l : List Cue) :
    cuesFrom (k + 1) room i (c :: l) =
      if (laid (c.items i)).length ≤ room then
        laid (c.items i) :: cuesFrom k (room - (laid (c.items i)).length) (i + 1) l else [] := by
  rw [← encCue_laid]
  rfl

theorem encRouting_ports (b : BitVec 3) : encRouting (.ports b) = [2, b.setWidth 8] := by
  have hset : BitVec.ofNat 8 b.toNat = b.setWidth 8 := BitVec.eq_of_toNat_eq (by simp)
  rw [encRouting, u8, u8, hset]
  rfl

/-- Settles O9: the layouts item by item, then each read by its function. -/
theorem readsAnswerTheirItems : Obligations.ReadsAnswerTheirItems := by
  refine ⟨fun k n i b o p w => ?_, fun α k enc x l => ⟨rfl, rfl, rfl⟩, ?_, ?_,
    ⟨fun s p tag hr => ?_, fun s p tag n m hr => ?_⟩, fun s p tag hr => ?_⟩
  · refine ⟨?_, beNat_laid k n, beInt_laid k i, beInt_laid 7 i, beInt_laid 5 i, beInt_laid 5 _, ?_, ?_, ?_,
      (laid_angleItems i).symm, ?_⟩
    · rw [u8_eq, beNat_laid]
    · simp
    · simp
    · simp
    · simp
  · exact ⟨encClock_laid, encMark_laid, encRecord_laid, encState_laid, encOutcome_laid, encMotion_laid, encEntry_laid,
      encClaimed_laid, encRunner_laid, fun k room i c l => ⟨rfl, by cases k <;> rfl, cuesFrom_laid k room i c l⟩,
      encLink_laid, encCapture_laid, encStart_laid, snapshotBytes_laid, encResult_laid, rfl, rfl, encRouting_ports⟩
  · and_intros
    all_goals
      intros
      rfl
  · refine ⟨answers_identify hr, answers_unchanged (q := .readStartRecord) rfl rfl hr rfl,
      answers_unchanged (q := .readClock) rfl rfl hr rfl, fun c => ?_, fun c n g hg => ?_,
      answers_unchanged (q := .readStore) rfl rfl hr rfl, fun a => ?_, fun a => ?_, fun g => ?_, fun g => ?_,
      answers_readClaims hr, fun i n hn => ?_, fun r => ?_, answers_unchanged (q := .readLines) rfl rfl hr rfl,
      answers_unchanged (q := .readDrivePower) rfl rfl hr rfl, answers_unchanged (q := .readNoticeRouting) rfl rfl hr rfl⟩
    · exact answers_unchanged (q := .readChannel c.val) rfl rfl hr (congrArg now (readChannel_channel _ c))
    · exact answers_unchanged (q := .readSegment c.val n) rfl rfl hr (congrArg now (readSegment_some (s.outstand p tag _) hg))
    · exact answers_unchanged (q := .readAxisRecord a.val) rfl rfl hr (congrArg now (readAxisRecord_axis _ a))
    · exact answers_unchanged (q := .readAxisState a.val) rfl rfl hr (congrArg now (readAxisState_axis _ a))
    · exact answers_unchanged (q := .readGroup g.val) rfl rfl hr (congrArg now (readGroup_group _ g))
    · exact answers_unchanged (q := .readGroupMotion g.val) rfl rfl hr (congrArg now (readGroupMotion_group _ g))
    · exact answers_unchanged (q := .readProgram i.val n) rfl rfl hr (congrArg now (readProgram_program (s.outstand p tag _) hn))
    · exact answers_unchanged (q := .readRunner (encPort r)) rfl rfl hr (congrArg now (readRunner_port _ r))
  · refine ⟨fun h => ⟨?_, ?_⟩, fun h => ?_, fun h => ⟨?_, ?_⟩, fun h => ⟨?_, ?_⟩, fun h => ⟨?_, ?_, ?_⟩, fun h => ?_,
      fun c h => ?_, fun i h hm => ?_⟩
    · exact answers_unchanged (q := .readPortStatus n) rfl rfl hr (congrArg now (readPortStatus_unknown _ h))
    · exact answers_unchanged (q := .readRunner n) rfl rfl hr (congrArg now (readRunner_unknown _ h))
    · exact answers_unchanged (q := .readMark n) rfl rfl hr (congrArg now (readMark_unknown _ h))
    · exact answers_unchanged (q := .readGroup n) rfl rfl hr (congrArg now (readGroup_unknown _ h))
    · exact answers_unchanged (q := .readGroupMotion n) rfl rfl hr (congrArg now (readGroupMotion_unknown _ h))
    · exact answers_unchanged (q := .readChannel n) rfl rfl hr (congrArg now (readChannel_unknown _ h))
    · exact answers_unchanged (q := .readSegment n m) rfl rfl hr (congrArg now (readSegment_unknown _ h m))
    · exact answers_unchanged (q := .readAxisRecord n) rfl rfl hr (congrArg now (readAxisRecord_unknown _ h))
    · exact answers_unchanged (q := .readAxisState n) rfl rfl hr (congrArg now (readAxisState_unknown _ h))
    · exact answers_unchanged (q := .readProgram n m) rfl rfl hr (congrArg now (readProgram_unknown _ h m))
    · exact answers_unchanged (q := .readLink n) rfl rfl hr (congrArg now (readLink_unknown _ h))
    · exact answers_unchanged (q := .readSegment c.val m) rfl rfl hr (congrArg now (readSegment_none (s.outstand p tag _) h))
    · exact answers_unchanged (q := .readProgram i.val m) rfl rfl hr (congrArg now (readProgram_past (s.outstand p tag _) h hm))
  · refine ⟨fun m => ?_, fun l => ?_, answers_readCapture hr, answers_readPortStatus hr, answers_fetchNotices hr,
      answers_readSnapshot hr⟩
    · exact answers_changed (q := .readMark m.val) rfl rfl hr (congrArg now (readMark_mark _ m))
    · exact answers_changed (q := .readLink l.val) rfl rfl hr (congrArg now (readLink_link _ l))

end Sys2Proof.Machine
end

section
/-! PROOFS. The safety part of a locked axis stands through every command but a power-on reset (O60). -/

namespace Sys2Proof.Machine

/-- Every primitive change of a command keeps the lock an axis had, and with it the axis's safety part. -/
theorem kept_keepsLock (x : Axis) (a : AxisId) : Kept fun s => x.keepsLock (s.axis a) where
  axes := fun _ _ hv h => Axis.keepsLock_trans h (hv a).1
  motions := fun _ _ h => h
  notice := fun _ _ _ _ _ h => h
  power := fun _ _ _ _ h => h
  evals := fun _ _ h => h
  signals := fun _ _ h => h
  serial := fun _ _ h => h
  freeCount := fun _ _ h => h
  sky := fun _ _ _ h => h
  lease := fun _ _ h => h
  drive := fun _ _ _ h => h
  links := fun _ _ h => h
  outputs := fun _ _ h => h
  clock := fun _ _ _ h => h
  captures := fun _ _ _ h => h
  runners := fun _ _ _ _ h => h
  claim := fun _ _ _ _ _ h => h
  program := fun _ _ _ _ _ h => h
  ports := fun _ _ h => h
  trigs := fun _ _ h => h
  routing := fun _ _ h => h
  timebase := fun _ _ h => h
  inFlight := fun _ _ h => h
  stampCounter := fun _ _ h => h
  resetLine := fun _ _ h => h
  begun := fun _ _ _ _ h => h
  moreCues := fun _ _ _ _ _ _ h => h
  channel := fun _ _ _ _ _ h => h
  held := fun s _ f hf h => by
    rw [State.holdReset_axis]
    exact Axis.keepsLock_trans h (hf (s.axis a)).1

/-- Settles O60: `kept_keepsLock` from the locked axis the command finds; the power-on reset, which lifts the locks, is excluded. -/
theorem lockedSafetyPartsStand : Obligations.LockedSafetyPartsStand := fun c s _ a hc hl e =>
  (kept_keepsLock (s.axis a) a).exec c (fun hreset => absurd hreset hc) (Axis.keepsLock_refl _) e hl

end Sys2Proof.Machine
end

section
/-! PROOFS. Bind, Unbind and Lock Safety (02 R53, R54, R56, R59: O30). -/

namespace Sys2Proof.Machine

/-! ## What each request does -/

theorem State.bindBlocked_iff (s : State) (a : AxisId) : s.bindBlocked a = true ↔
    (s.axis a).state = .tracking ∨ (s.axis a).stage ≠ none ∨ s.evalOutstanding a = true := by
  simp [State.bindBlocked, or_assoc, Option.isSome_iff_ne_none]

theorem Axis.rebound_same {x : Axis} {b : Option ChannelId} (h : x.record.binding = b) : x.rebound b = x := if_pos h

theorem Axis.rebound_other {x : Axis} {b : Option ChannelId} (h : x.record.binding ≠ b) : x.rebound b =
    { x with record := { x.record with binding := b }, stagedAt := none, resumeMark := false,
             target := x.target.map fun t => { t with staged := none } } := if_neg h

/-- A change of binding is none of the group, the state, the records or the speed. -/
theorem State.Quiet.rebound {s : State} (h : s.Quiet) (a : AxisId) (b : Option ChannelId) :
    (s.setAxis a ((s.axis a).rebound b)).Quiet := by
  by_cases hb : (s.axis a).record.binding = b
  · rw [Axis.rebound_same hb, State.setAxis_same]
    exact h
  · rw [Axis.rebound_other hb]
    exact h.setAxis rfl Iff.rfl rfl (h.2.2 a)

theorem State.Quiet.restartLease {s : State} (h : s.Quiet) (r : Resource) : (s.restartLease r).Quiet :=
  quiet_of_same rfl rfl rfl rfl rfl h

section Binding

variable {p : Port} {s : State} {a : AxisId} (h : s.holds p (s.groupOf a) = true)
include h

theorem bind_blocked (hb : s.bindBlocked a = true) (c : ChannelId) : bind p a.val c.val s = refuse .state s := by
  simp [bind, h, hb]

theorem bind_free (hb : s.bindBlocked a = false) (c : ChannelId) : bind p a.val c.val s =
    answerOk ((s.setAxis a ((s.axis a).rebound (some c))).restartLease (s.groupOf a)) := by
  simp [bind, h, hb, State.modAxis]

theorem unbind_blocked (hb : s.bindBlocked a = true) : unbind p a.val s = refuse .state s := by
  simp [unbind, h, hb]

theorem unbind_free (hb : s.bindBlocked a = false) : unbind p a.val s =
    answerOk ((s.setAxis a ((s.axis a).rebound none)).restartLease (s.groupOf a)) := by
  simp [unbind, h, hb, State.modAxis]

theorem lockSafety_unconfigured (hs : (s.axis a).state = .unconfigured) : lockSafety p a.val s = refuse .state s := by
  simp [lockSafety, h, hs]

theorem lockSafety_locked (hs : (s.axis a).state ≠ .unconfigured) (hl : (s.axis a).locked = true) :
    lockSafety p a.val s = answerOk (s.restartLease (s.groupOf a)) := by
  simp [lockSafety, h, hs, hl, State.modAxis, State.setAxis_same]

theorem lockSafety_unlocked (hs : (s.axis a).state ≠ .unconfigured) (hl : (s.axis a).locked = false) :
    lockSafety p a.val s =
      answerOk ((s.setAxis a { s.axis a with locked := true, lockOrigin := some .byRequest }).restartLease (s.groupOf a)) := by
  simp [lockSafety, h, hs, hl, State.modAxis]

end Binding

/-! ## The numbers no request of these takes -/

theorem bind_unknown {n m : Nat} (h : 16 ≤ n ∨ 12 ≤ m) (p : Port) (s : State) : bind p n m s = refuse .badValue s := by
  unfold bind
  rcases h with h | h
  · rw [axisOf_none h]
  · rw [channelOf_none h]
    cases axisOf n <;> rfl

theorem unbind_unknown {n : Nat} (h : 16 ≤ n) (p : Port) (s : State) : unbind p n s = refuse .badValue s := by
  unfold unbind
  rw [axisOf_none h]

theorem lockSafety_unknown {n : Nat} (h : 16 ≤ n) (p : Port) (s : State) : lockSafety p n s = refuse .badValue s := by
  unfold lockSafety
  rw [axisOf_none h]

/-! ## The requests as they are answered -/

section Answered

variable {s : State} {p : Port} {tag : Byte} {a : AxisId} (hr : s.ready p)
  (hown : s.holderOf (.group (s.axis a).record.group) = some p)
include hr hown

theorem answers_bind_rebound (c : ChannelId) (hb : s.bindBlocked a = false) : Answers (.bind p tag a.val c.val) s
    (((s.setAxis a ((s.axis a).rebound (some c))).restartLease (.group (s.axis a).record.group)).replied p tag 50 .done) :=
  answers_request (q := .bind a.val c.val) rfl rfl hr (congrArg now (bind_free (holds_group_outstand hown tag _) hb c))
    fun k => (k.rebound a _).restartLease _

theorem answers_unbind_rebound (hb : s.bindBlocked a = false) : Answers (.unbind p tag a.val) s
    (((s.setAxis a ((s.axis a).rebound none)).restartLease (.group (s.axis a).record.group)).replied p tag 51 .done) :=
  answers_request (q := .unbind a.val) rfl rfl hr (congrArg now (unbind_free (holds_group_outstand hown tag _) hb))
    fun k => (k.rebound a _).restartLease _

end Answered

/-- Settles O30: Bind and Unbind by `Axis.rebound` behind their checks, Lock Safety by the axis's state and lock. -/
theorem bindingsAndSafetyLocks : Obligations.BindingsAndSafetyLocks := by
  refine ⟨fun s p tag hr => ⟨fun n m hn => ?_, fun n hn => ?_, fun a x c hx hown => ?_⟩,
    fun s p tag hr => ⟨fun n hn => ?_, fun a x hx hown => ?_⟩⟩
  · exact answers_unchanged (q := .bind n m) rfl rfl hr (congrArg now (bind_unknown hn p _))
  · exact answers_unchanged (q := .unbind n) rfl rfl hr (congrArg now (unbind_unknown hn p _))
  · subst hx
    refine ⟨fun hblocked => ?_, fun hstate hstage heval => ?_⟩
    · have hb := (s.bindBlocked_iff a).mpr hblocked
      exact ⟨answers_unchanged (q := .bind a.val c.val) rfl rfl hr (congrArg now (bind_blocked (holds_group_outstand hown tag _) hb c)),
        answers_unchanged (q := .unbind a.val) rfl rfl hr (congrArg now (unbind_blocked (holds_group_outstand hown tag _) hb))⟩
    · have hb : s.bindBlocked a = false := Bool.eq_false_iff.mpr fun hb =>
        ((s.bindBlocked_iff a).mp hb).elim hstate fun hb => hb.elim (absurd hstage) fun he => absurd he (by rw [heval]; decide)
      have hbind := answers_bind_rebound (tag := tag) hr hown c hb
      have hunbind := answers_unbind_rebound (tag := tag) hr hown hb
      refine ⟨fun hsame => ?_, fun hsame => ?_, fun hother => ?_, fun hother => ?_⟩
      · rwa [Axis.rebound_same hsame, State.setAxis_same] at hbind
      · rwa [Axis.rebound_same hsame, State.setAxis_same] at hunbind
      · rwa [Axis.rebound_other hother] at hbind
      · rwa [Axis.rebound_other hother] at hunbind
  · exact answers_unchanged (q := .lockSafety n) rfl rfl hr (congrArg now (lockSafety_unknown hn p _))
  · subst hx
    have hold := holds_group_outstand hown tag (requestByte (.lockSafety a.val))
    refine ⟨fun hstate => ?_, fun hstate hlock => ?_, fun hstate hlock => ?_⟩
    · exact answers_unchanged (q := .lockSafety a.val) rfl rfl hr (congrArg now (lockSafety_unconfigured hold hstate))
    · exact answers_request (q := .lockSafety a.val) rfl rfl hr (congrArg now (lockSafety_locked hold hstate hlock))
        fun k => k.restartLease _
    · have hquiet (k : s.Quiet) : (s.setAxis a { s.axis a with locked := true, lockOrigin := some .byRequest }).Quiet :=
        k.setAxis rfl Iff.rfl rfl (k.2.2 a)
      exact answers_request (q := .lockSafety a.val) rfl rfl hr (congrArg now (lockSafety_unlocked hold hstate hlock))
        fun k => (hquiet k).restartLease _

end Sys2Proof.Machine
end

section
/-! PROOFS. Configure Axis: the record an encoding names, its checks and what an accepted record leaves of the axis (02 R49 to R52:
O29). -/

namespace Sys2Proof.Machine

/-! ## The first failing check of a list -/

/-- The first check that fails is the one that the search for a failure names. -/
theorem firstFailing_getElem {l : List (Nat × Bool)} {i : Nat} (hi : i < l.length) (hfail : l[i].2 = false)
    (hbefore : ∀ j (hj : j < i), (l[j]'(hj.trans hi)).2 = true) : (l.find? fun x => !x.2).map (·.1) = some l[i].1 := by
  rw [List.find?_eq_some_iff_getElem.mpr ⟨by rw [hfail]; rfl, i, hi, rfl, fun j hj => by simp [hbefore j hj]⟩]
  rfl

/-- Where the checks stand in the order of their fields, the first field that fails is named. -/
theorem firstFailing_field {l : List (Nat × Bool)} {ok : Nat → Prop} (hl : ∀ x ∈ l, x.2 = true ↔ ok x.1)
    (hsorted : l.Pairwise fun x y => x.1 < y.1) {f : Nat} (hf : f ∈ l.map (·.1)) (hbefore : ∀ g, g < f → ok g) (hfail : ¬ ok f) :
    (l.find? fun x => !x.2).map (·.1) = some f := by
  obtain ⟨x, hx, rfl⟩ := List.mem_map.mp hf
  obtain ⟨i, hi, rfl⟩ := List.mem_iff_getElem.mp hx
  refine firstFailing_getElem hi (Bool.eq_false_iff.mpr fun h => hfail ((hl _ hx).mp h)) fun j hj => ?_
  exact (hl _ (List.getElem_mem _)).mpr (hbefore _ (List.pairwise_iff_getElem.mp hsorted j i _ hi hj))

theorem firstFailing_none {l : List (Nat × Bool)} (h : ∀ x ∈ l, x.2 = true) : (l.find? fun x => !x.2).map (·.1) = none := by
  rw [Option.map_eq_none_iff, List.find?_eq_none]
  exact fun x hx => by simp [h x hx]

/-! ## The checks of a record (R50) -/

theorem rangeChecks_iff (r : RawRecord) : ∀ x ∈ rangeChecks r, x.2 = true ↔ r.inRange x.1 := by
  simp [rangeChecks, RawRecord.inRange, or_assoc]
  omega

/-- A field without a range of its own has none to fail. -/
theorem mem_rangeChecks_of_not_inRange {r : RawRecord} {f : Nat} (h : ¬ r.inRange f) : f ∈ (rangeChecks r).map (·.1) := by
  by_contra hf
  simp only [rangeChecks, List.map_cons, List.map_nil, List.mem_cons, List.not_mem_nil, or_false, not_or] at hf
  refine h ?_
  unfold RawRecord.inRange
  split <;> first | omega | trivial

theorem positionField_limited {k : Nat} (h : k = 1) (b : BitVec 32) : positionField k b = b.toInt := if_pos h

theorem positionField_continuous {k : Nat} (h : k ≠ 1) (b : BitVec 32) : positionField k b = b.toNat := if_neg h

theorem agreementChecks_iff (r : RawRecord) : ∀ (j : Nat) (hj : j < (agreementChecks r).length),
    (agreementChecks r)[j].2 = true ↔ r.agrees (j + 1)
  | 0, _ => by by_cases h : r.kind = 1 <;> simp [agreementChecks, RawRecord.agrees, h]
  | 1, _ => by simp [agreementChecks, RawRecord.agrees]
  | 2, _ => by simp [agreementChecks, RawRecord.agrees]
  | 3, _ => by
    by_cases h : r.kind = 1
    · simp [agreementChecks, RawRecord.agrees, h, positionField_limited]
    · simp [agreementChecks, RawRecord.agrees, h, positionField_continuous h]
  | 4, _ => by simp [agreementChecks, RawRecord.agrees]
  | 5, _ => by by_cases h : r.kind = 1 <;> simp [agreementChecks, RawRecord.agrees, h]
  | 6, _ => by
    by_cases h : r.kind = 1
    · simp [agreementChecks, RawRecord.agrees, h]
    · simp [agreementChecks, RawRecord.agrees, h, positionField_continuous h]
  | _ + 7, hj => absurd hj (by simp [agreementChecks])

theorem firstBadField_range {r : RawRecord} {f : Nat} (hbefore : ∀ g, g < f → r.inRange g) (hfail : ¬ r.inRange f) :
    firstBadField r = some f := by
  unfold firstBadField
  have hrange := firstFailing_field (rangeChecks_iff r) (by simp [rangeChecks]) (mem_rangeChecks_of_not_inRange hfail) hbefore hfail
  rw [List.find?_append, Option.map_or, hrange]
  rfl

theorem firstBadField_agreements {r : RawRecord} (h : ∀ g, r.inRange g) :
    firstBadField r = ((agreementChecks r).find? fun x => !x.2).map (·.1) := by
  unfold firstBadField
  rw [List.find?_append, Option.map_or, firstFailing_none fun x hx => (rangeChecks_iff r x hx).mpr (h _)]
  rfl

theorem agreementChecks_fields (r : RawRecord) : (agreementChecks r).map (·.1) = [3, 6, 12, 15, 19, 23, 25] := rfl

theorem firstBadField_agreement {r : RawRecord} {i : Nat} (h : ∀ g, r.inRange g) (hi : i < 7)
    (hbefore : ∀ j, j < i → r.agrees (j + 1)) (hfail : ¬ r.agrees (i + 1)) :
    firstBadField r = [3, 6, 12, 15, 19, 23, 25][i]? := by
  have hlen : i < (agreementChecks r).length := hi
  have hname : [3, 6, 12, 15, 19, 23, 25][i]? = some (agreementChecks r)[i].1 := by
    rw [← agreementChecks_fields r, List.getElem?_map, List.getElem?_eq_getElem hlen]
    rfl
  rw [firstBadField_agreements h, hname]
  exact firstFailing_getElem hlen (Bool.eq_false_iff.mpr fun hok => hfail ((agreementChecks_iff r i hlen).mp hok))
    fun j hj => (agreementChecks_iff r j _).mpr (hbefore j hj)

theorem firstBadField_none {r : RawRecord} (h : ∀ g, r.inRange g) (ha : ∀ j, r.agrees j) : firstBadField r = none := by
  rw [firstBadField_agreements h]
  refine firstFailing_none fun x hx => ?_
  obtain ⟨j, hj, rfl⟩ := List.mem_iff_getElem.mp hx
  exact (agreementChecks_iff r j hj).mpr (ha _)

/-! ## What an accepted record leaves of the axis (R52) -/

/-- The new record counts in other steps than the old one. -/
def AxisRecord.reshapes (old new : AxisRecord) : Prop := old.kind ≠ new.kind ∨ old.stepsPerTurn ≠ new.stepsPerTurn

theorem AxisState.configurable_iff (x : AxisState) : x.configurable = true ↔ x ∈ [.unconfigured, .disabled, .unreferenced, .standing] := by
  cases x <;> decide

section Configured

variable {x : Axis} {r : AxisRecord}

/-- A record of the same shape keeps the position and what depends on it, but for the staged-at epoch. -/
theorem Axis.configured_sameShape (h : ¬ x.record.reshapes r) : x.configured r =
    { x with
      record := r
      state := if x.state = .unconfigured then .disabled else x.state
      stagedAt := if x.record.binding ≠ r.binding ∨ x.record.zeroOffset ≠ r.zeroOffset ∨ x.record.sense ≠ r.sense then none else x.stagedAt
      resumeMark := if x.record.binding ≠ r.binding then false else x.resumeMark } := by
  unfold AxisRecord.reshapes at h
  unfold Axis.configured
  simp only [if_neg h, or_iff_right h]
  by_cases hb : x.record.binding = r.binding
  · by_cases ht : x.record.zeroOffset ≠ r.zeroOffset ∨ x.record.sense ≠ r.sense <;> simp [hb, ht]
  · by_cases ht : x.record.zeroOffset ≠ r.zeroOffset ∨ x.record.sense ≠ r.sense <;> simp [hb, ht]

/-- A record of another shape loses the position and what depends on it (R110). -/
theorem Axis.configured_reshaped (hx : x.state ≠ .homing) (h : x.record.reshapes r) : x.configured r =
    { x with
      record := r
      state := if x.state = .unconfigured then .disabled else if x.state = .standing then .unreferenced else x.state
      known := false
      position := ⟨0, 0⟩
      limitMemory := none
      stagedAt := none
      resumeMark := if x.record.binding ≠ r.binding then false else x.resumeMark } := by
  unfold AxisRecord.reshapes at h
  have hstate : (if x.state = .unconfigured then AxisState.disabled else x.state) ≠ .homing := by split <;> simp [hx]
  obtain ⟨q, m, e, hlost, hq, _⟩ := Axis.losePosition_eq
    { x with record := r, state := if x.state = .unconfigured then .disabled else x.state }
  unfold Axis.configured
  simp only [h, true_or, if_true, hlost, hq (.inr hstate)]
  by_cases hb : x.record.binding = r.binding <;> cases x.state <;> simp [hb]

/-- A Configure Axis that is accepted changes its own part of the axis alone. -/
theorem Axis.configured_frame (hx : x.state ≠ .homing) : x.configured r =
    { x with record := r, state := (x.configured r).state, known := (x.configured r).known, position := (x.configured r).position,
             limitMemory := (x.configured r).limitMemory, stagedAt := (x.configured r).stagedAt,
             resumeMark := (x.configured r).resumeMark } := by
  by_cases h : x.record.reshapes r
  · rw [Axis.configured_reshaped hx h]
  · rw [Axis.configured_sameShape h]

theorem Axis.configured_record (hx : x.state ≠ .homing) : (x.configured r).record = r := by
  rw [Axis.configured_frame hx]

theorem Axis.configured_configurable (hx : x.state.configurable = true) : (x.configured r).state.configurable = true := by
  have hhoming : x.state ≠ .homing := fun h => by rw [h] at hx; exact absurd hx (by decide)
  by_cases h : x.record.reshapes r
  · rw [Axis.configured_reshaped hhoming h]
    dsimp only
    split
    · rfl
    · split
      · rfl
      · exact hx
  · rw [Axis.configured_sameShape h]
    dsimp only
    split
    · rfl
    · exact hx

end Configured

/-! ## A quiet part stays quiet -/

section Quiet

variable {s : State} {a : AxisId} {y : Axis}

theorem AxisState.configurable_rest {x : AxisState} (h : x.configurable = true) : x ≠ .tracking ∧ x.moving = false := by
  cases x <;> first | exact ⟨nofun, rfl⟩ | exact absurd h (by decide)

/-- A group stands settled by its members in TRACKING alone. -/
theorem State.groupSettled_setAxis_rest (hx : (s.axis a).state ≠ .tracking) (hy : y.state ≠ .tracking) (g : GroupId) :
    (s.setAxis a y).groupSettled g = s.groupSettled g := by
  unfold State.groupSettled State.membersOf
  rw [List.all_filter, List.all_filter, State.setAxis_clock]
  congr 2
  funext b
  by_cases hb : b = a
  · subst hb
    simp [bne_iff_ne.mpr hx, bne_iff_ne.mpr hy]
  · rw [State.setAxis_axis, if_neg hb]

theorem State.Quiet.setAxis_configurable (h : s.Quiet) (hx : (s.axis a).state.configurable = true)
    (hy : y.state.configurable = true) : (s.setAxis a y).Quiet := by
  obtain ⟨hsignals, hrunners, hmotion⟩ := h
  obtain ⟨hxt, _⟩ := AxisState.configurable_rest hx
  obtain ⟨hyt, hym⟩ := AxisState.configurable_rest hy
  have hmet (c : Cue) : (s.setAxis a y).settledMet c = s.settledMet c := by
    unfold State.settledMet
    cases groupIdOf c.settledGroup with
    | none => rfl
    | some g => exact State.groupSettled_setAxis_rest hxt hyt g
  have hsettled : (s.setAxis a y).settledRunners = s.settledRunners := by
    refine List.filter_congr fun r _ => ?_
    rw [show (s.setAxis a y).waitingOn r = s.waitingOn r from rfl]
    cases s.waitingOn r with
    | none => rfl
    | some c =>
      dsimp only
      rw [hmet c]
  refine ⟨hsignals, hsettled.trans hrunners, fun b hb => ?_⟩
  rw [State.setAxis_axis] at hb ⊢
  split
  · rename_i hba
    rw [if_pos hba, hym] at hb
    exact absurd hb Bool.false_ne_true
  · rename_i hba
    rw [if_neg hba] at hb
    exact hmotion b hb

end Quiet

/-! ## The request behind its checks (R49, R51) -/

theorem configureAxis_unknown {n : Nat} (h : 16 ≤ n) (p : Port) (raw : RawRecord) (s : State) :
    configureAxis p n raw s = refuse .badValue s := by
  unfold configureAxis
  rw [axisOf_none h]

theorem configureAxis_blocked_iff (s : State) (a : AxisId) :
    (!(s.axis a).state.configurable || (s.axis a).stage.isSome || s.evalOutstanding a) = true ↔
      (s.axis a).state ∉ [.unconfigured, .disabled, .unreferenced, .standing] ∨ (s.axis a).stage ≠ none ∨ s.evalOutstanding a = true := by
  rw [← AxisState.configurable_iff]
  simp [or_assoc, Option.isSome_iff_ne_none]

section Request

variable {p : Port} {s : State} {a : AxisId} {raw : RawRecord} {h : GroupId} (hold : s.holds p (s.groupOf a) = true)
  (hgroup : (rawGroup raw).getD (s.groupOf a) = .group h)
include hold hgroup

theorem configureAxis_other_not_holder (hh : s.holds p (.group h) = false) :
    configureAxis p a.val raw s = notHolder (.group h) s := by
  simp [configureAxis, hold, hgroup, hh]

variable (hh : s.holds p (.group h) = true)
include hh

theorem configureAxis_blocked
    (hb : (!(s.axis a).state.configurable || (s.axis a).stage.isSome || s.evalOutstanding a) = true) :
    configureAxis p a.val raw s = refuse .state s := by
  unfold configureAxis
  simp only [axisOf_val, hold, hgroup, hh, hb, Bool.not_true, if_neg Bool.false_ne_true, if_true]

variable (hb : (!(s.axis a).state.configurable || (s.axis a).stage.isSome || s.evalOutstanding a) = false)
include hb

theorem configureAxis_bad {f : Nat} (hf : firstBadField raw = some f) : configureAxis p a.val raw s = refuseAt .badValue f s := by
  unfold configureAxis
  simp only [axisOf_val, hold, hgroup, hh, hb, hf, Bool.not_true, if_neg Bool.false_ne_true]

variable (hf : firstBadField raw = none)
include hf

theorem configureAxis_locked {f : Nat} (hl : (s.axis a).locked = true)
    (hc : firstSafetyChange (s.axis a).record (recordOf raw) = some f) : configureAxis p a.val raw s = refuseAt .locked f s := by
  unfold configureAxis
  simp only [axisOf_val, hold, hgroup, hh, hb, hf, hl, hc, Bool.not_true, if_neg Bool.false_ne_true, if_true]

theorem configureAxis_accepted (hl : (s.axis a).locked = false ∨ firstSafetyChange (s.axis a).record (recordOf raw) = none) :
    configureAxis p a.val raw s =
      answerData (encFlag ((s.axis a).known && !((s.axis a).configured (recordOf raw)).known) ++
          encFlag ((s.axis a).configured (recordOf raw)).outsideLimits)
        (((s.setAxis a ((s.axis a).configured (recordOf raw))).restartLease (s.groupOf a)).restartLease (.group h)) := by
  have hlock : (if (s.axis a).locked = true then firstSafetyChange (s.axis a).record (recordOf raw) else none) = none := by
    split
    · rename_i hlocked
      exact hl.resolve_left (by rw [hlocked]; decide)
    · rfl
  unfold configureAxis
  simp only [axisOf_val, hold, hgroup, hh, hb, hf, hlock, Bool.not_true, if_neg Bool.false_ne_true]

end Request

/-- The group a raw record names, or the one the axis is in. -/
theorem rawGroup_getD {raw : RawRecord} {g h : GroupId} (hlt : raw.group < 8 → h.val = raw.group) (hge : 8 ≤ raw.group → h = g) :
    (rawGroup raw).getD (.group g) = .group h := by
  unfold rawGroup
  rcases Nat.lt_or_ge raw.group 8 with hr | hr
  · rw [← hlt hr, groupIdOf_val]
    rfl
  · rw [groupIdOf_none hr, hge hr]
    rfl

/-- Settles O29: the record by `recordOf_written`, the checks in their order by `firstFailing_field` and `firstFailing_getElem`, the
axis by `Axis.configured_sameShape` and `Axis.configured_reshaped`. -/
theorem configureAxisWritesTheRecord : Obligations.ConfigureAxisWritesTheRecord := by
  refine ⟨recordOf_written, firstSafetyChange_spec, outsideLimits_iff,
    fun raw => ⟨fun f _ _ hbefore hfail => firstBadField_range hbefore hfail,
      fun i hi h hbefore hfail => firstBadField_agreement h hi hbefore hfail, firstBadField_none⟩,
    fun s p tag raw hr => ⟨fun n hn => ?_, fun a x g h hx hg hown hlt hge => ?_⟩⟩
  · exact answers_unchanged (q := .configureAxis n raw) rfl rfl hr (congrArg now (configureAxis_unknown hn p raw _))
  subst hx hg
  have hold := holds_group_outstand hown tag (requestByte (.configureAxis a.val raw))
  have hgroup : (rawGroup raw).getD ((s.outstand p tag (requestByte (.configureAxis a.val raw))).groupOf a) = .group h :=
    rawGroup_getD hlt hge
  refine ⟨fun hn => ?_, fun hs => ⟨fun hblocked => ?_, fun hstate hstage heval => ⟨fun f hf => ?_, fun f hf hl hc => ?_,
    fun hf hl => ?_⟩⟩⟩
  · exact answers_unchanged (q := .configureAxis a.val raw) rfl rfl hr
      (congrArg now (configureAxis_other_not_holder hold hgroup (not_holds_outstand hn tag _)))
  · exact answers_unchanged (q := .configureAxis a.val raw) rfl rfl hr (congrArg now
      (configureAxis_blocked hold hgroup (holds_outstand hs tag _) ((configureAxis_blocked_iff s a).mpr hblocked)))
  all_goals
    have hfree : (!(s.axis a).state.configurable || (s.axis a).stage.isSome || s.evalOutstanding a) = false := by
      simp [(AxisState.configurable_iff _).mpr hstate, hstage, heval]
  · exact answers_unchanged (q := .configureAxis a.val raw) rfl rfl hr (congrArg now
      (configureAxis_bad hold hgroup (holds_outstand hs tag _) hfree hf))
  · exact answers_unchanged (q := .configureAxis a.val raw) rfl rfl hr (congrArg now
      (configureAxis_locked hold hgroup (holds_outstand hs tag _) hfree hf hl hc))
  have hconf := (AxisState.configurable_iff _).mpr hstate
  have hhoming : (s.axis a).state ≠ .homing := fun h => by rw [h] at hconf; exact absurd hconf (by decide)
  have hquiet (k : s.Quiet) : (s.setAxis a ((s.axis a).configured (recordOf raw))).Quiet :=
    k.setAxis_configurable hconf (Axis.configured_configurable hconf)
  have hrecord := Axis.configured_record (r := recordOf raw) hhoming
  refine ⟨(s.axis a).configured (recordOf raw), ?_, Axis.configured_frame hhoming, ?_⟩
  · exact answers_request (q := .configureAxis a.val raw) rfl rfl hr (congrArg now
      (configureAxis_accepted hold hgroup (holds_outstand hs tag _) hfree hf hl)) fun k =>
        quiet_of_same rfl rfl rfl rfl rfl (hquiet k)
  · rw [hrecord]
    by_cases hshape : (s.axis a).record.reshapes (recordOf raw)
    · have hsame (hk : (s.axis a).record.kind = (recordOf raw).kind)
          (hn : (s.axis a).record.stepsPerTurn = (recordOf raw).stepsPerTurn) : False :=
        hshape.elim (fun h => h hk) fun h => h hn
      rw [Axis.configured_reshaped hhoming hshape]
      refine ⟨fun hu => if_pos hu, fun hk hn => (hsame hk hn).elim, fun _ => ⟨rfl, rfl, rfl, rfl, fun hu => ?_, fun hu => ?_, fun hu => ?_⟩,
        fun hb => ⟨rfl, if_pos hb⟩, fun hb => if_neg (not_not.mpr hb), fun _ => rfl, fun hk hn => (hsame hk hn).elim⟩
      all_goals simp [hu]
    · rw [Axis.configured_sameShape hshape]
      refine ⟨fun hu => if_pos hu, fun _ _ => ⟨rfl, rfl, rfl, fun hu => if_neg hu⟩, fun h => absurd h hshape,
        fun hb => ⟨if_pos (.inl hb), if_pos hb⟩, fun hb => if_neg (not_not.mpr hb), fun h => if_pos (.inr h),
        fun _ _ hb hz hn => if_neg ?_⟩
      simp [hb, hz, hn]

end Sys2Proof.Machine
end

section
/-! PROOFS. An accepted change of HOME (05 R97, R100 to R102: O52). -/

namespace Sys2Proof.Machine

/-! ## Counts that stay within their items (R47, R64) -/

theorem limitedCount_spec (n : Int) : -(2 ^ 31) ≤ limitedCount n ∧ limitedCount n < 2 ^ 31 ∧
    (-(2 ^ 31) ≤ n → n < 2 ^ 31 → limitedCount n = n) := by
  unfold limitedCount
  split
  · rename_i h
    exact ⟨h.1, h.2, fun _ _ => rfl⟩
  · rename_i h
    have hlow := (Config.limitedOverflow n).le_toInt
    have hhigh := (Config.limitedOverflow n).toInt_lt
    exact ⟨hlow, hhigh, fun h1 h2 => absurd ⟨h1, h2⟩ h⟩

theorem wrapTurn_spec (t : Int) : -(2 ^ 31) ≤ wrapTurn t ∧ wrapTurn t < 2 ^ 31 ∧ ∃ k : Int, wrapTurn t + k * 2 ^ 32 = t := by
  unfold wrapTurn
  have hlow : 0 ≤ (t + 2 ^ 31).emod (2 ^ 32) := Int.emod_nonneg _ (by decide)
  have hhigh : (t + 2 ^ 31).emod (2 ^ 32) < 2 ^ 32 := Int.emod_lt_of_pos _ (by decide)
  have hsum : (t + 2 ^ 31).emod (2 ^ 32) + 2 ^ 32 * ((t + 2 ^ 31) / 2 ^ 32) = t + 2 ^ 31 := Int.emod_add_mul_ediv _ _
  exact ⟨by omega, by omega, (t + 2 ^ 31) / 2 ^ 32, by omega⟩

/-- The step count that R102 assigns: the home offset and the steps made since the capture. -/
def Axis.homeCount (x : Axis) (h : Homing) : Int :=
  h.offset + h.direction.sign * (match h.direction with | .plus => x.home.plusSteps | .minus => x.home.minusSteps : Nat)

section Assigned

variable {x : Axis} (h : Homing)

theorem Axis.assigned_limited (hk : x.record.kind = .limited) : x.assigned h = ⟨0, limitedCount (x.homeCount h)⟩ := by
  unfold Axis.assigned
  rw [hk]
  rfl

theorem Axis.assigned_continuous (hk : x.record.kind = .continuous) : x.assigned h =
    ⟨wrapTurn ((x.homeCount h).fdiv x.record.stepsPerTurn), (x.homeCount h).emod x.record.stepsPerTurn⟩ := by
  unfold Axis.assigned
  rw [hk]
  rfl

theorem Axis.assigned_limited_spec (hk : x.record.kind = .limited) : (x.assigned h).turn = 0 ∧ -(2 ^ 31) ≤ (x.assigned h).within ∧
    (x.assigned h).within < 2 ^ 31 ∧
      (-(2 ^ 31) ≤ x.homeCount h → x.homeCount h < 2 ^ 31 → (x.assigned h).within = x.homeCount h) := by
  rw [Axis.assigned_limited h hk]
  exact ⟨rfl, limitedCount_spec _⟩

theorem Axis.assigned_continuous_spec (hk : x.record.kind = .continuous) : -(2 ^ 31) ≤ (x.assigned h).turn ∧
    (x.assigned h).turn < 2 ^ 31 ∧ (x.assigned h).within = (x.homeCount h).emod x.record.stepsPerTurn ∧
      ∃ k : Int, ((x.assigned h).turn + k * 2 ^ 32) * x.record.stepsPerTurn + (x.assigned h).within = x.homeCount h := by
  rw [Axis.assigned_continuous h hk]
  obtain ⟨hlow, hhigh, k, hturn⟩ := wrapTurn_spec ((x.homeCount h).fdiv x.record.stepsPerTurn)
  refine ⟨hlow, hhigh, rfl, k, ?_⟩
  rw [hturn, Int.fdiv_eq_ediv_of_nonneg _ (Int.natCast_nonneg _), Int.mul_comm]
  exact Int.mul_ediv_add_emod (x.homeCount h) x.record.stepsPerTurn

end Assigned

/-! ## The filter and the phase (R97, R100, R101) -/

/-- The home filter once a level is accepted: the captured position is that of the run's first sample (R97). -/
def Axis.filterAccepted (x : Axis) (v : Bool) : HomeFilter :=
  if x.home.run = 0 then ⟨v, 0, x.position, 0, 0⟩ else { x.home with accepted := v, run := 0 }

theorem Axis.filterAccepted_accepted (x : Axis) (v : Bool) : (x.filterAccepted v).accepted = v := by
  unfold Axis.filterAccepted
  split <;> rfl

section Accepted

variable {x : Axis} {v : Bool} {h : Homing}

theorem Axis.homeAccepted_idle (hs : x.state ≠ .homing) : x.homeAccepted v = { x with home := x.filterAccepted v } := by
  unfold Axis.homeAccepted
  dsimp only
  split
  · exact if_neg hs
  · rfl

theorem Axis.homeAccepted_homing (hs : x.state = .homing) (hh : x.homing = some h) :
    x.homeAccepted v = ({ x with home := x.filterAccepted v } : Axis).homeEdge h := by
  unfold Axis.homeAccepted
  dsimp only
  rw [hh]
  exact if_pos hs

theorem Axis.homeEdge_clear (hp : h.phase = .clear) : x.homeEdge h =
    if x.home.accepted = h.activeHigh ∨ h.braking = true then x else { x with homing := some { h with braking := true } } := by
  unfold Axis.homeEdge
  rw [hp]
  simp

theorem Axis.homeEdge_seek (hp : h.phase = .seek) : x.homeEdge h =
    if x.home.accepted = h.activeHigh ∧ h.edge = none then
      { x with position := x.assigned h, homing := some { h with edge := some (x.assigned h) } }
    else x := by
  unfold Axis.homeEdge
  rw [hp]
  simp

end Accepted

section HomeInput

variable {s : State} {a : AxisId} {v : Bool} (hrun : s.phase = .running)
include hrun

theorem answers_homeInput_same (hv : (s.axis a).home.accepted = v) : Answers (.homeInputChange a v) s s :=
  answers_event (f := fun s => s.homeChanged a v) rfl hrun (if_pos hv) id

/-- A new level, by the axis it leaves: one alike in what settling reads. -/
theorem answers_homeInput {y : Axis} (hv : (s.axis a).home.accepted ≠ v) (hy : (s.axis a).homeAccepted v = y)
    (hr : y.record = (s.axis a).record) (hs : y.state = (s.axis a).state) (ht : y.tracking = (s.axis a).tracking)
    (hq : y.speedSq = (s.axis a).speedSq) : Answers (.homeInputChange a v) s (s.setAxis a y) :=
  answers_event (f := fun s => s.homeChanged a v) rfl hrun
    ((if_neg hv).trans (congrArg (s.setAxis a) hy)) fun k => k.setAxis_alike hr hs ht hq

/-- An axis not in HOMING takes the level alone. -/
theorem answers_homeInput_idle (hv : (s.axis a).home.accepted ≠ v) (hs : (s.axis a).state ≠ .homing) :
    Answers (.homeInputChange a v) s (s.setAxis a { s.axis a with home := (s.axis a).filterAccepted v }) :=
  answers_homeInput hrun hv (Axis.homeAccepted_idle hs) rfl rfl rfl rfl

variable {h : Homing} (hv : (s.axis a).home.accepted ≠ v) (hs : (s.axis a).state = .homing) (hh : (s.axis a).homing = some h)
include hv hs hh

/-- R100: in CLEAR the inactive level starts the braking, once. -/
theorem answers_homeInput_clear (hp : h.phase = .clear) :
    (v = !h.activeHigh → h.braking = false → Answers (.homeInputChange a v) s
      (s.setAxis a { s.axis a with home := (s.axis a).filterAccepted v, homing := some { h with braking := true } })) ∧
    (v = h.activeHigh ∨ h.braking = true → Answers (.homeInputChange a v) s
      (s.setAxis a { s.axis a with home := (s.axis a).filterAccepted v })) := by
  have heq := (Axis.homeAccepted_homing (v := v) hs hh).trans (Axis.homeEdge_clear hp)
  simp only [Axis.filterAccepted_accepted] at heq
  refine ⟨fun hl hb => answers_homeInput hrun hv (heq.trans (if_neg ?_)) rfl rfl rfl rfl,
    fun hl => answers_homeInput hrun hv (heq.trans (if_pos hl)) rfl rfl rfl rfl⟩
  simp [hl, hb]

/-- R101, R102: in SEEK the active level takes the edge and assigns the position, once. -/
theorem answers_homeInput_seek (hp : h.phase = .seek) :
    (v = !h.activeHigh ∨ h.edge ≠ none → Answers (.homeInputChange a v) s
      (s.setAxis a { s.axis a with home := (s.axis a).filterAccepted v })) ∧
    (v = h.activeHigh → h.edge = none → ∀ q, q = ({ s.axis a with home := (s.axis a).filterAccepted v } : Axis).assigned h →
      Answers (.homeInputChange a v) s (s.setAxis a { s.axis a with
        home := (s.axis a).filterAccepted v, position := q, homing := some { h with edge := some q } })) := by
  have heq := (Axis.homeAccepted_homing (v := v) hs hh).trans (Axis.homeEdge_seek hp)
  simp only [Axis.filterAccepted_accepted] at heq
  refine ⟨fun hl => answers_homeInput hrun hv (heq.trans (if_neg fun hc => ?_)) rfl rfl rfl rfl, fun hl he q hq => ?_⟩
  · obtain ⟨hact, hedge⟩ := hc
    refine hl.elim (fun hl => ?_) fun hl => hl hedge
    rw [hact] at hl
    cases hb : h.activeHigh <;> rw [hb] at hl <;> cases hl
  · subst hq
    exact answers_homeInput hrun hv (heq.trans (if_pos ⟨hl, he⟩)) rfl rfl rfl rfl

end HomeInput

end Sys2Proof.Machine
end

section
/-! PROOFS. The end of a homing (05 R100, R103, R104, R107, 09 R176: O52): the rest of CLEAR, the search exhausted, the axis homed. -/

namespace Sys2Proof.Machine

/-! ## A homing failure taken second (R176) -/

section Late

variable {s : State} {a : AxisId}

theorem FaultRecord.has_iff (f : FaultRecord) (c : FaultCause) : f.has c = true ↔ f.first = some c ∨ c ∈ f.further := by
  simp [FaultRecord.has]

/-- The axis with the cause joined and, where it is new, the reversals of the homing that failed. -/
def Axis.lateHoming (x : Axis) (reversed : Bool) : Axis :=
  (if x.fault.has .homeNotFound then x
    else { x with fault := { x.fault with reversals := some (if reversed then 1 else 0) } }).faultJoined .homeNotFound

theorem Axis.lateHoming_had {x : Axis} (h : x.fault.first = some .homeNotFound ∨ .homeNotFound ∈ x.fault.further) (b : Bool) :
    x.lateHoming b = { x with fault := { x.fault with autoClear := none } } := by
  unfold Axis.lateHoming Axis.faultJoined FaultRecord.joined
  rw [if_pos ((FaultRecord.has_iff ..).mpr h), if_pos h]

theorem Axis.lateHoming_new {x : Axis} (h1 : x.fault.first ≠ some .homeNotFound) (h2 : .homeNotFound ∉ x.fault.further) (b : Bool) :
    x.lateHoming b = { x with fault := { x.fault with
      further := x.fault.further ++ [.homeNotFound], reversals := some (if b then 1 else 0), autoClear := none } } := by
  have h : ¬ (x.fault.first = some .homeNotFound ∨ .homeNotFound ∈ x.fault.further) := fun h => h.elim h1 h2
  unfold Axis.lateHoming Axis.faultJoined FaultRecord.joined
  rw [if_neg fun c => h ((FaultRecord.has_iff ..).mp c), if_neg h]

theorem Axis.lateHoming_frame (x : Axis) (b : Bool) : x.lateHoming b = { x with fault := (x.lateHoming b).fault } := by
  by_cases h : x.fault.first = some .homeNotFound ∨ .homeNotFound ∈ x.fault.further
  · rw [Axis.lateHoming_had h]
  · rw [not_or] at h
    rw [Axis.lateHoming_new h.1 h.2]

theorem State.lateHoming_faulted (h : (s.axis a).state = .faulted) (b : Bool) :
    s.lateHoming a b = (s.modAxis a (·.lateHoming b)).faultNotice a := by
  unfold State.lateHoming
  rw [if_pos h, State.furtherCause_eq _ _ (by decide), State.modAxis_modAxis]
  rfl

/-- HOME_NOT_FOUND on a FAULTED axis: what is recorded and the event. -/
theorem State.lateHoming_effects (hs : (s.axis a).state = .faulted) (b : Bool) :
    ((s.lateHoming a b).axis a).state = .faulted ∧
      ((s.lateHoming a b).axis a).fault.first = (s.axis a).fault.first ∧ ((s.lateHoming a b).axis a).fault.autoClear = none ∧
      ((s.axis a).fault.first = some .homeNotFound ∨ .homeNotFound ∈ (s.axis a).fault.further →
        ((s.lateHoming a b).axis a).fault.further = (s.axis a).fault.further ∧
          ((s.lateHoming a b).axis a).fault.reversals = (s.axis a).fault.reversals) ∧
      ((s.axis a).fault.first ≠ some .homeNotFound → .homeNotFound ∉ (s.axis a).fault.further →
        ((s.lateHoming a b).axis a).fault.further = (s.axis a).fault.further ++ [.homeNotFound] ∧
          ((s.lateHoming a b).axis a).fault.reversals = some (if b then 1 else 0)) ∧
      .event (.axisFault a) none ∈ (s.lateHoming a b).signals := by
  have hrecord : ((s.axis a).lateHoming b).record = (s.axis a).record := by rw [Axis.lateHoming_frame]
  have htells := State.tellsFault_modAxis (s := s) (f := (·.lateHoming b)) hrecord
  have hax := (State.faultNotice_axis (s.modAxis a (·.lateHoming b)) a a).trans (s.modAxis_axis_self a (·.lateHoming b))
  rw [State.lateHoming_faulted hs]
  generalize (s.modAxis a (·.lateHoming b)).faultNotice a = t at *
  rw [hax]
  refine ⟨by rw [Axis.lateHoming_frame]; exact hs, ?_, ?_, fun h => ?_, fun h1 h2 => ?_, htells.1⟩
  · by_cases h : (s.axis a).fault.first = some .homeNotFound ∨ .homeNotFound ∈ (s.axis a).fault.further
    · rw [Axis.lateHoming_had h]
    · rw [not_or] at h
      rw [Axis.lateHoming_new h.1 h.2]
  · exact FaultRecord.joined_autoClear ..
  · rw [Axis.lateHoming_had h]
    exact ⟨rfl, rfl⟩
  · rw [Axis.lateHoming_new h1 h2]
    exact ⟨rfl, rfl⟩

end Late

/-! ## The commands by the homing they find -/

section Commands

variable {s : State} {a : AxisId} {h : Homing}

theorem State.clearRest_idle (hs : (s.axis a).state ≠ .homing) : s.clearRest a = s := by
  unfold State.clearRest
  split
  · rename_i hhoming _
    exact absurd hhoming hs
  · rfl

theorem State.axisHomed_idle (hs : (s.axis a).state ≠ .homing) : s.axisHomed a = s := by
  unfold State.axisHomed
  split
  · rename_i hhoming _
    exact absurd hhoming hs
  · rfl

theorem State.searchExhausted_alone (hs : (s.axis a).state ≠ .homing) : s.searchExhausted a none = s := by
  unfold State.searchExhausted
  split
  · rename_i hhoming _
    exact absurd hhoming hs
  · rfl

theorem State.searchExhausted_late (hs : (s.axis a).state ≠ .homing) (b : Bool) :
    s.searchExhausted a (some b) = s.lateHoming a b := by
  unfold State.searchExhausted
  split
  · rename_i hhoming _
    exact absurd hhoming hs
  · rfl

theorem State.lateHoming_live (hs : (s.axis a).state ≠ .faulted) (b : Bool) : s.lateHoming a b = s := if_neg hs

variable (hs : (s.axis a).state = .homing) (hh : (s.axis a).homing = some h)
include hs hh

theorem State.clearRest_homing : s.clearRest a = if h.phase = .clear ∧ h.braking then
    s.setAxis a { (s.axis a).still with homing := some { h with phase := .seek, braking := false, travel := 0 } } else s := by
  unfold State.clearRest
  rw [hs, hh]
  rfl

theorem State.searchExhausted_homing (late : Option Bool) : s.searchExhausted a late =
    if h.exhausted then s.failHoming a else if h.counted.exhausted then s.stepPulse a else s := by
  unfold State.searchExhausted
  rw [hs, hh]

theorem State.axisHomed_early (he : h.edge = none) : s.axisHomed a = s := by
  unfold State.axisHomed
  rw [hs, hh]
  dsimp only
  rw [he]
  rfl

end Commands

/-! ## The search exhausted (R104, R107) -/

theorem Homing.counted_counting {h : Homing} (hb : h.braking = false) (he : h.edge = none) :
    h.counted = { h with travel := h.travel + 1 } := by
  unfold Homing.counted Homing.counting
  rw [hb, he]
  rfl

theorem Homing.counted_not_counting {h : Homing} (hc : h.braking = true ∨ h.edge ≠ none) : h.counted = h := by
  unfold Homing.counted Homing.counting
  refine if_neg ?_
  rcases hc with hb | he
  · simp [hb]
  · simp [he]

theorem Axis.pulsed_homing {x : Axis} {h : Homing} {ra : Int} {d : Dir} (hh : x.homing = some h) (hb : h.braking = false)
    (he : h.edge = none) : (x.pulsed ra d).homing = some { h with travel := h.travel + 1 } := by
  rw [← Homing.counted_counting hb he]
  unfold Axis.pulsed
  rw [hh]
  rfl

/-- A search that brakes, has its edge, or has more than a step to go is not exhausted by this pulse. -/
theorem Homing.counted_not_exhausted {h : Homing} (hc : h.braking = true ∨ h.edge ≠ none ∨ h.travel + 1 < h.distance) :
    h.exhausted = false ∧ h.counted.exhausted = false := by
  by_cases hcount : h.braking = true ∨ h.edge ≠ none
  · have hnot : h.exhausted = false := Bool.eq_false_iff.mpr fun c => by
      obtain ⟨hb, he, _⟩ := (exhausted_iff h).mp c
      exact hcount.elim (fun hb' => by rw [hb] at hb'; exact Bool.false_ne_true hb') fun he' => he' he
    exact ⟨hnot, by rw [Homing.counted_not_counting hcount]; exact hnot⟩
  · rw [not_or, Bool.not_eq_true, not_not] at hcount
    obtain ⟨hb, he⟩ := hcount
    have hfar : h.travel + 1 < h.distance :=
      (hc.resolve_left (by rw [hb]; exact Bool.false_ne_true)).resolve_left (not_not.mpr he)
    refine ⟨Bool.eq_false_iff.mpr fun c => ?_, Bool.eq_false_iff.mpr fun c => ?_⟩
    · have := ((exhausted_iff _).mp c).2.2
      omega
    · rw [Homing.counted_counting hb he] at c
      have : h.distance ≤ h.travel + 1 := ((exhausted_iff _).mp c).2.2
      omega

section Exhausted

variable {s : State} {a : AxisId} {h : Homing} (hs : (s.axis a).state = .homing) (hh : (s.axis a).homing = some h)
include hs hh

/-- The pulse that exhausts the search fails the homing at the position of its step. -/
theorem State.stepPulse_exhausts (hb : h.braking = false) (he : h.edge = none) (hd : h.travel + 1 = h.distance) {d : Dir}
    (hdir : (s.axis a).direction = some d) (hpulse : (s.axis a).pulse = none) (hpause : (s.axis a).pause = none)
    (hp : s.power.state = .present) (ht : (s.axis a).tracking = none)
    (hw : 0 < (s.axis a).speedSq ∨ (s.axis a).wishes s.clock.ra d) :
    s.stepPulse a = (s.setAxis a ((s.axis a).pulsed s.clock.ra d)).failHoming a := by
  have hmay : (s.axis a).mayStep s.clock.ra d = true := by
    refine (mayStep_iff ..).mpr ⟨by rw [hs]; rfl, hpulse, hpause, hw, fun k hk => ?_⟩
    rw [hh] at hk
    cases hk
    refine Bool.eq_false_iff.mpr fun c => ?_
    have := ((exhausted_iff _).mp c).2.2
    omega
  have hpresent : s.drivePresent = true := by
    unfold State.drivePresent
    rw [hp]
    rfl
  have hself := State.setAxis_axis_self s a ((s.axis a).pulsed s.clock.ra d)
  have htest : (s.setAxis a ((s.axis a).pulsed s.clock.ra d)).testTracking a false = s.setAxis a ((s.axis a).pulsed s.clock.ra d) :=
    (testTracking_axis _ a false).1 (by rw [hself]; exact ht)
  have hcounted := Axis.pulsed_homing (ra := s.clock.ra) (d := d) hh hb he
  have hexhausted : ({ h with travel := h.travel + 1 } : Homing).exhausted = true :=
    (exhausted_iff _).mpr ⟨hb, he, by dsimp only; omega⟩
  unfold State.stepPulse
  rw [hdir]
  dsimp only
  rw [hpresent, hmay, Bool.and_self, if_pos rfl]
  change ((s.setAxis a ((s.axis a).pulsed s.clock.ra d)).testTracking a false).testSearch a = _
  rw [htest]
  unfold State.testSearch
  rw [hself, show ((s.axis a).pulsed s.clock.ra d).state = .homing from hs, hcounted]
  exact if_pos hexhausted

end Exhausted

theorem State.failHoming_pulse (s : State) (a : AxisId) : ((s.failHoming a).axis a).pulse = (s.axis a).pulse := by
  obtain ⟨b, hb⟩ := s.faultLost_axis a fun x => x.faulted .homeNotFound ((s.axis a).homing.map (·.reversals))
  rw [State.failHoming_eq, hb]
  rfl

end Sys2Proof.Machine
end

section
/-! PROOFS. A homing completes (05 R103, 09 R186: O52): the axis stands, and the last member of a return sequence takes the resume. -/

namespace Sys2Proof.Machine

/-! ## What the resume leaves (R186) -/

/-- Position, its being known and the homing are as they were. -/
def Axis.staysPlaced (x y : Axis) : Prop := y.position = x.position ∧ y.known = x.known ∧ y.homing = x.homing

theorem Axis.staysPlaced.refl (x : Axis) : x.staysPlaced x := ⟨rfl, rfl, rfl⟩

theorem Axis.staysPlaced.trans {x y z : Axis} (h : x.staysPlaced y) (k : y.staysPlaced z) : x.staysPlaced z :=
  ⟨k.1.trans h.1, k.2.1.trans h.2.1, k.2.2.trans h.2.2⟩

theorem Axis.StageEnds.staysPlaced {x y : Axis} (h : x.StageEnds y) : x.staysPlaced y := by
  rw [h.sameButStage]
  exact ⟨rfl, rfl, rfl⟩

section Resume

variable (s : State) (q : ReturnRecord)

theorem State.resumeAxis_staysPlaced (a b : AxisId) : (s.axis b).staysPlaced ((s.resumeAxis a).axis b) := by
  by_cases hb : b = a
  · subst hb
    by_cases hres : (s.axis b).resumable = true
    · obtain ⟨_, _, hk, _⟩ := ((s.axis b).resumable_iff).mp hres
      obtain ⟨l, hl⟩ := State.trackAxis_self (s := s) hk
      rw [State.resumeAxis_taken hres, hl]
      exact ⟨rfl, rfl, rfl⟩
    · rw [State.resumeAxis_idle (Bool.eq_false_iff.mpr hres)]
      exact .refl _
  · exact (State.resumeAxis_other hb).staysPlaced

theorem State.resumeAll_staysPlaced (b : AxisId) : (s.axis b).staysPlaced ((s.resumeAll q).axis b) :=
  foldl_keeps (P := fun t : State => (s.axis b).staysPlaced (t.axis b)) (fun t a h => h.trans (t.resumeAxis_staysPlaced a b)) _ _
    ((s.endsStages_endMembers _ _).axis b).staysPlaced

theorem State.leaves_resumeAxis (a : AxisId) : s.Leaves (s.resumeAxis a) := by
  unfold State.resumeAxis
  split
  · exact s.leaves_trackAxis a
  · exact .refl s

theorem State.leaves_resumeAll : s.Leaves (s.resumeAll q) :=
  foldl_keeps (P := fun t => s.Leaves t) (fun t a h => h.trans (t.leaves_resumeAxis a)) _ _
    (s.endsStages_endMembers _ _).toWorks.leaves

theorem State.resumeReturn_axis (b : AxisId) : (s.resumeReturn q).axis b = { (s.resumeAll q).axis b with resumeMark := false } := by
  rw [State.resumeReturn_unmark, State.unmark_axis, (s.resumeAll q).runWhere_only]
  rfl

theorem State.resumeReturn_signals : (s.resumeReturn q).signals = (s.resumeAll q).signals := by
  rw [State.resumeReturn_eq, State.clearMarks_only, (s.resumeAll q).runWhere_only]
  rfl

theorem State.resumeReturn_entry (p : Port) (k : NoticeKind) : (s.resumeReturn q).entry p k = (s.resumeAll q).entry p k := by
  rw [State.resumeReturn_eq, State.clearMarks_only, (s.resumeAll q).runWhere_only]
  rfl

theorem State.resumeReturn_power : (s.resumeReturn q).power = { s.power with sequence := none, outcome := .resumed } := by
  rw [State.resumeReturn_unmark, ← (s.leaves_resumeAll q).power]
  rfl

theorem State.resumeReturn_wasRunning : (s.resumeReturn q).clock.wasRunning = false := by
  rw [State.resumeReturn_unmark]
  rfl

theorem State.resumeReturn_sky (h : s.clock.state ≠ .settling) :
    (s.resumeReturn q).clock.state = if q.wasRunning then .running else s.clock.state := by
  have hstate := (s.recovers_resumeAll q).sky h
  have hrun := State.runWhere_state (s := s.resumeAll q) (by rw [hstate]; exact h) q.wasRunning
  rw [hstate] at hrun
  rw [State.resumeReturn_unmark]
  exact hrun

/-- The axes the resume takes, and the others. -/
theorem State.resumeReturn_takes {b : AxisId} {z : Axis} (hres : (s.axis b).resumable = z.resumable)
    (hstate : (s.axis b).state = z.state) : ((s.resumeReturn q).axis b).resumeMark = false ∧
      (b ∈ q.resume → z.resumable = true → ((s.resumeReturn q).axis b).state = .tracking) ∧
      (b ∉ q.resume ∨ z.resumable = false → ((s.resumeReturn q).axis b).state = z.state) := by
  rw [State.resumeReturn_axis, ← hres, ← hstate]
  exact ⟨rfl, State.resumeAll_mem, fun h => (State.resumeAll_other h).spared.state⟩

end Resume

/-! ## The axis homed (R103) -/

/-- The axis at rest where its homing found it. -/
def Axis.homed (x : Axis) : Axis := { x.still with homing := none, known := true, state := .standing }

/-- The homing completed and told. -/
def State.homedAt (s : State) (a : AxisId) : State :=
  ((s.setAxis a (s.axis a).homed).event (.axisHomed a)).notifyAxis .axisHomed a

section HomedAt

variable (s : State) (a : AxisId)

theorem State.axisHomed_completes {s : State} {a : AxisId} {h : Homing} (hs : (s.axis a).state = .homing)
    (hh : (s.axis a).homing = some h) (he : h.edge ≠ none) : s.axisHomed a = (s.homedAt a).memberHomed a := by
  unfold State.axisHomed
  rw [hs, hh]
  exact if_pos (Option.isSome_iff_ne_none.mpr he)

theorem State.homedAt_axis (b : AxisId) : (s.homedAt a).axis b = if b = a then (s.axis a).homed else s.axis b := by
  unfold State.homedAt State.notifyAxis
  rw [State.axis_notify]
  exact s.setAxis_axis a b _

theorem State.homedAt_power : (s.homedAt a).power = s.power := State.notify_power ..

theorem State.homedAt_clock : (s.homedAt a).clock = s.clock := State.notify_clock ..

theorem State.homedAt_event : .event (.axisHomed a) none ∈ (s.homedAt a).signals := by
  unfold State.homedAt State.notifyAxis
  simp

theorem State.homedAt_tells {q : Port} (hq : q ∈ s.routedPorts .axisHomed (s.groupOf a)) :
    s.tells (s.homedAt a) q .axisHomed (some a.val) := by
  have hgroup : ((s.setAxis a (s.axis a).homed).event (.axisHomed a)).groupOf a = s.groupOf a := by
    unfold State.groupOf
    rw [show ((s.setAxis a (s.axis a).homed).event (.axisHomed a)).axis a = (s.setAxis a (s.axis a).homed).axis a from rfl,
      State.setAxis_axis_self]
    rfl
  unfold State.homedAt State.notifyAxis
  rw [hgroup]
  exact State.tells_of_entry (b := false) (State.notify_entry_routed ((s.setAxis a (s.axis a).homed).event (.axisHomed a)) hq ..)

end HomedAt

/-- What every completed homing leaves: the axis where it was found, known, and told. -/
structure State.CompletesHoming (s t : State) (a : AxisId) : Prop where
  known : (t.axis a).known = true
  homing : (t.axis a).homing = none
  position : (t.axis a).position = (s.axis a).position
  event : .event (.axisHomed a) none ∈ t.signals
  told : ∀ q ∈ s.routedPorts .axisHomed (s.groupOf a), s.tells t q .axisHomed (some a.val)

section Completes

variable {s t u : State} {a : AxisId}

theorem State.completesHoming_homedAt (s : State) (a : AxisId) : s.CompletesHoming (s.homedAt a) a where
  known := by rw [State.homedAt_axis, if_pos rfl]; rfl
  homing := by rw [State.homedAt_axis, if_pos rfl]; rfl
  position := by rw [State.homedAt_axis, if_pos rfl]; rfl
  event := s.homedAt_event a
  told := fun _ hq => s.homedAt_tells a hq

theorem State.CompletesHoming.withPower (h : s.CompletesHoming t a) (d : DrivePower) : s.CompletesHoming (t.withPower d) a :=
  ⟨h.known, h.homing, h.position, h.event, h.told⟩

theorem State.CompletesHoming.resumeReturn (h : s.CompletesHoming t a) (q : ReturnRecord) : s.CompletesHoming (t.resumeReturn q) a := by
  obtain ⟨hposition, hknown, hhoming⟩ := t.resumeAll_staysPlaced q a
  have hleaves := t.leaves_resumeAll q
  constructor
  case known => rw [State.resumeReturn_axis]; exact hknown.trans h.known
  case homing => rw [State.resumeReturn_axis]; exact hhoming.trans h.homing
  case position => rw [State.resumeReturn_axis]; exact hposition.trans h.position
  case event => rw [State.resumeReturn_signals]; exact hleaves.raised _ h.event
  case told =>
    exact fun p hp => (h.told p hp).of_entries rfl ((t.resumeReturn_entry q p _).trans (hleaves.entry p _ (by decide)))

end Completes

/-! ## The member of a return sequence (R186) -/

/-- The return record with the homing of a member completed. -/
def ReturnRecord.memberDone (q : ReturnRecord) (a : AxisId) : ReturnRecord :=
  { q with members := q.members.map fun m => if m.1 = a then (a, true) else m }

theorem ReturnRecord.memberDone_all (q : ReturnRecord) (a : AxisId) :
    (q.memberDone a).members.all (·.2) = true ↔ ∀ m ∈ q.members, m.1 ≠ a → m.2 = true := by
  unfold ReturnRecord.memberDone
  rw [List.all_map, List.all_eq_true]
  refine forall₂_congr fun m _ => ?_
  by_cases hm : m.1 = a <;> simp [hm]

section Member

variable {s : State} {a : AxisId} {q : ReturnRecord}

theorem State.memberHomed_alone (h : s.power.sequence = none) : s.memberHomed a = s := by
  unfold State.memberHomed
  rw [h]

theorem State.memberHomed_other (h : s.power.sequence = some q) (hm : (a, false) ∉ q.members) : s.memberHomed a = s := by
  unfold State.memberHomed
  rw [h]
  exact if_neg hm

theorem State.memberHomed_member (h : s.power.sequence = some q) (hm : (a, false) ∈ q.members) : s.memberHomed a =
    if (q.memberDone a).members.all (·.2) then
      (s.withPower { s.power with sequence := some (q.memberDone a) }).resumeReturn (q.memberDone a)
    else s.withPower { s.power with sequence := some (q.memberDone a) } := by
  unfold State.memberHomed
  rw [h]
  exact if_pos hm

end Member

end Sys2Proof.Machine
end

section
/-! PROOFS. The course of a homing settled (O52). -/

namespace Sys2Proof.Machine

/-! ## The axis homed, by the return sequence it finds -/

/-- An axis the resume does not take, by the conditions of R186. -/
theorem Axis.resumable_false {x : Axis} (h : x.resumeMark = false ∨ x.state ∉ [.standing, .slewing, .stopping] ∨ x.known = false ∨
    x.record.binding = none ∨ ∃ side, x.limitMemory = some side ∧ x.limitLevel side = true) : x.resumable = false := by
  refine Bool.eq_false_iff.mpr fun c => ?_
  obtain ⟨hmark, hstate, hknown, hbound, hmemory⟩ := x.resumable_iff.mp c
  rcases h with h | h | h | h | ⟨side, hside, hlevel⟩
  · exact Bool.false_ne_true (h.symm.trans hmark)
  · exact h hstate
  · exact Bool.false_ne_true (h.symm.trans hknown)
  · exact hbound h
  · exact Bool.false_ne_true ((hmemory side hside).symm.trans hlevel)

/-- The axes as the resume finds them once a homing has completed. -/
theorem State.homedAt_alike {s : State} {a b : AxisId} {z : Axis}
    (hz : z = if b = a then { s.axis a with state := .standing, known := true } else s.axis b) :
    ((s.homedAt a).axis b).resumable = z.resumable ∧ ((s.homedAt a).axis b).state = z.state := by
  rw [State.homedAt_axis, hz]
  split <;> exact ⟨rfl, rfl⟩

section AxisHomed

variable {s : State} {a : AxisId} {q : ReturnRecord}

theorem State.completesHoming_memberHomed (s : State) (a : AxisId) : s.CompletesHoming ((s.homedAt a).memberHomed a) a := by
  have hhomed := s.completesHoming_homedAt a
  cases hq : (s.homedAt a).power.sequence with
  | none =>
    rw [State.memberHomed_alone hq]
    exact hhomed
  | some q =>
    by_cases hm : (a, false) ∈ q.members
    · rw [State.memberHomed_member hq hm]
      split
      · exact (hhomed.withPower _).resumeReturn _
      · exact hhomed.withPower _
    · rw [State.memberHomed_other hq hm]
      exact hhomed

theorem State.homedAt_standing (s : State) (a : AxisId) : ((s.homedAt a).axis a).state = .standing := by
  rw [State.homedAt_axis, if_pos rfl]
  rfl

theorem State.homedAt_sequence (hq : s.power.sequence = some q) : (s.homedAt a).power.sequence = some q := by
  rw [State.homedAt_power]
  exact hq

/-- A homing outside a return sequence. -/
theorem State.homed_alone (hq : s.power.sequence = none) : (((s.homedAt a).memberHomed a).axis a).state = .standing ∧
    ∀ b, b ≠ a → ((s.homedAt a).memberHomed a).axis b = s.axis b := by
  rw [State.memberHomed_alone (by rw [State.homedAt_power]; exact hq)]
  refine ⟨s.homedAt_standing a, fun b hb => ?_⟩
  rw [State.homedAt_axis, if_neg hb]

/-- A homing of an axis that the return sequence does not wait for. -/
theorem State.homed_other (hq : s.power.sequence = some q) (hm : (a, false) ∉ q.members) :
    ((s.homedAt a).memberHomed a).power.sequence = some q ∧ (((s.homedAt a).memberHomed a).axis a).state = .standing := by
  rw [State.memberHomed_other (State.homedAt_sequence hq) hm]
  exact ⟨State.homedAt_sequence hq, s.homedAt_standing a⟩

/-- A member's homing while others are still in theirs. -/
theorem State.homed_waiting (hq : s.power.sequence = some q) (hm : (a, false) ∈ q.members)
    (hwait : ∃ m ∈ q.members, m.1 ≠ a ∧ m.2 = false) : (((s.homedAt a).memberHomed a).axis a).state = .standing ∧
      ((s.homedAt a).memberHomed a).power.sequence = some (q.memberDone a) := by
  have hopen : ¬ (q.memberDone a).members.all (·.2) = true := fun c => by
    obtain ⟨m, hmem, hne, hfalse⟩ := hwait
    exact Bool.false_ne_true (hfalse.symm.trans ((q.memberDone_all a).mp c m hmem hne))
  rw [State.memberHomed_member (State.homedAt_sequence hq) hm, if_neg hopen]
  exact ⟨s.homedAt_standing a, rfl⟩

/-- The last member's homing takes the resume. -/
theorem State.homed_last (hq : s.power.sequence = some q) (hm : (a, false) ∈ q.members)
    (hlast : ∀ m ∈ q.members, m.1 ≠ a → m.2 = true) :
    ((s.homedAt a).memberHomed a).power.sequence = none ∧ ((s.homedAt a).memberHomed a).power.outcome = .resumed ∧
      ((s.homedAt a).memberHomed a).clock.wasRunning = false ∧
      (s.clock.state ≠ .settling →
        ((s.homedAt a).memberHomed a).clock.state = if q.wasRunning then .running else s.clock.state) ∧
      ∀ b z, z = (if b = a then { s.axis a with state := .standing, known := true } else s.axis b) →
        (((s.homedAt a).memberHomed a).axis b).resumeMark = false ∧
        (b ∈ q.resume → z.resumable = true → (((s.homedAt a).memberHomed a).axis b).state = .tracking) ∧
        (b ∉ q.resume ∨ z.resumable = false → (((s.homedAt a).memberHomed a).axis b).state = z.state) := by
  rw [State.memberHomed_member (State.homedAt_sequence hq) hm, if_pos ((q.memberDone_all a).mpr hlast), State.resumeReturn_power,
    State.resumeReturn_wasRunning]
  refine ⟨rfl, rfl, rfl, fun hsky => ?_, fun b z hz => ?_⟩
  · have hclock : ((s.homedAt a).withPower { (s.homedAt a).power with sequence := some (q.memberDone a) }).clock = s.clock :=
      s.homedAt_clock a
    rw [State.resumeReturn_sky _ _ (by rw [hclock]; exact hsky), hclock]
    rfl
  · obtain ⟨hres, hstate⟩ := State.homedAt_alike hz
    exact State.resumeReturn_takes _ (q.memberDone a) hres hstate

end AxisHomed

/-! ## The commands of a homing -/

section Course

variable {s : State} {a : AxisId} {h : Homing} {late : Option Bool} (hrun : s.phase = .running)
include hrun

theorem exec_searchExhausted : exec (.homingSearchExhausted a late) s = .next (s.searchExhausted a late).drain :=
  exec_event_running (f := fun s => s.searchExhausted a late) rfl hrun

/-- Out of HOMING the commands of a homing change nothing, but for a failure taken second. -/
theorem answers_out_of_homing (hs : (s.axis a).state ≠ .homing) : Answers (.clearPhaseRest a) s s ∧ Answers (.axisHomed a) s s ∧
    (late = none ∨ (s.axis a).state ≠ .faulted → Answers (.homingSearchExhausted a late) s s) := by
  refine ⟨answers_event (f := fun s => s.clearRest a) rfl hrun (State.clearRest_idle hs) id,
    answers_event (f := fun s => s.axisHomed a) rfl hrun (State.axisHomed_idle hs) id, fun hl => ?_⟩
  have hnone : s.searchExhausted a late = s := by
    cases late with
    | none => exact State.searchExhausted_alone hs
    | some b => exact (State.searchExhausted_late hs b).trans (State.lateHoming_live (hl.resolve_left nofun) b)
  exact answers_event (f := fun s => s.searchExhausted a late) rfl hrun hnone id

variable (hs : (s.axis a).state = .homing) (hh : (s.axis a).homing = some h)
include hs hh

/-- R100: the rest of CLEAR begins the search. -/
theorem exec_clearRest_begins (hp : h.phase = .clear) (hb : h.braking = true) : exec (.clearPhaseRest a) s = .next
    (s.setAxis a { s.axis a with
      speedSq := 0, direction := none, pause := none
      homing := some { h with phase := .seek, braking := false, travel := 0 } }).drain := by
  rw [exec_event_running (f := fun s => s.clearRest a) rfl hrun, State.clearRest_homing hs hh, if_pos ⟨hp, hb⟩]
  rfl

theorem answers_clearRest_none (hc : h.phase = .seek ∨ h.braking = false) : Answers (.clearPhaseRest a) s s := by
  refine answers_event (f := fun s => s.clearRest a) rfl hrun ((State.clearRest_homing hs hh).trans (if_neg fun k => ?_)) id
  obtain ⟨hp, hb⟩ := k
  rcases hc with hc | hc
  · exact absurd (hc.symm.trans hp) (by decide)
  · exact Bool.false_ne_true (hc.symm.trans hb)

theorem exec_axisHomed_edge (he : h.edge ≠ none) : exec (.axisHomed a) s = .next ((s.homedAt a).memberHomed a).drain := by
  rw [← State.axisHomed_completes hs hh he]
  exact exec_event_running (f := fun s => s.axisHomed a) rfl hrun

theorem answers_search_goes_on (hc : h.braking = true ∨ h.edge ≠ none ∨ h.travel + 1 < h.distance) :
    Answers (.homingSearchExhausted a late) s s := by
  obtain ⟨hnow, hnext⟩ := Homing.counted_not_exhausted hc
  refine answers_event (f := fun s => s.searchExhausted a late) rfl hrun ((State.searchExhausted_homing hs hh late).trans ?_) id
  rw [hnow, hnext]
  rfl

variable (hb : h.braking = false) (he : h.edge = none)
include hb he

/-- A count that stands at the search distance already fails without a step (R104). -/
theorem exec_search_over (hd : h.distance ≤ h.travel) : ∃ t : State, exec (.homingSearchExhausted a late) s = .next t.drain ∧
    s.failsSearch t a h.reversals (s.axis a).position := by
  have hfails := State.failsSearch_failHoming (s := s) (a := a) (y := s.axis a) hh rfl rfl rfl rfl
  rw [State.setAxis_same] at hfails
  rw [exec_searchExhausted hrun, State.searchExhausted_homing hs hh, if_pos ((exhausted_iff h).mpr ⟨hb, he, hd⟩)]
  exact ⟨_, rfl, hfails⟩

/-- One step short of the search distance the command is the pulse (R104, log 27). -/
theorem exec_search_pulse (hd : h.travel + 1 = h.distance) :
    exec (.homingSearchExhausted a late) s = exec (.stepPulse a) s := by
  have hnot : ¬ h.exhausted = true := fun c => by
    have := ((exhausted_iff h).mp c).2.2
    omega
  have hnext : h.counted.exhausted = true := by
    rw [Homing.counted_counting hb he]
    exact (exhausted_iff _).mpr ⟨hb, he, by dsimp only; omega⟩
  rw [exec_searchExhausted hrun, State.searchExhausted_homing hs hh, if_neg hnot, if_pos hnext]
  exact (exec_event_running (f := fun s => s.stepPulse a) rfl hrun).symm

/-- The pulse that reaches the search distance fails the homing at the position of its step. -/
theorem exec_pulse_fails (hd : h.travel + 1 = h.distance) {d : Dir} (hdir : (s.axis a).direction = some d)
    (hpulse : (s.axis a).pulse = none) (hpause : (s.axis a).pause = none) (hp : s.power.state = .present)
    (ht : (s.axis a).tracking = none) (hw : 0 < (s.axis a).speedSq ∨ (s.axis a).wishes s.clock.ra d) :
    ∃ (t : State) (q : Position), exec (.stepPulse a) s = .next t.drain ∧ (s.axis a).oneStepOn d q ∧
      s.failsSearch t a h.reversals q ∧ (t.axis a).pulse = some (s.axis a).record.pulseWidth := by
  refine ⟨(s.setAxis a ((s.axis a).pulsed s.clock.ra d)).failHoming a, (s.axis a).stepped d, ?_, stepped_oneStepOn (s.axis a) d, ?_, ?_⟩
  · rw [← State.stepPulse_exhausts hs hh hb he hd hdir hpulse hpause hp ht hw]
    exact exec_event_running (f := fun s => s.stepPulse a) rfl hrun
  · exact State.failsSearch_failHoming (h := { h with travel := h.travel + 1 }) (Axis.pulsed_homing hh hb he) rfl rfl rfl rfl
  · rw [State.failHoming_pulse, State.setAxis_axis_self]
    rfl

end Course

/-- Settles O52: the levels of HOME by `Axis.homeEdge_clear` and `Axis.homeEdge_seek`, the failures by `State.failsSearch_failHoming`,
the completion by the cases of `State.memberHomed`. -/
theorem homingTakesItsCourse : Obligations.HomingTakesItsCourse := by
  intro s a x v f late hrun hx hf
  subst hx
  obtain rfl : f = (s.axis a).filterAccepted v := hf
  refine ⟨answers_homeInput_same hrun, answers_homeInput_idle hrun, answers_out_of_homing hrun, fun b hb hs => ?_,
    fun h hs hh => ⟨fun hv => ⟨fun hp => (answers_homeInput_clear hrun hv hs hh hp).1, fun hp => (answers_homeInput_clear hrun hv hs hh hp).2,
      fun hp => (answers_homeInput_seek hrun hv hs hh hp).1, fun hp hl he n hn => ?_⟩, exec_clearRest_begins hrun hs hh,
      answers_clearRest_none hrun hs hh,
      fun he => answers_event (f := fun s => s.axisHomed a) rfl hrun (State.axisHomed_early hs hh he) id, fun he => ?_,
      answers_search_goes_on hrun hs hh, fun hb he => ⟨exec_search_over hrun hs hh hb he, fun hd => ?_⟩⟩⟩
  · subst hb
    have hlate := State.searchExhausted_late (s := s) (a := a) (by rw [hs]; decide) b
    exact ⟨_, (exec_searchExhausted hrun).trans (by rw [hlate]), State.lateHoming_effects hs b⟩
  · obtain rfl : n = ({ s.axis a with home := (s.axis a).filterAccepted v } : Axis).homeCount h := hn
    exact ⟨_, fun hk => Axis.assigned_limited_spec h hk, fun hk => Axis.assigned_continuous_spec h hk,
      (answers_homeInput_seek hrun hv hs hh hp).2 hl he _ rfl⟩
  · have hdone := s.completesHoming_memberHomed a
    refine ⟨_, exec_axisHomed_edge hrun hs hh he, hdone.known, hdone.homing, hdone.position, hdone.event, hdone.told,
      State.homed_alone, fun q hq => ⟨State.homed_other hq, fun hm => ⟨State.homed_waiting hq hm, fun hlast => ?_⟩⟩⟩
    obtain ⟨hseq, hout, hflag, hsky, haxis⟩ := State.homed_last hq hm hlast
    refine ⟨hseq, hout, hflag, hsky, fun b z hz => ?_⟩
    obtain ⟨hmark, htaken, hleft⟩ := haxis b z hz
    exact ⟨hmark, fun ⟨hmem, hres⟩ => htaken hmem (z.resumable_iff.mpr hres), fun hnot => hleft (hnot.imp_right Axis.resumable_false)⟩
  · have hpulse := exec_search_pulse (late := late) hrun hs hh hb he hd
    refine ⟨hpulse, fun d hdir hnone hpause hp ht hw => ?_⟩
    rw [hpulse]
    exact exec_pulse_fails hrun hs hh hb he hd hdir hnone hpause hp ht hw

end Sys2Proof.Machine
end

section
/-! PROOFS. Enable, Disable and Declare Reference (04 R69, R70: O31), and Home (05 R98, R99: O35): the requests on an axis that rests. -/

namespace Sys2Proof.Machine

/-! ## The requests behind their first checks -/

/-- The axis enabled, before FLT is looked at (R69, R68). -/
def Axis.enabled (x : Axis) : Axis := { x with state := if x.known then .standing else .unreferenced, stagedAt := none }

/-- The axis as Disable leaves it (R69). -/
def Axis.disabled (x : Axis) : Axis := { x with state := .disabled }

/-- The axis as Declare Reference leaves it (R70). -/
def Axis.declaredAt (q : Position) (x : Axis) : Axis := { x with position := q, known := true, state := .standing, stagedAt := none }

section Resting

variable {s : State} {p : Port} {a : AxisId} (h : s.holds p (s.groupOf a) = true) (hh : s.held = false)
include h hh

theorem enable_disabled (hs : (s.axis a).state = .disabled) :
    enable p a.val s = axisOk a ((s.setAxis a (s.axis a).enabled).checkDrive a) := by
  unfold enable
  rw [onAxis_taken h hh, hs]
  rfl

theorem enable_enabled (hs : (s.axis a).state = .unreferenced ∨ (s.axis a).state = .standing) : enable p a.val s = axisOk a s := by
  unfold enable
  rw [onAxis_taken h hh]
  rcases hs with hs | hs <;> rw [hs]

theorem enable_refused (hs : (s.axis a).state ∉ [.disabled, .unreferenced, .standing]) : enable p a.val s = refuse .state s := by
  simp only [List.mem_cons, List.not_mem_nil, or_false, not_or] at hs
  obtain ⟨hdisabled, hunreferenced, hstanding⟩ := hs
  unfold enable
  rw [onAxis_taken h hh]
  split
  · rename_i hs
    exact absurd hs hdisabled
  · rename_i hs
    exact absurd hs hunreferenced
  · rename_i hs
    exact absurd hs hstanding
  · rfl

theorem disable_refused (hs : (s.axis a).state ∉ [.disabled, .unreferenced, .standing]) : disable p a.val s = refuse .state s := by
  simp only [List.mem_cons, List.not_mem_nil, or_false, not_or] at hs
  obtain ⟨hdisabled, hunreferenced, hstanding⟩ := hs
  unfold disable
  rw [onAxis_taken h hh]
  split
  · rename_i hs
    exact absurd hs hunreferenced
  · rename_i hs
    exact absurd hs hstanding
  · rename_i hs
    exact absurd hs hdisabled
  · rfl

theorem disable_disabled (hs : (s.axis a).state = .disabled) : disable p a.val s = axisOk a s := by
  unfold disable
  rw [onAxis_taken h hh, hs]

theorem disable_unreferenced (hs : (s.axis a).state = .unreferenced) :
    disable p a.val s = axisOk a (s.setAxis a (s.axis a).disabled) := by
  unfold disable
  rw [onAxis_taken h hh, hs]
  rfl

theorem disable_standing (hs : (s.axis a).state = .standing) :
    disable p a.val s = axisOk a ((s.endPart a).modAxis a Axis.disabled) := by
  unfold disable
  rw [onAxis_taken h hh, hs]
  rfl

theorem declareReference_refused (hs : (s.axis a).state ≠ .unreferenced) (hs' : (s.axis a).state ≠ .standing) (hi lo : BitVec 32) :
    declareReference p a.val hi lo s = refuse .state s := by
  unfold declareReference
  rw [onAxis_taken h hh]
  exact if_neg fun c => c.elim hs hs'

theorem declareReference_error (hs : (s.axis a).state = .unreferenced ∨ (s.axis a).state = .standing) {hi lo : BitVec 32} {st : Status}
    (hd : (s.axis a).declared hi lo = .error st) : declareReference p a.val hi lo s = refuse st s := by
  unfold declareReference
  rw [onAxis_taken h hh]
  refine (if_pos hs).trans ?_
  rw [hd]

theorem declareReference_ok (hs : (s.axis a).state = .unreferenced ∨ (s.axis a).state = .standing) {hi lo : BitVec 32} {q : Position}
    (hd : (s.axis a).declared hi lo = .ok q) : declareReference p a.val hi lo s =
      axisOk a ((s.endPart a).modAxis a (Axis.declaredAt q)) := by
  unfold declareReference
  rw [onAxis_taken h hh]
  refine (if_pos hs).trans ?_
  rw [hd]
  rfl

theorem home_refused (hs : (s.axis a).state ≠ .unreferenced ∧ (s.axis a).state ≠ .standing ∨ (s.axis a).record.sensor = false) :
    home p a.val s = refuse .state s := by
  unfold home
  rw [onAxis_taken h hh]
  rcases hs with hs | hs
  · exact if_pos hs
  · rw [hs]
    exact (ite_self _).trans rfl

theorem home_begins (hs : (s.axis a).state = .unreferenced ∨ (s.axis a).state = .standing) (hr : (s.axis a).record.sensor = true) :
    home p a.val s = axisOk a (s.beginHoming a .request) := by
  unfold home
  rw [onAxis_taken h hh]
  refine (if_neg fun c => hs.elim c.1 c.2).trans ?_
  rw [hr]
  rfl

end Resting

theorem axisOk_setAxis {s : State} {a : AxisId} {y : Axis} (hg : y.record = (s.axis a).record) :
    axisOk a (s.setAxis a y) = answerOk ((s.setAxis a y).restartLease (s.groupOf a)) := by
  unfold axisOk State.groupOf
  rw [State.setAxis_axis_self, hg]

/-! ## The position Declare Reference carries (R70) -/

section Declared

variable {x : Axis} {hi lo : BitVec 32}

theorem declared_beyondTurn (hk : x.record.kind = .continuous) (h : x.record.stepsPerTurn ≤ lo.toNat) :
    x.declared hi lo = .error .badValue := by
  unfold Axis.declared
  rw [hk]
  exact if_pos h

theorem declared_continuous (hk : x.record.kind = .continuous) (h : lo.toNat < x.record.stepsPerTurn) :
    x.declared hi lo = .ok ⟨hi.toInt, lo.toNat⟩ := by
  unfold Axis.declared
  rw [hk]
  exact if_neg (Nat.not_le.mpr h)

variable {l m : Int} (hk : x.record.kind = .limited) (hsoft : x.record.soft = some (l, m))
include hk hsoft

theorem declared_outside (h : hi.toInt < l ∨ m < hi.toInt) : x.declared hi lo = .error .range := by
  unfold Axis.declared
  rw [hk, hsoft]
  exact if_pos h

theorem declared_within (h1 : l ≤ hi.toInt) (h2 : hi.toInt ≤ m) : x.declared hi lo = .ok ⟨0, hi.toInt⟩ := by
  unfold Axis.declared
  rw [hk, hsoft]
  exact if_neg fun c => c.elim (Int.not_lt.mpr h1) (Int.not_lt.mpr h2)

end Declared

/-! ## What an answered request leaves of the axes -/

/-- A request on an axis carried out at a READY port: its reply is OK, and the axes are as its effect leaves them. -/
theorem axisOk_leaves {s u : State} {p : Port} {tag : Byte} {q : Request} {i : Instr} {a : AxisId} (hi : i.request = some q)
    (hsend : i.sender = some (p, tag)) (hr : s.ready p) (e : serve p q (s.outstand p tag (requestByte q)) = now (axisOk a u)) :
    ∃ t : State, exec i s = .next t.drain ∧ (t.port p).reply = some (Reply.done.frame tag (requestByte q)) ∧
      ∀ b, t.axis b = u.axis b :=
  ⟨_, axisOk_answered hi hsend hr e, State.enterReply_reply .., fun _ => rfl⟩

/-! ## The part of the axis ends (R68, R86) -/

section EndPart

variable {s : State} {a : AxisId} {f : Axis → Axis}

/-- The request's change of the axis, once its part in a stage or group motion has ended. -/
theorem State.endPart_modAxis_self : ∃ l, ((s.endPart a).modAxis a f).axis a = f { s.axis a with stage := none, lastStage := l } := by
  obtain ⟨l, hl⟩ := s.endPart_self a
  exact ⟨l, by rw [State.modAxis_axis_self, hl]⟩

theorem State.endPart_modAxis_other {b : AxisId} (hb : b ≠ a) : (s.axis b).sameButStage (((s.endPart a).modAxis a f).axis b) := by
  rw [State.modAxis_axis_of_ne _ _ hb]
  exact ((s.endsStages_endPart a).axis b).sameButStage

end EndPart

/-! ## A homing begins (R99) -/

theorem Axis.losePosition_resting {x : Axis} (h : x.state ≠ .homing) :
    ∃ m e, x.losePosition = { x with known := false, position := ⟨0, 0⟩, limitMemory := m, stagedAt := e } := by
  obtain ⟨p, m, e, heq, hzero, _⟩ := x.losePosition_eq
  exact ⟨m, e, by rw [heq, hzero (.inr h)]⟩

/-- An axis at rest as its homing begins (R99). -/
def Axis.searching (x : Axis) (l : StageOutcome) (st : HomingStarter) : Axis :=
  { x with
    state := .homing, known := false, position := ⟨0, 0⟩, limitMemory := none, stagedAt := none, stage := none
    target := none, stopping := none, tracking := none, lastStage := l, homing := some (x.newHoming st) }

theorem State.beginHoming_searching {s : State} {a : AxisId} (h : (s.axis a).state ≠ .homing) (st : HomingStarter) :
    ∃ l, (s.beginHoming a st).axis a = (s.axis a).searching l st := by
  obtain ⟨l, hl⟩ := (s.endMemberships a).endStage_self a .ended false
  rw [((s.endsStages_endMemberships a).axis a).without_stage l] at hl
  obtain ⟨m, e, hlost⟩ := Axis.losePosition_resting (x := { s.axis a with stage := none, lastStage := l }) h
  unfold State.beginHoming
  rw [State.modAxis_axis_self, hl, hlost]
  exact ⟨l, rfl⟩

theorem newHoming_eq (x : Axis) (st : HomingStarter) : x.newHoming st =
    { phase := if x.home.accepted = x.record.homeRising then .clear else .seek
      braking := false, direction := x.record.homeDirection, speed := x.record.homeSpeed
      activeHigh := x.record.homeRising, filter := x.record.homeFilter, offset := x.record.homeOffset
      distance := x.record.searchDistance, travel := 0, reversals := 0, edge := none, starter := st } := by
  simp only [Axis.newHoming, beq_iff_eq]

/-! ## The requests as they are answered -/

section Answered

variable {s : State} {p : Port} {tag : Byte} {a : AxisId} (hr : s.ready p)
  (hown : s.holderOf (.group (s.axis a).record.group) = some p) (hhalt : s.power.halt.accepted = false)
  (hpow : s.power.state = .present)
include hr hown hhalt hpow

theorem answers_enable_enables (hs : (s.axis a).state = .disabled) (hf : (s.axis a).flt.accepted = false) :
    Answers (.enable p tag a.val) s
      (((s.setAxis a (s.axis a).enabled).restartLease (.group (s.axis a).record.group)).replied p tag 54 .done) := by
  have he := enable_disabled (holds_group_outstand hown tag 54) (not_held_outstand p tag 54 hhalt hpow) hs
  rw [State.checkDrive_none (by rw [State.setAxis_axis_self]; exact hf)] at he
  replace he := he.trans (axisOk_setAxis rfl)
  refine answers_request (q := .enable a.val) rfl rfl hr (congrArg now he) fun k => ?_
  refine (k.setAxis_configurable (by rw [hs]; rfl) ?_).restartLease _
  unfold Axis.enabled
  cases (s.axis a).known <;> rfl

/-- FLT active already faults the axis as it is enabled (R175). -/
theorem enable_faults (hs : (s.axis a).state = .disabled) (hf : (s.axis a).flt.accepted = true) :
    ∃ t : State, exec (.enable p tag a.val) s = .next t.drain ∧ (t.axis a).state = .faulted ∧
      (t.axis a).fault.first = some .driveFault ∧ (t.port p).reply = some (Reply.done.frame tag 54) := by
  have he : enable p a.val (s.outstand p tag 54) = axisOk a (((s.outstand p tag 54).setAxis a (s.axis a).enabled).checkDrive a) :=
    enable_disabled (holds_group_outstand hown tag 54) (not_held_outstand p tag 54 hhalt hpow) hs
  have hlive : (s.axis a).enabled.state.live = true := by
    unfold Axis.enabled
    cases (s.axis a).known <;> rfl
  have hfault : ((s.outstand p tag 54).setAxis a (s.axis a).enabled).checkDrive a =
      ((s.outstand p tag 54).setAxis a (s.axis a).enabled).driveFault a := by
    refine if_pos ?_
    rw [State.setAxis_axis_self]
    exact ⟨hf, beq_iff_eq.mpr hpow, hlive⟩
  obtain ⟨⟨l, b, hx⟩, _⟩ := ((s.outstand p tag 54).setAxis a (s.axis a).enabled).driveFault_effects a
  rw [hfault] at he
  obtain ⟨t, hexec, hreply, haxis⟩ := axisOk_leaves (i := .enable p tag a.val) (q := .enable a.val) rfl rfl hr (congrArg now he)
  refine ⟨t, hexec, ?_, ?_, hreply⟩ <;> rw [haxis, hx] <;> rfl

theorem answers_disable_unreferenced (hs : (s.axis a).state = .unreferenced) :
    Answers (.disable p tag a.val) s
      (((s.setAxis a (s.axis a).disabled).restartLease (.group (s.axis a).record.group)).replied p tag 55 .done) := by
  have he := disable_unreferenced (holds_group_outstand hown tag 55) (not_held_outstand p tag 55 hhalt hpow) hs
  replace he := he.trans (axisOk_setAxis rfl)
  exact answers_request (q := .disable a.val) rfl rfl hr (congrArg now he) fun k =>
    (k.setAxis_configurable (by rw [hs]; rfl) rfl).restartLease _

theorem disable_ends_part (hs : (s.axis a).state = .standing) :
    ∃ t : State, exec (.disable p tag a.val) s = .next t.drain ∧ (t.port p).reply = some (Reply.done.frame tag 55) ∧
      t.axis a = { s.axis a with state := .disabled, stage := none, lastStage := (t.axis a).lastStage } ∧
      ∀ b, b ≠ a → (s.axis b).sameButStage (t.axis b) := by
  have he := disable_standing (holds_group_outstand hown tag 55) (not_held_outstand p tag 55 hhalt hpow) hs
  obtain ⟨l, hl⟩ := State.endPart_modAxis_self (s := s.outstand p tag 55) (a := a) (f := .disabled)
  have hother (b : AxisId) (hb : b ≠ a) := State.endPart_modAxis_other (s := s.outstand p tag 55) (f := .disabled) hb
  obtain ⟨t, hexec, hreply, haxis⟩ := axisOk_leaves (i := .disable p tag a.val) (q := .disable a.val) rfl rfl hr (congrArg now he)
  refine ⟨t, hexec, hreply, ?_, fun b hb => (haxis b).symm ▸ hother b hb⟩
  rw [haxis, hl]
  rfl

theorem declareReference_declares (hs : (s.axis a).state = .unreferenced ∨ (s.axis a).state = .standing) {hi lo : BitVec 32}
    {q : Position} (hd : (s.axis a).declared hi lo = .ok q) :
    ∃ t : State, exec (.declareReference p tag a.val hi lo) s = .next t.drain ∧ (t.port p).reply = some (Reply.done.frame tag 56) ∧
      (∀ b, b ≠ a → (s.axis b).sameButStage (t.axis b)) ∧
      t.axis a = { s.axis a with state := .standing, known := true, position := q, stagedAt := none,
                                 stage := none, lastStage := (t.axis a).lastStage } := by
  have he := declareReference_ok (holds_group_outstand hown tag 56) (not_held_outstand p tag 56 hhalt hpow) hs hd
  obtain ⟨l, hl⟩ := State.endPart_modAxis_self (s := s.outstand p tag 56) (a := a) (f := .declaredAt q)
  have hother (b : AxisId) (hb : b ≠ a) := State.endPart_modAxis_other (s := s.outstand p tag 56) (f := .declaredAt q) hb
  obtain ⟨t, hexec, hreply, haxis⟩ := axisOk_leaves (i := .declareReference p tag a.val hi lo) (q := .declareReference a.val hi lo)
    rfl rfl hr (congrArg now he)
  refine ⟨t, hexec, hreply, fun b hb => (haxis b).symm ▸ hother b hb, ?_⟩
  rw [haxis, hl]
  rfl

theorem home_searches (hs : (s.axis a).state = .unreferenced ∨ (s.axis a).state = .standing) (hsensor : (s.axis a).record.sensor = true) :
    ∃ t : State, exec (.home p tag a.val) s = .next t.drain ∧ (t.port p).reply = some (Reply.done.frame tag 60) ∧
      (∀ b, b ≠ a → (s.axis b).sameButStage (t.axis b)) ∧ t.axis a = (s.axis a).searching (t.axis a).lastStage .request := by
  have he := home_begins (holds_group_outstand hown tag 60) (not_held_outstand p tag 60 hhalt hpow) hs hsensor
  have hne : (s.axis a).state ≠ .homing := fun c => by rcases hs with hs | hs <;> exact nomatch hs.symm.trans c
  obtain ⟨l, hl⟩ := State.beginHoming_searching (s := s.outstand p tag 60) hne .request
  have hother (b : AxisId) (hb : b ≠ a) := (State.beginHoming_other (s := s.outstand p tag 60) hb .request).sameButStage
  obtain ⟨t, hexec, hreply, haxis⟩ := axisOk_leaves (i := .home p tag a.val) (q := .home a.val) rfl rfl hr (congrArg now he)
  refine ⟨t, hexec, hreply, fun b hb => (haxis b).symm ▸ hother b hb, ?_⟩
  rw [haxis, hl]
  rfl

end Answered

/-- Settles O31: Enable and Disable by the axis's state, Declare Reference by `Axis.declared`. -/
theorem enableDisableAndDeclare : Obligations.EnableDisableAndDeclare := by
  refine ⟨fun s p tag n hi lo hr hn => ⟨?_, ?_, ?_⟩, fun s p tag a x hi lo hr hx hown hhalt hpow => ?_⟩
  · exact answers_unchanged (q := .enable n) rfl rfl hr (congrArg now (onAxis_unknown hn _))
  · exact answers_unchanged (q := .disable n) rfl rfl hr (congrArg now (onAxis_unknown hn _))
  · exact answers_unchanged (q := .declareReference n hi lo) rfl rfl hr (congrArg now (onAxis_unknown hn _))
  subst hx
  have hhold (c : Byte) := holds_group_outstand hown tag c
  have hheld (c : Byte) := not_held_outstand p tag c hhalt hpow
  have refused {st : Status} (hs : (s.axis a).state = .unreferenced ∨ (s.axis a).state = .standing)
      (hd : (s.axis a).declared hi lo = .error st) : Answers (.declareReference p tag a.val hi lo) s (s.replied p tag 56 (.no st)) :=
    answers_unchanged (q := .declareReference a.val hi lo) rfl rfl hr
      (congrArg now (declareReference_error (hhold 56) (hheld 56) hs hd))
  refine ⟨answers_enable_enables hr hown hhalt hpow, enable_faults hr hown hhalt hpow, fun hs => ?_, fun hs => ⟨?_, ?_⟩, fun hs => ?_,
    answers_disable_unreferenced hr hown hhalt hpow, disable_ends_part hr hown hhalt hpow, fun hs hs' => ?_, fun hs =>
      ⟨fun hk => ⟨fun h => refused hs (declared_beyondTurn hk h), fun h =>
        declareReference_declares hr hown hhalt hpow hs (declared_continuous hk h)⟩,
      fun hk l m hsoft => ⟨fun h => refused hs (declared_outside hk hsoft h), fun h1 h2 =>
        declareReference_declares hr hown hhalt hpow hs (declared_within hk hsoft h1 h2)⟩⟩⟩
  · exact axisOk_unchanged (q := .enable a.val) rfl rfl hr (congrArg now (enable_enabled (hhold 54) (hheld 54) hs))
  · exact answers_unchanged (q := .enable a.val) rfl rfl hr (congrArg now (enable_refused (hhold 54) (hheld 54) hs))
  · exact answers_unchanged (q := .disable a.val) rfl rfl hr (congrArg now (disable_refused (hhold 55) (hheld 55) hs))
  · exact axisOk_unchanged (q := .disable a.val) rfl rfl hr (congrArg now (disable_disabled (hhold 55) (hheld 55) hs))
  · exact answers_unchanged (q := .declareReference a.val hi lo) rfl rfl hr
      (congrArg now (declareReference_refused (hhold 56) (hheld 56) hs hs' hi lo))

/-- Settles O35: a search by `home_searches`, its record by `newHoming_eq`. -/
theorem homeBeginsASearch : Obligations.HomeBeginsASearch := by
  refine ⟨fun s p tag n hr hn => answers_unchanged (q := .home n) rfl rfl hr (congrArg now (onAxis_unknown hn _)),
    fun s p tag a x hr hx hown hhalt hpow => ?_⟩
  subst hx
  have refused (h : (s.axis a).state ≠ .unreferenced ∧ (s.axis a).state ≠ .standing ∨ (s.axis a).record.sensor = false) :
      Answers (.home p tag a.val) s (s.replied p tag 60 (.no .state)) :=
    answers_unchanged (q := .home a.val) rfl rfl hr
      (congrArg now (home_refused (holds_group_outstand hown tag 60) (not_held_outstand p tag 60 hhalt hpow) h))
  refine ⟨fun h1 h2 => refused (.inl ⟨h1, h2⟩), fun h => refused (.inr h), fun hs hsensor => ?_⟩
  obtain ⟨t, hexec, hreply, hothers, haxis⟩ := home_searches (tag := tag) hr hown hhalt hpow hs hsensor
  refine ⟨t, hexec, hreply, hothers, haxis.trans ?_⟩
  rw [Axis.searching, newHoming_eq]

end Sys2Proof.Machine
end

section
/-! PROOFS. The filters of the inputs and the pulses of the outputs (05 R97, 09 R166, R169, 10 R211): O56. -/

namespace Sys2Proof.Machine

/-! ## One sample of a fixed filter -/

section Sample

variable {f : Filter} {v : Bool}

theorem Filter.accepts_held (h : f.accepted = v) (n : Nat) : f.accepts n v = false := by
  simp [Filter.accepts, h]

theorem Filter.accepts_short (h : f.run < 3) : f.accepts fixedLength v = false := by
  simp [Filter.accepts, fixedLength, show ¬ 4 ≤ f.run + 1 by omega]

theorem Filter.accepts_full (h : f.accepted ≠ v) (hr : 3 ≤ f.run) : f.accepts fixedLength v = true := by
  simp [Filter.accepts, fixedLength, Ne.symm h, hr]

theorem Filter.sample_held (h : f.accepted = v) : f.sample v = { f with run := 0 } := if_pos h.symm

theorem Filter.sample_apart (h : f.accepted ≠ v) : f.sample v = { f with run := f.run + 1 } := if_neg (Ne.symm h)

end Sample

/-! ## The lines with a fixed filter -/

section Lines

variable {s : State} {v : Bool} {a : AxisId}

theorem State.haltSample_counts (h : s.power.halt.accepts fixedLength v = false) :
    s.haltSample v = s.withPower { s.power with halt := s.power.halt.sample v } := by
  simp [State.haltSample, h]

theorem State.haltSample_changes (h : s.power.halt.accepts fixedLength v = true) :
    s.haltSample v = if v then s.assertHalt else s.haltDeasserted := by
  simp [State.haltSample, h]

theorem State.okSample_counts (h : s.power.ok.accepts fixedLength v = false) :
    s.okSample v = s.withPower { s.power with ok := s.power.ok.sample v } := by
  simp [State.okSample, h]

theorem State.okSample_changes (h : s.power.ok.accepts fixedLength v = true) :
    s.okSample v = if v then s.drivePowerActive else s.drivePowerInactive := by
  simp [State.okSample, h]

theorem State.fltSample_counts (h : (s.axis a).flt.accepts fixedLength v = false) :
    s.fltSample a v = s.setAxis a { s.axis a with flt := (s.axis a).flt.sample v } := by
  simp [State.fltSample, h, State.modAxis]

theorem State.fltSample_changes (h : (s.axis a).flt.accepts fixedLength v = true) : s.fltSample a v = s.fltChanged a v := by
  simp [State.fltSample, h]

theorem State.plusSample_counts (h : (s.axis a).limP.accepts fixedLength v = false) :
    s.limitSample a .plus v = s.setAxis a { s.axis a with limP := (s.axis a).limP.sample v } := by
  simp [State.limitSample, h, State.modAxis, Axis.setLimit]

theorem State.plusSample_changes (h : (s.axis a).limP.accepts fixedLength v = true) :
    s.limitSample a .plus v = s.limitChanged a .plus v none := by
  simp [State.limitSample, h]

theorem State.minusSample_counts (h : (s.axis a).limN.accepts fixedLength v = false) :
    s.limitSample a .minus v = s.setAxis a { s.axis a with limN := (s.axis a).limN.sample v } := by
  simp [State.limitSample, h, State.modAxis, Axis.setLimit]

theorem State.minusSample_changes (h : (s.axis a).limN.accepts fixedLength v = true) :
    s.limitSample a .minus v = s.limitChanged a .minus v none := by
  simp [State.limitSample, h]

theorem State.resetSample_counts (h : s.resetLine.accepts fixedLength v = false) :
    s.resetSample v = { s with resetLine := s.resetLine.sample v } := by
  simp [State.resetSample, h]

theorem State.resetSample_changes (h : s.resetLine.accepts fixedLength v = true) :
    s.resetSample v = if v then { s with resetLine := ⟨v, 0⟩ }.lineReset else { s with resetLine := ⟨v, 0⟩ } := by
  simp [State.resetSample, h]

end Lines

/-! ## HOME and the TRIG inputs -/

section Runs

variable {s : State} {v : Bool} {a : AxisId} {t : TrigId}

theorem Axis.eq_homeLength {x : Axis} {n : Nat} (hsearch : ∀ h, x.homing = some h → n = h.filter)
    (hnone : x.homing = none → n = x.record.homeFilter) : n = x.homeLength := by
  unfold Axis.homeLength
  split
  · next h hx => exact hsearch h hx
  · next hx => exact hnone hx

theorem State.homeSample_held (h : (s.axis a).home.accepted = v) :
    s.homeSample a v = s.setAxis a { s.axis a with home := ⟨v, 0, (s.axis a).position, 0, 0⟩ } := by
  simp [State.homeSample, h, State.modAxis]

theorem State.homeSample_changes (h : (s.axis a).home.accepted ≠ v) (hn : (s.axis a).homeLength ≤ (s.axis a).home.run + 1) :
    s.homeSample a v = s.homeChanged a v := by
  simp [State.homeSample, Ne.symm h, hn]

theorem State.homeSample_begins (h : (s.axis a).home.accepted ≠ v) (hr : (s.axis a).home.run = 0) (hn : 1 < (s.axis a).homeLength) :
    s.homeSample a v = s.setAxis a { s.axis a with home := ⟨!v, 1, (s.axis a).position, 0, 0⟩ } := by
  have haccepted : (s.axis a).home.accepted = !v := Bool.eq_not_iff.mpr h
  simp [State.homeSample, haccepted, hr, hn, State.modAxis, Axis.homeRun]

theorem State.homeSample_counts (h : (s.axis a).home.accepted ≠ v) (hr : (s.axis a).home.run ≠ 0)
    (hn : (s.axis a).home.run + 1 < (s.axis a).homeLength) :
    s.homeSample a v = s.setAxis a { s.axis a with home := { (s.axis a).home with run := (s.axis a).home.run + 1 } } := by
  simp [State.homeSample, Ne.symm h, Nat.not_le.mpr hn, hr, State.modAxis, Axis.homeRun]

theorem State.trigSample_held (h : s.trigs[t].accepted = v) :
    s.trigSample t v = { s with trigs := s.trigs.set t { s.trigs[t] with run := 0, snap := none } } := by
  simp only [State.trigSample, if_pos h.symm]

theorem State.trigSample_begins (h : s.trigs[t].accepted ≠ v) (hr : s.trigs[t].run = 0) (hn : 1 < s.trigs[t].length) :
    s.trigSample t v = { s with trigs := s.trigs.set t { s.trigs[t] with run := 1, snap := some s.skySnap } } := by
  simp only [State.trigSample, if_neg (Ne.symm h), hr, if_neg (show ¬ s.trigs[t].length ≤ 0 + 1 by omega), if_pos, Nat.zero_add]

theorem State.trigSample_counts {k : SkySnap} (h : s.trigs[t].accepted ≠ v) (hk : s.trigs[t].snap = some k) (hr : s.trigs[t].run ≠ 0)
    (hn : s.trigs[t].run + 1 < s.trigs[t].length) :
    s.trigSample t v = { s with trigs := s.trigs.set t { s.trigs[t] with run := s.trigs[t].run + 1 } } := by
  simp only [State.trigSample, if_neg (Ne.symm h), if_neg hr, if_neg (Nat.not_le.mpr hn), hk, Option.getD_some]

/-- The accepting sample carries the snapshot of the run's first sample: its own, where the run is of this sample alone. -/
theorem State.trigSample_changes (h : s.trigs[t].accepted ≠ v) (hn : s.trigs[t].length ≤ s.trigs[t].run + 1)
    (hs : s.trigs[t].run = 0 ↔ s.trigs[t].snap = none) : s.trigSample t v = s.trigChanged t v := by
  have hsnap : (if s.trigs[t].run = 0 then s.skySnap else s.trigs[t].snap.getD s.skySnap) = s.trigs[t].snap.getD s.skySnap := by
    split
    · next hr => rw [hs.mp hr, Option.getD_none]
    · rfl
  simp only [State.trigSample, State.trigChanged, if_neg (Ne.symm h), if_neg h, if_pos hn, hsnap]

theorem State.pulseExpiry_pulsing {o : OutputId} {n : Nat} (h : s.outputs[o] = .pulsing n) :
    s.pulseExpiry o = s.setOutput o .inactive := by
  simp [State.pulseExpiry, h]

theorem State.pulseExpiry_otherwise {o : OutputId} (h : ∀ n, s.outputs[o] ≠ .pulsing n) : s.pulseExpiry o = s := by
  unfold State.pulseExpiry
  split
  · next n hn => exact absurd hn (h n)
  · rfl
  · rfl

end Runs

/-! ## The answers to a sample -/

theorem eventOf_inputSample {line : InputLine} {v : Bool} (hl : line ≠ .reset) :
    eventOf (.inputSample line v) = some fun s => s.inputSample line v :=
  if_neg hl

section Answers

variable {s t : State} {v : Bool} {line : InputLine} (hr : s.phase = .running)
include hr

theorem answers_sample (e : s.inputSample line v = t) (hq : s.Quiet → t.Quiet) (hl : line ≠ .reset := by nofun) :
    Answers (.inputSample line v) s t :=
  answers_event (eventOf_inputSample hl) hr e hq

/-- A sample that completes a run is the accepted change. -/
theorem exec_sample_change {i : Instr} {f : State → State} (h : eventOf i = some f) (e : s.inputSample line v = f s)
    (hl : line ≠ .reset := by nofun) :
    exec (.inputSample line v) s = exec i s := by
  rw [exec_event_running (eventOf_inputSample hl) hr, exec_event_running h hr, e]

/-- A sample that a filter of an axis counts changes that filter alone. -/
theorem answers_sample_axis {a : AxisId} {x : Axis} (e : s.inputSample line v = s.setAxis a x)
    (hx : x = { s.axis a with limP := x.limP, limN := x.limN, flt := x.flt, home := x.home }) (hl : line ≠ .reset := by nofun) :
    Answers (.inputSample line v) s (s.setAxis a x) :=
  answers_sample hr e (fun k => k.setAxis_alike (by rw [hx]) (by rw [hx]) (by rw [hx]) (by rw [hx])) hl

end Answers

section Settling

variable {s : State} {v : Bool} (hr : s.phase = .running)
include hr

theorem answers_haltSample (h : s.power.halt.accepts fixedLength v = false) :
    Answers (.inputSample .halt v) s (s.withPower { s.power with halt := s.power.halt.sample v }) :=
  answers_sample hr (State.haltSample_counts h) (quiet_of_same rfl rfl rfl rfl rfl)

theorem exec_haltSample (h : s.power.halt.accepts fixedLength v = true) :
    exec (.inputSample .halt v) s = if v then exec .haltLineAsserted s else exec .haltLineDeasserted s := by
  have e := State.haltSample_changes h
  cases v
  · exact exec_sample_change (line := .halt) (i := .haltLineDeasserted) hr rfl e
  · exact exec_sample_change (line := .halt) (i := .haltLineAsserted) hr rfl e

theorem answers_okSample (h : s.power.ok.accepts fixedLength v = false) :
    Answers (.inputSample .drivePowerOk v) s (s.withPower { s.power with ok := s.power.ok.sample v }) :=
  answers_sample hr (State.okSample_counts h) (quiet_of_same rfl rfl rfl rfl rfl)

theorem exec_okSample (h : s.power.ok.accepts fixedLength v = true) :
    exec (.inputSample .drivePowerOk v) s = if v then exec .drivePowerOkActive s else exec .drivePowerOkInactive s := by
  have e := State.okSample_changes h
  cases v
  · exact exec_sample_change (line := .drivePowerOk) (i := .drivePowerOkInactive) hr rfl e
  · exact exec_sample_change (line := .drivePowerOk) (i := .drivePowerOkActive) hr rfl e

theorem answers_trigSample {t : TrigId} {x : TrigInput} (e : s.trigSample t v = { s with trigs := s.trigs.set t x }) :
    Answers (.inputSample (.trig t) v) s { s with trigs := s.trigs.set t x } :=
  answers_sample hr e (quiet_of_same rfl rfl rfl rfl rfl)

end Settling

/-- Settles O56: each line's sample is held, counted or accepted, by its filter's run; RESET is sampled in reset too. -/
theorem filtersAcceptAtTheirLength : Obligations.FiltersAcceptAtTheirLength := by
  unfold Obligations.FiltersAcceptAtTheirLength
  refine ⟨?_, ?_, ?_⟩
  · rintro s a x v hr rfl
    refine ⟨fun h => ?_, fun h => ⟨fun hn => ?_, fun hn => exec_haltSample hr (Filter.accepts_full h hn)⟩,
      fun h => ?_, fun h => ⟨fun hn => ?_, fun hn => exec_okSample hr (Filter.accepts_full h hn)⟩,
      fun h => ?_, fun h => ⟨fun hn => ?_, fun hn => exec_sample_change hr rfl (State.fltSample_changes (Filter.accepts_full h hn))⟩,
      fun h => ?_, fun h hn => ?_, fun h hn => exec_sample_change hr rfl (State.plusSample_changes (Filter.accepts_full h hn)),
      fun h => ?_, fun h hn => ?_, fun h hn => exec_sample_change hr rfl (State.minusSample_changes (Filter.accepts_full h hn)),
      fun h => answers_sample_axis hr (State.homeSample_held h) rfl, fun n hsearch hnone h => ?_⟩
    · exact Filter.sample_held h ▸ answers_haltSample hr (Filter.accepts_held h _)
    · exact Filter.sample_apart h ▸ answers_haltSample hr (Filter.accepts_short hn)
    · exact Filter.sample_held h ▸ answers_okSample hr (Filter.accepts_held h _)
    · exact Filter.sample_apart h ▸ answers_okSample hr (Filter.accepts_short hn)
    · exact Filter.sample_held h ▸ answers_sample_axis hr (State.fltSample_counts (Filter.accepts_held h _)) rfl
    · exact Filter.sample_apart h ▸ answers_sample_axis hr (State.fltSample_counts (Filter.accepts_short hn)) rfl
    · exact Filter.sample_held h ▸ answers_sample_axis hr (State.plusSample_counts (Filter.accepts_held h _)) rfl
    · exact Filter.sample_apart h ▸ answers_sample_axis hr (State.plusSample_counts (Filter.accepts_short hn)) rfl
    · exact Filter.sample_held h ▸ answers_sample_axis hr (State.minusSample_counts (Filter.accepts_held h _)) rfl
    · exact Filter.sample_apart h ▸ answers_sample_axis hr (State.minusSample_counts (Filter.accepts_short hn)) rfl
    · obtain rfl := Axis.eq_homeLength hsearch hnone
      exact ⟨fun h0 hn => answers_sample_axis hr (State.homeSample_begins h h0 hn) rfl,
        fun h0 hn => answers_sample_axis hr (State.homeSample_counts h h0 hn) rfl,
        fun hn => exec_sample_change hr rfl (State.homeSample_changes h hn)⟩
  · intro s v
    refine ⟨fun h => ?_, fun h hn => ?_, fun h hn => ?_⟩
    · rw [← Filter.sample_held h, ← State.resetSample_counts (Filter.accepts_held h _)]
      rfl
    · rw [← Filter.sample_apart h, ← State.resetSample_counts (Filter.accepts_short hn)]
      rfl
    · have e : exec (.inputSample .reset v) s = .next (s.resetSample v) := rfl
      rw [State.resetSample_changes (Filter.accepts_full h hn)] at e
      refine ⟨fun hv => ?_, fun hv => ?_⟩
      · subst hv
        exact e
      · subst hv
        exact e
  · intro s t v o hr
    refine ⟨fun h => answers_trigSample hr (State.trigSample_held h), fun h hn => ⟨fun h0 => ?_, fun k hk h0 => ?_⟩,
      fun h hn hs => exec_sample_change hr rfl (State.trigSample_changes h hn hs), fun n hn => ?_, fun hn => ?_⟩
    · exact answers_trigSample hr (State.trigSample_begins h h0 (by omega))
    · exact answers_trigSample hr (State.trigSample_counts h hk h0 hn)
    · exact answers_event (f := fun s => s.pulseExpiry o) rfl hr (State.pulseExpiry_pulsing hn) (quiet_of_same rfl rfl rfl rfl rfl)
    · exact answers_event (f := fun s => s.pulseExpiry o) rfl hr (State.pulseExpiry_otherwise hn) id

end Sys2Proof.Machine
end

section
/-! PROOFS. How motions start and end (04 R66, R67, R73, R74, R76, R88, R93, 05 R105, R106: O51). -/

namespace Sys2Proof.Machine

/-! ## A quiet part stays quiet -/

section Quiet

variable {s : State} {a : AxisId} {y : Axis}

theorem State.settledRunners_setAxis_rest (hx : (s.axis a).state ≠ .tracking) (hy : y.state ≠ .tracking) :
    (s.setAxis a y).settledRunners = s.settledRunners := by
  have hmet (c : Cue) : (s.setAxis a y).settledMet c = s.settledMet c := by
    unfold State.settledMet
    cases groupIdOf c.settledGroup with
    | none => rfl
    | some g => exact State.groupSettled_setAxis_rest hx hy g
  refine List.filter_congr fun r _ => ?_
  rw [show (s.setAxis a y).waitingOn r = s.waitingOn r from rfl]
  cases s.waitingOn r with
  | none => rfl
  | some c =>
    dsimp only
    rw [hmet c]

/-- An axis that neither was nor is in TRACKING, and comes to rest. -/
theorem State.Quiet.setAxis_rest (h : s.Quiet) (hx : (s.axis a).state ≠ .tracking) (hy : y.state ≠ .tracking)
    (hm : y.state.moving = false) : (s.setAxis a y).Quiet := by
  obtain ⟨hsignals, hrunners, hmotion⟩ := h
  refine ⟨hsignals, (State.settledRunners_setAxis_rest hx hy).trans hrunners, fun b hb => ?_⟩
  rw [State.setAxis_axis] at hb ⊢
  split
  · next hba =>
    rw [if_pos hba, hm] at hb
    exact absurd hb Bool.false_ne_true
  · next hba =>
    rw [if_neg hba] at hb
    exact hmotion b hb

end Quiet

/-! ## What the axes do when nothing else is left -/

section Drain

variable {s : State} (hs : s.signals = []) (hr : ∀ r c, s.waitsSettled r c → ¬ s.metAtEntry c)
include hr

theorem settledRunners_nil : s.settledRunners = [] :=
  List.eq_nil_iff_forall_not_mem.mpr fun r hm => by
    obtain ⟨c, hwaits, hmet⟩ := (mem_settledRunners s r).mp hm
    exact hr r c hwaits hmet

include hs

theorem drainFor_starts (n : Nat) : State.drainFor (n + 1) s =
    if s.startMotions.signals.isEmpty then s.startMotions else State.drainFor n s.startMotions := by
  rw [State.drainFor, hs, settledRunners_nil hr]
  rfl

theorem drainFor_starts_quietly (h : s.startMotions.signals = []) (n : Nat) : State.drainFor (n + 1) s = s.startMotions := by
  rw [drainFor_starts hs hr, h]
  rfl

theorem drainFor_starts_loudly (h : s.startMotions.signals ≠ []) (n : Nat) :
    State.drainFor (n + 1) s = State.drainFor n s.startMotions := by
  rw [drainFor_starts hs hr, if_neg fun c => h (List.isEmpty_iff.mp c)]

end Drain

/-! ## The start of one axis (R67, R93) -/

theorem AxisState.moving_iff (x : AxisState) : x.moving = true ↔ x ∈ [.homing, .slewing, .tracking, .stopping] := by
  cases x <;> decide

section Faulted

variable (s : State) (a : AxisId)

theorem State.hardLimitStop_state (side : LimitSide) : ((s.hardLimitStop a side).axis a).state = .faulted := by
  rw [State.hardLimitStop_eq, State.faultWith_axis]
  rfl

theorem State.hardLimitStop_dirHigh (side : LimitSide) : ((s.hardLimitStop a side).axis a).dirHigh = (s.axis a).dirHigh := by
  rw [State.hardLimitStop_eq, State.faultWith_axis]
  rfl

theorem State.failHoming_state : ((s.failHoming a).axis a).state = .faulted := by
  obtain ⟨b, hb⟩ := s.faultLost_axis a fun x => x.faulted .homeNotFound ((s.axis a).homing.map (·.reversals))
  rw [State.failHoming_eq, hb]
  rfl

theorem State.failHoming_dirHigh : ((s.failHoming a).axis a).dirHigh = (s.axis a).dirHigh := by
  obtain ⟨b, hb⟩ := s.faultLost_axis a fun x => x.faulted .homeNotFound ((s.axis a).homing.map (·.reversals))
  rw [State.failHoming_eq, hb]
  rfl

end Faulted

/-- An axis in a moving state, at rest, with drive power present. -/
def State.atStart (s : State) (a : AxisId) : Prop :=
  (s.axis a).state.moving = true ∧ (s.axis a).speedSq = 0 ∧ s.power.state = .present

/-- The search of a homing turned around: at rest, with the record turned (R105). -/
def Axis.turnedAround (x : Axis) (h : Homing) : Axis := { x.still with homing := some h.turned }

section Begin

variable (x : Axis) (d : Dir)

theorem Axis.begin_eq : x.begin d = { x with direction := some d, dirHigh := (x.begin d).dirHigh, pause := (x.begin d).pause } :=
  ((starts_iff x d _).mpr rfl).1

theorem Axis.begin_state : (x.begin d).state = x.state := by rw [Axis.begin_eq]

theorem Axis.begin_homing : (x.begin d).homing = x.homing := by rw [Axis.begin_eq]

theorem Axis.begin_position : (x.begin d).position = x.position := by rw [Axis.begin_eq]

theorem Axis.begin_record : (x.begin d).record = x.record := by rw [Axis.begin_eq]

theorem Axis.begin_known : (x.begin d).known = x.known := by rw [Axis.begin_eq]

theorem Axis.begin_limitMemory : (x.begin d).limitMemory = x.limitMemory := by rw [Axis.begin_eq]

theorem Axis.begin_speedSq : (x.begin d).speedSq = x.speedSq := by rw [Axis.begin_eq]

theorem Axis.begin_limitLevel (side : LimitSide) : (x.begin d).limitLevel side = x.limitLevel side := by
  rw [Axis.begin_eq]
  rfl

end Begin

section Start

variable {s : State} {a : AxisId} {d : Dir} {h : Homing}

theorem not_atStart (h : (s.axis a).state ∉ [.homing, .slewing, .tracking, .stopping] ∨ (s.axis a).speedSq ≠ 0 ∨
    s.power.state ≠ .present) : ¬ s.atStart a := fun ⟨hm, h0, hp⟩ =>
  h.elim (fun c => c ((AxisState.moving_iff _).mp hm)) fun c => c.elim (fun c => c h0) fun c => c hp

theorem startMotion_stands (hc : ¬ s.atStart a) (n : Nat) : s.startMotion a n = s := by
  cases n with
  | zero => rfl
  | succ n =>
    rw [State.startMotion]
    refine if_neg fun ⟨hm, h0, hp⟩ => hc ⟨hm, h0, ?_⟩
    exact beq_iff_eq.mp hp

variable (hat : s.atStart a)
include hat

theorem startMotion_unwishing (hw : ∀ d, ¬ (s.axis a).wishes s.clock.ra d) (n : Nat) : s.startMotion a (n + 1) =
    if (s.axis a).direction = none then s else s.setAxis a (s.axis a).still :=
  (startMotion_succ s a n hat.1 hat.2.1 hat.2.2).1 hw

theorem startMotion_going (hw : (s.axis a).wishes s.clock.ra d) (hd : (s.axis a).direction = some d) (n : Nat) :
    s.startMotion a (n + 1) = s := by
  rw [(startMotion_succ s a n hat.1 hat.2.1 hat.2.2).2 d hw, if_pos hd]

variable (hw : (s.axis a).wishes s.clock.ra d) (hd : (s.axis a).direction ≠ some d)
include hw hd

theorem startMotion_begins (hl : (s.axis a).limitLevel d.side = false) (n : Nat) :
    s.startMotion a (n + 1) = s.setAxis a ((s.axis a).begin d) := by
  rw [(startMotion_succ s a n hat.1 hat.2.1 hat.2.2).2 d hw, if_neg hd, hl]
  rfl

variable (hl : (s.axis a).limitLevel d.side = true)
include hl

theorem startMotion_meets (n : Nat) :
    s.startMotion a (n + 1) = ((s.setAxis a ((s.axis a).begin d)).limitMet a d.side).startMotion a n := by
  rw [(startMotion_succ s a n hat.1 hat.2.1 hat.2.2).2 d hw, if_neg hd, if_pos hl]

theorem startMotion_stopsAtLimit (hx : (s.axis a).state ∈ [.slewing, .tracking]) (n : Nat) :
    s.startMotion a (n + 1) = (s.setAxis a ((s.axis a).begin d)).hardLimitStop a d.side := by
  have hmoving : ((s.setAxis a ((s.axis a).begin d)).axis a).state ∈ [.slewing, .tracking, .stopping] := by
    rw [State.setAxis_axis_self, Axis.begin_state]
    exact List.mem_append_left [.stopping] hx
  rw [startMotion_meets hat hw hd hl, State.limitMet_moving hmoving]
  exact startMotion_still _ _ _ (by rw [State.hardLimitStop_state]; rfl)

variable (hx : (s.axis a).state = .homing) (hh : (s.axis a).homing = some h)
include hx hh

theorem startMotion_meets_homing (n : Nat) : s.startMotion a (n + 1) =
    ((s.setAxis a ((s.axis a).begin d)).homingLimit a h d.side).startMotion a n := by
  rw [startMotion_meets hat hw hd hl, State.limitMet_homing]
  · rw [State.setAxis_axis_self, Axis.begin_state, hx]
  · rw [State.setAxis_axis_self, Axis.begin_homing, hh]

theorem startMotion_failsSearch (hc : h.phase = .clear ∨ (h.edge = none ∧ h.reversals ≠ 0)) (n : Nat) :
    s.startMotion a (n + 1) = (s.setAxis a ((s.axis a).begin d)).failHoming a := by
  rw [startMotion_meets_homing hat hw hd hl hx hh, State.homingLimit_fails hc]
  exact startMotion_still _ _ _ (by rw [State.failHoming_state]; rfl)

theorem startMotion_turns (hp : h.phase = .seek) (he : h.edge = none) (hr : h.reversals = 0) (n : Nat) : s.startMotion a (n + 1) =
    (s.setAxis a (((s.axis a).begin d).turnedAround h)).startMotion a n := by
  rw [startMotion_meets_homing hat hw hd hl hx hh, State.homingLimit_turns hp he hr]
  unfold State.modAxis
  rw [State.setAxis_axis_self, State.setAxis_setAxis]
  rfl

end Start

/-- What the turn of a search in direction `d` comes to (R105): the new search starts the other way, or fails at a limit there. -/
theorem startMotion_turned {s : State} {a : AxisId} {d : Dir} {h : Homing} {w : Axis} (hat : s.atStart a)
    (hx : (s.axis a).state = .homing) (hp : h.phase = .seek) (hb : h.braking = false)
    (he : h.edge = none) (hd : d = h.direction) (hw : w = ((s.axis a).begin d).turnedAround h) (n : Nat) :
    ((s.axis a).limitLevel d.flip.side = false → (s.setAxis a w).startMotion a (n + 1) = s.setAxis a (w.begin d.flip)) ∧
    ((s.axis a).limitLevel d.flip.side = true →
      (s.setAxis a w).startMotion a (n + 1) = (s.setAxis a (w.begin d.flip)).failHoming a) := by
  have hself : (s.setAxis a w).axis a = w := s.setAxis_axis_self a w
  have hstate : w.state = .homing := by
    rw [hw]
    exact (Axis.begin_state _ d).trans hx
  have hhoming : w.homing = some h.turned := by rw [hw]; rfl
  have hstart : (s.setAxis a w).atStart a := by
    refine ⟨?_, ?_, hat.2.2⟩
    · rw [hself, hstate]; rfl
    · rw [hself, hw]; rfl
  have hwishes : ((s.setAxis a w).axis a).wishes (s.setAxis a w).clock.ra d.flip := by
    rw [hself]
    exact .inr (.inr ⟨h.turned, hstate, hhoming, hb, he, .inl ⟨hp, by rw [hd]; rfl⟩⟩)
  have hdir : ((s.setAxis a w).axis a).direction ≠ some d.flip := by
    rw [hself, hw]
    exact nofun
  have hlevel : ((s.setAxis a w).axis a).limitLevel d.flip.side = (s.axis a).limitLevel d.flip.side := by
    rw [hself, hw]
    exact Axis.begin_limitLevel (s.axis a) d _
  refine ⟨fun hl => ?_, fun hl => ?_⟩
  · rw [startMotion_begins hstart hwishes hdir (hlevel.trans hl), hself, State.setAxis_setAxis]
  · rw [startMotion_failsSearch (h := h.turned) hstart hwishes hdir (hlevel.trans hl) (by rw [hself, hstate]) (by rw [hself, hhoming])
      (.inr ⟨he, Nat.one_ne_zero⟩), hself, State.setAxis_setAxis]

/-! ## The ends of a motion (R66, R67, R76) -/

section Ends

variable {s : State} {a : AxisId}

theorem State.velocityZero_stops (hx : (s.axis a).state ∈ [.slewing, .tracking]) (h0 : (s.axis a).speedSq ≠ 0) :
    s.velocityZero a = s.setAxis a (s.axis a).still :=
  if_pos ⟨by simpa using hx, h0⟩

theorem State.velocityZero_stands (h : (s.axis a).state ∉ [.slewing, .tracking] ∨ (s.axis a).speedSq = 0) : s.velocityZero a = s :=
  if_neg fun ⟨hx, h0⟩ => h.elim (fun c => c (by simpa using hx)) h0

theorem State.stoppingRest_rests {k : Option Nat} {r : RestState} (hx : (s.axis a).state = .stopping)
    (hs : (s.axis a).stopping = some ⟨k, r⟩) : s.stoppingRest a = s.setAxis a ((s.axis a).atRest r) := by
  unfold State.stoppingRest
  rw [hx, hs]
  rfl

theorem State.stoppingRest_stands (h : (s.axis a).state ≠ .stopping ∨ (s.axis a).stopping = none) : s.stoppingRest a = s := by
  unfold State.stoppingRest
  split
  · next st hx hs => exact absurd (h.resolve_left (not_not.mpr hx)) (by rw [hs]; exact nofun)
  · rfl

theorem Axis.atRest_untracked (x : Axis) (r : RestState) : (x.atRest r).state ≠ .tracking ∧ (x.atRest r).state.moving = false := by
  cases r <;> exact ⟨nofun, rfl⟩

theorem State.axisArrived_stands (h : (s.axis a).state ≠ .slewing ∨ (s.axis a).target = none ∨ (s.axis a).speedSq ≠ 0 ∨
    ∀ r, (s.axis a).target = some r → (s.axis a).difference r.position (s.axis a).extended ≠ 0) : s.axisArrived a = s := by
  unfold State.axisArrived
  split
  · next r hx hr =>
    refine if_neg fun ⟨hd, h0⟩ => ?_
    rcases h with h | h | h | h
    · exact h hx
    · rw [hr] at h
      cases h
    · exact h h0
    · exact h r hr hd
  · rfl

theorem State.axisArrived_arrives {r : Target} (hx : (s.axis a).state = .slewing) (hr : (s.axis a).target = some r)
    (h0 : (s.axis a).speedSq = 0) (hd : (s.axis a).difference r.position (s.axis a).extended = 0) :
    s.axisArrived a = s.arrive a r := by
  unfold State.axisArrived
  rw [hx, hr]
  exact if_pos ⟨hd, h0⟩

end Ends

/-! ## Arrival (R73, R74, R88) -/

/-- An axis at its target: at rest and STANDING. -/
def Axis.arrived (x : Axis) : Axis := { x.still with state := .standing, target := none }

/-- The stage that led to a target ends ARRIVED; one that waits for a result yet to come stands (R74). -/
def State.endLedStage (s : State) (a : AxisId) (t : Target) : State :=
  if (s.axis a).stage.any (StagePending.ledTo · t) then s.endStage a .arrived false else s

/-- The axis at the target of a slew, its own stage ended, before the arrival is told. -/
def State.takeRest (s : State) (a : AxisId) (t : Target) : State :=
  match t.staged with
  | some y => ((s.modAxis a Axis.arrived).endLedStage a t).modAxis a fun x => { x with stagedAt := some y, lastStage := .arrived }
  | none => s.modAxis a Axis.arrived

theorem State.arrive_eq (s : State) (a : AxisId) (t : Target) : s.arrive a t =
    (((s.takeRest a t).event (.axisArrived a)).raise (.done (.slew t.serial))).memberArrived a := by
  unfold State.arrive State.takeRest
  cases t.staged <;> rfl

section LedStage

variable {s : State} {a : AxisId} {t : Target} {k : StagePending}

theorem State.endLedStage_ends (hk : (s.axis a).stage = some k) (hl : k.serial < t.serial) :
    s.endLedStage a t = s.endStage a .arrived false :=
  if_pos (by rw [hk]; exact decide_eq_true hl)

theorem State.endLedStage_stands (h : ∀ k, (s.axis a).stage = some k → t.serial ≤ k.serial) : s.endLedStage a t = s := by
  refine if_neg ?_
  cases hk : (s.axis a).stage with
  | none => exact Bool.false_ne_true
  | some k => exact fun c => absurd (of_decide_eq_true c) (Nat.not_lt.mpr (h k hk))

/-- A stage ended ARRIVED. -/
theorem State.endStage_arrived (hk : (s.axis a).stage = some k) (ho : k.owner = .single) :
    .done (.stage k.serial) ∈ (s.endStage a .arrived false).signals := by
  unfold State.endStage
  rw [hk]
  dsimp only
  rw [ho]
  simp

end LedStage

section TakeRest

variable (s : State) (a : AxisId) (t : Target)

theorem State.works_endLedStage : s.Works (s.endLedStage a t) := by
  unfold State.endLedStage
  split
  · exact s.works_endStage ..
  · exact .refl s

theorem State.endLedStage_axis (b : AxisId) : (s.endLedStage a t).axis b =
    if b = a then { s.axis a with stage := ((s.endLedStage a t).axis a).stage, lastStage := ((s.endLedStage a t).axis a).lastStage }
    else s.axis b := by
  unfold State.endLedStage
  split
  · by_cases hb : b = a
    · obtain ⟨l, hl⟩ := s.endStage_self a .arrived false
      rw [if_pos hb, hb, hl]
    · rw [if_neg hb, State.endStage_axis, if_neg fun c => hb c.1]
  · split
    · next hb => rw [hb]
    · rfl

theorem State.endLedStage_motions : (s.endLedStage a t).motions = s.motions := by
  unfold State.endLedStage
  split
  · exact s.endStage_motions ..
  · rfl

/-- Arrival changes the axis alone, in its stage and as it comes to rest. -/
theorem State.takeRest_axis (b : AxisId) : (s.takeRest a t).axis b =
    if b = a then { (s.axis a).arrived with stage := ((s.takeRest a t).axis a).stage, stagedAt := ((s.takeRest a t).axis a).stagedAt,
                                            lastStage := ((s.takeRest a t).axis a).lastStage }
    else s.axis b := by
  unfold State.takeRest
  cases t.staged with
  | none =>
    rw [State.modAxis_axis, State.modAxis_axis_self]
  | some y =>
    dsimp only
    rw [State.modAxis_axis, State.modAxis_axis_self]
    split
    · rw [State.endLedStage_axis, if_pos rfl, State.modAxis_axis_self]
    · next hb => rw [State.endLedStage_axis, if_neg hb, State.modAxis_axis_of_ne _ _ hb]

theorem State.takeRest_motions : (s.takeRest a t).motions = s.motions := by
  unfold State.takeRest
  cases t.staged with
  | none => rfl
  | some y => exact (State.endLedStage_motions ..).trans rfl

theorem State.arrive_takeRest (b : AxisId) : (s.arrive a t).axis b = (s.takeRest a t).axis b := by
  rw [State.arrive_eq, State.memberArrived_axis]
  rfl

theorem State.arrive_rests : ((s.arrive a t).axis a).state = .standing ∧ ((s.arrive a t).axis a).target = none ∧
    ((s.arrive a t).axis a).direction = none ∧ ((s.arrive a t).axis a).position = (s.axis a).position ∧
    ((s.arrive a t).axis a).known = (s.axis a).known ∧ ((s.arrive a t).axis a).dirHigh = (s.axis a).dirHigh := by
  rw [State.arrive_takeRest, State.takeRest_axis, if_pos rfl]
  exact ⟨rfl, rfl, rfl, rfl, rfl, rfl⟩

theorem State.arrive_raises (x : Signal) (h : x ∈ (s.takeRest a t).signals ∨ x = .done (.slew t.serial)) :
    x ∈ (s.arrive a t).signals := by
  rw [State.arrive_eq]
  refine (State.endsStages_memberArrived _ a).raised _ ?_
  rcases h with h | rfl
  · simp [h]
  · simp

end TakeRest

section Staged

variable {s : State} {a : AxisId} {t : Target} {y : StagedAt} {k : StagePending}

theorem State.takeRest_unstaged (h : t.staged = none) : s.takeRest a t = s.modAxis a Axis.arrived := by
  unfold State.takeRest
  rw [h]

theorem State.takeRest_staged (h : t.staged = some y) : s.takeRest a t =
    ((s.modAxis a Axis.arrived).endLedStage a t).modAxis a fun x => { x with stagedAt := some y, lastStage := .arrived } := by
  unfold State.takeRest
  rw [h]

theorem State.takeRest_ends (h : t.staged = some y) (hk : (s.axis a).stage = some k) (hl : k.serial < t.serial) :
    ((s.takeRest a t).axis a).stage = none ∧ (k.owner = .single → .done (.stage k.serial) ∈ (s.takeRest a t).signals) := by
  have hstage : ((s.modAxis a Axis.arrived).axis a).stage = some k := by
    rw [State.modAxis_axis_self]
    exact hk
  rw [State.takeRest_staged h, State.endLedStage_ends hstage hl]
  refine ⟨?_, fun ho => State.endStage_arrived hstage ho⟩
  rw [State.modAxis_axis_self, State.endStage_axis, if_pos ⟨rfl, by rw [hstage]; exact nofun⟩]

theorem State.takeRest_keeps (h : t.staged = some y) (hk : (s.axis a).stage = some k) (hl : t.serial ≤ k.serial) :
    ((s.takeRest a t).axis a).stage = some k := by
  have hstage : ((s.modAxis a Axis.arrived).axis a).stage = some k := by
    rw [State.modAxis_axis_self]
    exact hk
  have hstands (j : StagePending) (hj : ((s.modAxis a Axis.arrived).axis a).stage = some j) : t.serial ≤ j.serial := by
    cases hstage.symm.trans hj
    exact hl
  rw [State.takeRest_staged h, State.endLedStage_stands hstands, State.modAxis_axis_self]
  exact hstage

end Staged

/-- The last member's arrival puts its record in ARRIVED (R88). -/
theorem State.memberArrived_last {s : State} {a : AxisId} {g : GroupId} {m : GroupMotion} (h : s.motionOf a = some (g, m))
    (hm : m.state = .moving) (ho : ∀ z ∈ m.members, z.axis ≠ a → z.outcome ≠ .moving) :
    (s.memberArrived a).motions[g].map GroupMotion.state = some .arrived ∧
      .event (.groupArrived g) none ∈ (s.memberArrived a).signals := by
  have hnone : (m.members.map (·.settle a .arrived)).any (fun x => x.outcome == .moving) = false := by
    rw [List.any_map, List.any_eq_false]
    intro z hz
    simp only [Function.comp_apply, Member.settle, beq_iff_eq]
    split
    · exact nofun
    · next hza => exact ho z hz hza
  unfold State.memberArrived
  rw [h]
  dsimp only
  rw [if_pos ⟨hm, by rw [hnone]; rfl⟩]
  refine ⟨?_, by simp⟩
  change ((s.setMotion g _).motions[g]).map GroupMotion.state = _
  rw [State.setMotion_get, if_pos rfl]
  rfl

/-- Settles O51: the start of each axis by its wish and the limits it meets, and the end of each motion by its event. -/
theorem motionsComeToTheirEnds : Obligations.MotionsComeToTheirEnds := by
  unfold Obligations.MotionsComeToTheirEnds
  refine ⟨fun s => rfl, fun n s hs hr => ⟨fun h => drainFor_starts_quietly hs hr h n, fun h => drainFor_starts_loudly hs hr h n⟩,
    ?_, ?_⟩
  · rintro s t a x rfl rfl
    refine ⟨fun h => startMotion_stands (not_atStart h) 3, fun hm h0 hp => ?_⟩
    have hat : s.atStart a := ⟨(AxisState.moving_iff _).mpr hm, h0, hp⟩
    refine ⟨fun hw => ⟨fun hd => ?_, fun hd => ?_⟩, fun d hw => ⟨fun hd => startMotion_going hat hw hd 2, fun hd y hy => ?_⟩⟩
    · rw [startMotion_unwishing hat hw, if_pos hd]
    · rw [startMotion_unwishing hat hw, if_neg hd]
      rfl
    obtain rfl := (starts_iff _ d y).mp hy
    refine ⟨fun hl => startMotion_begins hat hw hd hl 2, fun hl => ⟨fun hx => ?_, fun h hx hh => ?_⟩⟩
    · rw [startMotion_stopsAtLimit hat hw hd hl hx, State.hardLimitStop_dirHigh, State.setAxis_axis_self]
      exact ⟨State.stopsAtLimit_hardLimitStop (Axis.begin_position _ d) (Axis.begin_record _ d) (Axis.begin_known _ d) _, rfl⟩
    · have hsearch : h.braking = false ∧ h.edge = none ∧ (h.phase = .seek → d = h.direction) := by
        rcases hw with ⟨r, c, _⟩ | ⟨c, _⟩ | ⟨k, _, hk, hb, he, hdir⟩
        · cases hx.symm.trans c
        · cases hx.symm.trans c
        · cases hh.symm.trans hk
          refine ⟨hb, he, fun hp => ?_⟩
          rcases hdir with ⟨_, hdir⟩ | ⟨hp', _⟩
          · exact hdir
          · cases hp.symm.trans hp'
      obtain ⟨hb, he, hdir⟩ := hsearch
      refine ⟨fun hc => ?_, fun hp hr z hz => ?_⟩
      · rw [startMotion_failsSearch hat hw hd hl hx hh (hc.imp_right fun hr => ⟨he, hr⟩), State.failHoming_dirHigh,
          State.setAxis_axis_self]
        exact ⟨State.failsSearch_failHoming ((Axis.begin_homing _ d).trans hh) (Axis.begin_position _ d) (Axis.begin_record _ d)
          (Axis.begin_known _ d) (Axis.begin_limitMemory _ d), rfl⟩
      · have hturned : { (s.axis a).begin d with
              direction := none, pause := none, homing := some { h with reversals := 1, direction := d.flip, travel := 0 } } =
            ((s.axis a).begin d).turnedAround h := by
          unfold Axis.turnedAround Axis.still Homing.turned
          rw [hdir hp, ← h0, ← Axis.begin_speedSq (s.axis a) h.direction]
        rw [hturned] at hz
        obtain rfl := (starts_iff _ d.flip z).mp hz
        obtain ⟨hfree, hblocked⟩ := startMotion_turned hat hx hp hb he (hdir hp) rfl 1
        rw [startMotion_turns hat hw hd hl hx hh hp he hr]
        refine ⟨hfree, fun hf => ?_⟩
        rw [hblocked hf, State.failHoming_dirHigh, State.setAxis_axis_self]
        refine ⟨State.failsSearch_failHoming (h := h.turned) (Axis.begin_homing _ _) ?_ ?_ ?_ ?_, rfl⟩
        · exact (Axis.begin_position _ _).trans (Axis.begin_position _ d)
        · exact (Axis.begin_record _ _).trans (Axis.begin_record _ d)
        · exact (Axis.begin_known _ _).trans (Axis.begin_known _ d)
        · exact (Axis.begin_limitMemory _ _).trans (Axis.begin_limitMemory _ d)
  · rintro s a x hrun rfl
    refine ⟨?_, ?_, fun hx h0 => ?_, fun h => ?_, fun h => ?_, fun k r hx hs => ?_, fun h => ?_,
      fun r hx hr h0 => ⟨fun hd => ?_, fun hd => ?_⟩⟩
    · exact answers_event (f := fun s => s.stepPulseEnd a) rfl hrun rfl fun k => k.setAxis_alike rfl rfl rfl rfl
    · exact answers_event (f := fun s => s.reversalPauseEnd a) rfl hrun rfl fun k => k.setAxis_alike rfl rfl rfl rfl
    · rw [exec_event_running (f := fun s => s.velocityZero a) rfl hrun, State.velocityZero_stops hx h0]
      rfl
    · exact answers_event (f := fun s => s.velocityZero a) rfl hrun (State.velocityZero_stands h) id
    · exact answers_event (f := fun s => s.stoppingRest a) rfl hrun (State.stoppingRest_stands h) id
    · obtain ⟨huntracked, hrests⟩ := (s.axis a).atRest_untracked r
      exact answers_event (f := fun s => s.stoppingRest a) rfl hrun (State.stoppingRest_rests hx hs) fun q =>
        q.setAxis_rest (by rw [hx]; exact nofun) huntracked hrests
    · exact answers_event (f := fun s => s.axisArrived a) rfl hrun (State.axisArrived_stands (by tauto)) id
    · refine answers_event (f := fun s => s.axisArrived a) rfl hrun (State.axisArrived_stands (.inr (.inr (.inr fun q hq => ?_)))) id
      cases hr.symm.trans hq
      exact hd
    · obtain ⟨hstate, htarget, hdir, hpos, hknown, hline⟩ := s.arrive_rests a r
      refine ⟨s.arrive a r, ?_, fun b hb => ?_, hstate, htarget, hdir, hpos, hknown, hline, s.arrive_event a r, s.arrive_raises a r _ (.inr rfl),
        fun hn => ?_, fun y hy => ⟨?_, ?_, fun k hk => ⟨fun hl => ?_, fun hl => ?_⟩⟩, fun g m hg hm ho => ?_⟩
      · rw [exec_event_running (f := fun s => s.axisArrived a) rfl hrun, State.axisArrived_arrives hx hr h0 hd]
      · rw [State.arrive_takeRest, State.takeRest_axis, if_neg hb]
      · rw [State.arrive_takeRest, State.takeRest_unstaged hn, State.modAxis_axis_self]
        exact ⟨rfl, rfl, rfl⟩
      · rw [State.arrive_takeRest, State.takeRest_staged hy, State.modAxis_axis_self]
      · rw [State.arrive_takeRest, State.takeRest_staged hy, State.modAxis_axis_self]
      · obtain ⟨hstage, hdone⟩ := State.takeRest_ends hy hk hl
        rw [State.arrive_takeRest]
        exact ⟨hstage, fun ho => s.arrive_raises a r _ (.inl (hdone ho))⟩
      · rw [State.arrive_takeRest]
        exact State.takeRest_keeps hy hk hl
      · rw [State.arrive_eq]
        refine State.memberArrived_last (m := m) ?_ hm ho
        exact (State.motionOf_congr (s.takeRest_motions a r) a).trans hg

end Sys2Proof.Machine
end

section
/-! PROOFS. One pulse (04 R66, R72, R80, R82, R85, 05 R100 to R102, R104: O50): what it does to the axis, and the tests it leads to. -/

namespace Sys2Proof.Machine

/-! ## The tests after a step (R82, R85) -/

/-- The report of SETTLED after a step: only where it is news, and on the current epoch. -/
theorem State.testSettled_step (s : State) (a : AxisId) (r : Tracking) (lag : Nat) : s.testSettled a r lag false =
    if (s.axis a).settlesNow r lag = true ∧ r.settled = false ∧ r.lastEpoch = some s.clock.epoch then
      (s.modAxis a fun x => { x with tracking := x.tracking.map fun t => { t with settled := (s.axis a).settlesNow r lag } }).rollLeave a
    else s.modAxis a fun x => { x with tracking := x.tracking.map fun t => { t with settled := (s.axis a).settlesNow r lag } } := by
  have hnow : (!r.uncovered && decide (lag ≤ (s.axis a).record.settleTolerance)) = (s.axis a).settlesNow r lag := rfl
  unfold State.testSettled State.settledReport
  dsimp only
  rw [hnow, Bool.false_or]
  cases r.lastEpoch with
  | none => exact (if_neg fun c => nomatch c.2.2).symm
  | some e =>
    cases (s.axis a).settlesNow r lag with
    | false => exact (if_neg fun c => Bool.false_ne_true c.1).symm
    | true =>
      cases r.settled with
      | true => exact (if_neg fun c => Bool.false_ne_true c.2.1.symm).symm
      | false =>
        by_cases he : e = s.clock.epoch
        · exact (if_pos he).trans (if_pos ⟨rfl, rfl, congrArg some he⟩).symm
        · exact (if_neg he).trans (if_neg fun c => he (Option.some.inj c.2.2)).symm

/-- What the tests of an axis after a step do: the flags, the governor, the roll. -/
structure State.TestedStep (w u : State) (a : AxisId) (r : Tracking) (lag : Nat) : Prop where
  axis : (u.axis a).tracking = some ((w.axis a).tested r lag)
  tells : r.lagging = false → (w.axis a).record.lagLimit < lag → w.tellsLagging u a
  ceiling : r.lagging = true ∨ lag ≤ (w.axis a).record.lagLimit → u.clock.ceiling = w.clock.ceiling ∧ u.clock.quiet = w.clock.quiet
  leaves : (w.axis a).settlesNow r lag = true → r.settled = false → r.lastEpoch = some w.clock.epoch → w.leavesRoll u a
  stays : (w.axis a).settlesNow r lag = false ∨ r.settled = true ∨ r.lastEpoch ≠ some w.clock.epoch →
    u.clock.roll = w.clock.roll ∧ u.clock.state = w.clock.state

section Tests

variable {w : State} {a : AxisId} {r : Tracking} {lag : Nat} (ht : (w.axis a).tracking = some r)
include ht

theorem testedStep_tests : w.TestedStep ((w.testLagging a r lag).testSettled a r lag false) a r lag := by
  have hlags := State.lags_testLagging (s := w) (a := a) (t := r) (lag := lag)
  have hclock := State.testLagging_clock (s := w) (a := a) (t := r) (lag := lag)
  have htells := State.tellsLagging_testLagging (s := w) (a := a) (t := r) (lag := lag)
  have hself := (State.testLagging_axis_eq (lag := lag) ht a).trans (if_pos rfl)
  have hsettled := (w.testLagging a r lag).testSettled_step a r lag
  generalize (w.testLagging a r lag).testSettled a r lag false = u at *
  generalize w.testLagging a r lag = v at *
  have hnow : (v.axis a).settlesNow r lag = (w.axis a).settlesNow r lag := by rw [hself]; rfl
  rw [hnow, show v.clock.epoch = w.clock.epoch by rw [hlags.clock]] at hsettled
  have hleave : v.Leaves u := by
    rw [hsettled]
    split
    · exact (State.works_modAxis ..).leaves.trans (State.leaves_rollLeave ..)
    · exact (State.works_modAxis ..).leaves
  refine ⟨?_, fun h1 h2 => ?_, fun h => ?_, fun h1 h2 h3 => ?_, fun h => ?_⟩
  · have haxis : u.axis a = { v.axis a with tracking := (v.axis a).tracking.map fun t =>
        { t with settled := (w.axis a).settlesNow r lag } } := by
      rw [hsettled]
      split
      · rw [State.rollLeave_axis, State.modAxis_axis_self]
      · rw [State.modAxis_axis_self]
    rw [haxis, hself]
    rfl
  · refine (htells h1 h2).alike rfl (fun _ _ => rfl) rfl (fun _ _ _ => rfl) (fun q k hk => hleave.entry q k ?_) ?_ ?_
    · rcases hk with rfl | rfl <;> decide
    · rw [hleave.clock]
    · rw [hleave.clock]
  · have hstands : r.lagging = true ∨ r.lagsAfter (w.axis a).record.lagLimit lag = false := by
      refine or_iff_not_imp_left.mpr fun hoff => Bool.eq_false_iff.mpr fun c => ?_
      rcases (r.lagsAfter_iff _ _).mp c with ⟨_, hover⟩ | ⟨hon, _⟩
      · exact absurd (h.resolve_left hoff) (Nat.not_le.mpr hover)
      · exact hoff hon
    have hsame := hclock hstands
    have hceiling : u.clock.ceiling = v.clock.ceiling := by rw [hleave.clock]
    have hquiet : u.clock.quiet = v.clock.quiet := by rw [hleave.clock]
    exact ⟨hceiling.trans (congrArg Clock.ceiling hsame), hquiet.trans (congrArg Clock.quiet hsame)⟩
  · rw [hsettled, if_pos ⟨h1, h2, h3⟩]
    exact (State.leavesRoll_rollLeave _ a).alike (hlags.settlesAlike.trans (State.works_modAxis ..).settlesAlike) (.refl _)
  · have hnot : ¬ ((w.axis a).settlesNow r lag = true ∧ r.settled = false ∧ r.lastEpoch = some w.clock.epoch) := fun ⟨c1, c2, c3⟩ => by
      rcases h with h | h | h
      · rw [h] at c1; exact Bool.false_ne_true c1
      · rw [h] at c2; exact Bool.false_ne_true c2.symm
      · exact h c3
    rw [hsettled, if_neg hnot, State.modAxis_clock, hlags.clock]
    exact ⟨rfl, rfl⟩

theorem testedStep_testTracking (ha : r.acquire = false)
    (hlag : lag = ((w.axis a).difference r.target (w.axis a).extended).natAbs) : w.TestedStep (w.testTracking a false) a r lag := by
  have hl : (w.axis a).lag = some lag := by
    unfold Axis.lag
    rw [ht]
    dsimp only
    rw [ha, if_neg Bool.false_ne_true, hlag]
  have heq : w.testTracking a false = (w.testLagging a r lag).testSettled a r lag false := by
    unfold State.testTracking
    rw [hl, ht]
  rw [heq]
  exact testedStep_tests ht

theorem testTracking_untested (ha : r.acquire = true) : w.testTracking a false = w := by
  have hl : (w.axis a).lag = none := by
    unfold Axis.lag
    rw [ht]
    dsimp only
    rw [ha, if_pos rfl]
  unfold State.testTracking
  rw [hl, ht]

end Tests

/-! ## The speed after a step (R72, R76, R80, R100) -/

/-- The axis one step on, its speed yet to be set. -/
def Axis.stepOn (x : Axis) (d : Dir) : Axis :=
  { x with position := x.stepped d, pulse := some x.record.pulseWidth, home := x.home.count d, homing := x.homing.map Homing.counted }

theorem Axis.pulsed_eq (x : Axis) (ra : Int) (d : Dir) :
    x.pulsed ra d = { x.stepOn d with speedSq := (x.stepOn d).speedAfter ra d } := rfl

section Speed

variable {x : Axis} {ra : Int} {d : Dir}

theorem Axis.speedAfter_slewing {r : Target} (hs : x.state = .slewing) (hr : x.target = some r) : x.speedAfter ra d =
    slewSpeed x.speedSq r.limitSq r.accel2 (d.sign * x.difference r.position x.extended) := by
  unfold Axis.speedAfter
  rw [hs, hr]

theorem Axis.speedAfter_tracking (hs : x.state = .tracking) : x.speedAfter ra d =
    trackSpeed x.speedSq (2 * x.record.acceleration * 2 ^ 32) (d.sign * x.goal ra) := by
  unfold Axis.speedAfter sqScale
  rw [hs]

theorem Axis.speedAfter_stopping {k : Nat} {r : RestState} (hs : x.state = .stopping) (hr : x.stopping = some ⟨some k, r⟩) :
    x.speedAfter ra d = x.speedSq - 2 * k * 2 ^ 32 := by
  unfold Axis.speedAfter sqScale
  rw [hs, hr]
  dsimp only
  rw [Option.getD_some]

theorem Axis.speedAfter_braking {h : Homing} (hs : x.state = .homing) (hh : x.homing = some h)
    (hc : h.braking = true ∨ h.edge ≠ none) : x.speedAfter ra d = x.speedSq - 2 * x.record.stopDecel * 2 ^ 32 := by
  have hbrakes : (h.braking || h.edge.isSome) = true := by
    rw [Bool.or_eq_true, Option.isSome_iff_ne_none]
    exact hc
  unfold Axis.speedAfter sqScale
  rw [hs, hh]
  exact if_pos hbrakes

theorem Axis.speedAfter_searching {h : Homing} (hs : x.state = .homing) (hh : x.homing = some h) (hb : h.braking = false)
    (he : h.edge = none) : x.speedAfter ra d =
      approach x.speedSq (h.speed * h.speed * 2 ^ 32) (2 * x.record.acceleration * 2 ^ 32) := by
  have hnot : ¬ (h.braking || h.edge.isSome) = true := by
    rw [hb, he]
    exact Bool.false_ne_true
  unfold Axis.speedAfter sqScale
  rw [hs, hh]
  exact if_neg hnot

/-- The goal of a tracking axis does not read the flags LAGGING and SETTLED. -/
theorem Axis.goal_of_flags {y : Axis} {r v : Tracking} (hr : y.record = x.record) (hp : y.position = x.position)
    (hx : x.tracking = some r) (hy : y.tracking = some v) (hv : v = { r with lagging := v.lagging, settled := v.settled }) :
    y.goal ra = x.goal ra := by
  obtain ⟨g, k, rfl⟩ : ∃ g k, v = { r with lagging := g, settled := k } := ⟨_, _, hv⟩
  unfold Axis.goal Axis.difference Axis.extended
  rw [hx, hy, hr, hp]

end Speed

/-! ## When a pulse starts, and what it leaves (R66, R67, R104) -/

/-- The axis after its step and its tests. -/
def State.pulseTaken (s : State) (a : AxisId) (d : Dir) : State :=
  (s.setAxis a ((s.axis a).pulsed s.clock.ra d)).testTracking a false

section Pulse

variable {s : State} {a : AxisId} {d : Dir}

theorem State.stepPulse_stands (h : ∀ d, (s.axis a).direction = some d → s.power.state = .present →
    (s.axis a).mayStep s.clock.ra d = false) : s.stepPulse a = s := by
  unfold State.stepPulse
  split
  · rfl
  · next d hd =>
    refine if_neg fun c => ?_
    obtain ⟨hp, hm⟩ := (Bool.and_eq_true ..).mp c
    rw [h d hd (beq_iff_eq.mp hp)] at hm
    exact Bool.false_ne_true hm

theorem State.testSearch_stands (h : (s.axis a).state = .homing → ∀ k, (s.axis a).homing = some k → k.exhausted = false) :
    s.testSearch a = s := by
  unfold State.testSearch
  split
  · next k hs hk => rw [h hs k hk, if_neg Bool.false_ne_true]
  · rfl

/-- The tests leave everything of the stepped axis but its flags LAGGING and SETTLED. -/
theorem State.pulseTaken_axis (s : State) (a : AxisId) (d : Dir) :
    (∀ b, b ≠ a → (s.pulseTaken a d).axis b = s.axis b) ∧
    ((s.axis a).tracking = none → s.pulseTaken a d = s.setAxis a ((s.axis a).pulsed s.clock.ra d)) ∧
    ∃ w, (s.pulseTaken a d).axis a = { (s.axis a).pulsed s.clock.ra d with tracking := w } ∧
      ∀ r, (s.axis a).tracking = some r → ∃ v, w = some v ∧ v = { r with lagging := v.lagging, settled := v.settled } := by
  obtain ⟨hnone, hothers, w, hw, hflags⟩ := testTracking_axis (s.setAxis a ((s.axis a).pulsed s.clock.ra d)) a false
  rw [State.setAxis_axis_self] at hnone hw hflags
  exact ⟨fun b hb => (hothers b hb).trans (State.setAxis_axis_of_ne _ _ hb), hnone, w, hw, hflags⟩

theorem State.stepPulse_taken (hdir : (s.axis a).direction = some d) (hp : s.power.state = .present)
    (hmay : (s.axis a).mayStep s.clock.ra d = true)
    (hsearch : (s.axis a).state = .homing → ∀ h, (s.axis a).homing = some h → h.counted.exhausted = false) :
    s.stepPulse a = s.pulseTaken a d := by
  have hpresent : s.drivePresent = true := by
    unfold State.drivePresent
    rw [hp]
    rfl
  obtain ⟨_, _, w, hw, _⟩ := s.pulseTaken_axis a d
  unfold State.stepPulse
  rw [hdir]
  dsimp only
  rw [hpresent, hmay, Bool.and_self, if_pos rfl]
  change (s.pulseTaken a d).testSearch a = _
  refine State.testSearch_stands fun hs k hk => ?_
  rw [hw] at hs hk
  obtain ⟨h, hh, rfl⟩ := Option.map_eq_some_iff.mp (show (s.axis a).homing.map Homing.counted = some k from hk)
  exact hsearch hs h hh

end Pulse

/-- The axis that a pulse leaves: one step on, faster or slower, its flags LAGGING and SETTLED tested. -/
structure Axis.Pulsed (x y : Axis) (ra : Int) (d : Dir) : Prop where
  axis : y = { x.pulsed ra d with tracking := y.tracking }
  flags : ∀ r, x.tracking = some r → ∃ v, y.tracking = some v ∧ v = { r with lagging := v.lagging, settled := v.settled }

section Course

variable {x y : Axis} {ra : Int} {d : Dir} (h : x.Pulsed y ra d)
include h

theorem Axis.Pulsed.only : y = { x with position := y.position, pulse := some x.record.pulseWidth, speedSq := y.speedSq,
                                        home := y.home, homing := y.homing, tracking := y.tracking } := by
  rw [h.axis]
  rfl

theorem Axis.Pulsed.speedSq : y.speedSq = (x.stepOn d).speedAfter ra d := by
  rw [h.axis]
  rfl

theorem Axis.Pulsed.position : y.position = x.stepped d := by
  rw [h.axis]
  rfl

theorem Axis.Pulsed.home : y.home = x.home.count d := by
  rw [h.axis]
  rfl

theorem Axis.Pulsed.homing : y.homing = x.homing.map Homing.counted := by
  rw [h.axis]
  rfl

theorem Axis.Pulsed.difference (k : Int) : y.difference k y.extended = (x.stepOn d).difference k (x.stepOn d).extended := by
  rw [h.axis]
  rfl

/-- R72: the speed of a slew goes to its limit, and down where the target lies behind or within the braking distance. -/
theorem Axis.Pulsed.slews {r : Target} (hs : x.state = .slewing) (hr : x.target = some r) :
    y.speedSq ≤ x.speedSq + r.accel2 ∧ x.speedSq ≤ y.speedSq + r.accel2 ∧ (x.speedSq ≤ r.limitSq → y.speedSq ≤ r.limitSq) ∧
    (d.sign * y.difference r.position y.extended < 0 → y.speedSq = x.speedSq - r.accel2) ∧
    ∀ left : Nat, d.sign * y.difference r.position y.extended = left →
      (x.speedSq ≤ r.accel2 * (left + 1) → y.speedSq ≤ r.accel2 * left) ∧
      (r.accel2 * left < x.speedSq - r.accel2 → y.speedSq = x.speedSq - r.accel2) ∧
      (x.speedSq - r.accel2 ≤ r.accel2 * left →
        ∃ v, goesToward x.speedSq r.limitSq r.accel2 v ∧ y.speedSq = min v (r.accel2 * left)) := by
  have hspeed : y.speedSq = slewSpeed x.speedSq r.limitSq r.accel2 (d.sign * y.difference r.position y.extended) := by
    rw [h.difference, h.speedSq]
    exact Axis.speedAfter_slewing (x := x.stepOn d) hs hr
  rw [hspeed]
  obtain ⟨hmost, _, hlimit, hbehind, hahead⟩ :=
    slewSpeed_spec x.speedSq r.limitSq r.accel2 (d.sign * y.difference r.position y.extended)
  refine ⟨hmost, slewSpeed_ge .., hlimit, hbehind, fun left hleft => ?_⟩
  obtain ⟨hstops, hbrakes, hgoes⟩ := hahead left hleft
  exact ⟨hstops, hbrakes, fun hfar => ⟨_, approach_goesToward .., hgoes hfar⟩⟩

/-- R76, R87: a STOPPING axis loses speed at its deceleration. -/
theorem Axis.Pulsed.stops {k : Nat} {r : RestState} (hs : x.state = .stopping) (hr : x.stopping = some ⟨some k, r⟩) :
    y.speedSq = x.speedSq - 2 * k * 2 ^ 32 := by
  rw [h.speedSq]
  exact Axis.speedAfter_stopping (x := x.stepOn d) hs hr

/-- R101, R102: a homing brakes after its edge and in the braking of CLEAR. -/
theorem Axis.Pulsed.brakes {k : Homing} (hs : x.state = .homing) (hk : x.homing = some k) (hc : k.braking = true ∨ k.edge ≠ none) :
    y.homing = some k ∧ y.speedSq = x.speedSq - 2 * x.record.stopDecel * 2 ^ 32 := by
  have hhoming : x.homing.map Homing.counted = some k := by
    rw [hk]
    exact congrArg some (Homing.counted_not_counting hc)
  rw [h.homing, h.speedSq]
  exact ⟨hhoming, Axis.speedAfter_braking (x := x.stepOn d) hs hhoming hc⟩

/-- R100, R101: a search counts its travel and goes to the home speed. -/
theorem Axis.Pulsed.searches {k : Homing} (hs : x.state = .homing) (hk : x.homing = some k) (hb : k.braking = false)
    (he : k.edge = none) : y.homing = some { k with travel := k.travel + 1 } ∧
      goesToward x.speedSq (k.speed * k.speed * 2 ^ 32) (2 * x.record.acceleration * 2 ^ 32) y.speedSq := by
  have hhoming : x.homing.map Homing.counted = some { k with travel := k.travel + 1 } := by
    rw [hk]
    exact congrArg some (Homing.counted_counting hb he)
  rw [h.homing, h.speedSq, Axis.speedAfter_searching (x := x.stepOn d) hs hhoming hb he]
  exact ⟨hhoming, approach_goesToward ..⟩

/-- R80: the speed of a tracking axis goes to its goal, and down where the goal points elsewhere. -/
theorem Axis.Pulsed.tracks {r : Tracking} (hs : x.state = .tracking) (hr : x.tracking = some r) :
    (d.sign * y.goal ra ≤ 0 → y.speedSq = x.speedSq - 2 * x.record.acceleration * 2 ^ 32) ∧
    ∀ g : Nat, d.sign * y.goal ra = g → 0 < g → goesToward x.speedSq (g * g) (2 * x.record.acceleration * 2 ^ 32) y.speedSq := by
  obtain ⟨v, hv, hflags⟩ := h.flags r hr
  have hgoal : y.goal ra = (x.stepOn d).goal ra := by
    refine Axis.goal_of_flags ?_ h.position (show (x.stepOn d).tracking = some r from hr) hv hflags
    rw [h.only]
    rfl
  rw [h.speedSq, Axis.speedAfter_tracking (x := x.stepOn d) hs, hgoal]
  exact trackSpeed_spec ..

end Course

/-! ## The tests that follow a step -/

section Tested

variable {s : State} {a : AxisId} {d : Dir} {r : Tracking} {lag : Nat}

theorem State.pulsed_pulseTaken (s : State) (a : AxisId) (d : Dir) :
    (s.axis a).Pulsed ((s.pulseTaken a d).axis a) s.clock.ra d := by
  obtain ⟨_, _, w, hw, hflags⟩ := s.pulseTaken_axis a d
  rw [hw]
  exact ⟨rfl, hflags⟩

theorem State.pulseTaken_acquiring (ht : (s.axis a).tracking = some r) (ha : r.acquire = true) :
    s.pulseTaken a d = s.setAxis a ((s.axis a).pulsed s.clock.ra d) :=
  testTracking_untested (w := s.setAxis a ((s.axis a).pulsed s.clock.ra d))
    (by rw [State.setAxis_axis_self]; exact ht) ha

theorem State.testedStep_pulseTaken (ht : (s.axis a).tracking = some r) (ha : r.acquire = false)
    (hlag : lag = (((s.pulseTaken a d).axis a).difference r.target ((s.pulseTaken a d).axis a).extended).natAbs) :
    (s.setAxis a ((s.axis a).pulsed s.clock.ra d)).TestedStep (s.pulseTaken a d) a r lag := by
  rw [(s.pulsed_pulseTaken a d).difference] at hlag
  refine testedStep_testTracking ?_ ha ?_
  · rw [State.setAxis_axis_self]
    exact ht
  · rw [State.setAxis_axis_self]
    exact hlag

end Tested

/-- The lag found settled, by the two conditions of R85. -/
theorem Axis.settlesNow_iff (x : Axis) (r : Tracking) (lag : Nat) :
    x.settlesNow r lag = true ↔ r.uncovered = false ∧ lag ≤ x.record.settleTolerance := by
  unfold Axis.settlesNow
  simp

/-- R82, R85: what the tests after a step tell of the axis and of the clock. -/
theorem pulse_tests {s : State} {a : AxisId} {d : Dir} {r : Tracking} {lag : Nat} (ht : (s.axis a).tracking = some r)
    (ha : r.acquire = false)
    (hlag : lag = (((s.pulseTaken a d).axis a).difference r.target ((s.pulseTaken a d).axis a).extended).natAbs) :
    (∃ q : Tracking, ((s.pulseTaken a d).axis a).tracking = some q ∧
      q = { r with lagging := q.lagging, settled := !r.uncovered && decide (lag ≤ (s.axis a).record.settleTolerance) } ∧
      (r.lagging = false → (q.lagging = true ↔ (s.axis a).record.lagLimit < lag)) ∧
      (r.lagging = true → (q.lagging = false ↔ lag ≤ (s.axis a).record.lagLimit / 2))) ∧
    (r.lagging = false → (s.axis a).record.lagLimit < lag → s.tellsLagging (s.pulseTaken a d) a) ∧
    (r.lagging = true ∨ lag ≤ (s.axis a).record.lagLimit →
      (s.pulseTaken a d).clock.ceiling = s.clock.ceiling ∧ (s.pulseTaken a d).clock.quiet = s.clock.quiet) ∧
    (r.settled = false → r.uncovered = false → lag ≤ (s.axis a).record.settleTolerance → r.lastEpoch = some s.clock.epoch →
      s.leavesRoll (s.pulseTaken a d) a) ∧
    (r.settled = true ∨ r.uncovered = true ∨ (s.axis a).record.settleTolerance < lag ∨ r.lastEpoch ≠ some s.clock.epoch →
      (s.pulseTaken a d).clock.roll = s.clock.roll ∧ (s.pulseTaken a d).clock.state = s.clock.state) := by
  obtain ⟨haxis, htells, hceiling, hleaves, hstays⟩ := State.testedStep_pulseTaken ht ha hlag
  rw [State.setAxis_axis_self] at haxis htells hceiling hleaves hstays
  have hrecord : ((s.axis a).pulsed s.clock.ra d).record = (s.axis a).record := rfl
  have hnow : ((s.axis a).pulsed s.clock.ra d).settlesNow r lag = true ↔
      r.uncovered = false ∧ lag ≤ (s.axis a).record.settleTolerance := Axis.settlesNow_iff ..
  refine ⟨⟨_, haxis, rfl, fun hoff => ?_, fun hon => ?_⟩, fun hoff hover => ?_, hceiling, fun hnew hcov hnear hepoch => ?_, fun h => ?_⟩
  · refine (r.lagsAfter_iff _ _).trans ?_
    simp [hoff, hrecord]
  · refine (Bool.eq_false_iff.trans (not_congr (r.lagsAfter_iff _ _))).trans ?_
    simp [hon, hrecord]
  · refine (htells hoff hover).alike ?_ (fun _ _ => rfl) rfl (fun _ _ _ => rfl) (fun _ _ _ => rfl) rfl rfl
    unfold State.groupOf
    rw [State.setAxis_axis_self, hrecord]
  · exact (hleaves (hnow.mpr ⟨hcov, hnear⟩) hnew hepoch).before
  · refine hstays ?_
    rcases h with h | h | h | h
    · exact .inr (.inl h)
    · exact .inl (Bool.eq_false_iff.mpr fun c => by rw [(hnow.mp c).1] at h; exact Bool.false_ne_true h)
    · exact .inl (Bool.eq_false_iff.mpr fun c => Nat.not_le.mpr h (hnow.mp c).2)
    · exact .inr (.inr h)

theorem State.failHoming_home (s : State) (a : AxisId) : ((s.failHoming a).axis a).home = (s.axis a).home := by
  obtain ⟨b, hb⟩ := s.faultLost_axis a fun x => x.faulted .homeNotFound ((s.axis a).homing.map (·.reversals))
  rw [State.failHoming_eq, hb]
  rfl

/-- Where no pulse may start, by the conditions of R66, R67 and R104. -/
theorem mayStep_false {x : Axis} {ra : Int} {d : Dir}
    (h : x.state ∉ [.homing, .slewing, .tracking, .stopping] ∨ x.pulse ≠ none ∨ x.pause ≠ none ∨
      (∃ k, x.homing = some k ∧ k.braking = false ∧ k.edge = none ∧ k.distance ≤ k.travel) ∨ (x.speedSq = 0 ∧ ¬ x.wishes ra d)) :
    x.mayStep ra d = false := by
  refine Bool.eq_false_iff.mpr fun c => ?_
  obtain ⟨hm, hpulse, hpause, hw, hsearch⟩ := (mayStep_iff x ra d).mp c
  rcases h with h | h | h | ⟨k, hk, hover⟩ | ⟨h0, hnot⟩
  · exact h ((AxisState.moving_iff _).mp hm)
  · exact h hpulse
  · exact h hpause
  · exact Bool.false_ne_true ((hsearch k hk).symm.trans ((exhausted_iff k).mpr hover))
  · exact hw.elim (by omega) hnot

/-- Settles O50: the goal by `goal_spec`, the step by `Axis.Pulsed`, the tests by `pulse_tests`, the search that fails by
`State.stepPulse_exhausts`. -/
theorem pulseMovesTheAxisOneStep : Obligations.PulseMovesTheAxisOneStep := by
  unfold Obligations.PulseMovesTheAxisOneStep
  refine ⟨fun x ra r hr => ⟨fun ha => goal_acquiring hr ha ra, fun ha e forward top root => goal_spec hr ha ra e forward top root⟩, ?_⟩
  rintro s a x hrun rfl
  refine ⟨fun h => ?_, fun d hm hp hdir hpulse hpause => ⟨fun h0 hnot => ?_, fun hw => ⟨fun h hs hh hb he hd ht => ?_, fun hsearch => ?_⟩⟩⟩
  · refine answers_event (f := fun s => s.stepPulse a) rfl hrun (State.stepPulse_stands fun d hdir hp => ?_) id
    rcases h with h | h | h | h | h | h
    · exact mayStep_false (.inl h)
    · exact absurd hp h
    · rw [hdir] at h
      cases h
    · exact mayStep_false (.inr (.inl h))
    · exact mayStep_false (.inr (.inr (.inl h)))
    · exact mayStep_false (.inr (.inr (.inr (.inl h))))
  · refine answers_event (f := fun s => s.stepPulse a) rfl hrun (State.stepPulse_stands fun d' hdir' _ => ?_) id
    cases hdir.symm.trans hdir'
    exact mayStep_false (.inr (.inr (.inr (.inr ⟨h0, hnot⟩))))
  · refine ⟨(s.setAxis a ((s.axis a).pulsed s.clock.ra d)).failHoming a, (s.axis a).stepped d, ?_, stepped_oneStepOn _ d, ?_, ?_, ?_⟩
    · rw [← State.stepPulse_exhausts hs hh hb he hd hdir hpulse hpause hp ht hw]
      exact exec_event_running (f := fun s => s.stepPulse a) rfl hrun
    · exact State.failsSearch_failHoming (h := { h with travel := h.travel + 1 }) (Axis.pulsed_homing hh hb he) rfl rfl rfl rfl
    · rw [State.failHoming_pulse, State.setAxis_axis_self]
      rfl
    · rw [State.failHoming_home, State.setAxis_axis_self]
      exact count_steppedTo _ d
  · have hmay : (s.axis a).mayStep s.clock.ra d = true := by
      refine (mayStep_iff ..).mpr ⟨(AxisState.moving_iff _).mpr hm, hpulse, hpause, hw, fun h hh => Bool.eq_false_iff.mpr fun c => ?_⟩
      obtain ⟨hb, he, hover⟩ := (exhausted_iff h).mp c
      rcases hsearch h hh with c | c | ⟨c, _⟩
      · exact Bool.false_ne_true (hb.symm.trans c)
      · exact c he
      · omega
    have hgoeson (hs : (s.axis a).state = .homing) (h : Homing) (hh : (s.axis a).homing = some h) : h.counted.exhausted = false :=
      (Homing.counted_not_exhausted ((hsearch h hh).imp_right fun c => c.imp_right fun c => c.2 hs)).2
    have hstep := State.stepPulse_taken hdir hp hmay hgoeson
    obtain ⟨hothers, hnone, _⟩ := s.pulseTaken_axis a d
    have hpulsed := s.pulsed_pulseTaken a d
    refine ⟨s.pulseTaken a d, (s.pulseTaken a d).axis a, ?_, rfl, hothers, hpulsed.only, ?_, ?_, fun hn => ?_, fun hn => ?_,
      fun r => hpulsed.slews, fun k rest => hpulsed.stops, fun h hs hh => ⟨hpulsed.brakes hs hh, hpulsed.searches hs hh⟩, fun r hs hr => ?_⟩
    · rw [exec_event_running (f := fun s => s.stepPulse a) rfl hrun, hstep]
    · rw [hpulsed.position]
      exact stepped_oneStepOn _ d
    · rw [hpulsed.home]
      exact count_steppedTo _ d
    · rw [hpulsed.homing, hn]
      rfl
    · rw [hnone hn, State.setAxis_axis_self]
      exact ⟨hn, rfl⟩
    · obtain ⟨hdown, htoward⟩ := hpulsed.tracks hs hr
      refine ⟨hdown, htoward, fun ha => ?_, fun lag ha hlag => pulse_tests hr ha hlag⟩
      rw [State.pulseTaken_acquiring hr ha, State.setAxis_axis_self]
      exact ⟨hr, rfl⟩

end Sys2Proof.Machine
end

section
/-! PROOFS. Halts (04 R86, 09 R179 to R181, R187: O54): what one halt makes of an axis, of all axes, and of the block. -/

namespace Sys2Proof.Machine

/-! ## What a halt makes of an axis (R180) -/

/-- A STOPPING axis under a halt: brought to rest where either deceleration is IMMEDIATE, else stopped by the harder one. -/
def Axis.harderStop (x : Axis) (r : Stopping) : Axis :=
  if harder r.decel x.record.haltDecel = none then x.atRest r.rest
  else { x with stopping := some { r with decel := harder r.decel x.record.haltDecel } }

/-- The axis as a halt leaves it. -/
def Axis.atHalt (x : Axis) : Axis :=
  match x.state with
  | .homing | .slewing | .tracking => (x.idle x.dropStage.lastStage).toStop x.record.haltDecel x.restOf
  | .stopping =>
    match x.stopping with
    | some r => x.dropStage.harderStop r
    | none => x.dropStage
  | .standing => x.dropStage
  | .unconfigured | .disabled | .unreferenced | .faulted => x

section AtHalt

variable {x : Axis}

theorem Axis.atHalt_moving (h : x.state ∈ [.homing, .slewing, .tracking]) :
    x.atHalt = (x.idle x.dropStage.lastStage).toStop x.record.haltDecel x.restOf := by
  simp only [List.mem_cons, List.not_mem_nil, or_false] at h
  unfold Axis.atHalt
  rcases h with h | h | h <;> rw [h]

theorem Axis.atHalt_stopping {r : Stopping} (h : x.state = .stopping) (hr : x.stopping = some r) :
    x.atHalt = x.dropStage.harderStop r := by
  unfold Axis.atHalt
  rw [h, hr]

theorem Axis.atHalt_unrecorded (h : x.state = .stopping) (hr : x.stopping = none) : x.atHalt = x.dropStage := by
  unfold Axis.atHalt
  rw [h, hr]

theorem Axis.atHalt_standing (h : x.state = .standing) : x.atHalt = x.dropStage := by
  unfold Axis.atHalt
  rw [h]

theorem Axis.atHalt_still (h : x.state.halts = false) : x.atHalt = x := by
  unfold Axis.atHalt
  cases hs : x.state with
  | unconfigured | disabled | unreferenced | faulted => rfl
  | homing | slewing | tracking | stopping | standing => rw [hs] at h; cases h

theorem Axis.toStop_stage (d : Option Nat) (r : RestState) : (x.toStop d r).stage = x.stage := by
  unfold Axis.toStop
  split <;> rfl

theorem Axis.harderStop_stage (r : Stopping) : (x.harderStop r).stage = x.stage ∧ (x.harderStop r).lastStage = x.lastStage := by
  unfold Axis.harderStop
  split <;> exact ⟨rfl, rfl⟩

theorem AxisState.halts_iff (s : AxisState) : s.halts = true ↔ s ∈ [.homing, .slewing, .tracking, .stopping, .standing] := by
  cases s <;> decide

theorem AxisState.halts_of_travels (s : AxisState) : s ∈ [.homing, .slewing, .tracking] → s.halts = true := by
  cases s <;> decide

theorem AxisState.moves_of_travels (s : AxisState) :
    s ∈ [.homing, .slewing, .tracking] → s ∈ [.homing, .slewing, .tracking, .stopping] := by
  cases s <;> decide

/-- An axis that the halt reaches has no stage pending after it. -/
theorem Axis.atHalt_stage (h : x.state.halts = true) : x.atHalt.stage = none := by
  cases hs : x.state with
  | homing | slewing | tracking => rw [Axis.atHalt_moving (by simp [hs]), Axis.toStop_stage]; rfl
  | standing => rw [Axis.atHalt_standing hs]; rfl
  | stopping =>
    cases hr : x.stopping with
    | none => rw [Axis.atHalt_unrecorded hs hr]; rfl
    | some r => rw [Axis.atHalt_stopping hs hr, (Axis.harderStop_stage r).1]; rfl
  | unconfigured | disabled | unreferenced | faulted => rw [hs] at h; cases h

/-- The halt of an axis whose stage has ended already. -/
theorem Axis.atHalt_dropStage : x.dropStage.atHalt = x.atHalt.dropStage := by
  have hstate : x.dropStage.state = x.state := rfl
  have htwice : x.dropStage.dropStage = x.dropStage := Axis.dropStage_of_none rfl
  cases hh : x.state.halts with
  | false => rw [Axis.atHalt_still hh, Axis.atHalt_still (x := x.dropStage) hh]
  | true =>
    rw [Axis.dropStage_of_none (Axis.atHalt_stage hh)]
    cases hs : x.state with
    | homing | slewing | tracking =>
      rw [Axis.atHalt_moving (x := x.dropStage) (by simp [hstate, hs]), Axis.atHalt_moving (by simp [hs]), htwice]
      rfl
    | standing => rw [Axis.atHalt_standing (x := x.dropStage) hs, Axis.atHalt_standing hs, htwice]
    | stopping =>
      cases hr : x.stopping with
      | none => rw [Axis.atHalt_unrecorded (x := x.dropStage) hs hr, Axis.atHalt_unrecorded hs hr, htwice]
      | some r => rw [Axis.atHalt_stopping (x := x.dropStage) hs hr, Axis.atHalt_stopping hs hr, htwice]
    | unconfigured | disabled | unreferenced | faulted => rw [hs] at hh; cases hh

end AtHalt

/-! ## An axis as Table 9-4 has it after a halt -/

section HaltedTo

variable {x y : Axis}

theorem harder_none {i j : Option Nat} (h : i = none ∨ j = none) : harder i j = none := by
  rcases h with rfl | rfl
  · rfl
  · cases i <;> rfl

/-- Decelerations under a halt (R180): at once to rest where one is IMMEDIATE, else the greater of the two. -/
theorem Axis.harderStop_spec (r : Stopping) :
    (r.decel = none ∨ x.record.haltDecel = none →
      (x.harderStop r).state = r.rest.state ∧ (x.harderStop r).speedSq = 0 ∧ (x.harderStop r).direction = none) ∧
    ∀ i j, r.decel = some i → x.record.haltDecel = some j → x.state = .stopping →
      (x.harderStop r).state = .stopping ∧ (x.harderStop r).stopping = some ⟨some (max i j), r.rest⟩ ∧
        (x.harderStop r).speedSq = x.speedSq := by
  unfold Axis.harderStop
  refine ⟨fun h => ?_, fun i j hi hj hs => ?_⟩
  · rw [if_pos (harder_none h)]
    exact ⟨Axis.atRest_state x r.rest, rfl, rfl⟩
  · have hboth : harder r.decel x.record.haltDecel = some (max i j) := by rw [hi, hj]; rfl
    rw [hboth, if_neg (Option.some_ne_none _)]
    exact ⟨hs, rfl, rfl⟩

theorem Axis.harderStop_keeps (r : Stopping) : (x.harderStop r).position = x.position ∧ (x.harderStop r).known = x.known ∧
    (x.harderStop r).record = x.record := by
  unfold Axis.harderStop
  split <;> exact ⟨rfl, rfl, rfl⟩

theorem Axis.toStop_keeps (d : Option Nat) (r : RestState) : (x.toStop d r).position = x.position ∧ (x.toStop d r).known = x.known ∧
    (x.toStop d r).record = x.record ∧ (x.toStop d r).lastStage = x.lastStage := by
  unfold Axis.toStop
  split <;> exact ⟨rfl, rfl, rfl, rfl⟩

/-- R180 on an axis in HOMING, SLEWING or TRACKING. -/
theorem Axis.haltedTo_moving (h : x.state ∈ [.homing, .slewing, .tracking]) : x.haltedTo x.atHalt := by
  obtain ⟨hposition, hknown, hrecord, hlast⟩ :=
    Axis.toStop_keeps (x := x.idle x.dropStage.lastStage) x.record.haltDecel x.restOf
  have hstage := Axis.toStop_stage (x := x.idle x.dropStage.lastStage) x.record.haltDecel x.restOf
  rw [Axis.atHalt_moving h]
  refine ⟨hposition, hknown, hrecord, fun rest _ hhoming hother => ?_, fun k rest hs => ?_, fun hs => ?_, fun _ => ⟨hstage, hlast⟩,
    fun hs => ?_⟩
  · obtain rfl : rest = x.restOf := by
      unfold Axis.restOf
      by_cases hx : x.state = .homing
      · rw [if_pos hx, hhoming hx]
      · rw [if_neg hx, hother hx]
    by_cases hat : x.record.haltDecel = none ∨ x.speedSq = 0
    · rw [Axis.toStop_rest (x := x.idle x.dropStage.lastStage) hat]
      refine ⟨rfl, rfl, rfl, fun _ => ⟨Axis.atRest_state .., rfl, rfl⟩, fun k hk hv => ?_⟩
      exact absurd hat (not_or.mpr ⟨by rw [hk]; exact Option.some_ne_none k, hv⟩)
    · obtain ⟨hdecel, hv⟩ := not_or.mp hat
      obtain ⟨k, hk⟩ := Option.ne_none_iff_exists'.mp hdecel
      rw [hk, Axis.toStop_moving (x := x.idle x.dropStage.lastStage) hv]
      refine ⟨rfl, rfl, rfl, fun c => absurd c (not_or.mpr ⟨Option.some_ne_none k, hv⟩), fun j hj _ => ?_⟩
      cases hj
      exact ⟨rfl, rfl, rfl, rfl⟩
  · rw [hs] at h
    exact absurd h (by decide)
  · rw [hs] at h
    exact absurd h (by decide)
  · exact absurd (AxisState.moves_of_travels _ h) hs

/-- R180 on an axis in STOPPING. -/
theorem Axis.haltedTo_stopping (h : x.state = .stopping) : x.haltedTo x.atHalt := by
  have hmoving : x.state ∉ [.homing, .slewing, .tracking] := by
    rw [h]
    decide
  have hstanding : x.state ≠ .standing := by
    rw [h]
    exact nofun
  have hin : x.state ∈ [.homing, .slewing, .tracking, .stopping] := by
    rw [h]
    decide
  cases hr : x.stopping with
  | none =>
    rw [Axis.atHalt_unrecorded h hr]
    exact ⟨rfl, rfl, rfl, fun _ c => absurd c hmoving, fun _ _ _ c => absurd (hr.symm.trans c) nofun, fun c => absurd c hstanding,
      fun _ => ⟨rfl, rfl⟩, fun c => absurd hin c⟩
  | some r =>
    obtain ⟨hposition, hknown, hrecord⟩ := Axis.harderStop_keeps (x := x.dropStage) r
    obtain ⟨hstage, hlast⟩ := Axis.harderStop_stage (x := x.dropStage) r
    obtain ⟨hrest, hbrakes⟩ := Axis.harderStop_spec (x := x.dropStage) r
    rw [Axis.atHalt_stopping h hr]
    refine ⟨hposition, hknown, hrecord, fun _ c => absurd c hmoving, fun k rest _ hk => ?_, fun c => absurd c hstanding,
      fun _ => ⟨hstage, hlast⟩, fun c => absurd hin c⟩
    cases hr.symm.trans hk
    exact ⟨hrest, fun i j hi hj => hbrakes i j hi hj h⟩

/-- R180 on any other axis: it stays as it is, but for a stage pending in STANDING. -/
theorem Axis.haltedTo_resting (h : x.state ∉ [.homing, .slewing, .tracking, .stopping]) : x.haltedTo x.atHalt := by
  have hmoving : x.state ∉ [.homing, .slewing, .tracking] := fun c => h (AxisState.moves_of_travels _ c)
  have hstopping : x.state ≠ .stopping := fun c => h (by rw [c]; decide)
  by_cases hs : x.state = .standing
  · rw [Axis.atHalt_standing hs]
    exact ⟨rfl, rfl, rfl, fun _ c => absurd c hmoving, fun _ _ c => absurd c hstopping, fun _ => hs, fun _ => ⟨rfl, rfl⟩,
      fun _ => ⟨rfl, rfl, rfl⟩⟩
  · have hnot : x.state ∉ [.homing, .slewing, .tracking, .stopping, .standing] := fun c => by
      rcases List.mem_append.mp (show x.state ∈ [.homing, .slewing, .tracking, .stopping] ++ [.standing] from c) with c | c
      · exact h c
      · exact hs (List.mem_singleton.mp c)
    rw [Axis.atHalt_still (Bool.eq_false_iff.mpr fun c => hnot ((AxisState.halts_iff _).mp c))]
    exact ⟨rfl, rfl, rfl, fun _ c => absurd c hmoving, fun _ _ c => absurd c hstopping, fun c => absurd c hs,
      fun c => absurd c hnot, fun _ => ⟨rfl, rfl, rfl⟩⟩

theorem Axis.haltedTo_atHalt (x : Axis) : x.haltedTo x.atHalt := by
  by_cases hm : x.state ∈ [.homing, .slewing, .tracking]
  · exact Axis.haltedTo_moving hm
  · by_cases hs : x.state = .stopping
    · exact Axis.haltedTo_stopping hs
    · refine Axis.haltedTo_resting fun c => ?_
      rcases List.mem_append.mp (show x.state ∈ [.homing, .slewing, .tracking] ++ [.stopping] from c) with c | c
      · exact hm c
      · exact hs (List.mem_singleton.mp c)

/-- A stage that ends later, of an axis the halt does not reach, changes nothing that a halt speaks of. -/
theorem Axis.haltedTo.dropped (h : x.haltedTo y) : x.haltedTo y.dropStage := by
  by_cases hs : x.state ∈ [.homing, .slewing, .tracking, .stopping, .standing]
  · have hstage := h
    obtain ⟨_, _, _, _, _, _, hstage, _⟩ := hstage
    rwa [Axis.dropStage_of_none (hstage hs).1]
  · obtain ⟨hposition, hknown, hrecord, hmoving, hstopping, hstanding, _, hstill⟩ := h
    exact ⟨hposition, hknown, hrecord, hmoving, hstopping, hstanding, fun c => absurd c hs, hstill⟩

theorem Axis.haltedTo.marked (h : x.haltedTo y) (b : Bool) : x.haltedTo { y with resumeMark := b } := h

end HaltedTo

/-! ## The halt of one axis in its state -/

section HaltAxis

variable {s : State} {a b : AxisId}

/-- The end of a part and of a stage pending together. -/
theorem State.endParts_axis (s : State) (a : AxisId) (q : Bool) :
    ((s.endMember a .ended .memberEnded q).endStage a .ended q).axis a = (s.axis a).dropStage := by
  rw [State.endStage_ended]
  rcases (s.dropsStages_endMember a .ended .memberEnded q).drops a with h | h
  · rw [h]
  · rw [h]
    exact Axis.dropStage_of_none rfl

theorem State.dropsStages_endParts (s : State) (a : AxisId) (q : Bool) :
    s.DropsStages ((s.endMember a .ended .memberEnded q).endStage a .ended q) :=
  (s.dropsStages_endMember ..).trans (State.dropsStages_endStage ..)

theorem State.leaveWork_drops (h : b ≠ a) (q : Bool) :
    (s.leaveWork a q).axis b = s.axis b ∨ (s.leaveWork a q).axis b = (s.axis b).dropStage := by
  rw [State.leaveWork_eq, State.rollLeave_axis]
  unfold State.dropWork
  rw [State.modAxis_axis_of_ne _ _ h, State.endSlew_axis_eq, if_neg h]
  exact (s.dropsStages_endParts a q).drops b

theorem State.leaveWork_clock (h : s.clock.state ≠ .settling) (a : AxisId) (q : Bool) : (s.leaveWork a q).clock = s.clock := by
  have hdrop := (s.works_dropWork a q).clock
  rw [State.leaveWork_eq, State.rollLeave_off fun c => h (by rw [← hdrop]; exact c.1), hdrop]

/-- The parts and the stage of the axis end, and a STOPPING one is stopped harder. -/
def State.haltStopping (s : State) (a : AxisId) : State :=
  match (s.axis a).stopping with
  | some r => ((s.endMember a .ended .memberEnded true).endStage a .ended true).setAxis a ((s.axis a).dropStage.harderStop r)
  | none => (s.endMember a .ended .memberEnded true).endStage a .ended true

theorem State.haltAxis_moving (h : (s.axis a).state ∈ [.homing, .slewing, .tracking]) :
    s.haltAxis a = s.enterStopping a (s.axis a).record.haltDecel true := by
  simp only [List.mem_cons, List.not_mem_nil, or_false] at h
  unfold State.haltAxis
  dsimp only
  rcases h with h | h | h <;> rw [h]

theorem State.haltAxis_stopping (h : (s.axis a).state = .stopping) : s.haltAxis a = s.haltStopping a := by
  have hparts := s.endParts_axis a true
  unfold State.haltAxis State.haltStopping
  dsimp only
  rw [h]
  cases (s.axis a).stopping with
  | none => rfl
  | some r =>
    dsimp only
    unfold State.modAxis
    rw [hparts]
    rfl

theorem State.haltAxis_standing (h : (s.axis a).state = .standing) :
    s.haltAxis a = (s.endMember a .ended .memberEnded true).endStage a .ended true := by
  unfold State.haltAxis
  dsimp only
  rw [h]

theorem State.haltAxis_still (h : (s.axis a).state.halts = false) : s.haltAxis a = s := by
  unfold State.haltAxis
  dsimp only
  cases hs : (s.axis a).state with
  | unconfigured | disabled | unreferenced | faulted => rfl
  | homing | slewing | tracking | stopping | standing => rw [hs] at h; cases h

/-- A fact about the halt of one axis, from its three forms. -/
theorem haltAxis_induction {P : State → Prop} (s : State) (a : AxisId) (hstill : (s.axis a).state.halts = false → P s)
    (hmoving : (s.axis a).state ∈ [.homing, .slewing, .tracking] → P (s.enterStopping a (s.axis a).record.haltDecel true))
    (hparts : (s.axis a).state = .standing ∨ ((s.axis a).state = .stopping ∧ (s.axis a).stopping = none) →
      P ((s.endMember a .ended .memberEnded true).endStage a .ended true))
    (hstops : ∀ r, (s.axis a).state = .stopping → (s.axis a).stopping = some r →
      P (((s.endMember a .ended .memberEnded true).endStage a .ended true).setAxis a ((s.axis a).dropStage.harderStop r))) :
    P (s.haltAxis a) := by
  cases hs : (s.axis a).state with
  | homing | slewing | tracking =>
    have hm : (s.axis a).state ∈ [.homing, .slewing, .tracking] := by simp [hs]
    rw [State.haltAxis_moving hm]
    exact hmoving hm
  | standing =>
    rw [State.haltAxis_standing hs]
    exact hparts (.inl hs)
  | stopping =>
    rw [State.haltAxis_stopping hs]
    unfold State.haltStopping
    cases hr : (s.axis a).stopping with
    | none => exact hparts (.inr ⟨hs, hr⟩)
    | some r => exact hstops r hs hr
  | unconfigured | disabled | unreferenced | faulted =>
    have hn : (s.axis a).state.halts = false := by rw [hs]; rfl
    rw [State.haltAxis_still hn]
    exact hstill hn

theorem State.leaves_haltAxis (s : State) (a : AxisId) : s.Leaves (s.haltAxis a) := by
  refine haltAxis_induction (P := s.Leaves) s a (fun _ => .refl s) (fun _ => State.leaves_enterStopping ..) (fun _ => ?_) fun r _ _ => ?_
  · exact (s.dropsStages_endParts a true).leaves
  · exact (s.dropsStages_endParts a true).leaves.trans
      (State.works_modAxis ((s.endMember a .ended .memberEnded true).endStage a .ended true) a
        fun _ => (s.axis a).dropStage.harderStop r).leaves

theorem State.haltAxis_self (s : State) (a : AxisId) : (s.haltAxis a).axis a = (s.axis a).atHalt := by
  refine haltAxis_induction (P := fun t => t.axis a = (s.axis a).atHalt) s a (fun h => (Axis.atHalt_still h).symm) (fun h => ?_)
    (fun h => ?_) fun r hs hr => ?_
  · rw [State.enterStopping_eq, State.modAxis_axis_self, State.leaveWork_dropped, Axis.atHalt_moving h]
  · rw [State.endParts_axis]
    rcases h with h | ⟨h, hr⟩
    · exact (Axis.atHalt_standing h).symm
    · exact (Axis.atHalt_unrecorded h hr).symm
  · rw [State.setAxis_axis_self, Axis.atHalt_stopping hs hr]

theorem State.haltAxis_other (h : b ≠ a) :
    (s.haltAxis a).axis b = s.axis b ∨ (s.haltAxis a).axis b = (s.axis b).dropStage := by
  have hparts := (s.dropsStages_endParts a true).drops b
  refine haltAxis_induction (P := fun t => t.axis b = s.axis b ∨ t.axis b = (s.axis b).dropStage) s a (fun _ => .inl rfl) (fun _ => ?_)
    (fun _ => hparts) fun r _ _ => ?_
  · rw [State.enterStopping_eq, State.modAxis_axis_of_ne _ _ h]
    exact State.leaveWork_drops h true
  · rw [State.setAxis_axis_of_ne _ _ h]
    exact hparts

/-- With the sky halted nothing of the clock changes. -/
theorem State.haltAxis_clock (h : s.clock.state ≠ .settling) : (s.haltAxis a).clock = s.clock := by
  have hparts := (s.dropsStages_endParts a true).clock
  refine haltAxis_induction (P := fun t => t.clock = s.clock) s a (fun _ => rfl) (fun _ => ?_) (fun _ => hparts) fun _ _ _ => hparts
  exact State.leaveWork_clock h a true

theorem State.haltAxis_motions (h : (s.axis a).state.halts = true → s.motionOf a = none) : (s.haltAxis a).motions = s.motions := by
  have hparts (hh : (s.axis a).state.halts = true) :
      ((s.endMember a .ended .memberEnded true).endStage a .ended true).motions = s.motions := by
    rw [State.endStage_motions, State.endMember_none (h hh)]
  have hhalts {x : AxisState} (hx : (s.axis a).state = x) (hin : x.halts = true) : (s.axis a).state.halts = true := by rw [hx, hin]
  refine haltAxis_induction (P := fun t => t.motions = s.motions) s a (fun _ => rfl) (fun hm => ?_) (fun hs => ?_) fun r hs _ => ?_
  · exact State.leaveWork_motions (h (AxisState.halts_of_travels _ hm)) true
  · exact hs.elim (fun hs => hparts (hhalts hs rfl)) fun hs => hparts (hhalts hs.1 rfl)
  · exact hparts (hhalts hs rfl)

/-- No axis comes to be reached by a halt through the halt of another, or of itself. -/
theorem State.haltAxis_halts (h : ((s.haltAxis a).axis b).state.halts = true) : (s.axis b).state.halts = true := by
  by_cases hb : b = a
  · subst hb
    rw [State.haltAxis_self] at h
    cases hh : (s.axis b).state.halts with
    | true => rfl
    | false =>
      rw [Axis.atHalt_still hh, hh] at h
      exact h
  · rcases State.haltAxis_other (s := s) hb with k | k
    · rwa [k] at h
    · rw [k] at h
      exact h

end HaltAxis

end Sys2Proof.Machine
end

section
/-! PROOFS. One halt of the whole block, by the HALT line and by Halt All (09 R179 to R181: O54). -/

namespace Sys2Proof.Machine

/-! ## The steps of a halt (R180, R181) -/

/-- The clock a halt leaves (R8, R181). -/
def Clock.lineHalted (c : Clock) : Clock := { c with state := .halted, reason := .haltLine, settleTimer := none, roll := [] }

theorem State.haltClock_haltLine (s : State) : s.haltClock .haltLine = s.withClock s.clock.lineHalted := by
  unfold State.haltClock
  rw [if_neg fun c => by cases c.2]
  rfl

/-- A stage that ends again has ended. -/
theorem Axis.drops_trans {x y z : Axis} (h : y = x ∨ y = x.dropStage) (k : z = y ∨ z = y.dropStage) : z = x ∨ z = x.dropStage := by
  rcases h with h | h
  · rwa [h] at k
  · rw [h, Axis.dropStage_of_none (x := x.dropStage) rfl, or_self] at k
    exact .inr k

section Steps

variable (s : State)

/-- The axes that a halt reaches. -/
def State.reached (a : AxisId) : Bool := (s.axis a).state.halts

/-- The sky halted, and the parts of all members that the halt reaches ended. -/
def State.haltParts : State := (s.withClock s.clock.lineHalted).endMembers s.reached true

/-- Every axis halted. -/
def State.haltAxes : State := allAxes.foldl State.haltAxis s.haltParts

theorem State.performHalt_eq : s.performHalt = (s.haltAxes.suspendAll).abandonReturn none := by
  unfold State.performHalt
  rw [State.haltClock_haltLine]
  rfl

theorem State.dropsStages_haltParts : (s.withClock s.clock.lineHalted).DropsStages s.haltParts := State.dropsStages_endMembers ..

theorem State.haltParts_state (a : AxisId) : (s.haltParts.axis a).state = (s.axis a).state := by
  have hdrop : s.haltParts.axis a = s.axis a ∨ s.haltParts.axis a = (s.axis a).dropStage := s.dropsStages_haltParts.drops a
  rcases hdrop with h | h
  · rw [h]
  · rw [h]
    rfl

theorem State.leaves_haltAxes : (s.withClock s.clock.lineHalted).Leaves s.haltAxes :=
  foldl_keeps (P := (s.withClock s.clock.lineHalted).Leaves) (fun t a h => h.trans (t.leaves_haltAxis a)) _ _
    s.dropsStages_haltParts.leaves

theorem State.haltAxes_clock : s.haltAxes.clock = s.clock.lineHalted := by
  refine foldl_keeps (P := fun t : State => t.clock = s.clock.lineHalted) (fun t a h => ?_) _ _ s.dropsStages_haltParts.clock
  rw [State.haltAxis_clock (by rw [h]; exact nofun), h]

/-- Each axis as its own halt leaves it; a stage of an axis out of reach may end with the record of its group. -/
theorem State.haltAxes_axis (a : AxisId) : s.haltAxes.axis a = (s.axis a).atHalt ∨ s.haltAxes.axis a = (s.axis a).atHalt.dropStage := by
  refine foldl_reaches_once (P := fun t : State => t.axis a = s.axis a ∨ t.axis a = (s.axis a).dropStage)
    (Q := fun t : State => t.axis a = (s.axis a).atHalt ∨ t.axis a = (s.axis a).atHalt.dropStage)
    (fun t b hb h => Axis.drops_trans h (State.haltAxis_other (Ne.symm hb))) (fun t b hb h => Axis.drops_trans h (State.haltAxis_other (Ne.symm hb)))
    (fun t h => ?_) (by decide) (mem_allAxes a) (s.dropsStages_haltParts.drops a)
  rw [State.haltAxis_self]
  rcases h with h | h
  · exact .inl (by rw [h])
  · exact .inr (by rw [h, Axis.atHalt_dropStage])

/-- R86: the records in progress with a member the halt reaches have failed, and the axes halted one by one fail no other. -/
theorem State.haltAxes_motions (g : GroupId) : s.haltAxes.motions[g] = s.motions[g].map (·.afterHit s.reached) := by
  have hnone (a : AxisId) (h : s.reached a = true) : s.haltParts.motionOf a = none := State.motionOf_endMembers h true
  have hreached (a : AxisId) (h : (s.haltParts.axis a).state.halts = true) : s.reached a = true := by
    rw [s.haltParts_state a] at h
    exact h
  have hkept : s.haltAxes.motions = s.haltParts.motions ∧ ∀ a, (s.haltAxes.axis a).state.halts = true → s.reached a = true := by
    refine foldl_keeps (P := fun t : State => t.motions = s.haltParts.motions ∧ ∀ a, (t.axis a).state.halts = true → s.reached a = true)
      (fun t a h => ⟨?_, fun b hb => h.2 b (State.haltAxis_halts hb)⟩) _ _ ⟨rfl, hreached⟩
    rw [State.haltAxis_motions fun hh => (State.motionOf_congr h.1 a).trans (hnone a (h.2 a hh)), h.1]
  refine (congrArg (fun v : Vector (Option GroupMotion) 8 => v[g]) hkept.1).trans ?_
  exact (s.withClock s.clock.lineHalted).endMembers_motions _ true g

end Steps

/-- A member with a part, of an axis reached, ends with ENDED as its record fails. -/
theorem GroupMotion.afterHit_part {m : GroupMotion} {z : Member} {hit : AxisId → Bool} (hm : m.state ∈ [.evaluating, .moving])
    (hz : z ∈ m.members) (ho : z.outcome ∈ [.evaluating, .ready, .moving]) (hh : hit z.axis = true) :
    (m.afterHit hit).state = .failed ∧ (m.afterHit hit).cause = some .memberEnded ∧
      ∃ y ∈ (m.afterHit hit).members, y.axis = z.axis ∧ y.outcome = .ended := by
  have hpart : z.isHit hit m.state = true := by
    unfold Member.isHit
    rw [(active_iff _ _).mpr (.inl ho), hh]
    rfl
  have hhit : m.isHit hit = true := by
    unfold GroupMotion.isHit
    rw [Bool.and_eq_true, List.any_eq_true]
    exact ⟨(open_iff _).mpr hm, z, hz, hpart⟩
  have hended : ({ z with outcome := .ended } : Member).dropped m.state ∈ (m.afterHit hit).members := by
    rw [GroupMotion.afterHit_of hhit]
    refine List.mem_map_of_mem (List.mem_map.mpr ⟨z, hz, ?_⟩)
    rw [if_pos hpart]
  have hdropped : (({ z with outcome := .ended } : Member).dropped m.state).axis = z.axis ∧
      (({ z with outcome := .ended } : Member).dropped m.state).outcome = .ended := by
    unfold Member.dropped
    split <;> exact ⟨rfl, rfl⟩
  rw [GroupMotion.afterHit_of hhit] at *
  exact ⟨rfl, rfl, _, hended, hdropped⟩

/-! ## A halt as R180 and R181 have it -/

/-- The return sequence ends with the halt (R187). -/
theorem State.abandonReturn_ends (s : State) (n : Option AxisId) : (s.abandonReturn n).power.sequence = none ∧
    (s.power.sequence ≠ none → (s.abandonReturn n).power.outcome = .abandoned ∧ (s.abandonReturn n).clock.wasRunning = false ∧
      ∀ a, ((s.abandonReturn n).axis a).resumeMark = false) := by
  cases hq : s.power.sequence with
  | none =>
    rw [State.abandonReturn_none hq]
    exact ⟨hq, fun c => absurd rfl c⟩
  | some q =>
    rw [State.abandonReturn_eq hq]
    refine ⟨by rw [State.notify_power]; rfl, fun _ => ⟨by rw [State.notify_power]; rfl, by rw [State.notify_clock]; rfl, fun a => ?_⟩⟩
    rw [State.abandoned_axis]

theorem State.haltedTo_performHalt (s : State) : s.haltedTo s.performHalt ∧ s.performHalt.power.halt = s.power.halt := by
  have hclock := s.haltAxes_clock
  have haxis := s.haltAxes_axis
  have hmotions := s.haltAxes_motions
  have honly := s.leaves_haltAxes.only
  rw [s.performHalt_eq]
  generalize s.haltAxes = u at *
  have hsuspend := u.suspendAll_only
  have hrunner := u.suspendAll_runner
  generalize u.suspendAll = v at *
  have hleft := v.abandons_abandonReturn none
  obtain ⟨hsequence, hended⟩ := v.abandonReturn_ends none
  generalize v.abandonReturn none = t at *
  have htonly := hleft.only
  have htclock : t.clock = { s.clock.lineHalted with wasRunning := t.clock.wasRunning } := by
    rw [htonly, hsuspend, hclock]
  have hvpower : v.power = s.power := by
    rw [hsuspend, honly]
    rfl
  have htaxis (a : AxisId) : t.axis a = { u.axis a with resumeMark := (t.axis a).resumeMark } := by
    rw [hleft.axis a, hsuspend]
    rfl
  have hsky : t.clock.state = .halted ∧ t.clock.reason = .haltLine ∧ t.clock.roll = [] ∧ t.clock.settleTimer = none ∧
      t.clock.epoch = s.clock.epoch ∧ t.clock.residue = s.clock.residue ∧ t.clock.scheduled = s.clock.scheduled ∧
      t.clock.commanded = s.clock.commanded ∧ t.clock.ramp = s.clock.ramp := by
    rw [htclock]
    exact ⟨rfl, rfl, rfl, rfl, rfl, rfl, rfl, rfl, rfl⟩
  obtain ⟨hstate, hreason, hroll, htimer, hepoch, hresidue, hrate, hgoal, hramp⟩ := hsky
  have hstands : t.claims = s.claims ∧ t.channels = s.channels ∧ t.links = s.links ∧ t.outputs = s.outputs ∧
      t.captures = s.captures := by
    rw [htonly, hsuspend, honly]
    exact ⟨rfl, rfl, rfl, rfl, rfl⟩
  have hline : t.power.halt = v.power.halt := by rw [htonly]
  refine ⟨⟨hstate, hreason, hroll, htimer, hepoch, hresidue, hrate, hgoal, hramp, fun a => ?_, fun r => ?_, hsequence, fun hq => hended (by rw [hvpower]; exact hq),
    fun g m z hm hopen hz ho hs => ?_, hstands⟩, hline.trans (congrArg DrivePower.halt hvpower)⟩
  · rw [htaxis]
    refine Axis.haltedTo.marked ?_ _
    rcases haxis a with h | h
    · rw [h]
      exact Axis.haltedTo_atHalt _
    · rw [h]
      exact (Axis.haltedTo_atHalt _).dropped
  · have hr : t.runner r = (s.runner r).suspend .halt := by
      rw [htonly, show ({ v with axes := t.axes, clock := _, ports := t.ports, power := _ } : State).runner r = v.runner r from rfl,
        hrunner, honly]
      rfl
    rw [hr]
    exact (s.runner r).haltedTo_suspend
  · obtain ⟨hfailed, hcause, y, hy, hya, hyo⟩ := GroupMotion.afterHit_part (hit := s.reached) hopen hz ho ((AxisState.halts_iff _).mpr hs)
    refine ⟨_, y, ?_, hfailed, hcause, hy, hya, hyo⟩
    have htmotions : t.motions = u.motions := by rw [htonly, hsuspend]
    rw [htmotions, hmotions, hm]
    rfl

theorem State.suspendAll_port (s : State) (p : Port) : s.suspendAll.port p = s.port p := by
  rw [State.suspendAll_only]
  rfl

theorem State.framed_haltAxes (s : State) : s.Framed s.haltAxes := by
  have k := (keptWork_framed s).toKeptAxis
  have hparts : s.Framed s.haltParts := by
    unfold State.haltParts
    rw [← State.haltClock_haltLine]
    exact k.endMembers _ _ (k.haltClock _ (.refl s))
  exact foldl_keeps (P := s.Framed) (fun _ _ h => k.haltAxis _ h) _ _ hparts

/-- The requests of the ports stand. -/
theorem State.performHalt_request (s : State) (p : Port) : (s.performHalt.port p).request = (s.port p).request := by
  have hleft (v : State) : v.Framed (v.abandonReturn none) := (keptWork_framed v).toKeptAxis.abandonReturn none (.refl v)
  rw [s.performHalt_eq, (hleft _).request p, State.suspendAll_port, s.framed_haltAxes.request p]

theorem haltAll_eq (s : State) : haltAll s = (s.performHalt, Reply.done) := by
  unfold haltAll answerOk
  rfl

/-! ## The HALT line -/

section Line

variable {s : State}

theorem State.assertHalt_again (h : s.power.halt.accepted = true) : s.assertHalt = s := if_pos h

theorem State.assertHalt_halts (h : s.power.halt.accepted = false) :
    s.assertHalt = (s.withPower { s.power with halt := ⟨true, 0⟩ }).performHalt :=
  if_neg (by rw [h]; exact Bool.false_ne_true)

theorem State.haltDeasserted_ends (h : s.power.halt.accepted = true) :
    s.haltDeasserted = s.withPower { s.power with halt := ⟨false, 0⟩ } := if_pos h

theorem State.haltDeasserted_again (h : s.power.halt.accepted = false) : s.haltDeasserted = s :=
  if_neg (by rw [h]; exact Bool.false_ne_true)

end Line

/-- Settles O54: both ways to a halt perform `State.performHalt`, of which `State.haltedTo_performHalt` says what it does. -/
theorem haltReachesEveryBlock : Obligations.HaltReachesEveryBlock := by
  unfold Obligations.HaltReachesEveryBlock
  intro s
  refine ⟨fun hrun => ⟨fun hon => ⟨?_, ?_⟩, fun hoff => ⟨?_, ?_⟩⟩, fun p tag hr => ?_⟩
  · exact answers_event (f := fun s => s.assertHalt) rfl hrun (State.assertHalt_again hon) id
  · exact answers_event (f := fun s => s.haltDeasserted) rfl hrun (State.haltDeasserted_ends hon) (quiet_of_same rfl rfl rfl rfl rfl)
  · exact answers_event (f := fun s => s.haltDeasserted) rfl hrun (State.haltDeasserted_again hoff) id
  · obtain ⟨hhalted, hline⟩ := (s.withPower { s.power with halt := ⟨true, 0⟩ }).haltedTo_performHalt
    refine ⟨(s.withPower { s.power with halt := ⟨true, 0⟩ }).performHalt, ?_, hline, hhalted⟩
    rw [← State.assertHalt_halts hoff]
    exact exec_event_running (f := fun s => s.assertHalt) rfl hrun
  · have hport := ((s.outstand p tag 5).performHalt_request p).trans (outstand_port_request s p tag 5)
    have hcode : requestByte .haltAll = 5 := rfl
    have hexec := exec_answered (q := .haltAll) (i := .haltAll p tag) rfl rfl hr (congrArg now (haltAll_eq _))
    rw [hcode] at hexec
    obtain ⟨hhalted, hline⟩ := (s.outstand p tag 5).haltedTo_performHalt
    generalize (s.outstand p tag 5).performHalt = u at *
    refine ⟨u.enterReply p tag 5 Reply.done, ?_, hline, hhalted, ?_, State.enterReply_reply ..⟩
    · exact hexec
    · exact (State.enterReply_request ..).trans hport

end Sys2Proof.Machine
end

section
/-! PROOFS. Members that move together (04 R73, R87, R88, R90: O37, O38): the record of a group as its members arrive, and the start
of several slews one after the other. -/

namespace Sys2Proof.Machine

/-! ## The record in which an axis has its part -/

section MotionOf

variable {s : State} {a : AxisId} {g : GroupId} {m n : GroupMotion}

/-- The part an axis has in the record of a group. -/
def State.partIn (s : State) (a : AxisId) (g : GroupId) : Option (GroupId × GroupMotion) :=
  match s.motions[g] with
  | some m => if m.isHit (· == a) then some (g, m) else none
  | none => none

theorem State.motionOf_eq (s : State) (a : AxisId) : s.motionOf a = allGroups.findSome? (s.partIn a) := by
  unfold State.motionOf State.partIn GroupMotion.isHit Member.isHit
  simp only [Bool.and_comm] <;> rfl

theorem State.partIn_some (h : s.motions[g] = some m) : s.partIn a g = if m.isHit (· == a) then some (g, m) else none := by
  unfold State.partIn
  rw [h]

theorem State.partIn_setMotion (h : GroupId) : (s.setMotion g (some n)).partIn a h =
    if h = g then if n.isHit (· == a) then some (g, n) else none else s.partIn a h := by
  have hget := s.setMotion_get g h (some n)
  by_cases hg : h = g
  · subst hg
    rw [if_pos rfl] at hget ⊢
    exact State.partIn_some hget
  · rw [if_neg hg] at hget ⊢
    unfold State.partIn
    rw [hget]

/-- A record set anew, in which the axis has a part, is the one it is found in, where no other record was. -/
theorem State.motionOf_setMotion (h : s.motionOf a = none ∨ ∃ m, s.motionOf a = some (g, m)) (hn : n.isHit (· == a) = true) :
    (s.setMotion g (some n)).motionOf a = some (g, n) := by
  have hbefore : ∃ l₁ l₂, allGroups = l₁ ++ g :: l₂ ∧ ∀ x ∈ l₁, x ≠ g ∧ s.partIn a x = none := by
    rw [State.motionOf_eq] at h
    rcases h with h | ⟨m, h⟩
    · obtain ⟨l₁, l₂, hl, hg⟩ := List.eq_append_cons_of_mem (mem_allGroups g)
      refine ⟨l₁, l₂, hl, fun x hx => ⟨fun c => hg (c ▸ hx), List.findSome?_eq_none_iff.mp h x ?_⟩⟩
      rw [hl]
      exact List.mem_append_left _ hx
    · obtain ⟨l₁, x, l₂, hl, hx, hnone⟩ := List.findSome?_eq_some_iff.mp h
      obtain rfl : x = g := by
        unfold State.partIn at hx
        split at hx
        · split at hx
          · cases hx
            rfl
          · cases hx
        · cases hx
      exact ⟨l₁, l₂, hl, fun y hy => ⟨fun c => Option.some_ne_none _ (hx.symm.trans (c ▸ hnone y hy)), hnone y hy⟩⟩
  obtain ⟨l₁, l₂, hl, hnone⟩ := hbefore
  rw [State.motionOf_eq]
  refine List.findSome?_eq_some_iff.mpr ⟨l₁, g, l₂, hl, ?_, fun x hx => ?_⟩
  · rw [State.partIn_setMotion, if_pos rfl, if_pos hn]
  · rw [State.partIn_setMotion, if_neg (hnone x hx).1, (hnone x hx).2]

end MotionOf

/-! ## The arrival of a member (R88) -/

/-- A member of one of these axes has arrived. -/
def Member.arriving (A : List AxisId) (z : Member) : Member := if z.axis ∈ A then { z with outcome := .arrived } else z

/-- No member is moving. -/
def GroupMotion.atRest (m : GroupMotion) : Prop := ∀ z ∈ m.members, z.outcome ≠ .moving

/-- A record in MOVING as these axes arrive: ARRIVED with the last member, in whatever state it stands before. -/
structure GroupMotion.Arriving (m : GroupMotion) (A : List AxisId) (n : GroupMotion) : Prop where
  only : n = { m with state := n.state, members := m.members.map (·.arriving A) }
  moving : ¬ n.atRest → n.state = .moving
  started : A = [] → n.state = m.state

section Arriving

variable {m n k : GroupMotion} {A B : List AxisId} {z : Member}

theorem Member.arriving_axis (A : List AxisId) (z : Member) : (z.arriving A).axis = z.axis := by
  unfold Member.arriving
  split <;> rfl

theorem Member.arriving_mem (h : z.axis ∈ A) : z.arriving A = { z with outcome := .arrived } := if_pos h

theorem Member.arriving_not_mem (h : z.axis ∉ A) : z.arriving A = z := if_neg h

theorem Member.arriving_append (A B : List AxisId) (z : Member) : (z.arriving A).arriving B = z.arriving (A ++ B) := by
  by_cases hA : z.axis ∈ A
  · rw [Member.arriving_mem hA, Member.arriving_mem (List.mem_append_left B hA)]
    unfold Member.arriving
    split <;> rfl
  · rw [Member.arriving_not_mem hA]
    by_cases hB : z.axis ∈ B
    · rw [Member.arriving_mem hB, Member.arriving_mem (List.mem_append_right A hB)]
    · rw [Member.arriving_not_mem hB, Member.arriving_not_mem fun c => (List.mem_append.mp c).elim hA hB]

theorem GroupMotion.arriving_nil (m : GroupMotion) : m.members.map (·.arriving []) = m.members :=
  (List.map_congr_left fun _ _ => Member.arriving_not_mem List.not_mem_nil).trans (List.map_id _)

/-- An axis with a member still moving has its part in the record. -/
theorem GroupMotion.isHit_moving (hm : m.state = .moving) (hz : z ∈ m.members) (ho : z.outcome = .moving) :
    m.isHit (· == z.axis) = true := by
  unfold GroupMotion.isHit
  rw [hm, Bool.and_eq_true, List.any_eq_true]
  refine ⟨rfl, z, hz, ?_⟩
  unfold Member.isHit
  rw [ho]
  simp [MemberOutcome.active]

/-- The record as one axis arrives. -/
def GroupMotion.arrival (m : GroupMotion) (a : AxisId) : GroupMotion :=
  { m with
    members := m.members.map (·.arriving [a])
    state := if (m.members.map (·.arriving [a])).any (fun x => x.outcome == .moving) then m.state else .arrived }

theorem Member.settle_arrived (z : Member) (a : AxisId) : z.settle a .arrived = z.arriving [a] := by
  unfold Member.settle Member.arriving
  simp only [List.mem_singleton]

theorem GroupMotion.arrival_state (a : AxisId) : (¬ (m.arrival a).atRest → (m.arrival a).state = m.state) ∧
    ((m.arrival a).atRest → (m.arrival a).state = .arrived) := by
  have hrest : (m.arrival a).atRest ↔ (m.members.map (·.arriving [a])).any (fun x => x.outcome == .moving) = false := by
    unfold GroupMotion.atRest
    rw [List.any_eq_false]
    simp only [beq_iff_eq]
    rfl
  unfold GroupMotion.arrival at hrest ⊢
  refine ⟨fun h => if_pos ?_, fun h => if_neg ?_⟩
  · exact (Bool.not_eq_false _).mp fun c => h (hrest.mpr c)
  · rw [hrest.mp h]
    exact Bool.false_ne_true

end Arriving

section MemberArrived

variable {s : State} {a : AxisId} {g : GroupId} {m : GroupMotion} (h : s.motionOf a = some (g, m)) (hm : m.state = .moving)
include h hm

theorem State.memberArrived_arrival : (s.memberArrived a).motions = (s.setMotion g (some (m.arrival a))).motions := by
  unfold State.memberArrived GroupMotion.arrival
  rw [h]
  simp only [Member.settle_arrived, hm]
  cases (m.members.map (·.arriving [a])).any (fun x => x.outcome == .moving) <;> rfl

/-- The last member's arrival is told (R88). -/
theorem State.memberArrived_tells (hr : (m.arrival a).atRest) : .event (.groupArrived g) none ∈ (s.memberArrived a).signals ∧
    .done (.motion m.serial) ∈ (s.memberArrived a).signals := by
  have hnone : (m.members.map (·.settle a .arrived)).any (fun x => x.outcome == .moving) = false := by
    simp only [Member.settle_arrived]
    exact List.any_eq_false.mpr fun z hz => by
      rw [beq_iff_eq]
      exact hr z hz
  unfold State.memberArrived
  rw [h]
  dsimp only
  rw [if_pos ⟨hm, by rw [hnone]; rfl⟩]
  simp

end MemberArrived

/-! ## One slew of several (R72, R73) -/

/-- A member's move: its axis, its target, and the staged-at it arrives with. -/
abbrev Move := AxisId × Int × Option StagedAt

/-- The move has no length. -/
def State.atTarget (s : State) (x : Move) : Bool := (s.axis x.1).difference x.2.1 (s.axis x.1).extended = 0

/-- The squared velocity limit and the acceleration of a move stretched to a common duration (R87). -/
def State.profile (s : State) (x : Move) (d : Nat) : Nat × Nat :=
  if s.memberTime x.1 x.2.1 = d ∨ d = 0 then ((s.axis x.1).record.limitSq, (s.axis x.1).record.accel2)
  else ((s.axis x.1).record.limitSq * (s.memberTime x.1 x.2.1 * s.memberTime x.1 x.2.1) / (d * d),
    (s.axis x.1).record.accel2 * (s.memberTime x.1 x.2.1 * s.memberTime x.1 x.2.1) / (d * d))

/-- One move begins. -/
def State.startMove (s : State) (x : Move) (d : Nat) : State := s.slewTo x.1 x.2.1 x.2.2 (s.profile x d).1 (s.profile x d).2

theorem State.startTogether_cons (s : State) (x : Move) (l : List Move) (d : Nat) :
    s.startTogether (x :: l) d = (s.startMove x d).startTogether l d := by
  unfold State.startTogether State.startMove State.profile
  rw [List.foldl_cons]
  dsimp only
  split <;> rfl

/-- The axis at a target it stands on already (R73, R74). -/
structure Axis.Lands (x y : Axis) (staged : Option StagedAt) : Prop where
  state : y.state = .standing
  target : y.target = none
  position : y.position = x.position
  unstaged : staged = none → y.stage = x.stage ∧ y.lastStage = x.lastStage
  staged : ∀ z, staged = some z → y.stagedAt = some z ∧ y.lastStage = .arrived
  stage : x.stage = none → y.stage = none

theorem State.lands_arrive (s : State) (a : AxisId) (t : Target) : (s.axis a).Lands ((s.arrive a t).axis a) t.staged := by
  obtain ⟨hstate, htarget, _, hposition, _, _⟩ := s.arrive_rests a t
  rw [State.arrive_takeRest] at *
  refine ⟨hstate, htarget, hposition, fun h => ?_, fun z hz => ?_, fun h => ?_⟩
  · rw [State.takeRest_unstaged h, State.modAxis_axis_self]
    exact ⟨rfl, rfl⟩
  · rw [State.takeRest_staged hz, State.modAxis_axis_self]
    exact ⟨rfl, rfl⟩
  · cases hz : t.staged with
    | none =>
      rw [State.takeRest_unstaged hz, State.modAxis_axis_self]
      exact h
    | some z =>
      rw [State.takeRest_staged hz, State.modAxis_axis_self, State.endLedStage_stands fun k hk => ?_]
      · rw [State.modAxis_axis_self]
        exact h
      · rw [State.modAxis_axis_self] at hk
        exact absurd (h.symm.trans hk) nofun

section StartMove

variable {s : State} {x : Move} (d : Nat)

theorem State.leaves_startMove : s.Leaves (s.startMove x d) := State.slewTo_leaves ..

variable (hm : (s.axis x.1).mayTake x.2.1 = true)
include hm

theorem State.startMove_sends (h : s.atTarget x = false) (b : AxisId) : (s.startMove x d).axis b =
    if b = x.1 then (s.axis x.1).slewing (s.newTarget x.2.1 x.2.2 (s.profile x d).1 (s.profile x d).2) else s.axis b :=
  State.slewTo_moves _ _ _ hm (.inl (of_decide_eq_false h)) b

theorem State.startMove_sends_motions (h : s.atTarget x = false) : (s.startMove x d).motions = s.motions := by
  unfold State.startMove
  rw [State.slewTo_eq _ _ _ hm, if_neg fun c => of_decide_eq_false h c.1, State.rollLeave_motions]
  exact s.endSlew_motions x.1 false

variable (h : s.atTarget x = true) (hv : (s.axis x.1).speedSq = 0)
include h hv

theorem State.startMove_lands : s.startMove x d =
    ((s.takeTarget x.1 x.2.1 x.2.2 (s.profile x d).1 (s.profile x d).2).rollLeave x.1).arrive x.1
      (s.newTarget x.2.1 x.2.2 (s.profile x d).1 (s.profile x d).2) := by
  unfold State.startMove
  rw [State.slewTo_eq _ _ _ hm, if_pos ⟨of_decide_eq_true h, hv⟩]

theorem State.startMove_lands_self : (s.axis x.1).Lands ((s.startMove x d).axis x.1) x.2.2 := by
  rw [State.startMove_lands d hm h hv]
  have hlands := ((s.takeTarget x.1 x.2.1 x.2.2 (s.profile x d).1 (s.profile x d).2).rollLeave x.1).lands_arrive x.1
    (s.newTarget x.2.1 x.2.2 (s.profile x d).1 (s.profile x d).2)
  rw [State.rollLeave_axis, State.takeTarget_axis, if_pos rfl] at hlands
  exact ⟨hlands.state, hlands.target, hlands.position, hlands.unstaged, hlands.staged, hlands.stage⟩

theorem State.startMove_lands_other {b : AxisId} (hb : b ≠ x.1) : (s.startMove x d).axis b = s.axis b := by
  rw [State.startMove_lands d hm h hv, State.arrive_takeRest, State.takeRest_axis, if_neg hb, State.rollLeave_axis,
    State.takeTarget_axis, if_neg hb]

theorem State.startMove_lands_event : .event (.axisArrived x.1) none ∈ (s.startMove x d).signals := by
  rw [State.startMove_lands d hm h hv]
  exact State.arrive_event ..

variable {g : GroupId} {m : GroupMotion} (hpart : s.motionOf x.1 = some (g, m)) (hmoving : m.state = .moving)
include hpart hmoving

theorem State.startMove_lands_record : (s.startMove x d).motions = (s.setMotion g (some (m.arrival x.1))).motions ∧
    ((m.arrival x.1).atRest → .event (.groupArrived g) none ∈ (s.startMove x d).signals ∧
      .done (.motion m.serial) ∈ (s.startMove x d).signals) := by
  rw [State.startMove_lands d hm h hv, State.arrive_eq]
  have hmotions : (((((s.takeTarget x.1 x.2.1 x.2.2 (s.profile x d).1 (s.profile x d).2).rollLeave x.1).takeRest x.1
      (s.newTarget x.2.1 x.2.2 (s.profile x d).1 (s.profile x d).2)).event (.axisArrived x.1)).raise
      (.done (.slew (s.newTarget x.2.1 x.2.2 (s.profile x d).1 (s.profile x d).2).serial))).motions = s.motions := by
    refine (State.takeRest_motions ..).trans ((State.rollLeave_motions ..).trans ?_)
    exact s.endSlew_motions x.1 false
  generalize (((((s.takeTarget x.1 x.2.1 x.2.2 (s.profile x d).1 (s.profile x d).2).rollLeave x.1).takeRest x.1
      (s.newTarget x.2.1 x.2.2 (s.profile x d).1 (s.profile x d).2)).event (.axisArrived x.1)).raise
      (.done (.slew (s.newTarget x.2.1 x.2.2 (s.profile x d).1 (s.profile x d).2).serial))) = u at *
  have hu : u.motionOf x.1 = some (g, m) := (State.motionOf_congr hmotions _).trans hpart
  refine ⟨(State.memberArrived_arrival hu hmoving).trans ?_, State.memberArrived_tells hu hmoving⟩
  exact congrArg (fun v : Vector (Option GroupMotion) 8 => v.set g (some (m.arrival x.1))) hmotions

end StartMove

/-! ## All of them -/

section Together

variable {w : State} {g : GroupId} {m : GroupMotion} {moves : List Move} {d : Nat}

/-- The axes that stand on their targets already. -/
def State.arrivals (s : State) (moves : List Move) : List AxisId := (moves.filter s.atTarget).map (·.1)

/-- What is known of members about to move together: their targets may be taken, each has a member that is MOVING, and one of no
length is at rest and has its part in this record. -/
structure State.MayMove (w : State) (g : GroupId) (m : GroupMotion) (x : Move) : Prop where
  mayTake : (w.axis x.1).mayTake x.2.1 = true
  rest : w.atTarget x = true → (w.axis x.1).speedSq = 0
  part : w.atTarget x = true → w.motionOf x.1 = some (g, m)
  member : ∃ z ∈ m.members, z.axis = x.1 ∧ z.outcome = .moving

/-- What the start of several moves does (R87, R88). -/
structure State.MovesTogether (w t : State) (g : GroupId) (m : GroupMotion) (moves : List Move) (d : Nat) : Prop where
  leaves : w.Leaves t
  others : ∀ b, b ∉ moves.map (·.1) → t.axis b = w.axis b
  sent : ∀ x ∈ moves, w.atTarget x = false →
    ∃ k, t.axis x.1 = (w.axis x.1).slewing ⟨x.2.1, (w.profile x d).1, (w.profile x d).2, x.2.2, k⟩
  landed : ∀ x ∈ moves, w.atTarget x = true → (w.axis x.1).Lands (t.axis x.1) x.2.2 ∧ .event (.axisArrived x.1) none ∈ t.signals
  record : ∃ n, t.motions[g] = some n ∧ m.Arriving (w.arrivals moves) n ∧ (n.atRest → w.arrivals moves ≠ [] →
    n.state = .arrived ∧ .event (.groupArrived g) none ∈ t.signals ∧ .done (.motion m.serial) ∈ t.signals)

theorem State.atTarget_congr {s t : State} {x : Move} (h : t.axis x.1 = s.axis x.1) : t.atTarget x = s.atTarget x := by
  unfold State.atTarget
  rw [h]

theorem State.profile_congr {s t : State} {x : Move} (h : t.axis x.1 = s.axis x.1) (d : Nat) : t.profile x d = s.profile x d := by
  unfold State.profile State.memberTime
  rw [h]

theorem State.arrivals_congr {s t : State} (h : ∀ x ∈ moves, t.axis x.1 = s.axis x.1) : t.arrivals moves = s.arrivals moves := by
  unfold State.arrivals
  rw [List.filter_congr fun x hx => State.atTarget_congr (h x hx)]

theorem GroupMotion.atRest_not (h : ∃ z ∈ m.members, z.outcome = .moving) : ¬ m.atRest := fun c =>
  let ⟨z, hz, ho⟩ := h
  c z hz ho

/-- What later moves find after one: nothing of theirs has changed. -/
theorem State.MovesTogether.cons {t u : State} {x : Move} {n : GroupMotion} (hx : x.1 ∉ moves.map (·.1))
    (hothers : ∀ b, b ≠ x.1 → u.axis b = w.axis b) (hleaves : w.Leaves u)
    (hsent : w.atTarget x = false → ∃ k, u.axis x.1 = (w.axis x.1).slewing ⟨x.2.1, (w.profile x d).1, (w.profile x d).2, x.2.2, k⟩)
    (hlanded : w.atTarget x = true → (w.axis x.1).Lands (u.axis x.1) x.2.2 ∧ .event (.axisArrived x.1) none ∈ u.signals)
    (h : u.MovesTogether t g n moves d)
    (hrecord : ∃ n, t.motions[g] = some n ∧ m.Arriving (w.arrivals (x :: moves)) n ∧ (n.atRest → w.arrivals (x :: moves) ≠ [] →
      n.state = .arrived ∧ .event (.groupArrived g) none ∈ t.signals ∧ .done (.motion m.serial) ∈ t.signals)) :
    w.MovesTogether t g m (x :: moves) d := by
  have hlater (y : Move) (hy : y ∈ moves) : u.axis y.1 = w.axis y.1 :=
    hothers _ fun c => hx (c ▸ List.mem_map_of_mem hy)
  have hself : t.axis x.1 = u.axis x.1 := h.others _ hx
  refine ⟨hleaves.trans h.leaves, fun b hb => ?_, fun y hy hfar => ?_, fun y hy hat => ?_, hrecord⟩
  · rw [List.map_cons, List.mem_cons, not_or] at hb
    exact (h.others b hb.2).trans (hothers b hb.1)
  · rcases List.mem_cons.mp hy with rfl | hy
    · rw [hself]
      exact hsent hfar
    · have hsame := hlater y hy
      rw [← hsame, ← State.profile_congr hsame]
      exact h.sent y hy ((State.atTarget_congr hsame).trans hfar)
  · rcases List.mem_cons.mp hy with rfl | hy
    · obtain ⟨hlands, hevent⟩ := hlanded hat
      rw [hself]
      exact ⟨hlands, h.leaves.raised _ hevent⟩
    · have hsame := hlater y hy
      rw [← hsame]
      exact h.landed y hy ((State.atTarget_congr hsame).trans hat)

theorem State.movesTogether_startTogether (hg : w.motions[g] = some m) (hm : ¬ m.atRest → m.state = .moving)
    (hnodup : (moves.map (·.1)).Nodup) (hmay : ∀ x ∈ moves, w.MayMove g m x) :
    w.MovesTogether (w.startTogether moves d) g m moves d := by
  induction moves generalizing w m with
  | nil =>
    refine ⟨.refl w, fun _ _ => rfl, fun _ h => absurd h List.not_mem_nil, fun _ h => absurd h List.not_mem_nil,
      m, hg, ⟨?_, hm, fun _ => rfl⟩, fun _ h => absurd rfl h⟩
    change m = { m with state := m.state, members := m.members.map (·.arriving []) }
    rw [m.arriving_nil]
  | cons x moves ih =>
    obtain ⟨hx, hnodup⟩ := List.nodup_cons.mp hnodup
    obtain ⟨hx, hnodup⟩ : x.1 ∉ moves.map (·.1) ∧ (moves.map (·.1)).Nodup := ⟨hx, hnodup⟩
    have hhead := hmay x List.mem_cons_self
    have hmoving : m.state = .moving := hm (GroupMotion.atRest_not (hhead.member.imp fun z hz => ⟨hz.1, hz.2.2⟩))
    have hfar (y : Move) (hy : y ∈ moves) : y.1 ≠ x.1 := fun c => hx (c ▸ List.mem_map_of_mem hy)
    rw [State.startTogether_cons]
    cases hat : w.atTarget x with
    | false =>
      have hsends := State.startMove_sends d hhead.mayTake hat
      have hmotions := State.startMove_sends_motions d hhead.mayTake hat
      have hleaves := State.leaves_startMove (s := w) (x := x) d
      generalize w.startMove x d = u at *
      have hothers (b : AxisId) (hb : b ≠ x.1) : u.axis b = w.axis b := (hsends b).trans (if_neg hb)
      have htail := ih (w := u) (m := m) (by rw [hmotions]; exact hg) hm hnodup fun y hy => by
        obtain ⟨htake, hrest, hpart, hmember⟩ := hmay y (List.mem_cons_of_mem _ hy)
        have hsame := hothers y.1 (hfar y hy)
        rw [← State.atTarget_congr hsame] at hrest hpart
        refine ⟨by rw [hsame]; exact htake, fun c => by rw [hsame]; exact hrest c, fun c => ?_, hmember⟩
        exact (State.motionOf_congr hmotions _).trans (hpart c)
      have harrivals : u.arrivals moves = w.arrivals (x :: moves) := by
        rw [State.arrivals_congr fun y hy => hothers y.1 (hfar y hy)]
        unfold State.arrivals
        rw [List.filter_cons_of_neg (by rw [hat]; exact Bool.false_ne_true)]
      refine htail.cons hx hothers hleaves (fun _ => ⟨w.serial, (hsends x.1).trans (if_pos rfl)⟩)
        (fun c => absurd (hat.symm.trans c) Bool.false_ne_true) ?_
      rw [← harrivals]
      exact htail.record
    | true =>
      have hv := hhead.rest hat
      obtain ⟨hmotions, htells⟩ := State.startMove_lands_record d hhead.mayTake hat hv (hhead.part hat) hmoving
      have hself := State.startMove_lands_self d hhead.mayTake hat hv
      have hothers (b : AxisId) (hb : b ≠ x.1) := State.startMove_lands_other d hhead.mayTake hat hv hb
      have hevent := State.startMove_lands_event d hhead.mayTake hat hv
      have hleaves := State.leaves_startMove (s := w) (x := x) d
      generalize w.startMove x d = u at *
      obtain ⟨hgoeson, hends⟩ := m.arrival_state x.1
      have hstate : ¬ (m.arrival x.1).atRest → (m.arrival x.1).state = .moving := fun c => (hgoeson c).trans hmoving
      have htail := ih (w := u) (m := m.arrival x.1) ?_ hstate hnodup fun y hy => ?_
      · have harrivals : w.arrivals (x :: moves) = x.1 :: u.arrivals moves := by
          rw [State.arrivals_congr fun y hy => hothers y.1 (hfar y hy)]
          unfold State.arrivals
          rw [List.filter_cons_of_pos hat, List.map_cons]
        refine htail.cons hx hothers hleaves (fun c => absurd (hat.symm.trans c) nofun) (fun _ => ⟨hself, hevent⟩) ?_
        obtain ⟨n, hn, harriving, hlast⟩ := htail.record
        rw [harrivals]
        refine ⟨n, hn, ⟨?_, harriving.moving, fun c => absurd c (List.cons_ne_nil _ _)⟩, fun hrest _ => ?_⟩
        · rw [harriving.only]
          unfold GroupMotion.arrival
          dsimp only
          rw [List.map_map]
          refine congrArg (fun l => { m with state := n.state, members := l }) (List.map_congr_left fun z _ => ?_)
          exact Member.arriving_append [x.1] _ z
        · by_cases hnone : u.arrivals moves = []
          · have hfirst : (m.arrival x.1).atRest := by
              have hsame : n.members = (m.arrival x.1).members := by
                rw [harriving.only, hnone]
                exact GroupMotion.arriving_nil _
              unfold GroupMotion.atRest at hrest ⊢
              rwa [hsame] at hrest
            obtain ⟨hgroup, hdone⟩ := htells hfirst
            exact ⟨(harriving.started hnone).trans (hends hfirst), htail.leaves.raised _ hgroup, htail.leaves.raised _ hdone⟩
          · exact hlast hrest hnone
      · rw [hmotions, State.setMotion_get, if_pos rfl]
      · obtain ⟨htake, hrest, hpart, z, hz, hza, hzo⟩ := hmay y (List.mem_cons_of_mem _ hy)
        have hsame := hothers y.1 (hfar y hy)
        rw [← State.atTarget_congr hsame] at hrest hpart
        have hzstays : z.arriving [x.1] = z := Member.arriving_not_mem fun c => hfar y hy (hza.symm.trans (List.mem_singleton.mp c))
        have hzmem : z ∈ (m.arrival x.1).members := List.mem_map.mpr ⟨z, hz, hzstays⟩
        refine ⟨by rw [hsame]; exact htake, fun c => by rw [hsame]; exact hrest c, fun c => ?_, z, hzmem, hza, hzo⟩
        rw [State.motionOf_congr hmotions]
        refine State.motionOf_setMotion (.inr ⟨m, hpart c⟩) ?_
        rw [← hza]
        exact GroupMotion.isHit_moving (hstate (GroupMotion.atRest_not ⟨z, hzmem, hzo⟩)) hzmem hzo

end Together

end Sys2Proof.Machine
end

section
/-! PROOFS. The checks of a Coordinated Slew (04 R68, R71, R87, R94: O37): targets, least durations, and the first entry that fails. -/

namespace Sys2Proof.Machine

/-! ## The target an absolute position names (R71, R94) -/

section Names

variable {x : Axis} {raw : BitVec 32} {k : Int}

theorem Axis.names_limited (hc : x.record.kind = .limited) : x.names raw k ↔ k = raw.toInt := by
  unfold Axis.names
  rw [hc]

theorem Axis.names_continuous (hc : x.record.kind = .continuous) :
    x.names raw k ↔ raw.toNat < x.record.stepsPerTurn ∧ k = x.extendedTarget raw.toNat := by
  obtain ⟨heq, hext⟩ := extendedTarget_wrap x raw.toNat hc
  unfold Axis.names
  rw [hc, heq]
  dsimp only
  constructor
  · rintro ⟨hraw, hmod, hpick⟩
    refine ⟨hraw, ?_⟩
    cases hw : x.record.wrap.getD .shortest <;> rw [hw] at hpick
    · exact eq_wrapTarget (by omega) hext hmod (fun _ => hpick) nofun nofun
    · exact eq_wrapTarget (by omega) hext hmod nofun (fun _ => hpick) nofun
    · exact eq_wrapTarget (by omega) hext hmod nofun nofun fun _ => hpick
  · rintro ⟨hraw, hk⟩
    obtain ⟨hmod, hs, hp, hn⟩ := wrapTarget_spec _ _ _ _ _ _ (by omega) hext hk
    refine ⟨hraw, hmod, ?_⟩
    cases hw : x.record.wrap.getD .shortest
    · exact hs hw
    · exact hp hw
    · exact hn hw

theorem Axis.names.difference (h : x.names raw k) : x.difference k x.extended = k - x.extended := by
  cases hc : x.record.kind with
  | limited =>
    unfold Axis.difference
    rw [hc]
  | continuous =>
    unfold Axis.names at h
    rw [hc] at h
    obtain ⟨_, _, hpick⟩ := h
    cases hw : x.record.wrap.getD .shortest <;> rw [hw] at hpick <;> exact difference_near x (by omega) (by omega)

theorem Axis.names.barred_iff (h : x.names raw k) :
    x.barred k ↔ (x.record.kind = .limited ∧ x.outsideSoft k = true) ∨ x.towardMemory k = true := by
  unfold Axis.barred
  rw [towardMemory_iff, h.difference, outsideSoft_iff]
  refine or_congr Iff.rfl (or_congr ?_ ?_)
  · exact and_congr Iff.rfl (and_congr Iff.rfl (by omega))
  · exact and_congr Iff.rfl (and_congr Iff.rfl (by omega))

theorem Axis.names.absoluteTarget (h : x.names raw k) :
    (x.barred k → x.absoluteTarget raw = .error .range) ∧ (¬ x.barred k → x.absoluteTarget raw = .ok k) := by
  rw [h.barred_iff]
  unfold Axis.absoluteTarget
  cases hc : x.record.kind with
  | limited =>
    obtain rfl := (Axis.names_limited hc).mp h
    simp only [true_and]
    exact ⟨fun hb => if_pos (Bool.or_eq_true_iff.mpr hb), fun hb => if_neg fun c => hb (Bool.or_eq_true_iff.mp c)⟩
  | continuous =>
    obtain ⟨hraw, rfl⟩ := (Axis.names_continuous hc).mp h
    dsimp only
    rw [if_neg (Nat.not_le.mpr hraw)]
    simp only [reduceCtorEq, false_and, false_or]
    exact ⟨fun hb => if_pos hb, fun hb => if_neg hb⟩

/-- A position of a CONTINUOUS axis that lies within the turn names a target, and any of a LIMITED one. -/
theorem Axis.names_exists (x : Axis) (raw : BitVec 32) (h : x.record.kind = .continuous → raw.toNat < x.record.stepsPerTurn) :
    ∃ k, x.names raw k := by
  cases hc : x.record.kind with
  | limited => exact ⟨_, (Axis.names_limited hc).mpr rfl⟩
  | continuous => exact ⟨_, (Axis.names_continuous hc).mpr ⟨h hc, rfl⟩⟩

theorem Axis.targetFault_error {st : Status} (h : x.absoluteTarget raw = .error st) : x.targetFault raw = some st := by
  unfold Axis.targetFault
  rw [h]

theorem Axis.targetFault_ok (h : x.absoluteTarget raw = .ok k) : x.targetFault raw = none := by
  unfold Axis.targetFault
  rw [h]

theorem Axis.targetFault_badValue (x : Axis) (raw : BitVec 32) :
    x.targetFault raw = some .badValue ↔ x.record.kind = .continuous ∧ x.record.stepsPerTurn ≤ raw.toNat := by
  by_cases h : x.record.kind = .continuous ∧ x.record.stepsPerTurn ≤ raw.toNat
  · exact ⟨fun _ => h, fun _ => Axis.targetFault_error (absoluteTarget_beyondTurn h.1 h.2)⟩
  · obtain ⟨k, hk⟩ := x.names_exists raw fun hc => Nat.not_le.mp fun c => h ⟨hc, c⟩
    refine ⟨fun c => ?_, fun c => absurd c h⟩
    by_cases hb : x.barred k
    · rw [Axis.targetFault_error (hk.absoluteTarget.1 hb)] at c
      cases c
    · rw [Axis.targetFault_ok (hk.absoluteTarget.2 hb)] at c
      cases c

theorem Axis.targetFault_range (x : Axis) (raw : BitVec 32) :
    x.targetFault raw = some .range ↔ ∃ k, x.names raw k ∧ x.barred k := by
  refine ⟨fun h => ?_, fun ⟨k, hk, hb⟩ => Axis.targetFault_error (hk.absoluteTarget.1 hb)⟩
  have hfits : x.record.kind = .continuous → raw.toNat < x.record.stepsPerTurn := fun hc => Nat.not_le.mp fun c => by
    rw [(x.targetFault_badValue raw).mpr ⟨hc, c⟩] at h
    cases h
  obtain ⟨k, hk⟩ := x.names_exists raw hfits
  refine ⟨k, hk, ?_⟩
  by_contra hb
  rw [Axis.targetFault_ok (hk.absoluteTarget.2 hb)] at h
  cases h

end Names

/-! ## The least duration of a move (R87) -/

theorem State.memberTime_eq (s : State) (a : AxisId) (k : Int) : s.memberTime a k =
    moveTime ((s.axis a).difference k (s.axis a).extended).natAbs (s.axis a).record.velocity (s.axis a).record.acceleration := rfl

theorem moveTime_zero (v c : Nat) : moveTime 0 v c = 0 := if_pos rfl

theorem moveTime_full {d v c : Nat} (hd : d ≠ 0) (h : v * v ≤ d * c) : moveTime d v c = (d * c + v * v) * 1000000000 / (v * c) := by
  unfold moveTime
  rw [if_neg hd, if_pos h]

theorem moveTime_short {d v c : Nat} (h : d * c < v * v) : moveTime d v c = 2 * isqrt (d * 1000000000000000000 / c) := by
  unfold moveTime
  by_cases hd : d = 0
  · have hroot := (isqrt_spec 0).1
    have hzero : isqrt 0 = 0 := by nlinarith
    rw [if_pos hd, hd, Nat.zero_mul, Nat.zero_div, hzero]
  · rw [if_neg hd, if_neg (Nat.not_le.mpr h)]

/-! ## The place of the first entry that fails -/

theorem firstPlace_first {α : Type} {bad : α → Bool} : ∀ {pre : List α} {e : α} {post : List α} (i : Nat),
    (∀ x ∈ pre, bad x = false) → bad e = true → firstPlace bad i (pre ++ e :: post) = some (i + pre.length)
  | [], _, _, _, _, he => if_pos he
  | x :: pre, e, post, i, hpre, he => by
    have hrest := firstPlace_first (post := post) (i + 1) (fun y hy => hpre y (List.mem_cons_of_mem _ hy)) he
    rw [List.cons_append, firstPlace, hpre x List.mem_cons_self, if_neg Bool.false_ne_true, hrest, List.length_cons,
      Nat.add_assoc, Nat.add_comm 1]

theorem firstPlace_none {α : Type} {bad : α → Bool} : ∀ {l : List α} (i : Nat), (∀ x ∈ l, bad x = false) → firstPlace bad i l = none
  | [], _, _ => rfl
  | x :: l, i, h => by
    rw [firstPlace, h x List.mem_cons_self, if_neg Bool.false_ne_true]
    exact firstPlace_none _ fun y hy => h y (List.mem_cons_of_mem _ hy)

theorem axisOf_iff (n : Nat) (a : AxisId) : axisOf n = some a ↔ a.val = n := by
  refine ⟨fun h => ?_, fun h => h ▸ axisOf_val a⟩
  unfold axisOf at h
  split at h
  · cases h
    rfl
  · cases h

section Entries

variable {s : State} {f : Axis → BitVec 32 → Bool} {l pre post : List (Nat × BitVec 32)} {a : AxisId} {raw : BitVec 32}

/-- An entry names an axis that fails a test. -/
def State.entryFails (s : State) (f : Axis → BitVec 32 → Bool) (e : Nat × BitVec 32) : Bool :=
  match axisOf e.1 with
  | some a => f (s.axis a) e.2
  | none => false

theorem State.entryPlace_eq (s : State) (f : Axis → BitVec 32 → Bool) (l : List (Nat × BitVec 32)) :
    s.entryPlace f l = firstPlace (s.entryFails f) 0 l := rfl

theorem State.entryFails_named (s : State) (f : Axis → BitVec 32 → Bool) (a : AxisId) (raw : BitVec 32) :
    s.entryFails f (a.val, raw) = f (s.axis a) raw := by
  unfold State.entryFails
  rw [axisOf_val]

theorem State.entryFails_not {e : Nat × BitVec 32} (h : ∀ b : AxisId, b.val = e.1 → f (s.axis b) e.2 = false) :
    s.entryFails f e = false := by
  unfold State.entryFails
  cases ha : axisOf e.1 with
  | none => rfl
  | some b => exact h b ((axisOf_iff _ _).mp ha)

theorem State.entryPlace_first (hpre : ∀ e ∈ pre, ∀ b : AxisId, b.val = e.1 → f (s.axis b) e.2 = false)
    (ha : f (s.axis a) raw = true) : s.entryPlace f (pre ++ (a.val, raw) :: post) = some pre.length := by
  rw [State.entryPlace_eq, firstPlace_first 0 (fun e he => State.entryFails_not (hpre e he)) ((s.entryFails_named f a raw).trans ha),
    Nat.zero_add]

theorem State.entryPlace_none (h : ∀ e ∈ l, ∀ b : AxisId, b.val = e.1 → f (s.axis b) e.2 = false) : s.entryPlace f l = none :=
  firstPlace_none 0 fun e he => State.entryFails_not (h e he)

end Entries

/-! ## Entries that do not fit (R87) -/

section Misfits

variable {s : State} {g : GroupId} {before : List (Nat × BitVec 32)} {seen : List Nat} {n : Nat} {raw : BitVec 32}

/-- An entry that names no axis does not fit. -/
theorem State.misfits_unnamed (h : axisOf n = none) : s.misfits g before (n, raw) :=
  .inl fun a ha => absurd (((axisOf_iff n a).mpr ha).symm.trans h) nofun

theorem State.misfits_named (a : AxisId) : s.misfits g before (a.val, raw) ↔
    (s.axis a).record.group ≠ g ∨ a.val ∈ before.map Prod.fst ∨ (s.axis a).targetFault raw = some .badValue := by
  unfold State.misfits
  rw [Axis.targetFault_badValue]
  refine or_congr ⟨fun h => h a rfl, fun h b hb => Fin.ext hb ▸ h⟩ (or_congr Iff.rfl ⟨fun ⟨b, hb, h⟩ => Fin.ext hb ▸ h, fun h => ⟨a, rfl, h⟩⟩)

/-- The test of one entry, past those seen. -/
theorem State.badEntry_cons (i : Nat) (e : Nat × BitVec 32) (l : List (Nat × BitVec 32))
    (h : ∀ n, n ∈ seen ↔ n ∈ before.map Prod.fst) :
    (s.misfits g before e → s.badEntry g i seen (e :: l) = some i) ∧
    (¬ s.misfits g before e → s.badEntry g i seen (e :: l) = s.badEntry g (i + 1) (e.1 :: seen) l) := by
  obtain ⟨n, raw⟩ := e
  cases ha : axisOf n with
  | none =>
    refine ⟨fun _ => ?_, fun c => absurd (State.misfits_unnamed ha) c⟩
    rw [State.badEntry, ha]
  | some a =>
    obtain rfl := (axisOf_iff n a).mp ha
    rw [State.misfits_named, ← h, State.badEntry, ha]
    exact ⟨fun c => if_pos c, fun c => if_neg c⟩

theorem State.badEntry_first {post : List (Nat × BitVec 32)} {e : Nat × BitVec 32} : ∀ (pre : List (Nat × BitVec 32)) (i : Nat)
    (before : List (Nat × BitVec 32)) (seen : List Nat), (∀ n, n ∈ seen ↔ n ∈ before.map Prod.fst) →
    (∀ u d v, pre = u ++ d :: v → ¬ s.misfits g (before ++ u) d) → s.misfits g (before ++ pre) e →
    s.badEntry g i seen (pre ++ e :: post) = some (i + pre.length)
  | [], i, before, seen, hseen, _, he => (State.badEntry_cons i e post hseen).1 (by rwa [List.append_nil] at he)
  | x :: pre, i, before, seen, hseen, hfits, he => by
    have hx : ¬ s.misfits g before x := by
      have hfirst := hfits [] x pre rfl
      rwa [List.append_nil] at hfirst
    have hshift (u : List (Nat × BitVec 32)) : before ++ x :: u = (before ++ [x]) ++ u := (List.append_cons ..)
    rw [List.cons_append, (State.badEntry_cons i x _ hseen).2 hx, State.badEntry_first pre (i + 1) (before ++ [x]) (x.1 :: seen),
      List.length_cons, Nat.add_assoc, Nat.add_comm 1]
    · intro n
      rw [List.mem_cons, hseen, List.map_append, List.mem_append, or_comm, List.map_singleton, List.mem_singleton]
    · intro u d v huv
      rw [← hshift]
      exact hfits (x :: u) d v (congrArg (x :: ·) huv)
    · rwa [← hshift]

theorem State.badEntry_none : ∀ (l : List (Nat × BitVec 32)) (i : Nat)
    (before : List (Nat × BitVec 32)) (seen : List Nat), (∀ n, n ∈ seen ↔ n ∈ before.map Prod.fst) →
    (∀ u d v, l = u ++ d :: v → ¬ s.misfits g (before ++ u) d) → s.badEntry g i seen l = none
  | [], _, _, _, _, _ => rfl
  | x :: l, i, before, seen, hseen, hfits => by
    have hx : ¬ s.misfits g before x := by
      have hfirst := hfits [] x l rfl
      rwa [List.append_nil] at hfirst
    have hshift (u : List (Nat × BitVec 32)) : before ++ x :: u = (before ++ [x]) ++ u := (List.append_cons ..)
    rw [(State.badEntry_cons i x _ hseen).2 hx, State.badEntry_none l (i + 1) (before ++ [x]) (x.1 :: seen)]
    · intro n
      rw [List.mem_cons, hseen, List.map_append, List.mem_append, or_comm, List.map_singleton, List.mem_singleton]
    · intro u d v huv
      rw [← hshift]
      exact hfits (x :: u) d v (congrArg (x :: ·) huv)

end Misfits

/-! ## The first check that fails (R68, R87) -/

section EntriesFault

variable {s : State} {g : GroupId} {l : List (Nat × BitVec 32)} {i : Nat}

theorem State.entriesFault_state (h : s.entryPlace (fun x _ => x.state != .standing) l = some i) :
    s.entriesFault g l = some (.state, some i) := by
  unfold State.entriesFault
  rw [h]

variable (hstate : s.entryPlace (fun x _ => x.state != .standing) l = none)
include hstate

theorem State.entriesFault_unknown (h : s.entryPlace (fun x _ => !x.known) l = some i) :
    s.entriesFault g l = some (.notReferenced, some i) := by
  unfold State.entriesFault
  rw [hstate, h]

variable (hknown : s.entryPlace (fun x _ => !x.known) l = none)
include hknown

theorem State.entriesFault_length (h : l.length = 0 ∨ 16 < l.length) : s.entriesFault g l = some (.badValue, none) := by
  unfold State.entriesFault
  rw [hstate, hknown]
  exact if_pos (h.imp_left List.length_eq_zero_iff.mp)

variable (hlength : ¬ (l = [] ∨ 16 < l.length))
include hlength

theorem State.entriesFault_misfit (h : s.badEntry g 0 [] l = some i) : s.entriesFault g l = some (.badValue, some i) := by
  unfold State.entriesFault
  rw [hstate, hknown]
  dsimp only
  rw [if_neg hlength, h]

theorem State.entriesFault_range (h : s.badEntry g 0 [] l = none) :
    s.entriesFault g l = (s.entryPlace (fun x raw => x.targetFault raw == some .range) l).map fun i => (.range, some i) := by
  unfold State.entriesFault
  rw [hstate, hknown]
  dsimp only
  rw [if_neg hlength, h]

end EntriesFault

/-- The parts that end before a Coordinated Slew: the group's record in progress, and what its axes have elsewhere (R86). -/
def State.slewParts (s : State) (g : GroupId) (moves : List Move) : State :=
  moves.foldl (fun s x => s.endPart x.1) ((s.supersede g).endMembers (fun a => moves.any fun x => x.1 == a) false)

/-- The record of a Coordinated Slew as its motion starts. -/
def State.slewRecord (s : State) (moves : List Move) (k : Nat) : GroupMotion :=
  { stageEpoch := none, state := .moving, cause := none, duration := some (s.commonTime moves),
    members := moves.map fun x => { axis := x.1, target := some x.2.1, outcome := .moving, staged := none }, serial := k }

/-- The state in which the motion starts. -/
def State.slewReady (s : State) (g : GroupId) (moves : List Move) : State :=
  (s.slewParts g moves).fresh.1.setMotion g (some (s.slewRecord moves (s.slewParts g moves).serial))

/-- What a Coordinated Slew that passes its checks does. -/
def State.coordinatedSlew (s : State) (g : GroupId) (moves : List Move) : State :=
  (s.slewReady g moves).startTogether moves (s.commonTime moves)

section Refused

variable {s : State} {p : Port} {tag : Byte} {g : GroupId} {l : List (Nat × BitVec 32)} {st : Status}

section Taken

variable (hown : s.holds p (.group g) = true) (hheld : s.held = false)
include hown hheld

theorem coordinatedSlew_at {i : Nat} (h : s.entriesFault g l = some (st, some i)) :
    coordinatedSlew p g.val l s = (s, ⟨st, i, []⟩) := by
  refine (onGroup_taken hown hheld _).trans ?_
  rw [h]
  rfl

theorem coordinatedSlew_whole (h : s.entriesFault g l = some (st, none)) : coordinatedSlew p g.val l s = (s, .no st) := by
  refine (onGroup_taken hown hheld _).trans ?_
  rw [h]
  rfl

theorem coordinatedSlew_starts (h : s.entriesFault g l = none) : coordinatedSlew p g.val l s =
    ((s.coordinatedSlew g (s.entryMoves (namedAxes l))).restartLease (.group g), Reply.done) := by
  refine (onGroup_taken hown hheld _).trans ?_
  rw [h]
  rfl

end Taken

variable (hr : s.ready p)
  (hown : s.holderOf (.group g) = some p) (hhalt : s.power.halt.accepted = false) (hpow : s.power.state = .present)
include hr hown hhalt hpow

theorem coordinatedSlew_refusedAt {i : Nat} (h : (s.outstand p tag 65).entriesFault g l = some (st, some i)) :
    Answers (.coordinatedSlew p tag g.val l) s (s.replied p tag 65 ⟨st, i, []⟩) := by
  have he := coordinatedSlew_at (holds_outstand hown tag 65) (not_held_outstand p tag 65 hhalt hpow) h
  exact answers_unchanged (q := .coordinatedSlew g.val l) rfl rfl hr (congrArg now he)

theorem coordinatedSlew_refused (h : (s.outstand p tag 65).entriesFault g l = some (st, none)) :
    Answers (.coordinatedSlew p tag g.val l) s (s.replied p tag 65 (.no st)) := by
  have he := coordinatedSlew_whole (holds_outstand hown tag 65) (not_held_outstand p tag 65 hhalt hpow) h
  exact answers_unchanged (q := .coordinatedSlew g.val l) rfl rfl hr (congrArg now he)

end Refused

/-- The refusals of a Coordinated Slew as R68 and R87 order them. -/
theorem coordinatedSlew_refusals (s : State) (p : Port) (tag : Byte) (l : List (Nat × BitVec 32)) (hr : s.ready p) (g : GroupId)
    (hown : s.holderOf (.group g) = some p) (hhalt : s.power.halt.accepted = false) (hpow : s.power.state = .present) :
    (∀ pre (a : AxisId) raw post, l = pre ++ (a.val, raw) :: post →
      (∀ e ∈ pre, ∀ b : AxisId, b.val = e.1 → (s.axis b).state = .standing) → (s.axis a).state ≠ .standing →
      Answers (.coordinatedSlew p tag g.val l) s (s.replied p tag 65 ⟨.state, pre.length, []⟩)) ∧
    ((∀ e ∈ l, ∀ a : AxisId, a.val = e.1 → (s.axis a).state = .standing) →
      (∀ pre (a : AxisId) raw post, l = pre ++ (a.val, raw) :: post →
        (∀ e ∈ pre, ∀ b : AxisId, b.val = e.1 → (s.axis b).known = true) → (s.axis a).known = false →
        Answers (.coordinatedSlew p tag g.val l) s (s.replied p tag 65 ⟨.notReferenced, pre.length, []⟩)) ∧
      ((∀ e ∈ l, ∀ a : AxisId, a.val = e.1 → (s.axis a).known = true) →
        (l.length = 0 ∨ 16 < l.length → Answers (.coordinatedSlew p tag g.val l) s (s.replied p tag 65 (.no .badValue))) ∧
        (1 ≤ l.length → l.length ≤ 16 →
          (∀ pre e post, l = pre ++ e :: post → (∀ u d v, pre = u ++ d :: v → ¬s.misfits g u d) → s.misfits g pre e →
            Answers (.coordinatedSlew p tag g.val l) s (s.replied p tag 65 ⟨.badValue, pre.length, []⟩)) ∧
          ((∀ u d v, l = u ++ d :: v → ¬s.misfits g u d) →
            ∀ pre (a : AxisId) raw post k, l = pre ++ (a.val, raw) :: post →
              (∀ e ∈ pre, ∀ (b : AxisId) j, b.val = e.1 → (s.axis b).names e.2 j → ¬(s.axis b).barred j) →
              (s.axis a).names raw k → (s.axis a).barred k →
              Answers (.coordinatedSlew p tag g.val l) s (s.replied p tag 65 ⟨.range, pre.length, []⟩))))) := by
  have hsame (a : AxisId) : (s.outstand p tag 65).axis a = s.axis a := rfl
  have hmisfits (before : List (Nat × BitVec 32)) (e : Nat × BitVec 32) : (s.outstand p tag 65).misfits g before e ↔ s.misfits g before e :=
    Iff.rfl
  have hat {st : Status} {i : Nat} := coordinatedSlew_refusedAt (l := l) (tag := tag) (st := st) (i := i) hr hown hhalt hpow
  have hwhole := coordinatedSlew_refused (l := l) (tag := tag) (st := .badValue) hr hown hhalt hpow
  generalize s.outstand p tag 65 = w at *
  refine ⟨fun pre a raw post hl hpre ha => hat (State.entriesFault_state ?_), fun hstand => ?_⟩
  · rw [hl]
    refine State.entryPlace_first (fun e he b hb => ?_) ?_
    · rw [hsame, hpre e he b hb]
      rfl
    · rw [hsame]
      exact bne_iff_ne.mpr ha
  have hstate : w.entryPlace (fun x _ => x.state != .standing) l = none := State.entryPlace_none fun e he b hb => by
    rw [hsame, hstand e he b hb]
    rfl
  refine ⟨fun pre a raw post hl hpre ha => hat (State.entriesFault_unknown hstate ?_), fun hall => ?_⟩
  · rw [hl]
    refine State.entryPlace_first (fun e he b hb => ?_) ?_
    · rw [hsame, hpre e he b hb]
      rfl
    · rw [hsame, ha]
      rfl
  have hknown : w.entryPlace (fun x _ => !x.known) l = none := State.entryPlace_none fun e he b hb => by
    rw [hsame, hall e he b hb]
    rfl
  refine ⟨fun hlen => hwhole (State.entriesFault_length hstate hknown hlen), fun hone hmost => ?_⟩
  have hlength : ¬ (l = [] ∨ 16 < l.length) := fun c => c.elim (fun c => by rw [c] at hone; exact Nat.not_succ_le_zero 0 hone)
    (Nat.not_lt.mpr hmost)
  refine ⟨fun pre e post hl hfits he => hat (State.entriesFault_misfit hstate hknown hlength ?_),
      fun hfits pre a raw post k hl hfree hk hbar => hat ?_⟩
  · have hplace := State.badEntry_first (s := w) (g := g) (post := post) (e := e) pre 0 [] [] (fun _ => Iff.rfl)
      (fun u d v huv => by rw [List.nil_append, hmisfits]; exact hfits u d v huv) (by rwa [List.nil_append, hmisfits])
    rw [hl, hplace, Nat.zero_add]
  · have hnone := State.badEntry_none (s := w) (g := g) l 0 [] [] (fun _ => Iff.rfl) fun u d v huv => by
      rw [List.nil_append, hmisfits]
      exact hfits u d v huv
    rw [State.entriesFault_range hstate hknown hlength hnone, hl, State.entryPlace_first]
    · rfl
    · intro e he b hb
      rw [hsame, beq_eq_false_iff_ne]
      intro c
      obtain ⟨j, hj, hbarred⟩ := ((s.axis b).targetFault_range e.2).mp c
      exact hfree e he b j hb hj hbarred
    · rw [hsame, beq_iff_eq]
      exact ((s.axis a).targetFault_range raw).mpr ⟨k, hk, hbar⟩

end Sys2Proof.Machine
end

section
/-! PROOFS. What a Coordinated Slew does (04 R72, R86 to R88: O37): a record superseded, parts that end at one moment, and the
members' moves as the axes were before them. -/

namespace Sys2Proof.Machine

/-! ## A record superseded (R86) -/

section Supersede

variable {s t u : State} {g : GroupId} {m : GroupMotion}

theorem State.dropsStages_supersede (s : State) (g : GroupId) : s.DropsStages (s.supersede g) := by
  unfold State.supersede
  split
  · split
    · exact s.dropsStages_failMotion ..
    · exact .refl s
  · exact .refl s

theorem GroupMotion.ending_none (m : GroupMotion) : m.ending (fun _ => false) = m :=
  congrArg (fun l => { m with members := l }) (List.map_id m.members)

theorem State.saysFailed_supersede (hm : s.motions[g] = some m) (hopen : m.state ∈ [.evaluating, .moving]) :
    s.SaysFailed (s.supersede g) g m := by
  have hfail := State.saysFailed_failMotion (.refl s) g m (fun _ => false) .superseded
  unfold State.supersede
  rw [hm]
  dsimp only
  rw [if_pos ((open_iff _).mpr hopen)]
  rwa [m.ending_none] at hfail

theorem State.SaysFailed.lastStage (h : s.SaysFailed t g m) (hm : m.state = .evaluating) {y : Member} (hy : y ∈ m.members)
    {z : StagePending} (hz : (s.axis y.axis).stage = some z) (ho : z.owner = .group g) :
    (t.axis y.axis).stage = none ∧ (t.axis y.axis).lastStage = .ended := by
  rw [h.stages hm y hy z hz ho]
  exact ⟨rfl, if_neg fun c => Option.some_ne_none _ (hz.symm.trans c)⟩

end Supersede

/-! ## Several parts end (R86) -/

section Parts

variable {s : State} {a : AxisId} {l : List AxisId}

theorem State.dropsStages_endPart (s : State) (a : AxisId) : s.DropsStages (s.endPart a) :=
  (s.dropsStages_endMember ..).trans (State.dropsStages_endStage ..)

theorem State.endPart_motions (h : s.motionOf a = none) : (s.endPart a).motions = s.motions := by
  unfold State.endPart
  rw [State.endStage_motions, State.endMember_none h]

theorem State.endParts_motions : ∀ {l : List AxisId} {s : State}, (∀ a ∈ l, s.motionOf a = none) →
    (l.foldl State.endPart s).motions = s.motions
  | [], _, _ => rfl
  | a :: l, s, h => by
    have hstands := State.endPart_motions (h a List.mem_cons_self)
    rw [List.foldl_cons, State.endParts_motions fun b hb => ?_, hstands]
    exact (State.motionOf_congr hstands b).trans (h b (List.mem_cons_of_mem a hb))

end Parts

/-! ## The greatest of the least durations (R87) -/

theorem le_greatest : ∀ {l : List Nat} {n : Nat}, n ≤ l.foldl max n ∧ ∀ k ∈ l, k ≤ l.foldl max n
  | [], _ => ⟨Nat.le_refl _, fun _ h => absurd h List.not_mem_nil⟩
  | x :: l, n => by
    obtain ⟨hstart, hrest⟩ := le_greatest (l := l) (n := max n x)
    rw [List.foldl_cons]
    refine ⟨(Nat.le_max_left ..).trans hstart, fun k hk => ?_⟩
    rcases List.mem_cons.mp hk with rfl | hk
    · exact (Nat.le_max_right ..).trans hstart
    · exact hrest k hk

theorem greatest_mem : ∀ {l : List Nat} {n : Nat}, l.foldl max n = n ∨ l.foldl max n ∈ l
  | [], _ => .inl rfl
  | x :: l, n => by
    rw [List.foldl_cons]
    rcases greatest_mem (l := l) (n := max n x) with h | h
    · rw [h]
      exact (max_choice n x).imp_right fun c => List.mem_cons.mpr (.inl c)
    · exact .inr (List.mem_cons_of_mem x h)

section CommonTime

variable {s : State} {moves : List Move}

theorem State.memberTime_le_common {x : Move} (h : x ∈ moves) : s.memberTime x.1 x.2.1 ≤ s.commonTime moves :=
  le_greatest.2 _ (List.mem_map_of_mem (f := fun x : Move => s.memberTime x.1 x.2.1) h)

theorem State.commonTime_mem (h : moves ≠ []) : ∃ x ∈ moves, s.memberTime x.1 x.2.1 = s.commonTime moves := by
  rcases greatest_mem (l := moves.map fun x => s.memberTime x.1 x.2.1) (n := 0) with hzero | hmem
  · obtain ⟨x, hx⟩ := List.exists_mem_of_ne_nil moves h
    have hle := State.memberTime_le_common (s := s) hx
    have hcommon : s.commonTime moves = 0 := hzero
    exact ⟨x, hx, by omega⟩
  · exact List.mem_map.mp hmem

end CommonTime

/-! ## A member's move, as its axis was before (R72, R73, R87) -/

/-- From `s` to `t` an axis has begun its move on a profile stretched to a common duration, or stands on its target. -/
structure State.Sets (s t : State) (x : Move) (d : Nat) : Prop where
  position : (t.axis x.1).position = (s.axis x.1).position
  sent : s.atTarget x = false → (t.axis x.1).state = .slewing ∧ ∃ r : Target, (t.axis x.1).target = some r ∧ r.position = x.2.1 ∧
    r.staged = x.2.2 ∧ (r.limitSq, r.accel2) = s.profile x d
  landed : s.atTarget x = true → (t.axis x.1).state = .standing ∧ (t.axis x.1).target = none ∧
    .event (.axisArrived x.1) none ∈ t.signals ∧
    ∀ z, x.2.2 = some z → (t.axis x.1).stagedAt = some z ∧ (t.axis x.1).lastStage = .arrived

section Sets

variable {s t w : State} {g : GroupId} {m : GroupMotion} {moves : List Move} {x : Move} {d : Nat}

theorem AxisRecord.limitSq_eq (r : AxisRecord) : r.limitSq = r.velocity * r.velocity * 2 ^ 32 := by
  unfold AxisRecord.limitSq sqScale
  rfl

theorem AxisRecord.accel2_eq (r : AxisRecord) : r.accel2 = 2 * r.acceleration * 2 ^ 32 := by
  unfold AxisRecord.accel2 sqScale
  rfl

theorem State.profile_longest (h : s.memberTime x.1 x.2.1 = d) :
    s.profile x d = ((s.axis x.1).record.velocity * (s.axis x.1).record.velocity * 2 ^ 32, 2 * (s.axis x.1).record.acceleration * 2 ^ 32) := by
  unfold State.profile
  rw [if_pos (.inl h), AxisRecord.limitSq_eq, AxisRecord.accel2_eq]

theorem State.profile_stretched {n : Nat} (hn : n = s.memberTime x.1 x.2.1) (hle : n ≤ d) (h : n ≠ d) : s.profile x d =
    ((s.axis x.1).record.velocity * (s.axis x.1).record.velocity * 2 ^ 32 * (n * n) / (d * d),
      2 * (s.axis x.1).record.acceleration * 2 ^ 32 * (n * n) / (d * d)) := by
  unfold State.profile
  rw [if_neg (by omega), AxisRecord.limitSq_eq, AxisRecord.accel2_eq, hn]

theorem Axis.sameButStage.of_eq {x y : Axis} (h : x.sameButStage y) : ∃ st o, y = { x with stage := st, lastStage := o } := ⟨_, _, h⟩

theorem State.atTarget_sameButStage (h : (s.axis x.1).sameButStage (w.axis x.1)) : w.atTarget x = s.atTarget x := by
  obtain ⟨st, o, hax⟩ := h.of_eq
  unfold State.atTarget
  rw [hax]
  rfl

theorem State.memberTime_sameButStage {a : AxisId} (h : (s.axis a).sameButStage (w.axis a)) (k : Int) :
    w.memberTime a k = s.memberTime a k := by
  obtain ⟨st, o, hax⟩ := h.of_eq
  unfold State.memberTime
  rw [hax]
  rfl

theorem State.profile_sameButStage (h : (s.axis x.1).sameButStage (w.axis x.1)) (d : Nat) : w.profile x d = s.profile x d := by
  have htime := State.memberTime_sameButStage h x.2.1
  obtain ⟨st, o, hax⟩ := h.of_eq
  unfold State.profile
  rw [htime, hax]

theorem State.MovesTogether.sets (h : w.MovesTogether t g m moves d) (hx : x ∈ moves) (hsame : (s.axis x.1).sameButStage (w.axis x.1)) :
    s.Sets t x d := by
  have hat := State.atTarget_sameButStage hsame
  have hsent := h.sent x hx
  have hlanded := h.landed x hx
  rw [State.profile_sameButStage hsame, hat] at hsent
  rw [hat] at hlanded
  have hposition : (w.axis x.1).position = (s.axis x.1).position := by rw [hsame]
  refine ⟨?_, fun c => ?_, fun c => ?_⟩
  · cases c : s.atTarget x with
    | false =>
      obtain ⟨k, hk⟩ := hsent c
      rw [hk]
      exact hposition
    | true => exact (hlanded c).1.position.trans hposition
  · obtain ⟨k, hk⟩ := hsent c
    rw [hk]
    exact ⟨rfl, _, rfl, rfl, rfl, rfl⟩
  · obtain ⟨hlands, hevent⟩ := hlanded c
    exact ⟨hlands.state, hlands.target, hevent, hlands.staged⟩

/-- An axis sent on its way, on its own profile or on one stretched to the common duration (R72, R87). -/
theorem State.Sets.profiled {n : Nat} {y : AxisRecord} (h : s.Sets t x d) (hfar : s.atTarget x = false) (hn : n = s.memberTime x.1 x.2.1)
    (hle : n ≤ d) (hy : y = (s.axis x.1).record) :
    (t.axis x.1).state = .slewing ∧ ∃ r : Target, (t.axis x.1).target = some r ∧ r.position = x.2.1 ∧ r.staged = x.2.2 ∧
      (n = d → r.limitSq = y.velocity * y.velocity * 2 ^ 32 ∧ r.accel2 = 2 * y.acceleration * 2 ^ 32) ∧
      (n ≠ d → r.limitSq = y.velocity * y.velocity * 2 ^ 32 * (n * n) / (d * d) ∧
        r.accel2 = 2 * y.acceleration * 2 ^ 32 * (n * n) / (d * d)) := by
  obtain ⟨hslews, r, hr, hposition, hstaged, hprofile⟩ := h.sent hfar
  refine ⟨hslews, r, hr, hposition, hstaged, fun hlong => ?_, fun hshort => ?_⟩
  · rw [State.profile_longest (hn.symm.trans hlong), ← hy] at hprofile
    exact Prod.mk.inj hprofile
  · rw [State.profile_stretched hn hle hshort, ← hy] at hprofile
    exact Prod.mk.inj hprofile

/-- A move that brings no staged-at leaves its axis's stage pending alone. -/
theorem State.MovesTogether.stage (h : w.MovesTogether t g m moves d) (hx : ∀ x ∈ moves, x.2.2 = none) (b : AxisId) :
    (t.axis b).stage = (w.axis b).stage ∧ (t.axis b).lastStage = (w.axis b).lastStage := by
  by_cases hb : b ∈ moves.map (·.1)
  · obtain ⟨x, hmem, rfl⟩ := List.mem_map.mp hb
    cases c : w.atTarget x with
    | false =>
      obtain ⟨k, hk⟩ := h.sent x hmem c
      rw [hk]
      exact ⟨rfl, rfl⟩
    | true => exact (h.landed x hmem c).1.unstaged (hx x hmem)
  · rw [h.others b hb]
    exact ⟨rfl, rfl⟩

end Sets

/-! ## The start of a Coordinated Slew -/

section Slew

variable {s : State} {g : GroupId} {moves : List Move} {x : Move}

theorem State.slewParts_eq (s : State) (g : GroupId) (moves : List Move) : s.slewParts g moves =
    (moves.map (·.1)).foldl State.endPart ((s.supersede g).endMembers (fun a => moves.any fun x => x.1 == a) false) := by
  rw [List.foldl_map]
  rfl

theorem State.dropsStages_afterSupersede (s : State) (g : GroupId) (moves : List Move) :
    (s.supersede g).DropsStages (s.slewParts g moves) := by
  rw [State.slewParts_eq]
  exact (State.dropsStages_endMembers ..).trans (State.dropsStages_foldl State.dropsStages_endPart ..)

theorem State.dropsStages_slewParts (s : State) (g : GroupId) (moves : List Move) : s.DropsStages (s.slewParts g moves) :=
  (s.dropsStages_supersede g).trans (s.dropsStages_afterSupersede g moves)

/-- No part of an axis that moves is left elsewhere. -/
theorem State.slewParts_motionOf (h : x ∈ moves) : (s.slewParts g moves).motionOf x.1 = none := by
  have hnone (a : AxisId) (ha : a ∈ moves.map (·.1)) :
      ((s.supersede g).endMembers (fun a => moves.any fun x => x.1 == a) false).motionOf a = none := by
    obtain ⟨y, hy, rfl⟩ := List.mem_map.mp ha
    exact State.motionOf_endMembers (hit := fun a => moves.any fun x => x.1 == a) (List.any_eq_true.mpr ⟨y, hy, beq_self_eq_true _⟩) false
  rw [State.slewParts_eq, State.motionOf_congr (State.endParts_motions hnone)]
  exact hnone _ (List.mem_map_of_mem h)

theorem State.slewReady_axis (s : State) (g : GroupId) (moves : List Move) (a : AxisId) :
    (s.slewReady g moves).axis a = (s.slewParts g moves).axis a := rfl

theorem State.slewReady_signals (s : State) (g : GroupId) (moves : List Move) :
    (s.slewReady g moves).signals = (s.slewParts g moves).signals := rfl

theorem State.slewReady_record (s : State) (g : GroupId) (moves : List Move) :
    (s.slewReady g moves).motions[g] = some (s.slewRecord moves (s.slewParts g moves).serial) :=
  (State.setMotion_get ..).trans (if_pos rfl)

theorem State.slewReady_sameButStage (s : State) (g : GroupId) (moves : List Move) (a : AxisId) :
    (s.axis a).sameButStage ((s.slewReady g moves).axis a) :=
  ((s.dropsStages_slewParts g moves).axis a).sameButStage

theorem State.slewRecord_member (k : Nat) (h : x ∈ moves) :
    ∃ z ∈ (s.slewRecord moves k).members, z.axis = x.1 ∧ z.outcome = .moving :=
  ⟨_, List.mem_map_of_mem h, rfl, rfl⟩

theorem State.mayMove_slewReady (hmay : (s.axis x.1).mayTake x.2.1 = true) (hrest : s.atTarget x = true → (s.axis x.1).speedSq = 0)
    (h : x ∈ moves) : (s.slewReady g moves).MayMove g (s.slewRecord moves (s.slewParts g moves).serial) x := by
  have hsame := s.slewReady_sameButStage g moves x.1
  have hmember := State.slewRecord_member (s := s) (s.slewParts g moves).serial h
  refine ⟨?_, fun c => ?_, fun _ => ?_, hmember⟩
  · rw [hsame]
    exact hmay
  · rw [hsame]
    exact hrest ((State.atTarget_sameButStage hsame).symm.trans c)
  · refine State.motionOf_setMotion (.inl (State.slewParts_motionOf h)) ?_
    obtain ⟨z, hz, hza, hzo⟩ := hmember
    rw [← hza]
    exact GroupMotion.isHit_moving rfl hz hzo

/-- What a Coordinated Slew does. -/
theorem State.coordinatedSlew_moves (hnodup : (moves.map (·.1)).Nodup)
    (hmay : ∀ x ∈ moves, (s.axis x.1).mayTake x.2.1 = true ∧ (s.atTarget x = true → (s.axis x.1).speedSq = 0)) :
    (s.slewReady g moves).MovesTogether (s.coordinatedSlew g moves) g (s.slewRecord moves (s.slewParts g moves).serial) moves
      (s.commonTime moves) :=
  State.movesTogether_startTogether (s.slewReady_record g moves) (fun _ => rfl) hnodup fun x hx =>
    State.mayMove_slewReady (hmay x hx).1 (hmay x hx).2 hx

/-- A record in progress is superseded (R86). -/
theorem State.supersedes_coordinatedSlew {t : State} {m : GroupMotion} {d : Nat} (h : (s.slewReady g moves).MovesTogether t g m moves d)
    (hx : ∀ x ∈ moves, x.2.2 = none) : s.supersedes t g (fun _ => False) := by
  intro r hr hopen
  have hsays := (State.saysFailed_supersede hr hopen).keeps (s.dropsStages_afterSupersede g moves)
  refine ⟨h.leaves.raised _ hsays.raised, fun he y hy z hz ho => ?_⟩
  obtain ⟨hstage, hlast⟩ := h.stage hx y.axis
  obtain ⟨hnone, hended⟩ := hsays.lastStage he hy hz ho
  exact ⟨hlast.trans hended, fun _ => hstage.trans hnone⟩

end Slew

/-! ## The moves of a list of entries -/

section EntryMoves

variable {s : State} {l : List (Nat × BitVec 32)} {n : List (AxisId × BitVec 32)} {a : AxisId} {raw : BitVec 32} {x : Move}

theorem Axis.mayTake_of_absoluteTarget {x : Axis} {k : Int} (hk : x.known = true) (h : x.absoluteTarget raw = .ok k) :
    x.mayTake k = true := by
  unfold Axis.mayTake
  rw [hk]
  cases hc : x.record.kind with
  | continuous => rfl
  | limited =>
    unfold Axis.absoluteTarget at h
    rw [hc] at h
    dsimp only at h
    split at h
    · cases h
    · rename_i hfree
      cases h
      have hsoft := (Bool.or_eq_false_iff.mp (Bool.eq_false_iff.mpr hfree)).1
      rw [hsoft]
      rfl

/-- The move an axis has in a list of entries. -/
def State.entryMove (s : State) (n : List (AxisId × BitVec 32)) (a : AxisId) : Option Move :=
  match n.find? (fun x => x.1 == a) with
  | some (_, raw) =>
    match (s.axis a).absoluteTarget raw with
    | .ok t => some (a, t, none)
    | .error _ => none
  | none => none

theorem State.entryMoves_eq (s : State) (n : List (AxisId × BitVec 32)) : s.entryMoves n = allAxes.filterMap (s.entryMove n) := rfl

theorem State.entryMove_axis (h : s.entryMove n a = some x) : x.1 = a := by
  unfold State.entryMove at h
  split at h
  · split at h
    · cases h
      rfl
    · cases h
  · cases h

theorem mem_namedAxes : (a, raw) ∈ namedAxes l ↔ (a.val, raw) ∈ l := by
  unfold namedAxes
  rw [List.mem_filterMap]
  constructor
  · rintro ⟨⟨n, r⟩, he, h⟩
    obtain ⟨b, hb, hpair⟩ := Option.map_eq_some_iff.mp h
    cases hpair
    rw [(axisOf_iff n a).mp hb]
    exact he
  · intro h
    refine ⟨_, h, ?_⟩
    dsimp only
    rw [axisOf_val]
    rfl

variable {k : AxisId → Int} (h : ∀ e ∈ l, ∃ a : AxisId, a.val = e.1 ∧ (s.axis a).absoluteTarget e.2 = .ok (k a))
include h

theorem State.entryMove_named (ha : a.val ∈ l.map Prod.fst) : s.entryMove (namedAxes l) a = some (a, k a, none) := by
  obtain ⟨⟨n, raw⟩, he, rfl⟩ := List.mem_map.mp ha
  have hfound : ((namedAxes l).find? (fun x => x.1 == a)).isSome = true :=
    List.find?_isSome.mpr ⟨_, mem_namedAxes.mpr he, beq_self_eq_true a⟩
  obtain ⟨⟨b, r⟩, hfind⟩ := Option.isSome_iff_exists.mp hfound
  have hb := List.find?_some hfind
  obtain rfl : b = a := eq_of_beq hb
  obtain ⟨b', hb', htarget⟩ := h _ (mem_namedAxes.mp (List.mem_of_find?_eq_some hfind))
  obtain rfl := Fin.ext hb'
  unfold State.entryMove
  rw [hfind]
  dsimp only
  rw [htarget]

omit h in
theorem State.entryMove_unnamed (ha : a.val ∉ l.map Prod.fst) : s.entryMove (namedAxes l) a = none := by
  have hnone : (namedAxes l).find? (fun x => x.1 == a) = none := by
    refine List.find?_eq_none.mpr fun ⟨b, raw⟩ hb c => ha ?_
    obtain rfl : b = a := eq_of_beq c
    exact List.mem_map_of_mem (f := Prod.fst) (mem_namedAxes.mp hb)
  unfold State.entryMove
  rw [hnone]

theorem State.mem_entryMoves : x ∈ s.entryMoves (namedAxes l) ↔ x.1.val ∈ l.map Prod.fst ∧ x.2 = (k x.1, none) := by
  rw [State.entryMoves_eq, List.mem_filterMap]
  constructor
  · rintro ⟨a, _, ha⟩
    obtain rfl := State.entryMove_axis ha
    by_cases hin : x.1.val ∈ l.map Prod.fst
    · rw [State.entryMove_named h hin] at ha
      exact ⟨hin, (congrArg Prod.snd (Option.some.inj ha)).symm⟩
    · rw [State.entryMove_unnamed hin] at ha
      cases ha
  · rintro ⟨hin, hx⟩
    refine ⟨x.1, mem_allAxes _, ?_⟩
    rw [State.entryMove_named h hin, ← hx]

omit h in
theorem State.entryMoves_nodup (s : State) (n : List (AxisId × BitVec 32)) : ((s.entryMoves n).map (·.1)).Nodup := by
  rw [State.entryMoves_eq, List.map_filterMap]
  refine List.Nodup.filterMap (fun a b c ha hb => ?_) (by decide)
  obtain ⟨x, hx, rfl⟩ := Option.map_eq_some_iff.mp ha
  obtain ⟨y, hy, hxy⟩ := Option.map_eq_some_iff.mp hb
  rw [← State.entryMove_axis hx, ← State.entryMove_axis hy, hxy]

end EntryMoves

/-! ## The record of a Coordinated Slew (R88) -/

section SlewRecord

variable {s w t : State} {g : GroupId} {m n : GroupMotion} {moves : List Move} {x : Move} {d k : Nat}

theorem State.mem_arrivals (h : x ∈ moves) (hat : s.atTarget x = true) : x.1 ∈ s.arrivals moves :=
  List.mem_map_of_mem (List.mem_filter.mpr ⟨h, hat⟩)

theorem State.mem_arrivals_iff (hnodup : (moves.map (·.1)).Nodup) (h : x ∈ moves) : x.1 ∈ s.arrivals moves ↔ s.atTarget x = true := by
  refine ⟨fun c => ?_, State.mem_arrivals h⟩
  obtain ⟨y, hy, hyx⟩ := List.mem_map.mp c
  obtain ⟨hy, hat⟩ := List.mem_filter.mp hy
  rwa [← List.inj_on_of_nodup_map hnodup hy h hyx]

theorem State.arrivals_sameButStage (h : ∀ x ∈ moves, (s.axis x.1).sameButStage (w.axis x.1)) : w.arrivals moves = s.arrivals moves := by
  unfold State.arrivals
  rw [List.filter_congr fun x hx => State.atTarget_sameButStage (h x hx)]

/-- A member as its motion starts: ARRIVED where its target is its position. -/
def State.slewMember (s : State) (x : Move) : Member :=
  { axis := x.1, target := some x.2.1, outcome := if s.atTarget x then .arrived else .moving, staged := none }

theorem State.slewRecord_arriving (hnodup : (moves.map (·.1)).Nodup) (h : (s.slewRecord moves k).Arriving (s.arrivals moves) n) :
    n.members = moves.map s.slewMember := by
  have hmembers : n.members = (s.slewRecord moves k).members.map (·.arriving (s.arrivals moves)) := by rw [h.only]
  refine hmembers.trans ((List.map_map ..).trans (List.map_congr_left fun x hx => ?_))
  have harrives := State.mem_arrivals_iff (s := s) hnodup hx
  unfold State.slewMember
  cases hat : s.atTarget x with
  | true => exact Member.arriving_mem (harrives.mpr hat)
  | false => exact Member.arriving_not_mem fun c => Bool.false_ne_true (hat.symm.trans (harrives.mp c))

theorem GroupMotion.atRest_slewMembers (h : n.members = moves.map s.slewMember) : n.atRest ↔ ∀ x ∈ moves, s.atTarget x = true := by
  unfold GroupMotion.atRest
  rw [h]
  constructor
  · intro hrest x hx
    have hstill := hrest _ (List.mem_map_of_mem hx)
    cases hat : s.atTarget x with
    | true => rfl
    | false =>
      unfold State.slewMember at hstill
      rw [hat] at hstill
      exact absurd rfl hstill
  · rintro hall z hz
    obtain ⟨x, hx, rfl⟩ := List.mem_map.mp hz
    unfold State.slewMember
    rw [hall x hx]
    exact MemberOutcome.noConfusion

end SlewRecord

/-! ## Entries that are taken -/

/-- An entry a Coordinated Slew of the group takes (R68, R71, R87): its axis is one of the group's, stands with its position known, and
its target may be taken; one at its target is at rest. -/
def State.takesEntry (s : State) (g : GroupId) (k : AxisId → Int) (e : Nat × BitVec 32) : Prop :=
  ∃ a : AxisId, a.val = e.1 ∧ (s.axis a).record.group = g ∧ (s.axis a).state = .standing ∧ (s.axis a).known = true ∧
    (s.axis a).absoluteTarget e.2 = .ok (k a) ∧ ((s.axis a).difference (k a) (s.axis a).extended ≠ 0 ∨ (s.axis a).speedSq = 0)

section Taken

variable {s : State} {g : GroupId} {k : AxisId → Int} {l : List (Nat × BitVec 32)} (hentries : ∀ e ∈ l, s.takesEntry g k e)
include hentries

theorem State.entriesFault_none (hone : 1 ≤ l.length) (hmost : l.length ≤ 16) (hdistinct : (l.map Prod.fst).Nodup) :
    s.entriesFault g l = none := by
  have hstate : s.entryPlace (fun x _ => x.state != .standing) l = none := State.entryPlace_none fun e he b hb => by
    obtain ⟨a, ha, _, hstands, _⟩ := hentries e he
    obtain rfl := Fin.ext (ha.trans hb.symm)
    rw [hstands]
    rfl
  have hknown : s.entryPlace (fun x _ => !x.known) l = none := State.entryPlace_none fun e he b hb => by
    obtain ⟨a, ha, _, _, hknown, _⟩ := hentries e he
    obtain rfl := Fin.ext (ha.trans hb.symm)
    rw [hknown]
    rfl
  have hrange : s.entryPlace (fun x raw => x.targetFault raw == some .range) l = none := State.entryPlace_none fun e he b hb => by
    obtain ⟨a, ha, _, _, _, htarget, _⟩ := hentries e he
    obtain rfl := Fin.ext (ha.trans hb.symm)
    rw [Axis.targetFault_ok htarget]
    rfl
  have hfits : s.badEntry g 0 [] l = none := State.badEntry_none l 0 [] [] (fun _ => Iff.rfl) fun u e v hl => by
    obtain ⟨a, ha, hgroup, _, _, htarget, _⟩ := hentries e (by rw [hl]; exact List.mem_append_right u List.mem_cons_self)
    obtain ⟨n, raw⟩ := e
    obtain rfl : a.val = n := ha
    rw [List.nil_append, State.misfits_named, Axis.targetFault_ok htarget]
    rintro (c | c | c)
    · exact c hgroup
    · rw [hl, List.map_append, List.nodup_append] at hdistinct
      exact hdistinct.2.2 _ c _ List.mem_cons_self rfl
    · cases c
  have hlength : ¬ (l = [] ∨ 16 < l.length) := by
    rintro (rfl | c)
    · exact Nat.not_succ_le_zero 0 hone
    · exact Nat.not_le.mpr c hmost
  rw [State.entriesFault_range hstate hknown hlength hfits, hrange]
  rfl

theorem State.takesEntry.targets (e : Nat × BitVec 32) (he : e ∈ l) :
    ∃ a : AxisId, a.val = e.1 ∧ (s.axis a).absoluteTarget e.2 = .ok (k a) :=
  let ⟨a, ha, _, _, _, htarget, _⟩ := hentries e he
  ⟨a, ha, htarget⟩

theorem State.mem_takenMoves {x : Move} : x ∈ s.entryMoves (namedAxes l) ↔ x.1.val ∈ l.map Prod.fst ∧ x.2 = (k x.1, none) :=
  State.mem_entryMoves (State.takesEntry.targets hentries)

theorem State.takenMove_mem {a : AxisId} (h : a.val ∈ l.map Prod.fst) : (a, k a, none) ∈ s.entryMoves (namedAxes l) :=
  (State.mem_takenMoves hentries).mpr ⟨h, rfl⟩

theorem State.takenMoves_mayTake (x : Move) (hx : x ∈ s.entryMoves (namedAxes l)) :
    (s.axis x.1).mayTake x.2.1 = true ∧ (s.atTarget x = true → (s.axis x.1).speedSq = 0) := by
  obtain ⟨hin, hx2⟩ := (State.mem_takenMoves hentries).mp hx
  obtain ⟨e, he, hea⟩ := List.mem_map.mp hin
  obtain ⟨a, ha, _, _, hknown, htarget, hrest⟩ := hentries e he
  obtain rfl := Fin.ext (ha.trans hea)
  unfold State.atTarget
  rw [hx2]
  exact ⟨Axis.mayTake_of_absoluteTarget hknown htarget, fun c => hrest.resolve_left fun h => h (of_decide_eq_true c)⟩

end Taken

/-- What an accepted Coordinated Slew has done, in the words of R72, R73 and R86 to R88. -/
theorem State.coordinatedSlew_does {s : State} {g : GroupId} {k : AxisId → Int} {l : List (Nat × BitVec 32)} {t : State}
    (hentries : ∀ e ∈ l, s.takesEntry g k e) (hone : 1 ≤ l.length) (ht : t = s.coordinatedSlew g (s.entryMoves (namedAxes l))) :
    ∃ (m : GroupMotion) (d : Nat), t.motions[g] = some m ∧
      m.stageEpoch = none ∧ m.cause = none ∧ m.duration = some d ∧ s.supersedes t g (fun _ => False) ∧
      ((∃ a : AxisId, a.val ∈ l.map Prod.fst ∧ (s.axis a).difference (k a) (s.axis a).extended ≠ 0) → m.state = .moving) ∧
      ((∀ a : AxisId, a.val ∈ l.map Prod.fst → (s.axis a).difference (k a) (s.axis a).extended = 0) →
        m.state = .arrived ∧ .event (.groupArrived g) none ∈ t.signals) ∧
      (∀ a : AxisId, a.val ∈ l.map Prod.fst → s.memberTime a (k a) ≤ d) ∧
      (∃ a : AxisId, a.val ∈ l.map Prod.fst ∧ s.memberTime a (k a) = d) ∧
      (∀ a : AxisId, a.val ∈ l.map Prod.fst ↔ a ∈ m.members.map Member.axis) ∧
      (∀ x ∈ m.members, x.target = some (k x.axis) ∧
        x.outcome = if (s.axis x.axis).difference (k x.axis) (s.axis x.axis).extended = 0 then .arrived else .moving) ∧
      (∀ a : AxisId, a.val ∈ l.map Prod.fst → s.Sets t (a, k a, none) d) ∧
      ∀ a : AxisId, a.val ∉ l.map Prod.fst → (s.axis a).sameButStage (t.axis a) := by
  have hnodup := s.entryMoves_nodup (namedAxes l)
  have hmember (x : Move) := State.mem_takenMoves hentries (x := x)
  have hmove {a : AxisId} := State.takenMove_mem hentries (a := a)
  have htogether := State.coordinatedSlew_moves (g := g) hnodup (State.takenMoves_mayTake hentries)
  rw [← ht] at htogether
  clear ht
  generalize s.entryMoves (namedAxes l) = moves at *
  have hsame := s.slewReady_sameButStage g moves
  have hsupersedes := State.supersedes_coordinatedSlew htogether fun x hx => congrArg Prod.snd ((hmember x).mp hx).2
  obtain ⟨n, hn, harriving, hlast⟩ := htogether.record
  rw [State.arrivals_sameButStage fun x _ => hsame x.1] at harriving hlast
  have hmembers := State.slewRecord_arriving hnodup harriving
  have hrest := GroupMotion.atRest_slewMembers hmembers
  obtain ⟨a₀, ha₀⟩ : ∃ a : AxisId, a.val ∈ l.map Prod.fst := by
    obtain ⟨e, he⟩ := List.exists_mem_of_length_pos hone
    obtain ⟨a, ha, _⟩ := hentries e he
    exact ⟨a, ha ▸ List.mem_map_of_mem he⟩
  refine ⟨n, s.commonTime moves, hn, by rw [harriving.only]; rfl, by rw [harriving.only]; rfl, by rw [harriving.only]; rfl, hsupersedes,
    fun ⟨a, ha, hfar⟩ => harriving.moving fun c => hfar ?_, fun hall => ?_, fun a ha => State.memberTime_le_common (hmove ha), ?_,
    fun a => ?_, fun z hz => ?_, fun a ha => htogether.sets (hmove ha) (hsame a), fun a ha => ?_⟩
  · exact of_decide_eq_true (hrest.mp c _ (hmove ha))
  · have hat (x : Move) (hx : x ∈ moves) : s.atTarget x = true := by
      obtain ⟨hin, hx2⟩ := (hmember x).mp hx
      unfold State.atTarget
      rw [hx2]
      exact decide_eq_true (hall x.1 hin)
    obtain ⟨hstate, hevent, _⟩ := hlast (hrest.mpr hat) (List.ne_nil_of_mem (State.mem_arrivals (hmove ha₀) (hat _ (hmove ha₀))))
    exact ⟨hstate, hevent⟩
  · obtain ⟨x, hx, hd⟩ := State.commonTime_mem (s := s) (List.ne_nil_of_mem (hmove ha₀))
    obtain ⟨hin, hx2⟩ := (hmember x).mp hx
    rw [hx2] at hd
    exact ⟨x.1, hin, hd⟩
  · rw [hmembers, List.map_map]
    refine ⟨fun ha => List.mem_map.mpr ⟨_, hmove ha, rfl⟩, fun h => ?_⟩
    obtain ⟨x, hx, hxa⟩ := List.mem_map.mp h
    obtain rfl : x.1 = a := hxa
    exact ((hmember x).mp hx).1
  · rw [hmembers] at hz
    obtain ⟨x, hx, rfl⟩ := List.mem_map.mp hz
    obtain ⟨_, hx2⟩ := (hmember x).mp hx
    unfold State.slewMember State.atTarget
    rw [hx2]
    simp only [decide_eq_true_eq, and_self]
  · rw [htogether.others a fun c => ?_]
    · exact hsame a
    · obtain ⟨x, hx, rfl⟩ := List.mem_map.mp c
      exact ha ((hmember x).mp hx).1

/-- Settles O37: the checks by `coordinatedSlew_refusals`, the motion by `State.coordinatedSlew_does`. -/
theorem coordinatedSlewMovesTogether : Obligations.CoordinatedSlewMovesTogether := by
  refine ⟨fun x raw => ⟨fun k hk => hk.absoluteTarget, absoluteTarget_beyondTurn⟩, fun s a k d v c hd hv hc => ?_,
    fun s p tag l hr => ⟨fun n hn => ?_, fun g hown hhalt hpow => ?_⟩⟩
  · rw [State.memberTime_eq, ← hd, ← hv, ← hc]
    refine ⟨fun h => ?_, moveTime_full, fun h => ?_⟩
    · rw [h]
      exact moveTime_zero v c
    · obtain ⟨hlow, hhigh⟩ := isqrt_spec (d * 1000000000000000000 / c)
      exact ⟨_, hlow, hhigh, moveTime_short h⟩
  · exact answers_unchanged (q := .coordinatedSlew n l) rfl rfl hr (congrArg now (onGroup_unknown hn _))
  obtain ⟨hstate, hchecks⟩ := coordinatedSlew_refusals s p tag l hr g hown hhalt hpow
  refine ⟨hstate, hchecks, fun k hone hmost hdistinct hentries => ?_⟩
  have htaken (e : Nat × BitVec 32) (he : e ∈ l) : (s.outstand p tag 65).takesEntry g k e := hentries e he
  have hexec := exec_answered (q := .coordinatedSlew g.val l) (i := .coordinatedSlew p tag g.val l) rfl rfl hr
    (congrArg now (coordinatedSlew_starts (holds_outstand hown tag 65) (not_held_outstand p tag 65 hhalt hpow)
      (State.entriesFault_none htaken hone hmost hdistinct)))
  have hcode : requestByte (.coordinatedSlew g.val l) = 65 := rfl
  rw [hcode] at hexec
  obtain ⟨m, d, hm, hepoch, hcause, hd, hsup, hmoving, harrived, hle, hgreatest, haxes, hmembers, hsets, hothers⟩ :=
    State.coordinatedSlew_does htaken hone rfl
  generalize (s.outstand p tag 65).coordinatedSlew g _ = u at *
  refine ⟨(u.restartLease (.group g)).enterReply p tag 65 Reply.done, m, d, hexec, State.enterReply_reply .., hm, hepoch, hcause, hd, hsup,
    hmoving, harrived, hle, hgreatest, haxes, hmembers, fun a n y ha hn hy => ?_, hothers⟩
  have hset := hsets a ha
  refine ⟨hset.position, fun h => ?_, fun h => ?_⟩
  · obtain ⟨hstands, hnone, hevent, _⟩ := hset.landed (decide_eq_true h)
    exact ⟨hstands, hnone, hevent⟩
  · obtain ⟨hslews, r, hr, hposition, _, hprofile⟩ := hset.profiled (decide_eq_false h) hn (hn ▸ hle a ha) hy
    exact ⟨hslews, r, hr, hposition, hprofile⟩

end Sys2Proof.Machine
end

section
/-! PROOFS. Stage Group (04 R89, R90: O38): the stage pendings that end as the motion of a stage starts, and the request. -/

namespace Sys2Proof.Machine

/-! ## The stage pendings at the start of a stage (R90) -/

/-- What the start of a stage leaves of a member's axis: its stage pending ends where the group owns it. -/
def Axis.leaving (x : Axis) (g : GroupId) (o : MemberOutcome) : Axis :=
  match x.stage with
  | some st => if st.owner = .group g then x.stageStarted o else x
  | none => x

/-- The stage pending of one member ends. -/
def State.leaveStage (s : State) (g : GroupId) (x : Member) : State :=
  match (s.axis x.axis).stage with
  | some st => if st.owner = .group g then s.modAxis x.axis (·.stageStarted x.outcome) else s
  | none => s

/-- The stage pendings of the members end. -/
def State.leaveStages (s : State) (g : GroupId) (l : List Member) : State := l.foldl (fun s x => s.leaveStage g x) s

section Leaving

variable {s : State} {x : Axis} {g : GroupId} {o : MemberOutcome} {z : StagePending} {y : Member} {l : List Member} {b : AxisId}

theorem Axis.leaving_none (h : x.stage = none) : x.leaving g o = x := by
  unfold Axis.leaving
  rw [h]

theorem Axis.leaving_owned (h : x.stage = some z) (ho : z.owner = .group g) : x.leaving g o = x.stageStarted o := by
  unfold Axis.leaving
  rw [h]
  exact if_pos ho

theorem Axis.leaving_foreign (h : x.stage = some z) (ho : z.owner ≠ .group g) : x.leaving g o = x := by
  unfold Axis.leaving
  rw [h]
  exact if_neg ho

theorem Axis.stageEnds_leaving (x : Axis) (g : GroupId) (o : MemberOutcome) : x.StageEnds (x.leaving g o) := by
  cases h : x.stage with
  | none => exact .inl (Axis.leaving_none h)
  | some z =>
    by_cases ho : z.owner = .group g
    · exact .inr ⟨by rw [h]; exact Option.some_ne_none z, _, Axis.leaving_owned h ho⟩
    · exact .inl (Axis.leaving_foreign h ho)

theorem Axis.leaving_lastStage (x : Axis) (g : GroupId) (h : o ≠ .uncovered) : (x.leaving g o).lastStage = x.lastStage := by
  cases hs : x.stage with
  | none => rw [Axis.leaving_none hs]
  | some z =>
    by_cases ho : z.owner = .group g
    · rw [Axis.leaving_owned hs ho]
      exact if_neg h
    · rw [Axis.leaving_foreign hs ho]

theorem State.leaveStage_axis (s : State) (g : GroupId) (y : Member) (b : AxisId) :
    (s.leaveStage g y).axis b = if b = y.axis then (s.axis y.axis).leaving g y.outcome else s.axis b := by
  have hstill (h : (s.axis y.axis).leaving g y.outcome = s.axis y.axis) :
      s.axis b = if b = y.axis then (s.axis y.axis).leaving g y.outcome else s.axis b := by
    by_cases hb : b = y.axis
    · rw [if_pos hb, h, hb]
    · rw [if_neg hb]
  unfold State.leaveStage
  cases h : (s.axis y.axis).stage with
  | none => exact hstill (Axis.leaving_none h)
  | some z =>
    by_cases ho : z.owner = .group g
    · dsimp only
      rw [if_pos ho, Axis.leaving_owned h ho]
      exact State.modAxis_axis ..
    · dsimp only
      rw [if_neg ho]
      exact hstill (Axis.leaving_foreign h ho)

theorem State.endsStages_leaveStage (s : State) (g : GroupId) (y : Member) : s.EndsStages (s.leaveStage g y) := by
  have hworks : s.Works (s.leaveStage g y) ∧ (s.leaveStage g y).evals = s.evals ∧ (s.leaveStage g y).serial = s.serial := by
    unfold State.leaveStage
    split
    · split
      · exact ⟨s.works_modAxis _ _, rfl, rfl⟩
      · exact ⟨.refl s, rfl, rfl⟩
    · exact ⟨.refl s, rfl, rfl⟩
  obtain ⟨hworks, hevals, hserial⟩ := hworks
  refine ⟨hworks, fun b => ?_, hevals, hserial⟩
  rw [State.leaveStage_axis]
  split
  · rename_i hb
    rw [hb]
    exact Axis.stageEnds_leaving ..
  · exact .refl _

theorem State.leaveStage_motions (s : State) (g : GroupId) (y : Member) : (s.leaveStage g y).motions = s.motions := by
  unfold State.leaveStage
  split
  · split <;> rfl
  · rfl

theorem State.endsStages_leaveStages (s : State) (g : GroupId) (l : List Member) : s.EndsStages (s.leaveStages g l) :=
  State.endsStages_foldl (fun s y => s.endsStages_leaveStage g y) l s

theorem State.leaveStages_motions (s : State) (g : GroupId) (l : List Member) : (s.leaveStages g l).motions = s.motions :=
  foldl_keeps (P := fun t : State => t.motions = s.motions) (fun t y h => (t.leaveStage_motions g y).trans h) l s rfl

theorem State.leaveStages_signals (s : State) (g : GroupId) (l : List Member) : (s.leaveStages g l).signals = s.signals := by
  refine foldl_keeps (P := fun t : State => t.signals = s.signals) (fun t y h => Eq.trans ?_ h) l s rfl
  unfold State.leaveStage
  split
  · split <;> rfl
  · rfl

/-- A stage pending the group owns is at an end with the start, whatever comes of the members after. -/
theorem State.leaveStages_stage (hy : y ∈ l) (h : (s.axis y.axis).stage = some z) (ho : z.owner = .group g) :
    ((s.leaveStages g l).axis y.axis).stage = none := by
  refine foldl_reaches (P := fun t : State => (t.axis y.axis).stage = none ∨ (t.axis y.axis).stage = some z)
    (Q := fun t : State => (t.axis y.axis).stage = none) (fun t x _ ht => ?_) (fun t x ht => ?_) (fun t ht => ?_) hy (.inr h)
  · rcases (t.endsStages_leaveStage g x).axis y.axis with hsame | ⟨_, o, hends⟩
    · rwa [hsame]
    · rw [hends]
      exact .inl rfl
  · rw [((t.endsStages_leaveStage g x).axis y.axis).of_none ht]
    exact ht
  · rw [State.leaveStage_axis, if_pos rfl]
    rcases ht with ht | ht
    · rw [Axis.leaving_none ht]
      exact ht
    · rw [Axis.leaving_owned ht ho]
      rfl

theorem State.leaveStages_other : ∀ {l : List Member} {s : State}, b ∉ l.map Member.axis → (s.leaveStages g l).axis b = s.axis b
  | [], _, _ => rfl
  | x :: l, s, h => by
    rw [List.map_cons, List.mem_cons, not_or] at h
    refine (State.leaveStages_other (s := s.leaveStage g x) h.2).trans ?_
    rw [State.leaveStage_axis, if_neg h.1]

/-- With each axis in one member, its stage pending ends as that member has it. -/
theorem State.leaveStages_axis (hl : (l.map Member.axis).Nodup) (hy : y ∈ l) :
    (s.leaveStages g l).axis y.axis = (s.axis y.axis).leaving g y.outcome := by
  induction l generalizing s with
  | nil => exact absurd hy List.not_mem_nil
  | cons x l ih =>
    rw [List.map_cons, List.nodup_cons] at hl
    change ((s.leaveStage g x).leaveStages g l).axis y.axis = _
    rcases List.mem_cons.mp hy with rfl | hy
    · rw [State.leaveStages_other hl.1, State.leaveStage_axis, if_pos rfl]
    · have hne : y.axis ≠ x.axis := fun c => hl.1 (c ▸ List.mem_map_of_mem hy)
      rw [ih hl.2 hy, State.leaveStage_axis, if_neg hne]

theorem State.leaveStages_lastStage : ∀ {l : List Member} {s : State}, (∀ y ∈ l, y.outcome ≠ .uncovered) → ∀ b : AxisId,
    ((s.leaveStages g l).axis b).lastStage = (s.axis b).lastStage
  | [], _, _, _ => rfl
  | x :: l, s, h, b => by
    refine (State.leaveStages_lastStage (s := s.leaveStage g x) (fun y hy => h y (List.mem_cons_of_mem x hy)) b).trans ?_
    rw [State.leaveStage_axis]
    split
    · rename_i hb
      rw [Axis.leaving_lastStage _ g (h x List.mem_cons_self), hb]
    · rfl

end Leaving

/-! ## The motion of a stage starts (R90) -/

/-- A READY member moves as the motion of its stage starts. -/
def Member.starting (y : Member) : Member := if y.outcome = .ready then { y with outcome := .moving } else y

theorem Member.starting_ready {y : Member} (h : y.outcome = .ready) : y.starting = { y with outcome := .moving } := if_pos h

theorem Member.starting_not {y : Member} (h : y.outcome ≠ .ready) : y.starting = y := if_neg h

/-- The record of a stage as its motion starts. -/
def GroupMotion.started (m : GroupMotion) (d : Nat) : GroupMotion :=
  { m with state := .moving, duration := some d, members := m.members.map Member.starting }

section StartStage

variable {s : State} {g : GroupId} {m : GroupMotion}

theorem State.startStage_eq (s : State) (g : GroupId) (m : GroupMotion) : s.startStage g m =
    if m.moves.isEmpty then (s.leaveStages g m.members).arriveEmpty g (m.started (s.commonTime m.moves))
    else ((s.leaveStages g m.members).setMotion g (some (m.started (s.commonTime m.moves)))).startTogether m.moves
      (s.commonTime m.moves) := rfl

theorem GroupMotion.moves_empty (h : ∀ y ∈ m.members, y.outcome ≠ .ready) : m.moves = [] :=
  List.filterMap_eq_nil_iff.mpr fun y hy => if_neg (h y hy)

theorem GroupMotion.started_none (h : ∀ y ∈ m.members, y.outcome ≠ .ready) (d : Nat) :
    m.started d = { m with state := .moving, duration := some d } := by
  unfold GroupMotion.started
  rw [List.map_congr_left fun y hy => Member.starting_not (h y hy), List.map_id']

/-- A record with nothing to move is ARRIVED at once, its duration 0. -/
theorem State.startStage_empty (h : ∀ y ∈ m.members, y.outcome ≠ .ready) : s.startStage g m =
    (((s.leaveStages g m.members).setMotion g (some { m with state := .arrived, duration := some 0 })).event (.groupArrived g)).raise
      (.done (.motion m.serial)) := by
  have hmoves := m.moves_empty h
  rw [State.startStage_eq, hmoves, GroupMotion.started_none h]
  rfl

theorem State.stageTest_waits (hm : s.motions[g] = some m) (h : ∃ y ∈ m.members, y.outcome = .evaluating) : s.stageTest g = s := by
  obtain ⟨y, hy, ho⟩ := h
  have hany : m.members.any (fun x => x.outcome == .evaluating) = true := List.any_eq_true.mpr ⟨y, hy, beq_iff_eq.mpr ho⟩
  unfold State.stageTest
  rw [hm]
  dsimp only
  rw [hany]
  exact if_neg fun c => Bool.false_ne_true c.2

theorem State.stageTest_starts (hm : s.motions[g] = some m) (he : m.state = .evaluating)
    (h : ∀ y ∈ m.members, y.outcome ≠ .evaluating) : s.stageTest g = s.startStage g m := by
  have hany : m.members.any (fun x => x.outcome == .evaluating) = false :=
    List.any_eq_false.mpr fun y hy c => h y hy (beq_iff_eq.mp c)
  unfold State.stageTest
  rw [hm]
  dsimp only
  rw [hany]
  exact if_pos ⟨he, rfl⟩

/-- What is left of a stage that starts with nothing to move. -/
theorem State.stageTest_empty (hm : s.motions[g] = some m) (he : m.state = .evaluating)
    (h : ∀ y ∈ m.members, y.outcome ≠ .evaluating) (hr : ∀ y ∈ m.members, y.outcome ≠ .ready) :
    (s.stageTest g).motions[g] = some { m with state := .arrived, duration := some 0 } ∧
    .event (.groupArrived g) none ∈ (s.stageTest g).signals ∧ .done (.motion m.serial) ∈ (s.stageTest g).signals ∧
    (∀ b, (s.stageTest g).axis b = (s.leaveStages g m.members).axis b) ∧ s.Works (s.stageTest g) := by
  rw [State.stageTest_starts hm he h, State.startStage_empty hr]
  refine ⟨(State.setMotion_get ..).trans (if_pos rfl), ?_, ?_, fun _ => rfl, ?_⟩
  · exact List.mem_append_left _ (List.mem_append_right _ (List.mem_singleton.mpr rfl))
  · exact List.mem_append_right _ (List.mem_singleton.mpr rfl)
  · exact (((s.endsStages_leaveStages g m.members).toWorks.trans (State.works_setMotion ..)).trans (State.works_event ..)).trans
      (State.works_raise ..)

end StartStage

end Sys2Proof.Machine
end

section
/-! PROOFS. The request Stage Group (04 R86, R89: O38): the members' places, and the angles asked for. -/

namespace Sys2Proof.Machine

/-! ## The places of the members (R89) -/

/-- The members of a stage in their places. -/
def State.stageMembers (s : State) (g : GroupId) : List Member :=
  (s.membersOf g).map fun a => { axis := a, target := none, outcome := s.stagePlace a, staged := none }

/-- The axes that are asked for their angles. -/
def State.stagedAxes (s : State) (g : GroupId) : List AxisId :=
  ((s.stageMembers g).filter fun x => x.outcome == .evaluating).map (·.axis)

section Places

variable {s t : State} {g : GroupId} {a : AxisId}

theorem State.stagePlace_unbound (h : (s.axis a).record.binding = none) : s.stagePlace a = .passedOver .unbound := if_pos h

theorem State.stagePlace_unknown (h : (s.axis a).record.binding ≠ none) (hk : (s.axis a).known = false) :
    s.stagePlace a = .passedOver .notReferenced := by
  unfold State.stagePlace
  dsimp only
  rw [if_neg h, hk]
  rfl

theorem State.stagePlace_busy (h : (s.axis a).record.binding ≠ none) (hk : (s.axis a).known = true) (hs : (s.axis a).state ≠ .standing) :
    s.stagePlace a = .passedOver .notStanding := by
  unfold State.stagePlace
  dsimp only
  rw [if_neg h, hk]
  exact if_pos hs

theorem State.stagePlace_evaluating (h : (s.axis a).record.binding ≠ none) (hk : (s.axis a).known = true)
    (hs : (s.axis a).state = .standing) : s.stagePlace a = .evaluating := by
  unfold State.stagePlace
  dsimp only
  rw [if_neg h, hk]
  exact if_neg (not_not_intro hs)

theorem State.stagePlace_cases (s : State) (a : AxisId) : s.stagePlace a = .evaluating ∨ ∃ r, s.stagePlace a = .passedOver r := by
  unfold State.stagePlace
  dsimp only
  split
  · exact .inr ⟨_, rfl⟩
  · split
    · exact .inr ⟨_, rfl⟩
    · split
      · exact .inr ⟨_, rfl⟩
      · exact .inl rfl

theorem State.stageMembers_congr (h : ∀ b, (s.axis b).sameButStage (t.axis b)) : t.stageMembers g = s.stageMembers g := by
  have hplace (b : AxisId) : t.stagePlace b = s.stagePlace b := by
    obtain ⟨st, o, hax⟩ := (h b).of_eq
    unfold State.stagePlace
    rw [hax]
  have hmembers : t.membersOf g = s.membersOf g := by
    refine List.filter_congr fun b _ => ?_
    rw [h b]
  unfold State.stageMembers
  rw [hmembers]
  simp only [hplace]

theorem State.mem_stagedAxes : a ∈ s.stagedAxes g ↔ a ∈ s.membersOf g ∧ s.stagePlace a = .evaluating := by
  unfold State.stagedAxes State.stageMembers
  simp only [List.mem_map, List.mem_filter, beq_iff_eq]
  constructor
  · rintro ⟨_, ⟨⟨b, hb, rfl⟩, ho⟩, rfl⟩
    exact ⟨hb, ho⟩
  · rintro ⟨ha, ho⟩
    exact ⟨_, ⟨⟨a, ha, rfl⟩, ho⟩, rfl⟩

theorem State.stageMembers_axis (s : State) (g : GroupId) : (s.stageMembers g).map Member.axis = s.membersOf g := by
  unfold State.stageMembers
  rw [List.map_map]
  exact List.map_id' _

theorem State.stagedAxes_nodup (s : State) (g : GroupId) : (s.stagedAxes g).Nodup := by
  have hall := s.membersOf_nodup g
  rw [← State.stageMembers_axis] at hall
  exact hall.sublist (List.filter_sublist.map _)

theorem State.stageMembers_outcome {y : Member} (h : y ∈ s.stageMembers g) : y.outcome = .evaluating ∨ ∃ r, y.outcome = .passedOver r := by
  obtain ⟨a, _, rfl⟩ := List.mem_map.mp h
  exact s.stagePlace_cases a

theorem encList_map {α β : Type} (enc : β → List Byte) (f : α → β) (l : List α) : encList enc (l.map f) = encList (fun x => enc (f x)) l := by
  unfold encList
  rw [List.length_map, List.flatMap_map]

end Places

/-! ## The angles asked for -/

/-- A member's stage pending set, and its angle asked for. -/
def State.askMember (s : State) (epoch : Int) (g : GroupId) (k : Nat) (a : AxisId) : State :=
  (s.modAxis a fun x => { x with stage := some ⟨epoch, .group g, k⟩ }).requestAngle a epoch .stage true

section Ask

variable {s : State} {epoch : Int} {g : GroupId} {k : Nat} {a b : AxisId} {l : List AxisId}

theorem State.askMember_axis (s : State) (epoch : Int) (g : GroupId) (k : Nat) (a b : AxisId) : (s.askMember epoch g k a).axis b =
    if b = a then ({ s.axis a with stage := some ⟨epoch, .group g, k⟩ } : Axis).asking (s.axisInFlight a) true else s.axis b := by
  unfold State.askMember
  rw [State.requestAngle_axis, State.modAxis_axis_self]
  split
  · rfl
  · rename_i hb
    exact State.modAxis_axis_of_ne _ _ hb

theorem State.works_askMember (s : State) (epoch : Int) (g : GroupId) (k : Nat) (a : AxisId) : s.Works (s.askMember epoch g k a) :=
  (s.works_modAxis a _).trans (State.works_requestAngle ..)

theorem State.askMember_motions (s : State) (epoch : Int) (g : GroupId) (k : Nat) (a : AxisId) :
    (s.askMember epoch g k a).motions = s.motions := by
  unfold State.askMember
  rw [State.requestAngle_eq]
  rfl

theorem State.askMember_evals (s : State) (epoch : Int) (g : GroupId) (k : Nat) (a : AxisId) :
    (s.askMember epoch g k a).evals = evalsWith a (s.axis a).record.binding epoch .stage s.evals := by
  unfold State.askMember
  rw [State.requestAngle_eq, State.modAxis_axis_self]
  rfl

theorem State.askMember_record (s : State) (epoch : Int) (g : GroupId) (k : Nat) (a b : AxisId) :
    ((s.askMember epoch g k a).axis b).record = (s.axis b).record := by
  rw [State.askMember_axis]
  split
  · rename_i hb
    rw [hb]
    rfl
  · rfl

/-- An axis whose angle may have been asked for is as it was but for its stage pending and the discard of an evaluation in flight. -/
def Axis.mayAsk (x y : Axis) : Prop := y = { x with stage := y.stage, discard := y.discard }

theorem State.askMembers_other : ∀ {l : List AxisId} {s : State}, b ∉ l → (l.foldl (·.askMember epoch g k) s).axis b = s.axis b
  | [], _, _ => rfl
  | a :: l, s, h => by
    rw [List.mem_cons, not_or] at h
    rw [List.foldl_cons, State.askMembers_other h.2, State.askMember_axis, if_neg h.1]

theorem State.mayAsk_askMembers (l : List AxisId) (s : State) (b : AxisId) :
    (s.axis b).mayAsk ((l.foldl (·.askMember epoch g k) s).axis b) := by
  refine foldl_keeps (P := fun t : State => (s.axis b).mayAsk (t.axis b)) (fun t a h => ?_) l s rfl
  unfold Axis.mayAsk at *
  rw [State.askMember_axis]
  split
  · rename_i hb
    subst hb
    rw [h]
    rfl
  · exact h

theorem State.askMembers_stage (h : b ∈ l) : ((l.foldl (·.askMember epoch g k) s).axis b).stage = some ⟨epoch, .group g, k⟩ := by
  refine foldl_reaches (P := fun _ => True) (Q := fun t : State => (t.axis b).stage = some ⟨epoch, .group g, k⟩)
    (fun _ _ _ _ => trivial) (fun t a ht => ?_) (fun t _ => ?_) h trivial
  · rw [State.askMember_axis]
    split
    · rfl
    · exact ht
  · rw [State.askMember_axis, if_pos rfl]
    rfl

theorem State.askMembers_motions (l : List AxisId) (s : State) : (l.foldl (·.askMember epoch g k) s).motions = s.motions :=
  foldl_keeps (P := fun t : State => t.motions = s.motions) (fun t a h => (t.askMember_motions epoch g k a).trans h) l s rfl

theorem State.works_askMembers (l : List AxisId) (s : State) : s.Works (l.foldl (·.askMember epoch g k) s) :=
  foldl_keeps (P := s.Works) (fun t a h => h.trans (t.works_askMember epoch g k a)) l s (.refl s)

theorem State.askMembers_evals : ∀ (l : List AxisId) (s : State), (l.foldl (·.askMember epoch g k) s).evals =
    l.foldl (fun v a => evalsWith a (s.axis a).record.binding epoch .stage v) s.evals
  | [], _ => rfl
  | a :: l, s => by
    rw [List.foldl_cons, List.foldl_cons, State.askMembers_evals l, State.askMember_evals]
    simp only [State.askMember_record]

theorem State.askMembers_asks (hl : l.Nodup) (hb : b ∈ l) {c : ChannelId} (hc : (s.axis b).record.binding = some c) :
    ({ who := .axis b .stage, channel := c, epoch := some epoch } : EvalRequest) ∈ (l.foldl (·.askMember epoch g k) s).evals := by
  rw [State.askMembers_evals]
  exact (mem_foldl_evalsWith hl).1 b hb c hc

end Ask

/-! ## The request taken -/

/-- What Stage Group ends before it begins: the group's record in progress, and the parts of the axes it stages (R86, R89). -/
def State.stageParts (s : State) (g : GroupId) : State := (s.stagedAxes g).foldl State.endPart (s.supersede g)

/-- The record of a stage that is evaluated. -/
def State.stageRecord (s : State) (g : GroupId) (epoch : Int) (k : Nat) : GroupMotion :=
  { stageEpoch := some epoch, state := .evaluating, cause := none, duration := none, members := s.stageMembers g, serial := k }

/-- The stage with its record entered. -/
def State.stageEntered (s : State) (g : GroupId) (epoch : Int) : State :=
  (s.stageParts g).fresh.1.setMotion g (some (s.stageRecord g epoch (s.stageParts g).serial))

/-- The stage with its angles asked for. -/
def State.stageAsked (s : State) (g : GroupId) (epoch : Int) : State :=
  (s.stagedAxes g).foldl (·.askMember epoch g (s.stageParts g).serial) (s.stageEntered g epoch)

section Taken

variable {s : State} {p : Port} {g : GroupId} {epoch : Int} (hown : s.holds p (.group g) = true) (hheld : s.held = false)
include hown hheld

theorem stageGroup_outOfRange (h : epoch < Config.epochMin ∨ Config.epochMax < epoch) :
    stageGroup p g.val epoch s = (s, Reply.no .range) :=
  (onGroup_taken hown hheld _).trans (if_pos h)

theorem stageGroup_taken (h : ¬ (epoch < Config.epochMin ∨ Config.epochMax < epoch)) : stageGroup p g.val epoch s =
    (((s.stageAsked g epoch).stageTest g).restartLease (.group g),
      Reply.okData (encList (fun a : AxisId => u8 a.val ++ encOutcome (s.stagePlace a)) (s.membersOf g))) := by
  have hmembers : (s.supersede g).stageMembers g = s.stageMembers g :=
    State.stageMembers_congr fun b => ((s.dropsStages_supersede g).axis b).sameButStage
  have hdata : encList (fun x : Member => u8 x.axis.val ++ encOutcome x.outcome) ((s.supersede g).stageMembers g) =
      encList (fun a : AxisId => u8 a.val ++ encOutcome (s.stagePlace a)) (s.membersOf g) := by
    rw [hmembers]
    exact encList_map ..
  refine (onGroup_taken hown hheld _).trans ((if_neg h).trans ?_)
  rw [← hdata]
  unfold State.stageAsked State.stageEntered State.stageParts State.stageRecord State.stagedAxes
  rw [← hmembers]
  rfl

end Taken

/-! ## What it has done -/

section Does

variable {s : State} {g : GroupId} {epoch : Int} {b : AxisId}

theorem State.dropsStages_stageParts (s : State) (g : GroupId) : (s.supersede g).DropsStages (s.stageParts g) :=
  State.dropsStages_foldl State.dropsStages_endPart ..

theorem State.stageParts_drops (s : State) (g : GroupId) (b : AxisId) :
    (s.stageParts g).axis b = s.axis b ∨ (s.stageParts g).axis b = (s.axis b).dropStage :=
  ((s.dropsStages_supersede g).trans (s.dropsStages_stageParts g)).drops b

/-- A stage pending of an axis that is staged anew ends with ENDED. -/
theorem State.stageParts_staged (h : b ∈ s.stagedAxes g) : (s.stageParts g).axis b = (s.axis b).dropStage := by
  refine foldl_reaches (P := fun t : State => t.axis b = s.axis b ∨ t.axis b = (s.axis b).dropStage)
    (Q := fun t : State => t.axis b = (s.axis b).dropStage) (fun t a _ ht => ?_) (fun t a ht => (t.dropsStages_endPart a).keeps ht)
    (fun t ht => ?_) h ((s.dropsStages_supersede g).drops b)
  · rcases ht with ht | ht
    · rw [← ht]
      exact (t.dropsStages_endPart a).drops b
    · exact .inr ((t.dropsStages_endPart a).keeps ht)
  · have hends : (t.endPart b).axis b = (t.axis b).dropStage := t.endParts_axis b false
    rcases ht with ht | ht
    · rw [hends, ht]
    · rw [hends, ht]
      exact Axis.dropStage_of_none rfl

theorem State.stageAsked_record (s : State) (g : GroupId) (epoch : Int) :
    (s.stageAsked g epoch).motions[g] = some (s.stageRecord g epoch (s.stageParts g).serial) := by
  unfold State.stageAsked
  rw [State.askMembers_motions]
  exact (State.setMotion_get ..).trans (if_pos rfl)

theorem State.stageAsked_mayAsk (s : State) (g : GroupId) (epoch : Int) (b : AxisId) :
    ((s.stageParts g).axis b).mayAsk ((s.stageAsked g epoch).axis b) := by
  have haxis : (s.stageEntered g epoch).axis b = (s.stageParts g).axis b := rfl
  rw [← haxis]
  exact State.mayAsk_askMembers (s.stagedAxes g) (s.stageEntered g epoch) b

theorem State.stageAsked_other (h : b ∉ s.stagedAxes g) (epoch : Int) : (s.stageAsked g epoch).axis b = (s.stageParts g).axis b :=
  State.askMembers_other (s := s.stageEntered g epoch) h

theorem State.stageAsked_raised (s : State) (g : GroupId) (epoch : Int) (x : Signal) (h : x ∈ (s.stageParts g).signals) :
    x ∈ (s.stageAsked g epoch).signals := by
  have hworks : (s.stageEntered g epoch).Works (s.stageAsked g epoch) := State.works_askMembers ..
  exact hworks.raised x h

theorem State.stageRecord_waits {k : Nat} (h : ∃ a ∈ s.membersOf g, s.stagePlace a = .evaluating) :
    ∃ y ∈ (s.stageRecord g epoch k).members, y.outcome = .evaluating :=
  let ⟨_, ha, ho⟩ := h
  ⟨_, List.mem_map_of_mem ha, ho⟩

theorem State.stageRecord_none {k : Nat} (h : ¬ ∃ a ∈ s.membersOf g, s.stagePlace a = .evaluating) :
    ∀ y ∈ (s.stageRecord g epoch k).members, ∃ r, y.outcome = .passedOver r := by
  intro y hy
  obtain ⟨a, ha, rfl⟩ := List.mem_map.mp hy
  exact (s.stagePlace_cases a).resolve_left fun c => h ⟨a, ha, c⟩

/-- What the request has done with the state, its record aside. -/
structure State.StageAsks (s t : State) (g : GroupId) (epoch : Int) : Prop where
  axis : ∀ b, ((s.stageParts g).axis b).mayAsk (t.axis b)
  other : ∀ b, b ∉ s.stagedAxes g → ((s.stageParts g).axis b).StageEnds (t.axis b)
  raised : ∀ x ∈ (s.stageParts g).signals, x ∈ t.signals
  stage : ∀ b ∈ s.stagedAxes g, (t.axis b).stage = some ⟨epoch, .group g, (s.stageParts g).serial⟩
  asks : ∀ b ∈ s.stagedAxes g, ∀ c, (s.axis b).record.binding = some c →
    ({ who := .axis b .stage, channel := c, epoch := some epoch } : EvalRequest) ∈ t.evals

theorem State.stageAsks_stageAsked (s : State) (g : GroupId) (epoch : Int) : s.StageAsks (s.stageAsked g epoch) g epoch where
  axis := s.stageAsked_mayAsk g epoch
  other := fun b hb => .inl (State.stageAsked_other hb epoch)
  raised := s.stageAsked_raised g epoch
  stage := fun b hb => State.askMembers_stage (s := s.stageEntered g epoch) hb
  asks := fun b hb c hc => by
    refine State.askMembers_asks (s := s.stageEntered g epoch) (s.stagedAxes_nodup g) hb ?_
    change ((s.stageParts g).axis b).record.binding = some c
    rw [State.stageParts_staged hb]
    exact hc

/-- With no axis staged the record is ARRIVED at once (R89; log 9). -/
theorem State.stageTest_asked_none (h : ¬ ∃ a ∈ s.membersOf g, s.stagePlace a = .evaluating) :
    let t := (s.stageAsked g epoch).stageTest g
    t.motions[g] = some { s.stageRecord g epoch (s.stageParts g).serial with state := .arrived, duration := some 0 } ∧
    .event (.groupArrived g) none ∈ t.signals ∧ .done (.motion (s.stageParts g).serial) ∈ t.signals ∧ s.StageAsks t g epoch := by
  have hpassed := State.stageRecord_none (epoch := epoch) (k := (s.stageParts g).serial) h
  have hplaces (y : Member) (hy : y ∈ (s.stageRecord g epoch (s.stageParts g).serial).members) :
      y.outcome ≠ .evaluating ∧ y.outcome ≠ .ready ∧ y.outcome ≠ .uncovered := by
    obtain ⟨r, hr⟩ := hpassed y hy
    rw [hr]
    exact ⟨nofun, nofun, nofun⟩
  obtain ⟨hrecord, hevent, hdone, haxis, hworks⟩ := State.stageTest_empty (s.stageAsked_record g epoch) rfl
    (fun y hy => (hplaces y hy).1) fun y hy => (hplaces y hy).2.1
  have hnone (b : AxisId) : b ∉ s.stagedAxes g := fun c => h ⟨b, State.mem_stagedAxes.mp c⟩
  have hasked (b : AxisId) := State.stageAsked_other (hnone b) epoch
  have hlast (b : AxisId) := State.leaveStages_lastStage (s := s.stageAsked g epoch) (g := g) (fun y hy => (hplaces y hy).2.2) b
  have hends (b : AxisId) := ((s.stageAsked g epoch).endsStages_leaveStages g (s.stageRecord g epoch (s.stageParts g).serial).members).axis b
  refine ⟨hrecord, hevent, hdone, fun b => ?_, fun b _ => ?_, fun x hx => hworks.raised x (s.stageAsked_raised g epoch x hx),
    fun b hb => absurd hb (hnone b), fun b hb => absurd hb (hnone b)⟩
  · have hl := hlast b
    have he := hends b
    rw [hasked] at hl he
    rw [haxis]
    rcases he with he | ⟨_, o, he⟩
    · rw [he]
      rfl
    · rw [he] at hl ⊢
      obtain rfl : o = ((s.stageParts g).axis b).lastStage := hl
      rfl
  · rw [haxis, ← hasked]
    exact hends b

section Asks

variable {t : State} (h : s.StageAsks t g epoch)
include h

/-- A record in progress is superseded (R86). -/
theorem State.StageAsks.supersedes : s.supersedes t g fun a => a ∈ s.membersOf g ∧ s.stagePlace a = .evaluating := by
  intro m hm hopen
  have hsays := (State.saysFailed_supersede hm hopen).keeps (s.dropsStages_stageParts g)
  refine ⟨h.raised _ hsays.raised, fun he y hy z hz ho => ?_⟩
  obtain ⟨hnone, hlast⟩ := hsays.lastStage he hy hz ho
  have hsame : (t.axis y.axis).lastStage = ((s.stageParts g).axis y.axis).lastStage := by rw [h.axis y.axis]
  refine ⟨hsame.trans hlast, fun hagain => ?_⟩
  rw [(h.other y.axis fun c => hagain (State.mem_stagedAxes.mp c)).of_none hnone]
  exact hnone

theorem State.StageAsks.axes (a : AxisId) : (t.axis a).state = (s.axis a).state ∧ (t.axis a).position = (s.axis a).position ∧
    (t.axis a).target = (s.axis a).target ∧ (t.axis a).tracking = (s.axis a).tracking ∧
    ((s.axis a).stage = none → (t.axis a).lastStage = (s.axis a).lastStage) ∧
    ((s.axis a).stage ≠ none → a ∈ s.membersOf g → s.stagePlace a = .evaluating → (t.axis a).lastStage = .ended) := by
  have hlast : (t.axis a).lastStage = ((s.stageParts g).axis a).lastStage := by rw [h.axis a]
  have hparts := s.stageParts_drops g a
  have hplaced : (t.axis a).state = (s.axis a).state ∧ (t.axis a).position = (s.axis a).position ∧
      (t.axis a).target = (s.axis a).target ∧ (t.axis a).tracking = (s.axis a).tracking := by
    rw [h.axis a]
    rcases hparts with k | k
    · rw [k]
      exact ⟨rfl, rfl, rfl, rfl⟩
    · rw [k]
      exact ⟨rfl, rfl, rfl, rfl⟩
  obtain ⟨hstate, hposition, htarget, htracking⟩ := hplaced
  refine ⟨hstate, hposition, htarget, htracking, fun hn => hlast.trans ?_, fun hs hg he => hlast.trans ?_⟩
  · rcases hparts with k | k
    · rw [k]
    · rw [k]
      exact if_pos hn
  · rw [State.stageParts_staged (State.mem_stagedAxes.mpr ⟨hg, he⟩)]
    exact if_neg hs

end Asks

/-- What the request has done, in the words of R86 and R89. -/
theorem State.stageGroup_does (s : State) (g : GroupId) (e : Int) {t : State} (ht : t = (s.stageAsked g e).stageTest g) :
    ∃ m : GroupMotion, t.motions[g] = some m ∧ m.stageEpoch = some e ∧ m.members.map Member.axis = s.membersOf g ∧
      ((∀ a ∈ s.membersOf g, s.stagePlace a ≠ .evaluating) →
        m.state = .arrived ∧ m.duration = some 0 ∧ .event (.groupArrived g) none ∈ t.signals ∧ .done (.motion m.serial) ∈ t.signals) ∧
      ((∃ a ∈ s.membersOf g, s.stagePlace a = .evaluating) → m.state = .evaluating ∧ m.duration = none) ∧
      m.cause = none ∧ m.members.map Member.outcome = (s.membersOf g).map s.stagePlace ∧
      (∀ y ∈ m.members, y.target = none ∧ y.staged = none) ∧ m.serial = (s.stageParts g).serial ∧ s.StageAsks t g e := by
  subst ht
  have hplaces : (s.stageMembers g).map Member.outcome = (s.membersOf g).map s.stagePlace := by
    unfold State.stageMembers
    rw [List.map_map]
    rfl
  have hheld (y : Member) (hy : y ∈ s.stageMembers g) : y.target = none ∧ y.staged = none := by
    obtain ⟨a, _, rfl⟩ := List.mem_map.mp hy
    exact ⟨rfl, rfl⟩
  by_cases hsome : ∃ a ∈ s.membersOf g, s.stagePlace a = .evaluating
  · have hstands : (s.stageAsked g e).stageTest g = s.stageAsked g e :=
      State.stageTest_waits (s.stageAsked_record g e) (State.stageRecord_waits hsome)
    rw [hstands]
    obtain ⟨a, ha, ho⟩ := hsome
    exact ⟨_, s.stageAsked_record g e, rfl, s.stageMembers_axis g, fun c => absurd ho (c a ha), fun _ => ⟨rfl, rfl⟩, rfl, hplaces, hheld, rfl,
      s.stageAsks_stageAsked g e⟩
  · obtain ⟨hrecord, hevent, hdone, hasks⟩ := State.stageTest_asked_none (epoch := e) hsome
    exact ⟨_, hrecord, rfl, s.stageMembers_axis g, fun _ => ⟨rfl, rfl, hevent, hdone⟩, fun c => absurd c hsome, rfl, hplaces, hheld, rfl, hasks⟩

end Does

/-- The places of R89. -/
theorem stagePlaces (s : State) (a : AxisId) (x : Axis) (hx : x = s.axis a) :
    (x.record.binding = none → s.stagePlace a = .passedOver .unbound) ∧
    (x.record.binding ≠ none → x.known = false → s.stagePlace a = .passedOver .notReferenced) ∧
    (x.record.binding ≠ none → x.known = true → x.state ≠ .standing → s.stagePlace a = .passedOver .notStanding) ∧
    (x.record.binding ≠ none → x.known = true → x.state = .standing → s.stagePlace a = .evaluating) := by
  subst hx
  exact ⟨State.stagePlace_unbound, State.stagePlace_unknown, State.stagePlace_busy, State.stagePlace_evaluating⟩

/-- The request Stage Group accepted. -/
theorem stageGroup_accepted {s : State} {p : Port} {tag : Byte} {e : Int} {g : GroupId} (hr : s.ready p)
    (hown : s.holderOf (.group g) = some p) (hhalt : s.power.halt.accepted = false) (hpow : s.power.state = .present)
    (he : ¬ (e < Config.epochMin ∨ Config.epochMax < e)) :
    ∃ (t : State) (m : GroupMotion), exec (.stageGroup p tag g.val e) s = .next t.drain ∧
      (t.port p).reply = some ((Reply.okData
        (encList (fun a : AxisId => u8 a.val ++ encOutcome (s.stagePlace a)) (s.membersOf g))).frame tag 66) ∧
      t.motions[g] = some m ∧ m.stageEpoch = some e ∧ m.members.map Member.axis = s.membersOf g ∧
      ((∀ a ∈ s.membersOf g, s.stagePlace a ≠ .evaluating) →
        m.state = .arrived ∧ m.duration = some 0 ∧ .event (.groupArrived g) none ∈ t.signals ∧
          .done (.motion m.serial) ∈ t.signals) ∧
      ((∃ a ∈ s.membersOf g, s.stagePlace a = .evaluating) → m.state = .evaluating ∧ m.duration = none) ∧
      m.cause = none ∧ m.members.map Member.outcome = (s.membersOf g).map s.stagePlace ∧
      (∀ y ∈ m.members, y.target = none ∧ y.staged = none) ∧
      s.supersedes t g (fun a => a ∈ s.membersOf g ∧ s.stagePlace a = .evaluating) ∧
      (∀ a ∈ s.membersOf g, ∀ c, s.stagePlace a = .evaluating → (s.axis a).record.binding = some c →
        (t.axis a).stage = some ⟨e, .group g, m.serial⟩ ∧
        ∃ f ∈ t.evals, f.who = .axis a .stage ∧ f.channel = c ∧ f.epoch = some e) ∧
      ∀ a, (t.axis a).state = (s.axis a).state ∧ (t.axis a).position = (s.axis a).position ∧
        (t.axis a).target = (s.axis a).target ∧ (t.axis a).tracking = (s.axis a).tracking ∧
        ((s.axis a).stage = none → (t.axis a).lastStage = (s.axis a).lastStage) ∧
        ((s.axis a).stage ≠ none → a ∈ s.membersOf g → s.stagePlace a = .evaluating → (t.axis a).lastStage = .ended) := by
  have htaken := stageGroup_taken (holds_outstand hown tag 66) (not_held_outstand p tag 66 hhalt hpow) he
  have hexec := exec_answered (q := .stageGroup g.val e) (i := .stageGroup p tag g.val e) rfl rfl hr (congrArg now htaken)
  have hcode : requestByte (.stageGroup g.val e) = 66 := rfl
  rw [hcode] at hexec
  obtain ⟨m, hm, hepoch, haxis, hnone, hsome, hcause, hplaces, hheld, hserial, hasks⟩ :=
    (s.outstand p tag 66).stageGroup_does g e rfl
  have hsupersedes := hasks.supersedes
  have haxes := hasks.axes
  generalize ((s.outstand p tag 66).stageAsked g e).stageTest g = u at *
  refine ⟨(u.restartLease (.group g)).enterReply p tag 66 _, m, hexec, State.enterReply_reply .., hm, hepoch, haxis, hnone, hsome, hcause,
    hplaces, hheld, hsupersedes, fun a ha c ho hc => ?_, haxes⟩
  have hstaged : a ∈ (s.outstand p tag 66).stagedAxes g := State.mem_stagedAxes.mpr ⟨ha, ho⟩
  rw [hserial]
  exact ⟨hasks.stage a hstaged, _, hasks.asks a hstaged c hc, rfl, rfl, rfl⟩

end Sys2Proof.Machine
end

section
/-! PROOFS. The results of a stage (04 R73, R74, R87, R88, R90: O38): a member's place settled, an OUT_OF_RANGE one's record failed, and
the motion started with the last. -/

namespace Sys2Proof.Machine

/-! ## A result comes to its member (R75, R90) -/

section Result

variable {s : State} {f : InFlight} {a : AxisId} {st : StagePending} {g : GroupId} {m : GroupMotion}

theorem State.completeEvaluation_member (hf : s.inFlight = some f) (hw : f.who = .axis a .stage) (hd : (s.axis a).discard = false)
    (hst : (s.axis a).stage = some st) (ho : st.owner = .group g) :
    s.completeEvaluation = ({ s with inFlight := none } : State).takeStageGroup a g st f := by
  have hdeliver : ({ s with inFlight := none } : State).deliverAxis a .stage f =
      ({ s with inFlight := none } : State).takeStageGroup a g st f := by
    unfold State.deliverAxis
    rw [show ({ s with inFlight := none } : State).axis a = s.axis a from rfl]
    dsimp only
    rw [hd, hst]
    dsimp only
    rw [if_neg Bool.false_ne_true, ho]
  unfold State.completeEvaluation
  rw [hf]
  dsimp only
  rw [hw]
  exact hdeliver

/-- The record of a stage with its members in new places. -/
def GroupMotion.withMembers (m : GroupMotion) (l : List Member) : GroupMotion := { m with members := l }

section Record

variable (hm : s.motions[g] = some m)
include hm

theorem State.takeStageGroup_uncovered {r : UncoveredReason} (hres : f.result = .error r) : s.takeStageGroup a g st f =
    ((s.setMotion g (some (m.withMembers (m.members.map (·.settle a .uncovered))))).notify .channelGap .sky
      (some f.channel.val)).stageTest g := by
  unfold State.takeStageGroup
  rw [hm]
  dsimp only
  rw [hres]
  rfl

theorem State.takeStageGroup_blocked {c : Covered} (hres : f.result = .ok c)
    (hb : (s.axis a).stageBlocked ((s.axis a).stagedTarget c) = true) :
    s.takeStageGroup a g st f = (s.endMember a .outOfRange .outOfRange false).notifyAxis .axisClamped a := by
  unfold State.takeStageGroup
  rw [hm]
  dsimp only
  rw [hres]
  dsimp only
  rw [if_pos hb]

theorem State.takeStageGroup_ready {c : Covered} (hres : f.result = .ok c)
    (hb : (s.axis a).stageBlocked ((s.axis a).stagedTarget c) = false) : s.takeStageGroup a g st f =
    (s.setMotion g (some (m.withMembers (m.members.map fun z => if z.axis = a then { z with
      outcome := .ready, target := some ((s.axis a).stagedTarget c),
      staged := some ((s.axis a).stagedRecord st.epoch ((s.axis a).stagedTarget c) c) } else z)))).stageTest g := by
  unfold State.takeStageGroup
  rw [hm]
  dsimp only
  rw [hres]
  dsimp only
  rw [if_neg (by rw [hb]; exact Bool.false_ne_true)]
  rfl

end Record

theorem Axis.stageBlocked_iff (x : Axis) (k : Int) :
    x.stageBlocked k = true ↔ (∃ lo hi, x.record.soft = some (lo, hi) ∧ (k < lo ∨ hi < k)) ∨ x.towardMemory k = true := by
  unfold Axis.stageBlocked
  rw [Bool.or_eq_true, outsideSoft_iff]

end Result

/-! ## A target the axis cannot take (R90, R94) -/

section OutOfRange

variable {s : State} {a : AxisId} {g : GroupId} {m : GroupMotion} (hpart : s.motionOf a = some (g, m)) (he : m.state = .evaluating)
include hpart

theorem State.endMember_part (o : MemberOutcome) (c : EndCause) :
    s.endMember a o c false = s.failMotion g (m.withMembers (m.members.map (·.settle a o))) c false := by
  unfold State.endMember
  rw [hpart]
  rfl

include he

theorem State.endMember_record (o : MemberOutcome) (c : EndCause) : (s.endMember a o c false).motions[g] = some { m with
    state := .failed, cause := some c
    members := m.members.map fun y => { y with outcome := if y.axis = a then o else y.outcome, target := none, staged := none } } := by
  rw [State.endMember_part hpart, State.failMotion_motions, if_pos rfl]
  unfold GroupMotion.failed GroupMotion.withMembers
  refine congrArg some (congrArg (fun l => { m with state := .failed, cause := some c, members := l }) ?_)
  rw [List.map_map]
  refine List.map_congr_left fun y _ => ?_
  have hdropped : (y.settle a o).dropped m.state = { y.settle a o with target := none, staged := none } := if_pos he
  refine hdropped.trans ?_
  unfold Member.settle
  split <;> rfl

theorem State.endMember_stages (o : MemberOutcome) (c : EndCause) {y : Member} (hy : y ∈ m.members) {z : StagePending}
    (hz : (s.axis y.axis).stage = some z) (ho : z.owner = .group g) :
    ((s.endMember a o c false).axis y.axis).stage = none ∧ ((s.endMember a o c false).axis y.axis).lastStage = .ended := by
  have haxis : (y.settle a o).axis = y.axis := by
    unfold Member.settle
    split <;> rfl
  have hdrop := State.failMotion_stage (m := m.withMembers (m.members.map (·.settle a o))) he (List.mem_map_of_mem hy)
    (haxis.symm ▸ hz) ho c false
  rw [haxis] at hdrop
  rw [State.endMember_part hpart, hdrop]
  exact ⟨rfl, if_neg fun k => Option.some_ne_none _ (hz.symm.trans k)⟩

/-- The record fails as a member's result is OUT_OF_RANGE. -/
theorem State.outOfRange_fails {u : State} (hu : u = (s.endMember a .outOfRange .outOfRange false).notifyAxis .axisClamped a) :
    u.motions[g] = some { m with
      state := .failed, cause := some .outOfRange
      members := m.members.map fun y =>
        { y with outcome := if y.axis = a then .outOfRange else y.outcome, target := none, staged := none } } ∧
    .failed (.motion m.serial) ∈ u.signals ∧
    (∀ q ∈ s.routedPorts .axisClamped (s.groupOf a), ∃ n : NoticeEntry,
      (u.port q).notices[NoticeKind.axisClamped.idx] = some n ∧ n.subject = some a.val) ∧
    (∀ y ∈ m.members, ∀ z, (s.axis y.axis).stage = some z → z.owner = .group g →
      (u.axis y.axis).stage = none ∧ (u.axis y.axis).lastStage = .ended) ∧
    ∀ b, (s.axis b).sameButStage (u.axis b) := by
  have hrecord := State.endMember_record hpart he .outOfRange .outOfRange
  have hstages {y : Member} (hy : y ∈ m.members) {z : StagePending} := State.endMember_stages hpart he .outOfRange .outOfRange hy (z := z)
  have hends := s.endsStages_endMember a .outOfRange .outOfRange false
  have hfailed : .failed (.motion m.serial) ∈ (s.endMember a .outOfRange .outOfRange false).signals := by
    rw [State.endMember_part hpart]
    exact State.failMotion_raises ..
  subst hu
  generalize s.endMember a .outOfRange .outOfRange false = v at *
  have hgroup : v.groupOf a = s.groupOf a := by
    unfold State.groupOf
    rw [(hends.axis a).sameButStage]
  have hrouted : v.routedPorts .axisClamped (v.groupOf a) = s.routedPorts .axisClamped (s.groupOf a) := by
    rw [hgroup, hends.only]
    rfl
  unfold State.notifyAxis
  refine ⟨by rw [State.notify_motions]; exact hrecord, by rw [State.notify_signals]; exact hfailed,
    fun q hq => ⟨_, State.notify_entry_routed v (hrouted ▸ hq) _ _, NoticeEntry.after_subject ..⟩, fun y hy z hz ho => ?_, fun b => ?_⟩
  · rw [State.axis_notify]
    exact hstages hy hz ho
  · rw [State.axis_notify]
    exact (hends.axis b).sameButStage

end OutOfRange

/-! ## A place settled, and the last one (R88, R90) -/

/-- A place in the stage has been settled: the record has these members, and nothing of the axes has changed. -/
structure State.Places (s w : State) (g : GroupId) (m : GroupMotion) : Prop where
  axes : w.axes = s.axes
  motions : w.motions = (s.setMotion g (some m)).motions

section Places

variable {s w : State} {g : GroupId} {m : GroupMotion} (h : s.Places w g m)
include h

theorem State.Places.axis (a : AxisId) : w.axis a = s.axis a := congrArg (fun v : Vector Axis 16 => v[a]) h.axes

theorem State.Places.record : w.motions[g] = some m := by
  rw [h.motions]
  exact (State.setMotion_get ..).trans (if_pos rfl)

/-- The last place, of a stage that has none to move. -/
theorem State.Places.stops (he : m.state = .evaluating) (hlast : ∀ y ∈ m.members, y.outcome ≠ .evaluating)
    (hnone : ∀ y ∈ m.members, y.outcome ≠ .ready) :
    (w.stageTest g).motions[g] = some { m with state := .arrived, duration := some 0 } ∧
    .event (.groupArrived g) none ∈ (w.stageTest g).signals ∧
    (∀ y ∈ m.members, ∀ z, (s.axis y.axis).stage = some z → z.owner = .group g → ((w.stageTest g).axis y.axis).stage = none) ∧
    ((m.members.map Member.axis).Nodup → ∀ y ∈ m.members, ∀ z, (s.axis y.axis).stage = some z → z.owner = .group g →
      ((w.stageTest g).axis y.axis).lastStage = if y.outcome = .uncovered then .uncovered else (s.axis y.axis).lastStage) := by
  obtain ⟨hrecord, hevent, _, haxis, _⟩ := State.stageTest_empty h.record he hlast hnone
  refine ⟨hrecord, hevent, fun y hy z hz ho => ?_, fun hnodup y hy z hz ho => ?_⟩
  · rw [haxis]
    rw [← h.axis] at hz
    exact State.leaveStages_stage hy hz ho
  · rw [haxis, State.leaveStages_axis hnodup hy, h.axis, Axis.leaving_owned hz ho]
    rfl

end Places

/-! ## The moves of a stage (R90) -/

/-- A member the motion of a stage starts: READY, with a target its axis may take, and at rest with its part in this record where it is
there already. -/
def State.mayStart (s : State) (g : GroupId) (m : GroupMotion) (y : Member) : Prop :=
  ∃ k, y.target = some k ∧ (s.axis y.axis).known = true ∧
    ((s.axis y.axis).record.kind = .limited → ∀ lo hi, (s.axis y.axis).record.soft = some (lo, hi) → lo ≤ k ∧ k ≤ hi) ∧
    ((s.axis y.axis).difference k (s.axis y.axis).extended = 0 → (s.axis y.axis).speedSq = 0 ∧ s.motionOf y.axis = some (g, m))

section Moves

variable {s : State} {g : GroupId} {m : GroupMotion} {x : Move} {y : Member} {k : Int}

theorem GroupMotion.mem_moves : x ∈ m.moves ↔ ∃ y ∈ m.members, y.outcome = .ready ∧ y.axis = x.1 ∧ y.target = some x.2.1 ∧ y.staged = x.2.2 := by
  unfold GroupMotion.moves
  rw [List.mem_filterMap]
  refine exists_congr fun y => and_congr_right fun _ => ?_
  by_cases hr : y.outcome = .ready
  · rw [if_pos hr]
    cases ht : y.target with
    | none => exact ⟨nofun, fun ⟨_, _, c, _⟩ => nomatch c⟩
    | some t =>
      obtain ⟨a, k, z⟩ := x
      simp [hr]
  · rw [if_neg hr]
    exact ⟨nofun, fun c => absurd c.1 hr⟩

theorem GroupMotion.move_mem (hy : y ∈ m.members) (hr : y.outcome = .ready) (ht : y.target = some k) : (y.axis, k, y.staged) ∈ m.moves :=
  GroupMotion.mem_moves.mpr ⟨y, hy, hr, rfl, ht, rfl⟩

/-- The soft limits bar the targets of LIMITED axes alone (R71). -/
theorem Axis.mayTake_of_limited {x : Axis} (hk : x.known = true)
    (h : x.record.kind = .limited → ∀ lo hi, x.record.soft = some (lo, hi) → lo ≤ k ∧ k ≤ hi) : x.mayTake k = true := by
  cases hc : x.record.kind with
  | limited => exact Axis.mayTake_of_allows hk fun lo hi hs => h hc lo hi hs
  | continuous =>
    unfold Axis.mayTake
    rw [hk, hc]
    rfl

theorem filterMap_map_sublist {α β γ : Type} {f : α → Option β} {p : β → γ} {q : α → γ} (h : ∀ a b, f a = some b → p b = q a)
    (l : List α) : ((l.filterMap f).map p).Sublist (l.map q) := by
  induction l with
  | nil => exact .slnil
  | cons a l ih =>
    rw [List.map_cons]
    cases ha : f a with
    | none =>
      rw [List.filterMap_cons_none ha]
      exact ih.cons _
    | some b =>
      rw [List.filterMap_cons_some ha, List.map_cons, h a b ha]
      exact ih.cons_cons _

theorem GroupMotion.moves_nodup (h : (m.members.map Member.axis).Nodup) : (m.moves.map (·.1)).Nodup := by
  refine h.sublist (filterMap_map_sublist (fun y x hx => ?_) m.members)
  by_cases hr : y.outcome = .ready
  · rw [if_pos hr] at hx
    obtain ⟨t, _, rfl⟩ := Option.map_eq_some_iff.mp hx
    rfl
  · rw [if_neg hr] at hx
    cases hx

theorem GroupMotion.mem_started (hy : y ∈ m.members) (hr : y.outcome = .ready) (d : Nat) :
    ({ y with outcome := .moving } : Member) ∈ (m.started d).members :=
  List.mem_map.mpr ⟨y, hy, Member.starting_ready hr⟩

end Moves

/-! ## The motion of a stage -/

/-- The state in which the motion of a stage starts. -/
def State.stageStart (w : State) (g : GroupId) (m : GroupMotion) : State :=
  (w.leaveStages g m.members).setMotion g (some (m.started (w.commonTime m.moves)))

section Start

variable {s w : State} {g : GroupId} {m m₀ : GroupMotion} {x : Move} {y : Member}

theorem State.setMotion_again {v : State} {n n' : Option GroupMotion} (h : v.motions = (s.setMotion g n).motions) :
    (v.setMotion g n').motions = (s.setMotion g n').motions := by
  change v.motions.set g n' = s.motions.set g n'
  rw [h]
  exact Vector.set_set ..

theorem State.Places.start_axis (h : s.Places w g m) (a : AxisId) : (s.axis a).sameButStage ((w.stageStart g m).axis a) := by
  rw [← h.axis a]
  exact ((w.endsStages_leaveStages g m.members).axis a).sameButStage

theorem State.Places.start_motions (h : s.Places w g m) :
    (w.stageStart g m).motions = (s.setMotion g (some (m.started (w.commonTime m.moves)))).motions :=
  State.setMotion_again ((w.leaveStages_motions g m.members).trans h.motions)

theorem State.Places.mayMove (h : s.Places w g m) (hmay : ∀ y ∈ m.members, y.outcome = .ready → s.mayStart g m₀ y) (hx : x ∈ m.moves) :
    (w.stageStart g m).MayMove g (m.started (w.commonTime m.moves)) x := by
  obtain ⟨y, hy, hr, hya, hyt, _⟩ := GroupMotion.mem_moves.mp hx
  obtain ⟨k, hk, hknown, hsoft, hthere⟩ := hmay y hy hr
  obtain rfl := Option.some.inj (hk.symm.trans hyt)
  rw [hya] at hknown hsoft hthere
  have hsame := h.start_axis x.1
  have hmember := GroupMotion.mem_started hy hr (w.commonTime m.moves)
  have hat (c : (w.stageStart g m).atTarget x = true) : (s.axis x.1).difference x.2.1 (s.axis x.1).extended = 0 :=
    of_decide_eq_true ((State.atTarget_sameButStage hsame).symm.trans c)
  refine ⟨?_, fun c => ?_, fun c => ?_, _, hmember, hya, rfl⟩
  · rw [hsame]
    exact Axis.mayTake_of_limited hknown hsoft
  · rw [hsame]
    exact (hthere (hat c)).1
  · rw [State.motionOf_congr h.start_motions, ← hya]
    refine State.motionOf_setMotion (.inr ⟨m₀, hya ▸ (hthere (hat c)).2⟩) ?_
    exact GroupMotion.isHit_moving (z := { y with outcome := .moving }) rfl hmember rfl

theorem State.Places.moves (h : s.Places w g m) (he : m.state = .evaluating) (hlast : ∀ y ∈ m.members, y.outcome ≠ .evaluating)
    (hready : ∃ y ∈ m.members, y.outcome = .ready) (hnodup : (m.members.map Member.axis).Nodup)
    (hmay : ∀ y ∈ m.members, y.outcome = .ready → s.mayStart g m₀ y) :
    (w.stageStart g m).MovesTogether (w.stageTest g) g (m.started (w.commonTime m.moves)) m.moves (w.commonTime m.moves) := by
  obtain ⟨y, hy, hr⟩ := hready
  obtain ⟨k, hk, _⟩ := hmay y hy hr
  have hsome : m.moves.isEmpty ≠ true := fun c => List.ne_nil_of_mem (GroupMotion.move_mem hy hr hk) (List.isEmpty_iff.mp c)
  rw [State.stageTest_starts h.record he hlast, State.startStage_eq, if_neg hsome]
  exact State.movesTogether_startTogether ((State.setMotion_get ..).trans (if_pos rfl)) (fun _ => rfl) (GroupMotion.moves_nodup hnodup)
    fun x hx => h.mayMove hmay hx

end Start

/-! ## What the start has done (R72, R73, R87, R88, R90) -/

section Started

variable {s w u : State} {g : GroupId} {m m₀ n : GroupMotion} {x : Move} {y : Member} {k : Int} {d : Nat}

theorem State.Places.common (h : s.Places w g m) : w.commonTime m.moves = s.commonTime m.moves := by
  unfold State.commonTime State.memberTime
  simp only [h.axis]

theorem State.Places.arrivals (h : s.Places w g m) : (w.stageStart g m).arrivals m.moves = s.arrivals m.moves :=
  State.arrivals_sameButStage fun x _ => h.start_axis x.1

/-- A member once the motion has started: a READY one moves, or has arrived where its target is its position. -/
def State.startedMember (s : State) (y : Member) : Member :=
  if y.outcome = .ready then
    { y with outcome := if (s.axis y.axis).difference (y.target.getD 0) (s.axis y.axis).extended = 0 then .arrived else .moving }
  else y

theorem State.atTarget_ready (hk : y.target = some k) : s.atTarget (y.axis, k, y.staged) = true ↔
    (s.axis y.axis).difference (y.target.getD 0) (s.axis y.axis).extended = 0 := by
  rw [hk]
  exact decide_eq_true_iff

/-- A member at its target is one of the arrivals, and no other is. -/
theorem GroupMotion.mem_arrivals (hnodup : (m.members.map Member.axis).Nodup) (hy : y ∈ m.members) :
    y.axis ∈ s.arrivals m.moves ↔ y.outcome = .ready ∧ ∃ k, y.target = some k ∧ s.atTarget (y.axis, k, y.staged) = true := by
  unfold State.arrivals
  rw [List.mem_map]
  constructor
  · rintro ⟨x, hx, hxa⟩
    obtain ⟨hx, hat⟩ := List.mem_filter.mp hx
    obtain ⟨z, hz, hr, hza, hzt, hzs⟩ := GroupMotion.mem_moves.mp hx
    obtain rfl := List.inj_on_of_nodup_map hnodup hz hy (hza.trans hxa)
    refine ⟨hr, x.2.1, hzt, ?_⟩
    rw [hza, hzs]
    exact hat
  · rintro ⟨hr, k, hk, hat⟩
    exact ⟨_, List.mem_filter.mpr ⟨GroupMotion.move_mem hy hr hk, hat⟩, rfl⟩

theorem GroupMotion.started_arriving (hnodup : (m.members.map Member.axis).Nodup)
    (htargets : ∀ y ∈ m.members, y.outcome = .ready → ∃ k, y.target = some k) (h : (m.started d).Arriving (s.arrivals m.moves) n) :
    n = { m with state := n.state, duration := some d, members := m.members.map s.startedMember } := by
  have hmembers : (m.started d).members.map (·.arriving (s.arrivals m.moves)) = m.members.map s.startedMember := by
    unfold GroupMotion.started
    rw [List.map_map]
    refine List.map_congr_left fun y hy => ?_
    change y.starting.arriving (s.arrivals m.moves) = s.startedMember y
    have harrives := GroupMotion.mem_arrivals (s := s) hnodup hy
    unfold State.startedMember
    by_cases hr : y.outcome = .ready
    · obtain ⟨k, hk⟩ := htargets y hy hr
      rw [if_pos hr, Member.starting_ready hr]
      by_cases hat : (s.axis y.axis).difference (y.target.getD 0) (s.axis y.axis).extended = 0
      · rw [if_pos hat]
        exact Member.arriving_mem (harrives.mpr ⟨hr, k, hk, (State.atTarget_ready hk).mpr hat⟩)
      · rw [if_neg hat]
        refine Member.arriving_not_mem fun c => hat ?_
        obtain ⟨_, k', hk', hat'⟩ := harrives.mp c
        exact (State.atTarget_ready hk').mp hat'
    · rw [if_neg hr, Member.starting_not hr]
      exact Member.arriving_not_mem fun c => hr (harrives.mp c).1
  rw [← hmembers]
  exact h.only

theorem GroupMotion.atRest_started (h : n.members = m.members.map s.startedMember) : n.atRest ↔ ∀ y ∈ m.members, y.outcome ≠ .moving ∧
    (y.outcome = .ready → (s.axis y.axis).difference (y.target.getD 0) (s.axis y.axis).extended = 0) := by
  unfold GroupMotion.atRest
  rw [h, List.forall_mem_map]
  refine forall₂_congr fun y _ => ?_
  unfold State.startedMember
  by_cases hr : y.outcome = .ready
  · rw [if_pos hr, hr]
    by_cases hat : (s.axis y.axis).difference (y.target.getD 0) (s.axis y.axis).extended = 0
    · simp [hat]
    · simp [hat]
  · rw [if_neg hr]
    exact ⟨fun c => ⟨c, fun k => absurd k hr⟩, fun c => c.1⟩

/-- What the start has done with the record of the stage. -/
theorem State.MovesTogether.stageRecord (h : w.MovesTogether u g (m.started d) m.moves d) (harrivals : w.arrivals m.moves = s.arrivals m.moves)
    (hnodup : (m.members.map Member.axis).Nodup) (htargets : ∀ y ∈ m.members, y.outcome = .ready → ∃ k, y.target = some k)
    (hready : ∃ y ∈ m.members, y.outcome = .ready) : ∃ n : MotionState,
      u.motions[g] = some { m with state := n, duration := some d, members := m.members.map s.startedMember } ∧
      ((∃ y ∈ m.members, y.outcome = .ready ∧ (s.axis y.axis).difference (y.target.getD 0) (s.axis y.axis).extended ≠ 0) → n = .moving) ∧
      ((∀ y ∈ m.members, y.outcome ≠ .moving ∧
          (y.outcome = .ready → (s.axis y.axis).difference (y.target.getD 0) (s.axis y.axis).extended = 0)) →
        n = .arrived ∧ .event (.groupArrived g) none ∈ u.signals ∧ .done (.motion m.serial) ∈ u.signals) := by
  obtain ⟨n, hn, harriving, hlast⟩ := h.record
  rw [harrivals] at harriving hlast
  have honly := GroupMotion.started_arriving hnodup htargets harriving
  have hrest := GroupMotion.atRest_started (s := s) (m := m) (n := n) (by rw [honly])
  rw [honly] at hn
  refine ⟨n.state, hn, fun ⟨y, hy, hr, hfar⟩ => harriving.moving fun c => hfar ((hrest.mp c y hy).2 hr), fun hall => ?_⟩
  obtain ⟨y, hy, hr⟩ := hready
  obtain ⟨k, hk⟩ := htargets y hy hr
  refine hlast (hrest.mpr hall) (List.ne_nil_of_mem ((GroupMotion.mem_arrivals hnodup hy).mpr ⟨hr, k, hk, ?_⟩))
  exact (State.atTarget_ready hk).mpr ((hall y hy).2 hr)

theorem State.MovesTogether.stage_none {moves : List Move} (h : w.MovesTogether u g m moves d) {b : AxisId}
    (hb : (w.axis b).stage = none) : (u.axis b).stage = none := by
  by_cases hin : b ∈ moves.map (·.1)
  · obtain ⟨x, hx, rfl⟩ := List.mem_map.mp hin
    cases c : w.atTarget x with
    | false =>
      obtain ⟨k, hk⟩ := h.sent x hx c
      rw [hk]
      exact hb
    | true => exact (h.landed x hx c).1.stage hb
  · rw [h.others b hin]
    exact hb

/-- An axis that does not arrive keeps the outcome of its last stage. -/
theorem State.MovesTogether.lastStage {moves : List Move} (h : w.MovesTogether u g m moves d) {b : AxisId}
    (hb : ∀ x ∈ moves, x.1 = b → w.atTarget x = false) : (u.axis b).lastStage = (w.axis b).lastStage := by
  by_cases hin : b ∈ moves.map (·.1)
  · obtain ⟨x, hx, rfl⟩ := List.mem_map.mp hin
    obtain ⟨k, hk⟩ := h.sent x hx (hb x hx rfl)
    rw [hk]
    rfl
  · rw [h.others b hin]

theorem GroupMotion.not_mem_moves (hnodup : (m.members.map Member.axis).Nodup) (hy : y ∈ m.members) (hr : y.outcome ≠ .ready) :
    y.axis ∉ m.moves.map (·.1) := by
  intro c
  obtain ⟨x, hx, hxa⟩ := List.mem_map.mp c
  obtain ⟨z, hz, hzr, hza, _⟩ := GroupMotion.mem_moves.mp hx
  obtain rfl := List.inj_on_of_nodup_map hnodup hz hy (hza.trans hxa)
  exact hr hzr

/-- What the start has done with the stage pending of a member (R90; log 24). -/
theorem State.Places.stages (h : s.Places w g m) (ht : (w.stageStart g m).MovesTogether u g (m.started d) m.moves d)
    (hnodup : (m.members.map Member.axis).Nodup) (hy : y ∈ m.members) :
    (∀ z, (s.axis y.axis).stage = some z → z.owner = .group g → (u.axis y.axis).stage = none ∧
      (y.outcome = .uncovered → (u.axis y.axis).lastStage = .uncovered) ∧
      (y.outcome ≠ .uncovered → (∀ k, y.outcome = .ready → y.target = some k →
          (s.axis y.axis).difference k (s.axis y.axis).extended ≠ 0) →
        (u.axis y.axis).lastStage = (s.axis y.axis).lastStage)) ∧
    (y.outcome ≠ .ready → (s.axis y.axis).sameButStage (u.axis y.axis)) := by
  have hleaving : (w.stageStart g m).axis y.axis = (s.axis y.axis).leaving g y.outcome := by
    rw [← h.axis y.axis]
    exact State.leaveStages_axis hnodup hy
  refine ⟨fun z hz ho => ?_, fun hr => ?_⟩
  · rw [Axis.leaving_owned hz ho] at hleaving
    refine ⟨ht.stage_none (by rw [hleaving]; rfl), fun hun => ?_, fun hcov hfar => ?_⟩
    · rw [ht.others y.axis (GroupMotion.not_mem_moves hnodup hy (by rw [hun]; exact nofun)), hleaving]
      exact if_pos hun
    · rw [ht.lastStage fun x hx hxa => ?_, hleaving]
      · exact if_neg hcov
      · obtain ⟨y', hy', hr, hya, hyt, _⟩ := GroupMotion.mem_moves.mp hx
        obtain rfl := List.inj_on_of_nodup_map hnodup hy' hy (hya.trans hxa)
        rw [State.atTarget_sameButStage (h.start_axis x.1)]
        unfold State.atTarget
        rw [hxa]
        exact decide_eq_false (hfar _ hr hyt)
  · rw [ht.others y.axis (GroupMotion.not_mem_moves hnodup hy hr)]
    exact h.start_axis y.axis

end Started

/-! ## The result of a member placed (R75, R90) -/

section Placed

variable {s : State} {f : InFlight} {a : AxisId} {st : StagePending} {g : GroupId} {m : GroupMotion} {l : List Member}

/-- The new places of the members, as the result has them: UNCOVERED, or READY with a target the axis can take. -/
def State.settlesAs (s : State) (a : AxisId) (st : StagePending) (f : InFlight) (m : GroupMotion) (l : List Member) : Prop :=
  (∀ r, f.result = .error r → l = m.members.map fun y => if y.axis = a then { y with outcome := .uncovered } else y) ∧
  ∀ (c : Covered) (k : Int), f.result = .ok c → ((s.axis a).record.kind = .limited → k = (s.axis a).stepsOf c.reduced) →
    ((s.axis a).record.kind = .continuous →
      k = (s.axis a).extendedTarget (((s.axis a).stepsOf c.reduced).emod (s.axis a).record.stepsPerTurn)) →
    (∀ lo hi, (s.axis a).record.soft = some (lo, hi) → lo ≤ k ∧ k ≤ hi) ∧ (s.axis a).towardMemory k = false ∧
    ∃ y : StagedAt, y.epoch = st.epoch ∧ y.result = c ∧ y.angle = (s.axis a).angleFor c.reduced k ∧
      l = m.members.map fun z => if z.axis = a then { z with outcome := .ready, target := some k, staged := some y } else z

theorem Axis.stagedTarget_limited {x : Axis} (c : Covered) (h : x.record.kind = .limited) : x.stagedTarget c = x.stepsOf c.reduced := by
  unfold Axis.stagedTarget
  rw [h]

theorem Axis.stagedTarget_continuous {x : Axis} (c : Covered) (h : x.record.kind = .continuous) :
    x.stagedTarget c = x.extendedTarget ((x.stepsOf c.reduced).emod x.record.stepsPerTurn) := by
  unfold Axis.stagedTarget
  rw [h]

/-- A result that settles a member's place, before the test whether it was the last (R90). -/
theorem State.takeStageGroup_places (hm : s.motions[g] = some m) (h : s.settlesAs a st f m l) :
    ∃ w, s.takeStageGroup a g st f = w.stageTest g ∧ s.Places w g (m.withMembers l) ∧
      ∀ r, f.result = .error r → ∀ q ∈ s.routedPorts .channelGap .sky, ∃ n : NoticeEntry,
        (w.port q).notices[NoticeKind.channelGap.idx] = some n ∧ n.subject = some f.channel.val := by
  obtain ⟨huncovered, hcovered⟩ := h
  cases hres : f.result with
  | error r =>
    obtain rfl := huncovered r hres
    refine ⟨_, State.takeStageGroup_uncovered hm hres, ⟨State.notify_axes .., State.notify_motions ..⟩, fun _ _ q hq => ?_⟩
    exact ⟨_, State.notify_entry_routed (s.setMotion g _) hq _ _, NoticeEntry.after_subject ..⟩
  | ok c =>
    obtain ⟨hsoft, hmemory, y, hepoch, hresult, hangle, rfl⟩ := hcovered c ((s.axis a).stagedTarget c) hres
      (Axis.stagedTarget_limited c) (Axis.stagedTarget_continuous c)
    have hfree : (s.axis a).stageBlocked ((s.axis a).stagedTarget c) = false := Bool.eq_false_iff.mpr fun hb => by
      rcases ((s.axis a).stageBlocked_iff _).mp hb with ⟨lo, hi, hs, hout⟩ | hm
      · have := hsoft lo hi hs
        omega
      · rw [hmemory] at hm
        cases hm
    have hy : y = (s.axis a).stagedRecord st.epoch ((s.axis a).stagedTarget c) c := by
      obtain ⟨epoch, angle, result⟩ := y
      obtain rfl : epoch = st.epoch := hepoch
      obtain rfl : result = c := hresult
      obtain rfl : angle = _ := hangle
      rfl
    subst hy
    exact ⟨_, State.takeStageGroup_ready hm hres hfree, ⟨rfl, rfl⟩, fun r c => by cases c⟩

end Placed

/-! ## The obligation -/

/-- The motion started by the last place, in the words of R72, R73, R87, R88 and R90. -/
theorem State.Places.starts {s w : State} {g : GroupId} {m m₀ : GroupMotion} (h : s.Places w g m) (he : m.state = .evaluating)
    (hlast : ∀ y ∈ m.members, y.outcome ≠ .evaluating) (hready : ∃ y ∈ m.members, y.outcome = .ready)
    (hnodup : (m.members.map Member.axis).Nodup) (hmay : ∀ y ∈ m.members, y.outcome = .ready → s.mayStart g m₀ y) :
    ∃ d : Nat, (w.stageStart g m).MovesTogether (w.stageTest g) g (m.started d) m.moves d ∧
      (∃ y ∈ m.members, ∃ k, y.outcome = .ready ∧ y.target = some k ∧ s.memberTime y.axis k = d) ∧
      ∀ y ∈ m.members, ∀ k, y.outcome = .ready → y.target = some k →
        s.memberTime y.axis k ≤ d ∧ s.Sets (w.stageTest g) (y.axis, k, y.staged) d := by
  have htogether := h.moves he hlast hready hnodup hmay
  rw [h.common] at htogether
  have hmove {y : Member} (hy : y ∈ m.members) {k : Int} (hr : y.outcome = .ready) (hk : y.target = some k) := GroupMotion.move_mem hy hr hk
  refine ⟨s.commonTime m.moves, htogether, ?_, fun y hy k hr hk =>
    ⟨State.memberTime_le_common (hmove hy hr hk), htogether.sets (hmove hy hr hk) (h.start_axis y.axis)⟩⟩
  obtain ⟨y, hy, hr⟩ := hready
  obtain ⟨k, hk, _⟩ := hmay y hy hr
  obtain ⟨x, hx, hd⟩ := State.commonTime_mem (s := s) (List.ne_nil_of_mem (hmove hy hr hk))
  obtain ⟨z, hz, hzr, hza, hzt, _⟩ := GroupMotion.mem_moves.mp hx
  exact ⟨z, hz, x.2.1, hzr, hzt, hza.symm ▸ hd⟩

/-- Settles O38: the request by `stageGroup_accepted`, a result out of range by `State.outOfRange_fails`, a place settled by
`State.takeStageGroup_places`, and the start with the last by `State.Places.stops` and `State.Places.starts`. -/
theorem stageGroupAsksForItsAngles : Obligations.StageGroupAsksForItsAngles := by
  refine ⟨fun s g => rfl, stagePlaces, fun s p tag e hr => ⟨fun n hn => ?_, fun g hown hhalt hpow => ⟨fun he => ?_, fun hmin hmax => ?_⟩⟩,
    fun s f a x g st m hrun hf hw hx hd hst ho hm he => ?_⟩
  · exact answers_unchanged (q := .stageGroup n e) rfl rfl hr (congrArg now (onGroup_unknown hn _))
  · have hout : e < Config.epochMin ∨ Config.epochMax < e := by
      unfold Config.epochMin Config.epochMax
      omega
    exact answers_unchanged (q := .stageGroup g.val e) rfl rfl hr
      (congrArg now (stageGroup_outOfRange (holds_outstand hown tag 66) (not_held_outstand p tag 66 hhalt hpow) hout))
  · refine stageGroup_accepted hr hown hhalt hpow ?_
    unfold Config.epochMin Config.epochMax
    omega
  subst hx
  have hexec : exec .evaluationComplete s = .next (({ s with inFlight := none } : State).takeStageGroup a g st f).drain := by
    rw [← State.completeEvaluation_member hf hw hd hst ho]
    exact exec_event_running (f := fun s => s.completeEvaluation) rfl hrun
  refine ⟨fun c k hres hlim hcon hblock hpart => ?_, fun members hun hok => ?_⟩
  · obtain ⟨htarget, _⟩ := stagedTarget_eq hlim hcon
    have hb : (s.axis a).stageBlocked ((s.axis a).stagedTarget c) = true := by
      rw [htarget]
      exact ((s.axis a).stageBlocked_iff k).mpr hblock
    have htaken := State.takeStageGroup_blocked (s := { s with inFlight := none }) (st := st) hm hres hb
    have hfails := State.outOfRange_fails (s := { s with inFlight := none }) hpart he rfl
    rw [htaken] at hexec
    exact ⟨_, hexec, hfails⟩
  · obtain ⟨w, htaken, hplaces, hgap⟩ := State.takeStageGroup_places (s := { s with inFlight := none }) hm ⟨hun, hok⟩
    rw [htaken] at hexec
    refine ⟨fun hsome => ?_, fun hlast hnone => ?_, fun hlast hready hnodup hmay => ?_⟩
    · rw [State.stageTest_waits hplaces.record hsome] at hexec
      exact ⟨w, hexec, hplaces.record, hplaces.axes, hgap⟩
    · exact ⟨_, hexec, hplaces.stops he hlast hnone⟩
    · obtain ⟨d, htogether, hgreatest, hsets⟩ := hplaces.starts he hlast hready hnodup hmay
      have htargets (y : Member) (hy : y ∈ members) (hr : y.outcome = .ready) : ∃ k, y.target = some k :=
        (hmay y hy hr).imp fun k hk => hk.1
      obtain ⟨n, hrecord, hmoving, harrived⟩ := htogether.stageRecord hplaces.arrivals hnodup htargets hready
      refine ⟨_, d, n, hexec, hrecord, hmoving, harrived, hgreatest, fun y hy k i x hr hk hi hx => ?_,
        fun y hy => hplaces.stages htogether hnodup hy⟩
      obtain ⟨hle, hset⟩ := hsets y hy k hr hk
      exact ⟨hi ▸ hle, hset.position, fun hfar => hset.profiled (decide_eq_false hfar) hi (hi ▸ hle) hx,
        fun hat => hset.landed (decide_eq_true hat)⟩

end Sys2Proof.Machine
end
